-- ==== Sys2Proof/Word.lean ====
section
/-! DEFINITION. The word types of the machine and their plainest arithmetic. -/

namespace Sys2Proof

/-- One byte of memory. -/
abbrev Byte := BitVec 8
/-- One lane's word of a warp register. -/
abbrev Word := BitVec 32
/-- A 64-bit value: a register pair, a time, a count. -/
abbrev DWord := BitVec 64
/-- A lane of a warp, 0 to 31 (02 R20). -/
abbrev Lane := Fin 32
/-- A set of lanes, bit l for lane l. -/
abbrev Mask := BitVec 32
/-- A virtual address or a window offset, 57 bits (05 R102). -/
abbrev VA := BitVec 57
/-- One instruction word (13 R262). -/
abbrev Insn := BitVec 96
/-- A capability as 128 bits (05 R113). -/
abbrev CapBits := BitVec 128
/-- The 32 words of a wide register (02 R38). -/
abbrev Line := Vector Word 32

/-- The lanes in ascending order. -/
def lanes : List Lane := List.finRange 32

/-- Lane l belongs to the set. -/
def Mask.has (m : Mask) (l : Lane) : Bool := m.getLsbD l.val

/-- The set of the lanes for which f holds. -/
def Mask.of (f : Lane → Bool) : Mask :=
  lanes.foldl (fun m l => if f l then m ||| BitVec.twoPow 32 l.val else m) 0

/-- The number of lanes in the set. -/
def Mask.count (m : Mask) : Nat := (lanes.filter (fun l => m.has l)).length

/-- The lowest lane of the set. -/
def Mask.lowest (m : Mask) : Option Lane := lanes.find? (fun l => m.has l)

/-- All 32 lanes. -/
def Mask.all : Mask := BitVec.allOnes 32

end Sys2Proof
end

