-- ==== Sys2Proof/Machine/Mem.lean ====
section
/-! DEFINITION. Memory in its canonical form, stores with tags and poison (05 R117, 23 R434), and tables keyed by the
numbers and names of the machine's units. -/

namespace Sys2Proof.Machine

/-- A byte-addressed memory: the bytes that differ from zero, addresses rising. -/
abbrev Memory := List Host.Cell

/-- What an address that is not listed reads as (10 R233, 05 R112; DESIGN CHOICE [6] for memory never granted). -/
def unlisted : Byte := 0

/-- Addresses rise strictly from `lo`, and no entry equals what an unlisted address reads as. -/
def Memory.wfFrom (lo : Nat) : Memory → Bool
  | [] => true
  | (a, b) :: m => lo ≤ a && b != unlisted && Memory.wfFrom (a + 1) m

/-- The canonical form. -/
def Memory.wf (m : Memory) : Bool := Memory.wfFrom 0 m

/-- The byte at an address. -/
def Memory.byte : Memory → Nat → Byte
  | [], _ => unlisted
  | (x, b) :: m, a => if x = a then b else Memory.byte m a

/-- The memory with one byte written. -/
def Memory.put : Memory → Nat → Byte → Memory
  | [], a, v => if v = unlisted then [] else [(a, v)]
  | (x, b) :: m, a, v =>
    if a < x then (if v = unlisted then (x, b) :: m else (a, v) :: (x, b) :: m)
    else if a = x then (if v = unlisted then m else (a, v) :: m)
    else (x, b) :: Memory.put m a v

/-- n bytes from an address, lowest first. -/
def Memory.bytes (m : Memory) (a : Nat) : Nat → List Byte
  | 0 => []
  | n + 1 => m.byte a :: Memory.bytes m (a + 1) n

/-- The memory with consecutive bytes written from an address. -/
def Memory.putAll (m : Memory) (a : Nat) : List Byte → Memory
  | [] => m
  | b :: bs => Memory.putAll (m.put a b) (a + 1) bs

/-- The memory without the bytes of [lo, hi). -/
def Memory.clear (m : Memory) (lo hi : Nat) : Memory := m.filter (fun c => c.1 < lo || hi ≤ c.1)

/-- Bytes as a little-endian number (00 R4). -/
def leNat : List Byte → Nat
  | [] => 0
  | b :: bs => b.toNat + 256 * leNat bs

/-- The n little-endian bytes of a number. -/
def leBytes : Nat → Nat → List Byte
  | 0, _ => []
  | n + 1, x => BitVec.ofNat 8 x :: leBytes n (x / 256)

/-- Inserts a number into a rising list. -/
def setAdd (x : Nat) : List Nat → List Nat
  | [] => [x]
  | y :: ys => if x < y then x :: y :: ys else if x = y then y :: ys else y :: setAdd x ys

/-- Removes a number. -/
def setDel (x : Nat) (l : List Nat) : List Nat := l.filter (· != x)

/-- Inserts an element before the first that it does not come after. -/
def insertBy {α : Type} (le : α → α → Bool) (x : α) : List α → List α
  | [] => [x]
  | y :: ys => if le x y then x :: y :: ys else y :: insertBy le x ys

/-- Sorts a list; elements that compare both ways keep their order. -/
def sortBy {α : Type} (le : α → α → Bool) : List α → List α
  | [] => []
  | x :: xs => insertBy le x (sortBy le xs)

/-- A table from keys to values; a key that is not listed has no entry. -/
abbrev Tab (κ α : Type) := List (κ × α)

/-- The entry of a key. -/
def Tab.find {κ α : Type} [DecidableEq κ] : Tab κ α → κ → Option α
  | [], _ => none
  | (k, a) :: t, x => if k = x then some a else Tab.find t x

/-- The table with the entry of a key set. -/
def Tab.set {κ α : Type} [DecidableEq κ] : Tab κ α → κ → α → Tab κ α
  | [], x, v => [(x, v)]
  | (k, a) :: t, x, v => if k = x then (k, v) :: t else (k, a) :: Tab.set t x v

/-- The table without the entry of a key. -/
def Tab.del {κ α : Type} [DecidableEq κ] (t : Tab κ α) (x : κ) : Tab κ α := t.filter (fun e => e.1 != x)

/-- The values. -/
def Tab.vals {κ α : Type} (t : Tab κ α) : List α := t.map (·.2)

/-- A storage: its bytes, the numbers of its tagged 16-byte granules and of its poisoned 32-byte units, and for a window
space the GWCT of each line stored to (06 R135). -/
structure Store where
  mem : Memory
  tags : List Nat
  poison : List Nat
  gw : Tab Nat Nat
deriving DecidableEq, Repr

/-- Storage that reads zero. -/
def Store.empty : Store := ⟨[], [], [], []⟩

/-- The numbers from `a / g` to `(a + n - 1) / g`: the blocks of g bytes that n bytes from a touch. -/
def blocks (g a n : Nat) : List Nat :=
  if n = 0 then [] else (List.range ((a + n - 1) / g - a / g + 1)).map (· + a / g)

/-- The tag of the granule that holds an address. -/
def Store.tag (s : Store) (a : Nat) : Bool := s.tags.contains (a / 16)

/-- A byte of the range lies in a poisoned unit (23 R434). -/
def Store.poisoned (s : Store) (a n : Nat) : Bool := (blocks 32 a n).any s.poison.contains

/-- Writes bytes: every granule touched loses its tag (05 R117); a unit whose 32 bytes the write covers loses its
poison and its tags read clear (23 R434). -/
def Store.write (s : Store) (a : Nat) (bs : List Byte) : Store :=
  { s with
    mem := s.mem.putAll a bs
    tags := s.tags.filter (fun g => !((blocks 16 a bs.length).contains g))
    poison := s.poison.filter (fun u => !(a ≤ 32 * u && 32 * u + 32 ≤ a + bs.length)) }

/-- Sets or clears the tag of the granule that holds an address. -/
def Store.setTag (s : Store) (a : Nat) (t : Bool) : Store :=
  { s with tags := if t then setAdd (a / 16) s.tags else setDel (a / 16) s.tags }

/-- A store at an instant sets the GWCT of the lines it touches: one is kept for each 128-byte block, of a window space too
(06 R135; DESIGN CHOICE [116]). -/
def Store.stamp (s : Store) (a n t : Nat) : Store := { s with gw := (blocks 128 a n).foldl (fun g l => g.set l t) s.gw }

/-- The GWCT that a read of n bytes carries. -/
def Store.stampOf (s : Store) (a n : Nat) : Nat := (blocks 128 a n).foldl (fun g l => max g ((s.gw.find l).getD 0)) 0

/-- Poisons the unit that holds an address. -/
def Store.addPoison (s : Store) (a : Nat) : Store := { s with poison := setAdd (a / 32) s.poison }

/-- Zeroes [lo, hi), with every granule tag clear. -/
def Store.clear (s : Store) (lo hi : Nat) : Store :=
  { s with
    mem := s.mem.clear lo hi
    tags := s.tags.filter (fun g => 16 * g < lo || hi ≤ 16 * g)
    poison := s.poison.filter (fun u => 32 * u < lo || hi ≤ 32 * u) }

end Sys2Proof.Machine
end

