-- ==== Sys2Proof/Machine/Coded.lean ====
section
/-! DEFINITION. Coded weight tiles (08 R183-R185): decoder tables, decoding with the malformed-stream reports of 23
R440, encoding. -/

namespace Sys2Proof.Machine

/-- A table of 272 bytes taken apart (08 R185). -/
structure DecTable where
  cnt : List Nat
  syms : List Byte
deriving DecidableEq, Repr

/-- Reads a table. -/
def DecTable.of (bs : List Byte) : DecTable :=
  let cnt := (bs.take 16).map BitVec.toNat
  ⟨cnt, (bs.drop 16).take cnt.sum⟩

/-- Σ CNT(n) · 2^(16 − n). -/
def codeSpace : Nat → List Nat → Nat
  | _, [] => 0
  | w, c :: cs => c * w + codeSpace (w / 2) cs

/-- The table meets R185. -/
def DecTable.ok (t : DecTable) : Bool :=
  let n := t.cnt.sum
  0 < n && codeSpace 0x8000 t.cnt ≤ 0x10000 && t.syms.length == n && t.syms.eraseDups.length == n

/-- The codes in canonical order: the length and the code of each symbol. -/
def codesFrom : Nat → Nat → List Nat → List (Nat × Nat)
  | _, _, [] => []
  | n, code, c :: cs => (List.range c).map (fun m => (n, code + m)) ++ codesFrom (n + 1) ((code + c) * 2) cs

/-- Each symbol with the length and value of its code. -/
def DecTable.codes (t : DecTable) : List (Byte × Nat × Nat) := t.syms.zip (codesFrom 1 0 t.cnt)

/-- The bits of a byte, most significant first. -/
def byteBits (b : Byte) : List Bool := (List.range 8).map (fun i => b.getLsbD (7 - i))

/-- The symbol at the front of a bit string, with the bits that follow. -/
def DecTable.symbol (syms : List Byte) : List Nat → Nat → Nat → Nat → List Bool → Option (Byte × List Bool × Nat)
  | [], _, _, _, _ => none
  | _ :: _, _, _, _, [] => none
  | c :: cs, len, code, first, b :: bits =>
    let code := 2 * code + b.toNat
    if code < first + c then (syms[code - first]?).map (fun s => (s, bits, len + 1))
    else DecTable.symbol (syms.drop c) cs (len + 1) code ((first + c) * 2) bits

/-- The value of a bit string, most significant first. -/
def bitsValue (bits : List Bool) : Nat := bits.foldl (fun n b => 2 * n + b.toNat) 0

/-- A bit string that matches no code is the beginning of one: the codes, taken as fractions, fill the interval from 0 up to
their code space. -/
def DecTable.begins (t : DecTable) (bits : List Bool) : Bool :=
  bits.length < 16 && bitsValue bits * 2 ^ (16 - bits.length) < codeSpace 0x8000 t.cnt

/-- n symbols, with the bits that follow and the number of bits taken. A string that ends within a code is too short (23 R440:
EDET 3); one that is the beginning of none matches none (EDET 1). -/
def DecTable.symbols (t : DecTable) : Nat → List Bool → Nat → Except Nat (List Byte × List Bool × Nat)
  | 0, bits, used => .ok ([], bits, used)
  | n + 1, bits, used =>
    match DecTable.symbol t.syms t.cnt 0 0 0 bits with
    | none => .error (if t.begins bits then 3 else 1)
    | some (s, bits, len) =>
      match t.symbols n bits (used + len) with
      | .error e => .error e
      | .ok (ss, bits, used) => .ok (s :: ss, bits, used)

/-- The segments s, s + 1, … of a column: 32 symbols, padding of 1-bits, the marker (08 R184). -/
def DecTable.segments (t : DecTable) : Nat → Nat → List Byte → Except Nat (List Byte)
  | 0, _, rest => if rest.isEmpty then .ok [] else .error 3
  | n + 1, s, bs =>
    match t.symbols 32 ((bs.map byteBits).flatten) 0 with
    | .error e => .error e
    | .ok (ss, bits, used) =>
      let pad := (8 - used % 8) % 8
      let rest := bs.drop ((used + 7) / 8)
      if !(bits.take pad).all id then .error 3
      else match rest with
        | [] => .error 3
        | m :: rest =>
          if m.toNat != 0xB0 + s then .error 2
          else match t.segments n (s + 1) rest with
            | .error e => .error e
            | .ok more => .ok (ss ++ more)

/-- A column of 128 symbols from its substream. -/
def DecTable.column (t : DecTable) (bs : List Byte) : Except Nat (List Byte) := t.segments 4 0 bs

/-- The header of a coded tile (08 R183). -/
structure TileHdr where
  magic : Nat
  tbl : Nat
  flags : Nat
  scale : Nat
  totlen : Nat
  zeros : Bool
  slen : List Nat
deriving DecidableEq, Repr

/-- Reads the 208 bytes of a header. -/
def TileHdr.of (h : List Byte) : TileHdr where
  magic := leNat (h.take 2)
  tbl := leNat ((h.drop 2).take 1)
  flags := leNat ((h.drop 3).take 1)
  scale := leNat ((h.drop 4).take 2)
  totlen := leNat ((h.drop 6).take 2)
  zeros := ((h.drop 8).take 8).all (· == 0)
  slen := let f := leNat ((h.drop 16).take 192); (List.range 128).map (fun c => f / 2 ^ (12 * c) % 4096)

/-- TOTLEN as its substreams give it. -/
def TileHdr.length (h : TileHdr) : Nat := 208 + (h.slen.map (fun n => (n + 3) / 4 * 4)).sum

/-- The header meets R183; `flags` is the expansion point it must name, where one is required. -/
def TileHdr.ok (h : TileHdr) (flags : Option Nat) : Bool :=
  h.magic == 0x57C3 && h.flags < 4 && h.scale < 512 && h.zeros && h.totlen == h.length && h.tbl < 8 &&
    (match flags with | some f => h.flags == f | none => true)

/-- Every column in turn; the first error found is reported. -/
def allColumns : List (Except Nat (List Byte)) → Except Nat (List (List Byte))
  | [] => .ok []
  | .error e :: _ => .error e
  | .ok c :: cs =>
    match allColumns cs with
    | .error e => .error e
    | .ok r => .ok (c :: r)

/-- Decodes a tile from its substreams; column c of the result holds B[k][c] at place k. An error is
the EDET of 23 R440. -/
def decodeTile (subs : List (List Byte)) (tbl : List Byte) : Except Nat (List (List Byte)) :=
  let t := DecTable.of tbl
  if !t.ok then .error 6 else allColumns (subs.map t.column)

/-- The substreams of an image that lies in consecutive bytes, after its header. -/
def imageSubs : List Nat → List Byte → List (List Byte)
  | [], _ => []
  | n :: ns, bs => bs.take n :: imageSubs ns (bs.drop ((n + 3) / 4 * 4))

/-- The 16,384 bytes that a decoded tile presents: B[k][c] at 128k + c (08 R191). -/
def tileBytes (cols : List (List Byte)) : List Byte :=
  ((List.range 128).map (fun k => cols.map (fun c => c.getD k 0))).flatten

/-- Bits as bytes, most significant first; the last byte is filled with 1-bits. -/
def bitsToBytes : Nat → List Bool → List Byte
  | 0, _ => []
  | n + 1, bits =>
    if bits.isEmpty then []
    else
      let b := bits.take 8
      let b := b ++ List.replicate (8 - b.length) true
      BitVec.ofNat 8 (b.foldl (fun a x => 2 * a + x.toNat) 0) :: bitsToBytes n (bits.drop 8)

/-- The bits of a symbol's code. -/
def codeBits (codes : List (Byte × Nat × Nat)) (b : Byte) : Option (List Bool) :=
  (codes.find? (·.1 == b)).map (fun (_, n, c) => (List.range n).map (fun i => c.testBit (n - 1 - i)))

/-- One segment coded. -/
def encodeSegment (codes : List (Byte × Nat × Nat)) (s : Nat) (bs : List Byte) : Option (List Byte) :=
  (bs.mapM (codeBits codes)).map (fun l => bitsToBytes 64 l.flatten ++ [BitVec.ofNat 8 (0xB0 + s)])

/-- One column coded (08 R184). -/
def encodeColumn (codes : List (Byte × Nat × Nat)) (col : List Byte) : Option (List Byte) :=
  ((List.range 4).mapM (fun s => encodeSegment codes s ((col.drop (32 * s)).take 32))).map List.flatten

/-- The image of a tile (08 R183): 208 bytes of header, then the substreams, each padded to 4 bytes. An error is the
EDET of crew error 0x42, or 6 of 0x41. -/
def encodeTile (tbl : List Byte) (slot flags scale : Nat) (cols : List (List Byte)) : Except (Nat × Nat) (List Byte) :=
  let t := DecTable.of tbl
  if !t.ok then .error (0x41, 6)
  else match cols.mapM (encodeColumn t.codes) with
    | none => .error (0x42, 2)
    | some subs =>
      let lens := subs.map List.length
      let tot := 208 + (lens.map (fun n => (n + 3) / 4 * 4)).sum
      if 65535 < tot then .error (0x42, 3)
      else
        let slen := (lens.zip (List.range 128)).foldl (fun a (n, c) => a + n * 2 ^ (12 * c)) 0
        .ok (leBytes 2 0x57C3 ++ leBytes 1 slot ++ leBytes 1 flags ++ leBytes 2 scale ++ leBytes 2 tot
          ++ leBytes 8 0 ++ leBytes 192 slen
          ++ (subs.map (fun b => b ++ List.replicate ((b.length + 3) / 4 * 4 - b.length) 0)).flatten)

end Sys2Proof.Machine
end

