-- ==== Sys2Proof/Syntax.lean ====
section
/-! DEFINITION. The instructions of Karah 3.0 and the steps of the device: one constructor for every row of the
opcode table. An encoded instruction carries its hint and guard fields in `Hdr` and the operands its entry names; a
step without a word carries the unit at which it happens and what comes in from outside. -/

namespace Sys2Proof

/-- An operand specifier (13 R266). -/
inductive Spec where
  | v (n : BitVec 7)
  | k (n : BitVec 3)
  | p (n : BitVec 3)
  | z | lid | wid | tid | cid | kid
deriving DecidableEq, Repr

/-- The TYPE codes (13 R273). -/
inductive Ty where
  | b32 | i32 | n32 | b64 | i64 | n64 | b8 | i8 | n8 | b16 | i16 | n16 | b128 | f32 | f16 | bf16
deriving DecidableEq, Repr

/-- The rounding modes (07 R154). -/
inductive Rnd where
  | rn | rz | ru | rd | rs
deriving DecidableEq, Repr

/-- The twelve scopes, narrowest first (06 R139). -/
inductive Scope where
  | thread | warp | engine | core | team | cluster | die | device | host | peer | fabric | system
deriving DecidableEq, Repr

/-- The orders (06 R140). -/
inductive Order where
  | rlx | acq | rel | acqrel | sc
deriving DecidableEq, Repr

/-- The address spaces (05 R102, 13 R274). -/
inductive Space where
  | priv | scr | shr | chip | glob
deriving DecidableEq, Repr

/-- Compare conditions of ICMP and WAITMEM (13 R274). -/
inductive Cond where
  | eq | ne | lt | le | gt | ge
deriving DecidableEq, Repr

/-- Compare conditions of FCMP (15 R331). -/
inductive FCond where
  | eq | ne | lt | le | gt | ge | num | nan
deriving DecidableEq, Repr

/-- Operations of ATOM and RED (16 R351). -/
inductive AtomOp where
  | add | min | max | and | or | xor | exch | cas | inc | dec
deriving DecidableEq, Repr

/-- Operations of REDX and SCANX (14 R307). -/
inductive RedOp where
  | add | min | max | and | or | xor
deriving DecidableEq, Repr

/-- Operations of PSET (14 R298). -/
inductive PsetOp where
  | and | or | xor | andn
deriving DecidableEq, Repr

/-- Variants of VOTE (14 R304). -/
inductive VoteVar where
  | every | some | mask | same | count
deriving DecidableEq, Repr

/-- Variants of SHFL (14 R305). -/
inductive ShflVar where
  | lane | back | fwd | swap
deriving DecidableEq, Repr

/-- Variants of HMNX2 (15 R334). -/
inductive MnxVar where
  | min | max | minnum | maxnum
deriving DecidableEq, Repr

/-- Classes of the engine counters (06 R147). -/
inductive CntClass where
  | copy | gather | mma | coll
deriving DecidableEq, Repr

/-- Source windows of a job card or of WTLOAD (17 R369). -/
inductive SrcWin where
  | sscr | sshr | schip
deriving DecidableEq, Repr

/-- Destination windows of a job card (17 R369). -/
inductive DstWin where
  | dshr | dscr | dchip | dws
deriving DecidableEq, Repr

/-- Accumulator formats of the matrix engine (17 R371, R372). -/
inductive AccFmt where
  | f32 | bf16 | f16
deriving DecidableEq, Repr

/-- Destination formats of MDRAIN (17 R369). -/
inductive DrainFmt where
  | f32 | bf16 | f16 | e4m3
deriving DecidableEq, Repr

/-- Element formats of a capability (05 R115). -/
inductive Fmt where
  | bytes | f32 | f16 | bf16 | e4m3 | e5m2 | i8 | i32 | i64 | f64 | cwt | s9
deriving DecidableEq, Repr

/-- One guard (13 R262, R270). -/
structure Guard where
  neg : Bool
  pred : BitVec 3
deriving DecidableEq, Repr

/-- The fields every word carries: guards and hints (13 R262). -/
structure Hdr where
  g1 : Guard
  g2 : Guard
  stall : BitVec 4
  yld : Bool
  bnd : Bool
  hold : BitVec 3
  ch : BitVec 3
deriving DecidableEq, Repr

/-- The address fields of the MEM layout, less its displacement (13 R264). -/
structure MemArg where
  a : Spec
  b : Spec
  sh : BitVec 3
  space : Space
deriving DecidableEq, Repr

/-- The address fields of the ENG layout (13 R264). -/
structure EngArg where
  a : Spec
  b : Spec
  sh : BitVec 3
  disp : BitVec 7
deriving DecidableEq, Repr

/-- The count of BARARR: an immediate or a register (17 R376). -/
inductive BarCount where
  | imm (n : BitVec 24)
  | reg (e : Spec)
deriving DecidableEq, Repr

/-- Names a warp: its task, its team and its place in the team. -/
structure WarpKey where
  task : Nat
  team : Nat
  wid : Nat
deriving DecidableEq, Repr

/-- A rail of a cluster (10 R236). -/
inductive Rail where
  | vlo | vhi
deriving DecidableEq, Repr

/-- The sources of the time discipline, in the order of 10 R237. -/
inductive TimeSrc where
  | ptp | fabric | ptm
deriving DecidableEq, Repr

/-- What the time-exchange flits of a correction carry (23 R442, R443): the holdover terms of the fabric domain, and whether
the peer that exchanges time is itself disciplined. -/
structure TimeExchange where
  hs : List Nat
  disciplined : Bool
deriving DecidableEq, Repr

/-- What answers `target gated` (23 R437): a cluster, or the homes of a peer device. -/
inductive Gateable where
  | cluster (k : BitVec 5)
  | peer (n : Nat)
deriving DecidableEq, Repr

/-- A function of a PCIe link, HA or (true) HB (10 R218). -/
inductive Fn where
  | pf (link : Bool)
  | vf (link : Bool) (n : BitVec 4)
deriving DecidableEq, Repr

/-- The block of a front end as a function addresses it (10 R218, R219). -/
structure FnBlock where
  fn : Fn
  fe : BitVec 4
deriving DecidableEq, Repr

/-- A word that a function writes to a register of its physical function (10 R219). -/
structure FnWord where
  fn : Fn
  word : Word
deriving DecidableEq, Repr

/-- A register that the host or the hypervisor writes: one of BAR0 (10 R219), a privileged register of a cluster for a
partition (08 R180) or of a partition (06 R131), the link on which a VF is enabled (10 R218), or the cross-partition option
(04 R97). -/
inductive HostReg where
  | bar0 (fn : Fn) (off : Nat) (w64 : Bool)
  | wsrows (part : Nat) (cluster : BitVec 5)
  | wsidx (part : Nat) (cluster : BitVec 5)
  | lloc (part : Nat)
  | lrem (part : Nat)
  | flease (part : Nat)
  | fskew (part : Nat)
  | vfLink (n : BitVec 4)
  | crossHarvest
deriving DecidableEq, Repr

/-- What the meter of a cluster gives of a partition over an interval (10 R236): how long it ran there, the energy it drew,
and the energy its work would have drawn at its own vote. -/
structure Meter where
  part : Nat
  cluster : BitVec 5
  time : Nat
  drawn : Nat
  own : Nat
deriving DecidableEq, Repr

/-- One front end named by a partition-creation command (10 R230). -/
structure FeArg where
  fe : BitVec 4
  clbase : BitVec 5
  cllimit : BitVec 5
  ctx : BitVec 6
deriving DecidableEq, Repr

/-- What the partition-creation command names (10 R230, R218). -/
structure PartArg where
  sliced : Bool
  clusters : BitVec 32
  l2col0 : BitVec 48
  l2col1 : BitVec 48
  chcol0 : BitVec 48
  chcol1 : BitVec 48
  units : List Nat
  channels : BitVec 256
  floor : BitVec 6
  ports : BitVec 18
  fes : List FeArg
  vfs : List (BitVec 4)
  lloc : Option (BitVec 13)
  lrem : Option (BitVec 16)
  flease : Option (BitVec 20)
  fskew : Option (BitVec 20)
  ckint : Option Nat
  slice : Nat
  pool : VA
  poolLen : Nat
  overflow : Nat
deriving DecidableEq, Repr

/-- CKINT in us: 200 where none is named (04 R98). -/
def PartArg.interval (a : PartArg) : Nat := a.ckint.getD 200

/-- One instruction, or one step of the device. -/
inductive Instr where
  /-- IADD, 14 R290 -/
  | iadd (h : Hdr) (t : Ty) (sat : Bool) (d a b : Spec)
  /-- IADD with imm34 as B, 14 R290 -/
  | iaddImm (h : Hdr) (t : Ty) (sat : Bool) (d a : Spec) (imm : BitVec 34)
  /-- ISUB, 14 R290 -/
  | isub (h : Hdr) (t : Ty) (sat : Bool) (d a b : Spec)
  /-- ISUB with imm34 as B, 14 R290 -/
  | isubImm (h : Hdr) (t : Ty) (sat : Bool) (d a : Spec) (imm : BitVec 34)
  /-- IMUL, 14 R290 -/
  | imul (h : Hdr) (t : Ty) (sat : Bool) (d a b : Spec)
  /-- IMUL with imm34 as B, 14 R290 -/
  | imulImm (h : Hdr) (t : Ty) (sat : Bool) (d a : Spec) (imm : BitVec 34)
  /-- IMULH, 14 R290 -/
  | imulh (h : Hdr) (t : Ty) (d a b : Spec)
  /-- IMULH with imm34 as B, 14 R290 -/
  | imulhImm (h : Hdr) (t : Ty) (d a : Spec) (imm : BitVec 34)
  /-- IMAD, 14 R290 -/
  | imad (h : Hdr) (t : Ty) (sat : Bool) (d a b c : Spec)
  /-- IMAD with imm34 as C, 14 R290 -/
  | imadImm (h : Hdr) (t : Ty) (sat : Bool) (d a b : Spec) (imm : BitVec 34)
  /-- IMADW, 14 R291 -/
  | imadw (h : Hdr) (t : Ty) (d a b c : Spec)
  /-- IMADW with imm34 as C, 14 R291 -/
  | imadwImm (h : Hdr) (t : Ty) (d a b : Spec) (imm : BitVec 34)
  /-- IADD64, 14 R291 -/
  | iadd64 (h : Hdr) (t : Ty) (d a b : Spec)
  /-- IADD64 with imm34 as B, 14 R291 -/
  | iadd64Imm (h : Hdr) (t : Ty) (d a : Spec) (imm : BitVec 34)
  /-- IMAD64, 14 R291 -/
  | imad64 (h : Hdr) (t : Ty) (d a b c : Spec)
  /-- IMIN, 14 R290 -/
  | imin (h : Hdr) (t : Ty) (d a b : Spec)
  /-- IMIN with imm34 as B, 14 R290 -/
  | iminImm (h : Hdr) (t : Ty) (d a : Spec) (imm : BitVec 34)
  /-- IMAX, 14 R290 -/
  | imax (h : Hdr) (t : Ty) (d a b : Spec)
  /-- IMAX with imm34 as B, 14 R290 -/
  | imaxImm (h : Hdr) (t : Ty) (d a : Spec) (imm : BitVec 34)
  /-- IABS.i32, 14 R290 -/
  | iabs (h : Hdr) (sat : Bool) (d a : Spec)
  /-- INEG, 14 R290 -/
  | ineg (h : Hdr) (t : Ty) (sat : Bool) (d a : Spec)
  /-- ISAD, 14 R290 -/
  | isad (h : Hdr) (t : Ty) (d a b c : Spec)
  /-- ISAD with imm34 as C, 14 R290 -/
  | isadImm (h : Hdr) (t : Ty) (d a b : Spec) (imm : BitVec 34)
  /-- AND.b32, 14 R292 -/
  | and (h : Hdr) (d a b : Spec)
  /-- AND with imm34 as B, 14 R292 -/
  | andImm (h : Hdr) (d a : Spec) (imm : BitVec 34)
  /-- OR.b32, 14 R292 -/
  | or (h : Hdr) (d a b : Spec)
  /-- OR with imm34 as B, 14 R292 -/
  | orImm (h : Hdr) (d a : Spec) (imm : BitVec 34)
  /-- XOR.b32, 14 R292 -/
  | xor (h : Hdr) (d a b : Spec)
  /-- XOR with imm34 as B, 14 R292 -/
  | xorImm (h : Hdr) (d a : Spec) (imm : BitVec 34)
  /-- ANDN.b32, 14 R292 -/
  | andn (h : Hdr) (d a b : Spec)
  /-- ANDN with imm34 as B, 14 R292 -/
  | andnImm (h : Hdr) (d a : Spec) (imm : BitVec 34)
  /-- NOT.b32, 14 R292 -/
  | not (h : Hdr) (d a : Spec)
  /-- SHL.b32, 14 R292 -/
  | shl (h : Hdr) (d a b : Spec)
  /-- SHL with imm34 as B, 14 R292 -/
  | shlImm (h : Hdr) (d a : Spec) (imm : BitVec 34)
  /-- SHR.b32, 14 R292 -/
  | shr (h : Hdr) (d a b : Spec)
  /-- SHR with imm34 as B, 14 R292 -/
  | shrImm (h : Hdr) (d a : Spec) (imm : BitVec 34)
  /-- SAR.b32, 14 R292 -/
  | sar (h : Hdr) (d a b : Spec)
  /-- SAR with imm34 as B, 14 R292 -/
  | sarImm (h : Hdr) (d a : Spec) (imm : BitVec 34)
  /-- ROTL.b32, 14 R292 -/
  | rotl (h : Hdr) (d a b : Spec)
  /-- ROTL with imm34 as B, 14 R292 -/
  | rotlImm (h : Hdr) (d a : Spec) (imm : BitVec 34)
  /-- POPC.b32, 14 R292 -/
  | popc (h : Hdr) (d a : Spec)
  /-- CLZ.b32, 14 R292 -/
  | clz (h : Hdr) (d a : Spec)
  /-- BREV.b32, 14 R292 -/
  | brev (h : Hdr) (d a : Spec)
  /-- BFX, 14 R293 -/
  | bfx (h : Hdr) (t : Ty) (d a b : Spec)
  /-- BFX with imm34 as B, 14 R293 -/
  | bfxImm (h : Hdr) (t : Ty) (d a : Spec) (imm : BitVec 34)
  /-- BFI.b32, 14 R293 -/
  | bfi (h : Hdr) (d a b c : Spec)
  /-- BFI with imm34 as C, 14 R293 -/
  | bfiImm (h : Hdr) (d a b : Spec) (imm : BitVec 34)
  /-- BSEL.b32, 14 R294 -/
  | bsel (h : Hdr) (d a b c : Spec)
  /-- BSEL with the selector in imm34[19:0], 14 R294 -/
  | bselImm (h : Hdr) (d a b : Spec) (sel : BitVec 20)
  /-- ICMP.cond, 14 R295 -/
  | icmp (h : Hdr) (cond : Cond) (t : Ty) (pd : BitVec 3) (a b : Spec)
  /-- ICMP with imm34 as B, 14 R295 -/
  | icmpImm (h : Hdr) (cond : Cond) (t : Ty) (pd : BitVec 3) (a : Spec) (imm : BitVec 34)
  /-- ISEL.b32, 14 R296 -/
  | isel (h : Hdr) (d : Spec) (p : BitVec 3) (b c : Spec)
  /-- ISEL with imm34 as C, 14 R296 -/
  | iselImm (h : Hdr) (d : Spec) (p : BitVec 3) (b : Spec) (imm : BitVec 34)
  /-- MOV, 14 R297 -/
  | mov (h : Hdr) (t : Ty) (d a : Spec)
  /-- MOVI, 14 R297 -/
  | movi (h : Hdr) (t : Ty) (d : Spec) (imm : BitVec 34)
  /-- LEA, 14 R297 -/
  | lea (h : Hdr) (sh : BitVec 3) (d a b : Spec)
  /-- LEA with imm34 as B, 14 R297 -/
  | leaImm (h : Hdr) (sh : BitVec 3) (d a : Spec) (imm : BitVec 34)
  /-- FADD, 15 R328 -/
  | fadd (h : Hdr) (r : Rnd) (d a b : Spec)
  /-- FADD with imm34 as B, 15 R328 -/
  | faddImm (h : Hdr) (r : Rnd) (d a : Spec) (imm : Word)
  /-- FSUB, 15 R328 -/
  | fsub (h : Hdr) (r : Rnd) (d a b : Spec)
  /-- FSUB with imm34 as B, 15 R328 -/
  | fsubImm (h : Hdr) (r : Rnd) (d a : Spec) (imm : Word)
  /-- FMUL, 15 R328 -/
  | fmul (h : Hdr) (r : Rnd) (d a b : Spec)
  /-- FMUL with imm34 as B, 15 R328 -/
  | fmulImm (h : Hdr) (r : Rnd) (d a : Spec) (imm : Word)
  /-- FFMA, 15 R328 -/
  | ffma (h : Hdr) (r : Rnd) (d a b c : Spec)
  /-- FFMA with imm34 as C, 15 R328 -/
  | ffmaImm (h : Hdr) (r : Rnd) (d a b : Spec) (imm : Word)
  /-- FSCL, 15 R328 -/
  | fscl (h : Hdr) (r : Rnd) (d a b : Spec)
  /-- FSCL with imm34 as B, 15 R328 -/
  | fsclImm (h : Hdr) (r : Rnd) (d a : Spec) (imm : Word)
  /-- FMIN, 15 R330 -/
  | fmin (h : Hdr) (num : Bool) (d a b : Spec)
  /-- FMIN with imm34 as B, 15 R330 -/
  | fminImm (h : Hdr) (num : Bool) (d a : Spec) (imm : Word)
  /-- FMAX, 15 R330 -/
  | fmax (h : Hdr) (num : Bool) (d a b : Spec)
  /-- FMAX with imm34 as B, 15 R330 -/
  | fmaxImm (h : Hdr) (num : Bool) (d a : Spec) (imm : Word)
  /-- FCMP.cond, 15 R331 -/
  | fcmp (h : Hdr) (cond : FCond) (pd : BitVec 3) (a b : Spec)
  /-- FCMP with imm34 as B, 15 R331 -/
  | fcmpImm (h : Hdr) (cond : FCond) (pd : BitVec 3) (a : Spec) (imm : Word)
  /-- FCLASS, 15 R332 -/
  | fclass (h : Hdr) (d a : Spec)
  /-- HADD2, 15 R333 -/
  | hadd2 (h : Hdr) (sub : Bool) (r : Rnd) (d a b : Spec)
  /-- HADD2 with imm34 as B, 15 R333 -/
  | hadd2Imm (h : Hdr) (sub : Bool) (r : Rnd) (d a : Spec) (imm : Word)
  /-- HMUL2, 15 R333 -/
  | hmul2 (h : Hdr) (r : Rnd) (d a b : Spec)
  /-- HMUL2 with imm34 as B, 15 R333 -/
  | hmul2Imm (h : Hdr) (r : Rnd) (d a : Spec) (imm : Word)
  /-- HFMA2, 15 R333 -/
  | hfma2 (h : Hdr) (r : Rnd) (d a b c : Spec)
  /-- HFMA2 with imm34 as C, 15 R333 -/
  | hfma2Imm (h : Hdr) (r : Rnd) (d a b : Spec) (imm : Word)
  /-- BADD2, 15 R333 -/
  | badd2 (h : Hdr) (sub : Bool) (r : Rnd) (d a b : Spec)
  /-- BADD2 with imm34 as B, 15 R333 -/
  | badd2Imm (h : Hdr) (sub : Bool) (r : Rnd) (d a : Spec) (imm : Word)
  /-- BMUL2, 15 R333 -/
  | bmul2 (h : Hdr) (r : Rnd) (d a b : Spec)
  /-- BMUL2 with imm34 as B, 15 R333 -/
  | bmul2Imm (h : Hdr) (r : Rnd) (d a : Spec) (imm : Word)
  /-- BFMA2, 15 R333 -/
  | bfma2 (h : Hdr) (r : Rnd) (d a b c : Spec)
  /-- BFMA2 with imm34 as C, 15 R333 -/
  | bfma2Imm (h : Hdr) (r : Rnd) (d a b : Spec) (imm : Word)
  /-- HMNX2, 15 R334 -/
  | hmnx2 (h : Hdr) (var : MnxVar) (d a b : Spec)
  /-- HMNX2 with imm34 as B, 15 R334 -/
  | hmnx2Imm (h : Hdr) (var : MnxVar) (d a : Spec) (imm : Word)
  /-- F2I, 15 R336 -/
  | f2i (h : Hdr) (t : Ty) (r : Rnd) (d a : Spec)
  /-- F2I.fh, 15 R336 -/
  | f2iFh (h : Hdr) (t : Ty) (r : Rnd) (d a : Spec)
  /-- F2I.fb, 15 R336 -/
  | f2iFb (h : Hdr) (t : Ty) (r : Rnd) (d a : Spec)
  /-- I2F, 15 R337 -/
  | i2f (h : Hdr) (t : Ty) (r : Rnd) (d a : Spec)
  /-- I2F.u, 15 R337 -/
  | i2fU (h : Hdr) (t : Ty) (r : Rnd) (d a : Spec)
  /-- I2F.l, 15 R337 -/
  | i2fL (h : Hdr) (t : Ty) (r : Rnd) (d a : Spec)
  /-- I2F.ul, 15 R337 -/
  | i2fUl (h : Hdr) (t : Ty) (r : Rnd) (d a : Spec)
  /-- FCVT, 15 R338 -/
  | fcvt (h : Hdr) (t : Ty) (r : Rnd) (d a : Spec)
  /-- FCVT.fh, 15 R338 -/
  | fcvtFh (h : Hdr) (t : Ty) (r : Rnd) (d a : Spec)
  /-- FCVT.fb, 15 R338 -/
  | fcvtFb (h : Hdr) (t : Ty) (r : Rnd) (d a : Spec)
  /-- F2F8.e4m3, 15 R340 -/
  | f2f8E4m3 (h : Hdr) (sat : Bool) (r : Rnd) (d a b c : Spec)
  /-- F2F8.e5m2, 15 R340 -/
  | f2f8E5m2 (h : Hdr) (sat : Bool) (r : Rnd) (d a b c : Spec)
  /-- F82F.e4m3, 15 R341 -/
  | f82fE4m3 (h : Hdr) (r : Rnd) (d a b c : Spec)
  /-- F82F.e5m2, 15 R341 -/
  | f82fE5m2 (h : Hdr) (r : Rnd) (d a b c : Spec)
  /-- FRND, 15 R339 -/
  | frnd (h : Hdr) (r : Rnd) (d a : Spec)
  /-- FRCP, 15 R342 -/
  | frcp (h : Hdr) (d a : Spec)
  /-- FRSQ, 15 R342 -/
  | frsq (h : Hdr) (d a : Spec)
  /-- FSQRT, 15 R342 -/
  | fsqrt (h : Hdr) (d a : Spec)
  /-- FEXP2, 15 R342 -/
  | fexp2 (h : Hdr) (d a : Spec)
  /-- FLOG2, 15 R342 -/
  | flog2 (h : Hdr) (d a : Spec)
  /-- FSIN, 15 R342 -/
  | fsin (h : Hdr) (d a : Spec)
  /-- FCOS, 15 R342 -/
  | fcos (h : Hdr) (d a : Spec)
  /-- FTANH, 15 R342 -/
  | ftanh (h : Hdr) (d a : Spec)
  /-- PSET.op, 14 R298 -/
  | pset (h : Hdr) (op : PsetOp) (pd : BitVec 3) (a b : Spec)
  /-- PMOV.ne or .bit, 14 R299 -/
  | pmov (h : Hdr) (bit : Bool) (pd : BitVec 3) (a : Spec)
  /-- VOTE, 14 R304 -/
  | vote (h : Hdr) (var : VoteVar) (d : Spec) (pe : Option (BitVec 3)) (a : Spec) (p : BitVec 3)
  /-- SHFL, 14 R305 -/
  | shfl (h : Hdr) (t : Ty) (var : ShflVar) (d : Spec) (pe : Option (BitVec 3)) (a b c : Spec)
  /-- BCAST, 14 R306 -/
  | bcast (h : Hdr) (t : Ty) (d : Spec) (pe : Option (BitVec 3)) (a b c : Spec)
  /-- REDX, 14 R307 -/
  | redx (h : Hdr) (t : Ty) (op : RedOp) (d : Spec) (pe : Option (BitVec 3)) (a b : Spec)
  /-- SCANX, 14 R308 -/
  | scanx (h : Hdr) (t : Ty) (excl : Bool) (op : RedOp) (d : Spec) (pe : Option (BitVec 3)) (a b : Spec)
  /-- MATCH, 14 R309 -/
  | matchx (h : Hdr) (t : Ty) (d : Spec) (pe : Option (BitVec 3)) (a b : Spec)
  /-- SHQ, 14 R310 -/
  | shq (h : Hdr) (d a : Spec)
  /-- SHA, 14 R311 -/
  | sha (h : Hdr) (a : Spec) (shape : BitVec 2)
  /-- SHF, 14 R312 -/
  | shf (h : Hdr) (d a : Spec) (shape : BitVec 2)
  /-- SHRSV, 14 R313 -/
  | shrsv (h : Hdr) (pd : BitVec 3) (n : BitVec 8)
  /-- BRA, 14 R316 -/
  | bra (h : Hdr) (off : BitVec 34)
  /-- BRX, 14 R316 -/
  | brx (h : Hdr) (a : Spec)
  /-- CALL, 14 R316 -/
  | call (h : Hdr) (d : Spec) (off : BitVec 34)
  /-- CALLX, 14 R316 -/
  | callx (h : Hdr) (d a : Spec)
  /-- RET, 14 R316 -/
  | ret (h : Hdr) (a : Spec)
  /-- JOIN with the mask in A, 14 R317 -/
  | join (h : Hdr) (a : Spec)
  /-- JOIN with the mask in imm34[31:0], 14 R317 -/
  | joinImm (h : Hdr) (m : Word)
  /-- EXIT, 14 R318 -/
  | exit (h : Hdr)
  /-- EXIT.succ, 14 R319 -/
  | exitSucc (h : Hdr) (a : Spec)
  /-- YIELD, 14 R320 -/
  | yield (h : Hdr)
  /-- SLEEPT, 14 R321 -/
  | sleept (h : Hdr) (a : Spec)
  /-- NOP, 14 R322 -/
  | nop (h : Hdr)
  /-- TRAP, 14 R323 -/
  | trap (h : Hdr) (code : Word)
  /-- BRKPT, 14 R324 -/
  | brkpt (h : Hdr) (code : Word)
  /-- LD, 16 R349 -/
  | ld (h : Hdr) (scope : Scope) (ord : Order) (bc : Bool) (t : Ty) (d : Spec) (m : MemArg) (disp : BitVec 24)
  /-- ST, 16 R350 -/
  | st (h : Hdr) (scope : Scope) (ord : Order) (t : Ty) (d : Spec) (m : MemArg) (disp : BitVec 24)
  /-- LDC, 16 R349 -/
  | ldc (h : Hdr) (scope : Scope) (ord : Order) (bc : Bool) (d : Spec) (m : MemArg) (disp : BitVec 24)
  /-- STC, 16 R350 -/
  | stc (h : Hdr) (scope : Scope) (ord : Order) (d : Spec) (m : MemArg) (disp : BitVec 24)
  /-- ATOM.op, 16 R352 -/
  | atom (h : Hdr) (scope : Scope) (ord : Order) (op : AtomOp) (t : Ty) (d : Spec) (m : MemArg) (disp : BitVec 16) (c : Spec)
  /-- RED.op, 16 R353 -/
  | red (h : Hdr) (scope : Scope) (ord : Order) (op : AtomOp) (t : Ty) (d : Spec) (m : MemArg) (disp : BitVec 24)
  /-- FENCE, 16 R354 -/
  | fence (h : Hdr) (scope : Scope) (ord : Order)
  /-- WAITMEM.cond, 16 R355 -/
  | waitmem (h : Hdr) (scope : Scope) (ord : Order) (cond : Cond) (t : Ty) (d : Spec) (m : MemArg) (disp : BitVec 24)
  /-- PIN, 16 R356 -/
  | pin (h : Hdr) (pd : BitVec 3) (m : MemArg) (disp : BitVec 24)
  /-- UNPIN, 16 R356 -/
  | unpin (h : Hdr) (m : MemArg) (disp : BitVec 24)
  /-- PREF, 16 R357 -/
  | pref (h : Hdr) (m : MemArg) (disp : BitVec 24)
  /-- ICINV, 16 R358 -/
  | icinv (h : Hdr) (m : MemArg) (disp : BitVec 24)
  /-- CAPNAR, 16 R359 -/
  | capnar (h : Hdr) (fmt : Option Fmt) (pitch : Option (BitVec 16)) (l : Bool) (d : Spec) (pe : Option (BitVec 3)) (a b c : Spec)
  /-- CAPPERM, 16 R360 -/
  | capperm (h : Hdr) (d a : Spec) (mask : BitVec 8)
  /-- CAPGET, 16 R361 -/
  | capget (h : Hdr) (sel : BitVec 3) (d a : Spec)
  /-- CAPTST, 16 R362 -/
  | captst (h : Hdr) (need : BitVec 6) (pd : BitVec 3) (a b c : Spec)
  /-- CPY, 17 R370 -/
  | cpy (h : Hdr) (scope : Scope) (src : SrcWin) (dst : DstWin) (m : EngArg)
  /-- CPYG, 09 R209 -/
  | cpyg (h : Hdr) (scope : Scope) (src : SrcWin) (dst : DstWin) (m : EngArg) (e : Spec)
  /-- COLL, 09 R211 -/
  | coll (h : Hdr) (scope : Scope) (src : SrcWin) (dst : DstWin) (m : EngArg) (e : Spec)
  /-- MMA, 17 R371 -/
  | mma (h : Hdr) (scope : Scope) (bf : Bool) (acc : AccFmt) (bar : Option Spec) (slot : BitVec 6) (m : EngArg) (e f : Spec)
  /-- MDRAIN, 17 R372 -/
  | mdrain (h : Hdr) (scope : Scope) (fmt : DrainFmt) (t : Bool) (bar : Option Spec) (slot : BitVec 6) (a : Spec) (r : Rnd) (acc : AccFmt)
  /-- MZERO, 17 R373 -/
  | mzero (h : Hdr) (scope : Scope) (fmt : AccFmt) (bar : Option Spec) (slot : BitVec 6)
  /-- WTLOAD, 17 R373 -/
  | wtload (h : Hdr) (scope : Scope) (src : SrcWin) (bar : Option Spec) (tbl : BitVec 3) (m : EngArg)
  /-- WIDX, 17 R374 -/
  | widx (h : Hdr) (a b : Spec)
  /-- BARINIT, 17 R375 -/
  | barinit (h : Hdr) (sp : Bool) (m : EngArg) (e f : Spec)
  /-- BARARR, 17 R376 -/
  | bararr (h : Hdr) (scope : Scope) (sp : Bool) (n : BarCount) (m : EngArg)
  /-- BARWAIT, 17 R377 -/
  | barwait (h : Hdr) (sp : Bool) (m : EngArg) (e : Spec)
  /-- BARTST, 17 R377 -/
  | bartst (h : Hdr) (sp : Bool) (d : Spec) (m : EngArg)
  /-- RNGGET, 17 R378 -/
  | rngget (h : Hdr) (full : Bool) (d : Spec) (pe : BitVec 3) (m : EngArg)
  /-- RNGPUT, 17 R378 -/
  | rngput (h : Hdr) (full : Bool) (m : EngArg) (e : Spec)
  /-- RNGCLOSE, 17 R378 -/
  | rngclose (h : Hdr) (m : EngArg)
  /-- WAITCNT, 17 R379 -/
  | waitcnt (h : Hdr) (cls : CntClass) (n : BitVec 6)
  /-- TBAR, 17 R380 -/
  | tbar (h : Hdr)
  /-- TSPAWN, 17 R381 -/
  | tspawn (h : Hdr) (a b : Spec)
  /-- EVSIG, 17 R382 -/
  | evsig (h : Hdr) (a : Spec) (name : BitVec 16)
  /-- EVWAIT, 17 R383 -/
  | evwait (h : Hdr) (a : Spec) (name : BitVec 16)
  /-- RDTIME, 17 R384 -/
  | rdtime (h : Hdr) (d : Spec)
  /-- RDID, 17 R385 -/
  | rdid (h : Hdr) (sel : BitVec 4) (d : Spec)
  /-- RDCNT, 17 R386 -/
  | rdcnt (h : Hdr) (sel : BitVec 3) (d : Spec)
  /-- HVLEND, 17 R387 -/
  | hvlend (h : Hdr) (pd : BitVec 3) (m : EngArg) (e : Spec)
  /-- HVSTAT, 17 R388 -/
  | hvstat (h : Hdr) (d : Spec)
  /-- XRET, 21 R416 -/
  | xret (h : Hdr)
  /-- MFX, 17 R390 -/
  | mfx (h : Hdr) (reg : BitVec 12) (d : Spec)
  /-- MTX, 17 R390 -/
  | mtx (h : Hdr) (reg : BitVec 12) (a : Spec)
  /-- TLBINV, 17 R392 -/
  | tlbinv (h : Hdr) (ctx : Bool) (a b c : Spec)
  /-- CAPROOT, 17 R393 -/
  | caproot (h : Hdr) (d a : Spec)
  /-- CKPT, 17 R394 -/
  | ckpt (h : Hdr)
  /-- HALT, 17 R395 -/
  | halt (h : Hdr)
  /-- The members waiting at X of warp w complete their cross-lane instruction, 14 R301 -/
  | crossLaneComplete (w : WarpKey) (x : VA)
  /-- The lanes of w waiting at the JOIN at X leave, 02 R32 -/
  | joinRelease (w : WarpKey) (x : VA)
  /-- The yielding path is ready again, 14 R320 -/
  | yieldExpiry (w : WarpKey) (pid : Nat)
  /-- The instant of SLEEPT is reached, 14 R321 -/
  | sleeptRelease (w : WarpKey) (pid : Nat)
  /-- The home evaluates the watched lanes on arrival and releases the path once all hold, 16 R355 -/
  | waitmemSatisfied (w : WarpKey) (entry : Nat)
  /-- The home evaluates the lanes without a watch entry, 16 R355 -/
  | waitmemPoll (w : WarpKey) (entry : Nat)
  /-- A store of the named lanes is performed at its home, 06 R134 -/
  | storePerform (w : WarpKey) (entry : Nat) (lns : Mask)
  /-- An atomic of the named lanes is performed at its home, 06 R145 -/
  | atomicPerform (w : WarpKey) (entry : Nat) (lns : Mask)
  /-- The data of a load arrives, 16 R349 -/
  | loadReturn (w : WarpKey) (entry : Nat)
  /-- The acknowledgement of a store or atomic arrives, 16 R350 -/
  | storeAcknowledge (w : WarpKey) (entry : Nat)
  /-- A path has waited 1 us for a remote load, 04 R87 -/
  | remoteLoadBlock (w : WarpKey) (pid : Nat)
  /-- A walker translates an address, 05 R121 -/
  | pageWalk (part : Nat) (ctx : BitVec 6) (va : VA) (write : Bool)
  /-- A request answered gated is tried again, 23 R437 -/
  | targetGatedRetry (w : WarpKey) (entry : Nat)
  /-- A copy or gather engine takes an operation and moves its data, 06 R146 -/
  | engineOpStart (op : Nat) (eng : Bool)
  /-- The matrix engine grants the next operation, 08 R177 -/
  | matrixGrant (cluster : BitVec 5)
  /-- The data of a member for its k-th COLL arrives, 09 R211 -/
  | collectiveContribution (part : Nat) (set : BitVec 8) (k : Nat) (pos : BitVec 8) (cols : BitVec 16) (data : List Word)
  /-- An engine updates the barrier and the counter, 06 R146 -/
  | engineOpComplete (op : Nat)
  /-- The phase has changed, 06 R149 -/
  | barwaitRelease (w : WarpKey) (pid : Nat)
  /-- The descriptor has changed, 03 R70 -/
  | rnggetWake (w : WarpKey) (pid : Nat)
  /-- The counter is at most n, 06 R147 -/
  | waitcntRelease (w : WarpKey) (pid : Nat)
  /-- Every warp of the team has reached TBAR, 03 R63 -/
  | tbarComplete (task team : Nat)
  /-- The count has reached the target, 17 R383 -/
  | evwaitRelease (w : WarpKey) (pid : Nat)
  /-- The fetch unit loads a run, 02 R24 -/
  | runFetch (w : WarpKey) (pid : Nat)
  /-- The issue stage chooses the next turn, 04 R93 -/
  | turnArbitration (cluster : BitVec 5) (core : BitVec 7)
  /-- An ended warp leaves its slot, 14 R318 -/
  | warpLeaveSlot (w : WarpKey)
  /-- The SCC applies one event record, 04 R91 -/
  | eventRecordApply (cluster : BitVec 5)
  /-- A scheduling round, 04 R81 -/
  | schedulingRound (part : Nat)
  /-- The save of a crew completes, 04 R89 -/
  | evictionSaveComplete (task : Nat)
  /-- The Tiller places or resumes a harvest team, 04 R95 -/
  | harvestPlacement (cluster : BitVec 5) (core : BitVec 7)
  /-- A demand revokes the harvest warps of a core, 04 R96 -/
  | harvestRevocation (cluster : BitVec 5) (core : BitVec 7)
  /-- A checkpoint begins, 04 R98 -/
  | checkpointStart (part : Nat)
  /-- The checkpoint commits, 04 R98 -/
  | checkpointCommit (part : Nat)
  /-- The checkpoint fails, 26 R453 -/
  | checkpointFailure (part : Nat)
  /-- The slice ends; `lost` names the lines whose undo-log entry is uncorrectable, 04 R101, 26 R454 -/
  | sliceEndRollback (part : Nat) (nextPart : Option Nat) (lost : List Nat)
  /-- The rail of a cluster follows the votes, 10 R236 -/
  | railChange (cluster : BitVec 5)
  /-- The die is still above its limit 100 ms later, 26 R456 -/
  | thermalStop (die : Bool)
  /-- A source has given no correction for 4 s, 23 R442 -/
  | timeSourceLost (src : TimeSrc)
  /-- A scrubber zeroes a released unit, 10 R233 -/
  | scrubUnit (unit : Nat)
  /-- NOP of a front end: the front end reads its next command, 10 R222 -/
  | feNop (fe : BitVec 4)
  /-- LAUNCH: the front end reads its next command, 10 R222 -/
  | launch (fe : BitVec 4)
  /-- GRANT: the front end reads its next command, 10 R222 -/
  | grant (fe : BitVec 4)
  /-- EVSIG of a front end: the front end reads its next command, 10 R222 -/
  | feEvsig (fe : BitVec 4)
  /-- EVRESET: the front end reads its next command, 10 R222 -/
  | evreset (fe : BitVec 4)
  /-- CNTREAD: the front end reads its next command, 10 R222 -/
  | cntread (fe : BitVec 4)
  /-- DRAIN: the front end reads its next command, 10 R222 -/
  | drain (fe : BitVec 4)
  /-- XTLOAD: the front end reads its next command, 10 R222 -/
  | xtload (fe : BitVec 4)
  /-- A load of the named lanes reaches the holder of its line, 06 R133 -/
  | loadServed (w : WarpKey) (entry : Nat) (lns : Mask)
  /-- The release wait of a queue entry ends, 06 R141 -/
  | releaseWaitElapsed (w : WarpKey) (entry : Nat)
  /-- The cap controller measures power; `meters` is what the clusters' meters give, 10 R235, R236 -/
  | powerMeasurement (watts : Nat) (meters : List Meter)
  /-- A die exceeds its junction limit, 26 R456 -/
  | thermalLimit (die : Bool)
  /-- The firmware retires a cluster, 26 R458 -/
  | clusterRetirement (cluster : BitVec 5)
  /-- The firmware marks a channel for removal, 26 R459 -/
  | channelRetirement (ch : BitVec 8)
  /-- A correction of the time reference with the measured offset, and what its time exchange carries, 10 R237, 23 R442, R443 -/
  | timeCorrection (src : TimeSrc) (offset : Int) (peers : TimeExchange)
  /-- Power-up and self-test, 10 R226 -/
  | powerUp
  /-- A reset that keeps power, 10 R226 -/
  | reset
  /-- IDENT, 10 R227 -/
  | ident
  /-- SETTIME, 10 R227 -/
  | settime (v : DWord)
  /-- LOADSEG, 10 R227 -/
  | loadseg (host : DWord) (off len : Nat)
  /-- VERIFY, 10 R228 -/
  | verify (len : Nat)
  /-- START, 10 R226 -/
  | start
  /-- ATTEST, 10 R229 -/
  | attest (nonce : BitVec 384)
  /-- Creates a partition, 10 R230 -/
  | partitionCreate (a : PartArg)
  /-- Destroys a partition, 10 R233 -/
  | partitionDestroy (part : Nat)
  /-- Releases memory units of a partition, 10 R233 -/
  | memoryRelease (part : Nat) (units : List Nat)
  /-- CTXSET, 10 R231 -/
  | ctxset (part : Nat) (ctx : Nat) (root : DWord) (pinq : Nat) (hentry : DWord)
  /-- CTXDEL, 10 R231 -/
  | ctxdel (part : Nat) (ctx : Nat)
  /-- Sets CLBASE and CLLIMIT, 04 R80 -/
  | frontEndRangeSet (fe : BitVec 4) (lo hi : BitVec 5)
  /-- Sets the trace buffer, 10 R238 -/
  | traceBufferSet (part : Nat) (base : DWord) (size : Nat) (mask : BitVec 16)
  /-- Turns debug mode on or off, 22 R429 -/
  | debugModeSet (part : Nat) (on : Bool)
  /-- Releases a breakpoint group, 21 R417 -/
  | debugRelease (w : WarpKey) (xpc : Option DWord) (xstat : Option Word) (ks : List (BitVec 3 × Word))
  /-- A rail vote, 10 R236 -/
  | railVote (part : Nat) (cluster : BitVec 5) (r : Rail)
  /-- The host writes CFQT.TAIL, 10 R221 -/
  | tailWrite (fe : FnBlock) (v : Word)
  /-- The host writes CFQS, 10 R221 -/
  | qenWrite (fe : FnBlock) (v : Word)
  /-- The host writes CFCH.CHEAD, 10 R225 -/
  | cheadWrite (fe : FnBlock) (v : Word)
  /-- A write of PWRCAP, 10 R235 -/
  | pwrcapWrite (v : FnWord)
  /-- A write of a register with no behaviour of its own, 10 R219, R220, 08 R180, 06 R131 -/
  | registerWrite (r : HostReg) (v : DWord)
  /-- The host writes the bytes, or reads len bytes, through BAR2, 10 R218 -/
  | hostBar2Access (fn : Fn) (pa : Nat) (bytes : Option (List Byte)) (len : Nat)
  /-- A cluster or a peer's homes are gated or ungated, 23 R437 -/
  | powerGate (unit : Gateable) (gate : Bool)
  /-- A fabric port goes down or comes back, 23 R437 -/
  | fabricPortDown (port : Nat) (down : Bool)
  /-- The die has fallen below its limit, 26 R456 -/
  | belowJunctionLimit (die : Bool)
  /-- Power is removed, 10 R226 -/
  | powerRemoved
deriving DecidableEq, Repr

end Sys2Proof
end

