-- ==== Sys2Proof/Machine/Flags.lean ====
section
/-! DEFINITION. Numbers (07): the formats, the one rounding of an exact value with the flags it raises, and the exact
arithmetic on the values of operands. -/

namespace Sys2Proof.Machine

/-- The sticky flags of XFLAGS (07 R159). -/
abbrev XFlags := BitVec 5
/-- INVALID, [4]. -/
def XFlags.invalid : XFlags := 16
/-- DIVZERO, [3]. -/
def XFlags.divzero : XFlags := 8
/-- OVERFLOW, [2]. -/
def XFlags.overflow : XFlags := 4
/-- UNDERFLOW, [1]. -/
def XFlags.underflow : XFlags := 2
/-- INEXACT, [0]. -/
def XFlags.inexact : XFlags := 1

/-- A floating-point format (07 R150): the widths of its fields, its bias, whether its top exponent is a normal one
(E4M3), the largest significand at its top exponent. -/
structure FFmt where
  ebits : Nat
  fbits : Nat
  bias : Nat
  e4m3 : Bool
deriving DecidableEq, Repr

/-- FP64 -/
def FFmt.f64 : FFmt := ⟨11, 52, 1023, false⟩
/-- FP32 -/
def FFmt.f32 : FFmt := ⟨8, 23, 127, false⟩
/-- FP16 -/
def FFmt.f16 : FFmt := ⟨5, 10, 15, false⟩
/-- BF16 -/
def FFmt.bf16 : FFmt := ⟨8, 7, 127, false⟩
/-- E4M3 -/
def FFmt.e4 : FFmt := ⟨4, 3, 7, true⟩
/-- E5M2 -/
def FFmt.e5 : FFmt := ⟨5, 2, 15, false⟩

/-- The matrix engine's internal format (07 R165): 10-bit exponent with bias 511, a significand of 24 bits. -/
def FFmt.int : FFmt := ⟨10, 23, 511, false⟩

/-- Bits of the format. -/
def FFmt.width (f : FFmt) : Nat := 1 + f.ebits + f.fbits
/-- The exponent of the smallest normal value. -/
def FFmt.emin (f : FFmt) : Int := 1 - (f.bias : Int)
/-- The largest biased exponent of a finite value. -/
def FFmt.topExp (f : FFmt) : Nat := if f.e4m3 then 2 ^ f.ebits - 1 else 2 ^ f.ebits - 2
/-- The fraction of the largest finite value. -/
def FFmt.topFrac (f : FFmt) : Nat := if f.e4m3 then 2 ^ f.fbits - 2 else 2 ^ f.fbits - 1
/-- The sign bit in its place. -/
def FFmt.sign (f : FFmt) (neg : Bool) : Nat := if neg then 2 ^ (f.ebits + f.fbits) else 0
/-- The largest finite value's bits. -/
def FFmt.maxFin (f : FFmt) : Nat := f.topExp * 2 ^ f.fbits + f.topFrac
/-- The canonical NaN (07 R150). -/
def FFmt.nan (f : FFmt) : Nat :=
  if f.e4m3 then 0x7F else (2 ^ f.ebits - 1) * 2 ^ f.fbits + 2 ^ (f.fbits - 1)
/-- Infinity's bits, or in E4M3 the NaN of the sign (07 R155). -/
def FFmt.inf (f : FFmt) (neg : Bool) : Nat :=
  f.sign neg + (if f.e4m3 then 0x7F else (2 ^ f.ebits - 1) * 2 ^ f.fbits)

/-- The value an operand stands for: a finite value is (−1)^neg · m · 2^e. -/
inductive Fp where
  | nan (signalling : Bool)
  | inf (neg : Bool)
  | fin (neg : Bool) (m : Nat) (e : Int)
deriving DecidableEq, Repr

/-- The value of bits (07 R151). -/
def FFmt.read (f : FFmt) (x : Nat) : Fp :=
  let neg := x / 2 ^ (f.ebits + f.fbits) % 2 == 1
  let e := x / 2 ^ f.fbits % 2 ^ f.ebits
  let fr := x % 2 ^ f.fbits
  if f.e4m3 then
    if e == 15 && fr == 7 then .nan false
    else if e == 0 then .fin neg fr (f.emin - f.fbits) else .fin neg (2 ^ f.fbits + fr) (e - f.bias - f.fbits)
  else if e == 2 ^ f.ebits - 1 then
    if fr == 0 then .inf neg else .nan (fr < 2 ^ (f.fbits - 1))
  else if e == 0 then .fin neg fr (f.emin - f.fbits)
  else .fin neg (2 ^ f.fbits + fr) (e - f.bias - f.fbits)

/-- An exact value on its way to be rounded: the magnitude lies at m · 2^e, or strictly between that and (m + 1) · 2^e
where `more` holds. -/
structure Exact where
  neg : Bool
  m : Nat
  e : Int
  more : Bool
deriving DecidableEq, Repr

/-- The multiple of 2^q below the magnitude, and the remainder as (numerator, log2 of the denominator). -/
def Exact.cut (x : Exact) (q : Int) : Nat × Nat × Nat :=
  if q ≤ x.e then (x.m <<< (x.e - q).toNat, 0, 0)
  else let k := (q - x.e).toNat; (x.m >>> k, x.m % 2 ^ k, k)

/-- The multiple of 2^q that the mode chooses, and whether it differs from the value (07 R154, R156). -/
def Exact.roundAt (x : Exact) (r : Rnd) (draw : Word) (q : Int) : Nat × Bool :=
  let (n, rem, k) := x.cut q
  let inexact := rem != 0 || x.more
  let up := match r with
    | .rn => 2 * rem > 2 ^ k || (2 * rem == 2 ^ k && rem != 0 && (x.more || n % 2 == 1))
    | .rz => false
    | .ru => inexact && !x.neg
    | .rd => inexact && x.neg
    | .rs => decide (draw.toNat ≤ rem * 2 ^ 32 / 2 ^ k)
  (if up then n + 1 else n, inexact)

/-- One rounding to a format under a mode (07 R154-R156), with the flags of R159; `sat` gives the saturating form of
R160. A zero keeps its sign. -/
def FFmt.round (f : FFmt) (r : Rnd) (sat : Bool) (draw : Word) (x : Exact) : Nat × XFlags :=
  if x.m == 0 && !x.more then (f.sign x.neg, 0)
  else
    let top : Int := x.e + Nat.log2 x.m
    let qn : Int := top - f.fbits
    let q : Int := max qn (f.emin - f.fbits)
    let (n, inexact) := x.roundAt r draw q
    -- the rounded value with unbounded exponent, for the test of tininess
    let (nu, _) := x.roundAt r draw qn
    let tinyN := decide ((if nu == 2 ^ (f.fbits + 1) then top + 1 else top) < f.emin)
    let tiny := if r == .rs then decide (n < 2 ^ f.fbits) else tinyN
    let (n, q) := if n == 2 ^ (f.fbits + 1) then (2 ^ f.fbits, q + 1) else (n, q)
    let be : Nat := (q + f.fbits + f.bias).toNat
    let bits := if n < 2 ^ f.fbits then n else be * 2 ^ f.fbits + (n - 2 ^ f.fbits)
    if f.maxFin < bits then
      let toInf := match r with
        | .rn | .rs => true
        | .rz => false
        | .ru => !x.neg
        | .rd => x.neg
      (if toInf && !sat then f.inf x.neg else f.sign x.neg + f.maxFin, XFlags.overflow ||| XFlags.inexact)
    else
      (f.sign x.neg + bits,
        (if inexact then XFlags.inexact else 0) ||| (if tiny && inexact then XFlags.underflow else 0))

/-- The exact value of a signed integer times 2^e; an exact zero has the sign given. -/
def Exact.ofInt (i : Int) (e : Int) (zneg : Bool) : Exact := ⟨if i == 0 then zneg else decide (i < 0), i.natAbs, e, false⟩

/-- A finite value as a signed integer times 2^e, for an e not above its own. -/
def scaled (neg : Bool) (m : Nat) (e e' : Int) : Int :=
  let v : Int := (m <<< (e - e').toNat : Nat)
  if neg then -v else v

/-- What an operation gives before rounding: NaN (with INVALID or not), an infinity, or an exact value. -/
inductive Pre where
  | nan (invalid : Bool)
  | inf (neg : Bool)
  | num (x : Exact)
deriving DecidableEq, Repr

/-- The result of an operation in a format. -/
def FFmt.deliver (f : FFmt) (r : Rnd) (sat : Bool) (draw : Word) : Pre → Nat × XFlags
  | .nan inv => (f.nan, if inv then XFlags.invalid else 0)
  | .inf neg => (f.inf neg, 0)
  | .num x => f.round r sat draw x

/-- The operand is a signalling NaN. -/
def Fp.snan : Fp → Bool
  | .nan s => s
  | _ => false
/-- The operand is a NaN. -/
def Fp.isNan : Fp → Bool
  | .nan _ => true
  | _ => false
/-- The operand's value negated; a NaN is unchanged. -/
def Fp.negate : Fp → Fp
  | .nan s => .nan s
  | .inf n => .inf (!n)
  | .fin n m e => .fin (!n) m e

/-- The sign of an exact zero sum (07 R158). -/
def zeroSign (r : Rnd) (a b : Bool) : Bool := if a == b then a else r == .rd

/-- Exact sum (07 R154, R158). -/
def Fp.add (r : Rnd) (a b : Fp) : Pre :=
  match a, b with
  | .nan x, y => .nan (x || y.snan)
  | x, .nan y => .nan (x.snan || y)
  | .inf x, .inf y => if x == y then .inf x else .nan true
  | .inf x, _ => .inf x
  | _, .inf y => .inf y
  | .fin na ma ea, .fin nb mb eb =>
    let e := min ea eb
    .num (Exact.ofInt (scaled na ma ea e + scaled nb mb eb e) e
      (if ma == 0 && mb == 0 then zeroSign r na nb else r == .rd))

/-- Exact product. -/
def Fp.mul (a b : Fp) : Pre :=
  match a, b with
  | .nan x, y => .nan (x || y.snan)
  | x, .nan y => .nan (x.snan || y)
  | .inf x, .inf y => .inf (x != y)
  | .inf x, .fin n m _ => if m == 0 then .nan true else .inf (x != n)
  | .fin n m _, .inf x => if m == 0 then .nan true else .inf (x != n)
  | .fin na ma ea, .fin nb mb eb => .num ⟨na != nb, ma * mb, ea + eb, false⟩

/-- The exact value as an operand again. -/
def Pre.toFp : Pre → Fp
  | .nan _ => .nan false
  | .inf n => .inf n
  | .num x => .fin x.neg x.m x.e

/-- Exact a · b + c: an invalid product is invalid whatever c is (07 R158; DEDUCED [12]). -/
def Fp.fma (r : Rnd) (a b c : Fp) : Pre :=
  match Fp.mul a b with
  | .nan inv => .nan (inv || c.snan)
  | p => Fp.add r p.toFp c

/-- Order of two values that are not NaN. -/
def Fp.cmp (a b : Fp) : Ordering :=
  let key : Fp → Int × Nat × Int := fun x => match x with
    | .nan _ => (0, 0, 0)
    | .inf n => (if n then -2 else 2, 0, 0)
    | .fin n m e => (if m == 0 then 0 else if n then -1 else 1, m, e)
  let (sa, ma, ea) := key a
  let (sb, mb, eb) := key b
  if sa != sb then compare sa sb
  else if sa == 0 || sa == 2 || sa == -2 then .eq
  else
    let e := min ea eb
    compare (scaled (decide (sa < 0)) ma ea e) (scaled (decide (sb < 0)) mb eb e)

/-- A value converted to a format (07 R160), with the cases of R160 for infinities in the FP8 formats. -/
def Fp.convert (f : FFmt) (r : Rnd) (sat : Bool) (draw : Word) : Fp → Nat × XFlags
  | .nan s => (f.nan, if s then XFlags.invalid else 0)
  | .inf n =>
    if sat then (f.sign n + f.maxFin, XFlags.inexact)
    else if f.e4m3 then (f.inf n, XFlags.invalid) else (f.inf n, 0)
  | .fin n m e => f.round r sat draw ⟨n, m, e, false⟩

/-- One draw of a stochastic generator (07 R157). -/
def lfsrNext (s : Word) : Word := (s >>> 1) ^^^ (if s.getLsbD 0 then 0x80200003 else 0)

/-- A value written to a generator: zero stores 1. -/
def lfsrSeed (s : Word) : Word := if s == 0 then 1 else s

/-- A value rounded to an integer of the range lo to hi (07 R161): NaN gives 0 and out of range the bound, INVALID. -/
def Fp.toInt (r : Rnd) (lo hi : Int) (x : Fp) (draw : Word := 0) : Int × XFlags :=
  match x with
  | .nan _ => (0, XFlags.invalid)
  | .inf n => (if n then lo else hi, XFlags.invalid)
  | .fin n m e =>
    let (k, inexact) := Exact.roundAt ⟨n, m, e, false⟩ r draw 0
    let v : Int := if n then -(k : Int) else k
    if v < lo then (lo, XFlags.invalid) else if hi < v then (hi, XFlags.invalid)
    else (v, if inexact then XFlags.inexact else 0)

/-- An integer in a format (07 R161). -/
def intToFp (f : FFmt) (r : Rnd) (draw : Word) (v : Int) : Nat × XFlags := f.round r false draw (Exact.ofInt v 0 false)

end Sys2Proof.Machine
end

