-- ==== Sys2Proof/Config.lean ====
section
/-! DEFINITION. What an implementation fixes: constants without a body, of which no proof can know the value, and the
fixed figures of the part. -/

namespace Sys2Proof

/-- The values the spec leaves open after an instruction that goes on, one for each number drawn. -/
opaque Config.freeValue : Nat → DWord
/-- The SHA-384 held in ROM of the public key under which images are signed (10 R228). -/
opaque Config.romKeyDigest : BitVec 384
/-- The 96 bytes of the public key that comes with an image: the spec does not say where it stands (10 R228). -/
opaque Config.imageKey : List Byte → List Byte
/-- The device identity key, which never leaves the device (10 R229), less one. -/
opaque Config.identitySecret : Nat
/-- The number drawn for a signature, less one, of each signature. -/
opaque Config.signingNonce : Nat → Nat
/-- The part number that IDENT gives (10 R227). -/
opaque Config.partNumber : Word
/-- The fabric device number of this device (09 R210). -/
opaque Config.deviceNumber : BitVec 16
/-- Bytes past the leading fields of a response or report, whose layout the spec does not give (10 R227, R229). -/
opaque Config.layoutFill : Nat → Byte

end Sys2Proof
end

