-- ==== Sys2Proof/WellFormed.lean ====
section
/-! DEFINITION. The codes of the operand and modifier fields, the form of every encoded instruction (its opcode, its
fields and what each position accepts: 13 R262-R283), and well-formedness: the six tests of 22 R423 that a term of
`Instr` can fail. -/

namespace Sys2Proof

/-- A field of a word that holds an operand (13 R264). -/
inductive Pos where
  | d | a | b | c | e | f
deriving DecidableEq, Repr

/-- What a position accepts (13 R266, R267). -/
inductive Kind where
  /-- any source specifier -/
  | src
  /-- a destination: v, k or z -/
  | dst
  /-- a source pair -/
  | pair
  /-- a destination pair -/
  | dpair
  /-- an even v register -/
  | vpair
  /-- a v register whose number is a multiple of 4 -/
  | vquad
  /-- a quad -/
  | quad
  /-- a quad of MDRAIN with `.t`, at most c28 -/
  | quad28
  /-- a quad of MDRAIN, at most c30 -/
  | quad30
  /-- a quad of MDRAIN to E4M3 and the scale quad after it, at most c30 -/
  | quads30
  /-- the specifier 0xF0 alone -/
  | zonly
  /-- a predicate number, or a table number -/
  | pnum
  /-- a predicate read lane by lane -/
  | psel
  /-- an FP32 tile-memory slot -/
  | slot32
  /-- a 16-bit tile-memory slot -/
  | slot64
deriving DecidableEq, Repr

/-- One operand position of an instruction. -/
structure Opnd where
  pos : Pos
  kind : Kind
deriving DecidableEq, Repr

/-- The code of a specifier (13 R266). -/
def Spec.bits : Spec → BitVec 8
  | .v n => 0#1 ++ n
  | .k n => 0x10#5 ++ n
  | .p n => 0x11#5 ++ n
  | .z => 0xF0 | .lid => 0xF1 | .wid => 0xF2 | .tid => 0xF3 | .cid => 0xF4 | .kid => 0xF5

/-- A value that 13 R266 gives a meaning. -/
def specValid (x : BitVec 8) : Bool :=
  x.toNat < 0x90 || (0xF0 ≤ x.toNat && x.toNat ≤ 0xF5)

/-- The position accepts the field's value. -/
def Kind.accepts : Kind → BitVec 8 → Bool
  | .src, x => specValid x
  | .dst, x => x.toNat < 0x88 || x == 0xF0
  | .pair, x | .dpair, x => (x.toNat < 0x88 && x.toNat % 2 == 0) || x == 0xF0
  | .vpair, x => x.toNat < 0x80 && x.toNat % 2 == 0
  | .vquad, x | .quad, x => x.toNat < 0x80 && x.toNat % 4 == 0
  | .quad28, x => x.toNat ≤ 0x70 && x.toNat % 4 == 0
  | .quad30, x | .quads30, x => x.toNat ≤ 0x78 && x.toNat % 4 == 0
  | .zonly, x => x == 0xF0
  | .pnum, x => x.toNat < 8
  | .psel, x => 0x88 ≤ x.toNat && x.toNat < 0x90
  | .slot32, x => x.toNat < 32
  | .slot64, x => x.toNat < 64

/-- The position is read as an operand specifier, so that a hold bit may name it (13 R285). -/
def Kind.held : Kind → Bool
  | .src | .pair | .vpair | .vquad | .quad | .quad28 | .quad30 | .quads30 | .psel => true
  | _ => false

/-- The code of a TYPE (13 R273). -/
def Ty.code : Ty → BitVec 4
  | .b32 => 0
  | .i32 => 1
  | .n32 => 2
  | .b64 => 3
  | .i64 => 4
  | .n64 => 5
  | .b8 => 6
  | .i8 => 7
  | .n8 => 8
  | .b16 => 9
  | .i16 => 10
  | .n16 => 11
  | .b128 => 12
  | .f32 => 13
  | .f16 => 14
  | .bf16 => 15

/-- The code of a RND (07 R154). -/
def Rnd.code : Rnd → BitVec 3
  | .rn => 0
  | .rz => 1
  | .ru => 2
  | .rd => 3
  | .rs => 4

/-- The code of a SCOPE (06 R139). -/
def Scope.code : Scope → BitVec 4
  | .thread => 0
  | .warp => 1
  | .engine => 2
  | .core => 3
  | .team => 4
  | .cluster => 5
  | .die => 6
  | .device => 7
  | .host => 8
  | .peer => 9
  | .fabric => 10
  | .system => 11

/-- The code of a ORDER (06 R140). -/
def Order.code : Order → BitVec 3
  | .rlx => 0
  | .acq => 1
  | .rel => 2
  | .acqrel => 3
  | .sc => 4

/-- The code of a SPACE (13 R274). -/
def Space.code : Space → BitVec 3
  | .priv => 0
  | .scr => 1
  | .shr => 2
  | .chip => 3
  | .glob => 4

/-- The code of a compare condition (13 R274). -/
def Cond.code : Cond → BitVec 3
  | .eq => 0
  | .ne => 1
  | .lt => 2
  | .le => 3
  | .gt => 4
  | .ge => 5

/-- The code of a FCMP condition (15 R331). -/
def FCond.code : FCond → BitVec 3
  | .eq => 0
  | .ne => 1
  | .lt => 2
  | .le => 3
  | .gt => 4
  | .ge => 5
  | .num => 6
  | .nan => 7

/-- The code of a atomic operation (13 R274). -/
def AtomOp.code : AtomOp → BitVec 4
  | .add => 0
  | .min => 1
  | .max => 2
  | .and => 3
  | .or => 4
  | .xor => 5
  | .exch => 6
  | .cas => 7
  | .inc => 8
  | .dec => 9

/-- The code of a reduction (14 R307). -/
def RedOp.code : RedOp → BitVec 3
  | .add => 0
  | .min => 1
  | .max => 2
  | .and => 3
  | .or => 4
  | .xor => 5

/-- The code of a PSET operation (14 R298). -/
def PsetOp.code : PsetOp → BitVec 4
  | .and => 0
  | .or => 1
  | .xor => 2
  | .andn => 3

/-- The code of a VOTE variant (14 R304). -/
def VoteVar.code : VoteVar → BitVec 4
  | .every => 0
  | .some => 1
  | .mask => 2
  | .same => 3
  | .count => 4

/-- The code of a SHFL variant (14 R305). -/
def ShflVar.code : ShflVar → BitVec 4
  | .lane => 0
  | .back => 1
  | .fwd => 2
  | .swap => 3

/-- The code of a HMNX2 variant (15 R334). -/
def MnxVar.code : MnxVar → BitVec 3
  | .min => 0
  | .max => 1
  | .minnum => 2
  | .maxnum => 3

/-- The code of a counter class (13 R282). -/
def CntClass.code : CntClass → BitVec 2
  | .copy => 0
  | .gather => 1
  | .mma => 2
  | .coll => 3

/-- The code of a source window (17 R369). -/
def SrcWin.code : SrcWin → BitVec 2
  | .sscr => 0
  | .sshr => 1
  | .schip => 2

/-- The code of a destination window (17 R369). -/
def DstWin.code : DstWin → BitVec 2
  | .dshr => 0
  | .dscr => 1
  | .dchip => 2
  | .dws => 3

/-- The code of a accumulator format (17 R371). -/
def AccFmt.code : AccFmt → BitVec 2
  | .f32 => 0
  | .bf16 => 1
  | .f16 => 2

/-- The code of a drain format (17 R369). -/
def DrainFmt.code : DrainFmt → BitVec 2
  | .f32 => 0
  | .bf16 => 1
  | .f16 => 2
  | .e4m3 => 3

/-- The code of a element format (05 R115). -/
def Fmt.code : Fmt → BitVec 4
  | .bytes => 0
  | .f32 => 1
  | .f16 => 2
  | .bf16 => 3
  | .e4m3 => 4
  | .e5m2 => 5
  | .i8 => 6
  | .i32 => 7
  | .i64 => 8
  | .f64 => 9
  | .cwt => 10
  | .s9 => 11

/-- The bytes an access of this type moves (16 R344); 0 for the 16-bit float types, which no access has. -/
def Ty.bytes : Ty → Nat
  | .b8 | .i8 | .n8 => 1
  | .b16 | .i16 | .n16 => 2
  | .b32 | .i32 | .n32 | .f32 => 4
  | .b64 | .i64 | .n64 => 8
  | .b128 => 16
  | .f16 | .bf16 => 0

/-- The type is read as two's complement (14 R288). -/
def Ty.signed : Ty → Bool
  | .i8 | .i16 | .i32 | .i64 => true
  | _ => false

/-- The kind of a destination that receives n bytes. -/
def Kind.dstOf (t : Ty) : Kind := if t.bytes == 8 then .dpair else if t.bytes == 16 then .quad else .dst
/-- The kind of a data source of n bytes. -/
def Kind.srcOf (t : Ty) : Kind := if t.bytes == 8 then .pair else if t.bytes == 16 then .quad else .src
/-- The kind of an ATOM's data source (16 R352). -/
def Kind.atomC (op : AtomOp) (t : Ty) : Kind :=
  if op == .cas then (if t.bytes == 8 then .vquad else .vpair) else if t.bytes == 8 then .pair else .src
/-- The kind of a slot read in an accumulator format (13 R267). -/
def Kind.slotOf (f : AccFmt) : Kind := if f == .f32 then .slot32 else .slot64

/-- A TYPE that 16 R351 lists for the operation. -/
def atomTy (op : AtomOp) (t : Ty) : Bool :=
  match op with
  | .add | .min | .max =>
    t == .b32 || t == .i32 || t == .n32 || t == .b64 || t == .i64 || t == .n64 || t == .f32
  | .and | .or | .xor | .exch | .cas => t == .b32 || t == .b64
  | .inc | .dec => t == .n32

/-- A scope that a scoped engine entry accepts (17 R364). -/
def scopeOk (s : Scope) : Bool := 2 ≤ s.code.toNat && s.code.toNat ≤ 11

/-- A system register number of 17 R390. -/
def sysReg (r : BitVec 12) : Bool :=
  let n := r.toNat
  n ≤ 4 || n == 0x10 || n == 0x11 || (0x20 ≤ n && n ≤ 0x23) || (0x30 ≤ n && n ≤ 0x32) || (0x40 ≤ n && n < 0x70)

/-- A system register of 64 bits (17 R390). -/
def sysReg64 (r : BitVec 12) : Bool :=
  let n := r.toNat
  n == 0 || n == 3 || (0x40 ≤ n && n < 0x70)

/-- MOD of the integer and logic class (13 R272). -/
def modInt (t : Ty) (sat : Bool) (var : BitVec 3) : BitVec 8 := t.code ++ BitVec.ofBool sat ++ var
/-- MOD of the float class. -/
def modFloat (r : Rnd) (var : BitVec 3) : BitVec 8 := r.code ++ var ++ 0#2
/-- MOD of the conversion class. -/
def modConv (t : Ty) (sat : Bool) (r : Rnd) : BitVec 8 := t.code ++ BitVec.ofBool sat ++ r.code
/-- MOD of the predicate, cross-lane and shape class. -/
def modPred (t : Ty) (var : BitVec 4) : BitVec 8 := t.code ++ var
/-- MOD of the memory class. -/
def modMem (s : Scope) (o : Order) (bc : Bool) : BitVec 8 := s.code ++ o.code ++ BitVec.ofBool bc
/-- MOD of the engine class. -/
def modEng (s : Scope) (var : BitVec 4) : BitVec 8 := s.code ++ var
/-- MOD of CAPNAR (16 R359). -/
def modCapnar (fmt : Option Fmt) (pitch : Option (BitVec 16)) (l : Bool) : BitVec 8 :=
  (match fmt with | some f => f.code | none => 0#4) ++ BitVec.ofBool fmt.isSome ++ BitVec.ofBool pitch.isSome
    ++ BitVec.ofBool l ++ 0#1

/-- PE and PN (13 R264). -/
def peBits : Option (BitVec 3) → BitVec 4
  | some n => 1#1 ++ n
  | none => 0#4

/-- Bits [53:20] of the RRR layout. -/
def rrrLow (c : BitVec 8) (pe : Option (BitVec 3)) : BitVec 34 := 0#16 ++ c ++ 0#6 ++ peBits pe
/-- Bits [53:20] of the MEM layout. -/
def memLow (m : MemArg) (disp : BitVec 24) (t : Ty) : BitVec 34 := disp ++ m.sh ++ m.space.code ++ t.code
/-- Bits [53:20] of the MEM-C layout. -/
def memCLow (m : MemArg) (disp : BitVec 16) (c : Spec) (t : Ty) : BitVec 34 :=
  disp ++ c.bits ++ m.sh ++ m.space.code ++ t.code
/-- Bits [53:20] of the ENG layout. -/
def engLow (e f c : BitVec 8) (m : EngArg) : BitVec 34 := e ++ f ++ c ++ m.sh ++ m.disp

/-- VAR[3] of an engine operation that may name a barrier (17 R369). -/
def barVar (b : Option Spec) : BitVec 1 := BitVec.ofBool b.isSome
/-- The barrier offset's field. -/
def barBits : Option Spec → BitVec 8
  | some s => s.bits
  | none => 0#8
/-- The barrier offset's position, where one is named. -/
def barOps : Option Spec → List Opnd
  | some _ => [⟨.c, .src⟩]
  | none => []

/-- VAR[0] of BARARR (17 R376). -/
def BarCount.var : BarCount → BitVec 1
  | .imm _ => 1
  | .reg _ => 0
/-- Bits [53:30] of BARARR. -/
def BarCount.bits : BarCount → BitVec 24
  | .imm n => n
  | .reg e => e.bits ++ 0#16
/-- The count's position, where it is a register. -/
def BarCount.ops : BarCount → List Opnd
  | .imm _ => []
  | .reg _ => [⟨.e, .src⟩]

/-- The fields of an encoded instruction, what its positions accept, and whether its codes are ones its entry accepts. -/
structure Form where
  hdr : Hdr
  opc : BitVec 10
  mod : BitVec 8
  d : BitVec 8
  a : BitVec 8
  b : BitVec 8
  low : BitVec 34
  codes : Bool
  ops : List Opnd
  /-- the instruction accepts the cache hints 0 to 5 (13 R275) -/
  hint : Bool

/-- The 8 bits that stand at a position. -/
def Form.field (f : Form) : Pos → BitVec 8
  | .d => f.d
  | .a => f.a
  | .b => f.b
  | .c => f.low.extractLsb' 10 8
  | .e => f.low.extractLsb' 26 8
  | .f => f.low.extractLsb' 18 8

/-- The form of an encoded instruction; a step of the device has none. -/
def Instr.form : Instr → Option Form
  | .iadd h t sat d a b => some ⟨h, 0x001#10, modInt (t) (sat) (0#3), d.bits, a.bits, b.bits, rrrLow (0#8) (none), (t == .b32 || t == .i32 || t == .n32) && (!sat || t != .b32), [⟨.d, .dst⟩, ⟨.a, .src⟩, ⟨.b, .src⟩], false⟩
  | .iaddImm h t sat d a imm => some ⟨h, 0x041#10, modInt (t) (sat) (0#3), d.bits, a.bits, 0, imm, (t == .b32 || t == .i32 || t == .n32) && (!sat || t != .b32), [⟨.d, .dst⟩, ⟨.a, .src⟩], false⟩
  | .isub h t sat d a b => some ⟨h, 0x002#10, modInt (t) (sat) (0#3), d.bits, a.bits, b.bits, rrrLow (0#8) (none), (t == .b32 || t == .i32 || t == .n32) && (!sat || t != .b32), [⟨.d, .dst⟩, ⟨.a, .src⟩, ⟨.b, .src⟩], false⟩
  | .isubImm h t sat d a imm => some ⟨h, 0x042#10, modInt (t) (sat) (0#3), d.bits, a.bits, 0, imm, (t == .b32 || t == .i32 || t == .n32) && (!sat || t != .b32), [⟨.d, .dst⟩, ⟨.a, .src⟩], false⟩
  | .imul h t sat d a b => some ⟨h, 0x003#10, modInt (t) (sat) (0#3), d.bits, a.bits, b.bits, rrrLow (0#8) (none), (t == .b32 || t == .i32 || t == .n32) && (!sat || t != .b32), [⟨.d, .dst⟩, ⟨.a, .src⟩, ⟨.b, .src⟩], false⟩
  | .imulImm h t sat d a imm => some ⟨h, 0x043#10, modInt (t) (sat) (0#3), d.bits, a.bits, 0, imm, (t == .b32 || t == .i32 || t == .n32) && (!sat || t != .b32), [⟨.d, .dst⟩, ⟨.a, .src⟩], false⟩
  | .imulh h t d a b => some ⟨h, 0x004#10, modInt (t) (false) (0#3), d.bits, a.bits, b.bits, rrrLow (0#8) (none), (t == .b32 || t == .i32 || t == .n32), [⟨.d, .dst⟩, ⟨.a, .src⟩, ⟨.b, .src⟩], false⟩
  | .imulhImm h t d a imm => some ⟨h, 0x044#10, modInt (t) (false) (0#3), d.bits, a.bits, 0, imm, (t == .b32 || t == .i32 || t == .n32), [⟨.d, .dst⟩, ⟨.a, .src⟩], false⟩
  | .imad h t sat d a b c => some ⟨h, 0x005#10, modInt (t) (sat) (0#3), d.bits, a.bits, b.bits, rrrLow (c.bits) (none), (t == .b32 || t == .i32 || t == .n32) && (!sat || t != .b32), [⟨.d, .dst⟩, ⟨.a, .src⟩, ⟨.b, .src⟩, ⟨.c, .src⟩], false⟩
  | .imadImm h t sat d a b imm => some ⟨h, 0x045#10, modInt (t) (sat) (0#3), d.bits, a.bits, b.bits, imm, (t == .b32 || t == .i32 || t == .n32) && (!sat || t != .b32), [⟨.d, .dst⟩, ⟨.a, .src⟩, ⟨.b, .src⟩], false⟩
  | .imadw h t d a b c => some ⟨h, 0x006#10, modInt (t) (false) (0#3), d.bits, a.bits, b.bits, rrrLow (c.bits) (none), (t == .b32 || t == .i32 || t == .n32), [⟨.d, .dpair⟩, ⟨.a, .src⟩, ⟨.b, .src⟩, ⟨.c, .pair⟩], false⟩
  | .imadwImm h t d a b imm => some ⟨h, 0x046#10, modInt (t) (false) (0#3), d.bits, a.bits, b.bits, imm, (t == .b32 || t == .i32 || t == .n32), [⟨.d, .dpair⟩, ⟨.a, .src⟩, ⟨.b, .src⟩], false⟩
  | .iadd64 h t d a b => some ⟨h, 0x007#10, modInt (t) (false) (0#3), d.bits, a.bits, b.bits, rrrLow (0#8) (none), (t == .b64 || t == .i64 || t == .n64), [⟨.d, .dpair⟩, ⟨.a, .pair⟩, ⟨.b, .pair⟩], false⟩
  | .iadd64Imm h t d a imm => some ⟨h, 0x047#10, modInt (t) (false) (0#3), d.bits, a.bits, 0, imm, (t == .b64 || t == .i64 || t == .n64), [⟨.d, .dpair⟩, ⟨.a, .pair⟩], false⟩
  | .imad64 h t d a b c => some ⟨h, 0x008#10, modInt (t) (false) (0#3), d.bits, a.bits, b.bits, rrrLow (c.bits) (none), (t == .b64 || t == .i64 || t == .n64), [⟨.d, .dpair⟩, ⟨.a, .pair⟩, ⟨.b, .pair⟩, ⟨.c, .pair⟩], false⟩
  | .imin h t d a b => some ⟨h, 0x009#10, modInt (t) (false) (0#3), d.bits, a.bits, b.bits, rrrLow (0#8) (none), (t == .b32 || t == .i32 || t == .n32), [⟨.d, .dst⟩, ⟨.a, .src⟩, ⟨.b, .src⟩], false⟩
  | .iminImm h t d a imm => some ⟨h, 0x049#10, modInt (t) (false) (0#3), d.bits, a.bits, 0, imm, (t == .b32 || t == .i32 || t == .n32), [⟨.d, .dst⟩, ⟨.a, .src⟩], false⟩
  | .imax h t d a b => some ⟨h, 0x00A#10, modInt (t) (false) (0#3), d.bits, a.bits, b.bits, rrrLow (0#8) (none), (t == .b32 || t == .i32 || t == .n32), [⟨.d, .dst⟩, ⟨.a, .src⟩, ⟨.b, .src⟩], false⟩
  | .imaxImm h t d a imm => some ⟨h, 0x04A#10, modInt (t) (false) (0#3), d.bits, a.bits, 0, imm, (t == .b32 || t == .i32 || t == .n32), [⟨.d, .dst⟩, ⟨.a, .src⟩], false⟩
  | .iabs h sat d a => some ⟨h, 0x00B#10, modInt (.i32) (sat) (0#3), d.bits, a.bits, 0, rrrLow (0#8) (none), true, [⟨.d, .dst⟩, ⟨.a, .src⟩], false⟩
  | .ineg h t sat d a => some ⟨h, 0x00C#10, modInt (t) (sat) (0#3), d.bits, a.bits, 0, rrrLow (0#8) (none), (t == .b32 || t == .i32) && (!sat || t != .b32), [⟨.d, .dst⟩, ⟨.a, .src⟩], false⟩
  | .isad h t d a b c => some ⟨h, 0x00D#10, modInt (t) (false) (0#3), d.bits, a.bits, b.bits, rrrLow (c.bits) (none), (t == .b32 || t == .i32 || t == .n32), [⟨.d, .dst⟩, ⟨.a, .src⟩, ⟨.b, .src⟩, ⟨.c, .src⟩], false⟩
  | .isadImm h t d a b imm => some ⟨h, 0x04D#10, modInt (t) (false) (0#3), d.bits, a.bits, b.bits, imm, (t == .b32 || t == .i32 || t == .n32), [⟨.d, .dst⟩, ⟨.a, .src⟩, ⟨.b, .src⟩], false⟩
  | .and h d a b => some ⟨h, 0x00E#10, modInt (.b32) (false) (0#3), d.bits, a.bits, b.bits, rrrLow (0#8) (none), true, [⟨.d, .dst⟩, ⟨.a, .src⟩, ⟨.b, .src⟩], false⟩
  | .andImm h d a imm => some ⟨h, 0x04E#10, modInt (.b32) (false) (0#3), d.bits, a.bits, 0, imm, true, [⟨.d, .dst⟩, ⟨.a, .src⟩], false⟩
  | .or h d a b => some ⟨h, 0x00F#10, modInt (.b32) (false) (0#3), d.bits, a.bits, b.bits, rrrLow (0#8) (none), true, [⟨.d, .dst⟩, ⟨.a, .src⟩, ⟨.b, .src⟩], false⟩
  | .orImm h d a imm => some ⟨h, 0x04F#10, modInt (.b32) (false) (0#3), d.bits, a.bits, 0, imm, true, [⟨.d, .dst⟩, ⟨.a, .src⟩], false⟩
  | .xor h d a b => some ⟨h, 0x010#10, modInt (.b32) (false) (0#3), d.bits, a.bits, b.bits, rrrLow (0#8) (none), true, [⟨.d, .dst⟩, ⟨.a, .src⟩, ⟨.b, .src⟩], false⟩
  | .xorImm h d a imm => some ⟨h, 0x050#10, modInt (.b32) (false) (0#3), d.bits, a.bits, 0, imm, true, [⟨.d, .dst⟩, ⟨.a, .src⟩], false⟩
  | .andn h d a b => some ⟨h, 0x011#10, modInt (.b32) (false) (0#3), d.bits, a.bits, b.bits, rrrLow (0#8) (none), true, [⟨.d, .dst⟩, ⟨.a, .src⟩, ⟨.b, .src⟩], false⟩
  | .andnImm h d a imm => some ⟨h, 0x051#10, modInt (.b32) (false) (0#3), d.bits, a.bits, 0, imm, true, [⟨.d, .dst⟩, ⟨.a, .src⟩], false⟩
  | .not h d a => some ⟨h, 0x012#10, modInt (.b32) (false) (0#3), d.bits, a.bits, 0, rrrLow (0#8) (none), true, [⟨.d, .dst⟩, ⟨.a, .src⟩], false⟩
  | .shl h d a b => some ⟨h, 0x013#10, modInt (.b32) (false) (0#3), d.bits, a.bits, b.bits, rrrLow (0#8) (none), true, [⟨.d, .dst⟩, ⟨.a, .src⟩, ⟨.b, .src⟩], false⟩
  | .shlImm h d a imm => some ⟨h, 0x053#10, modInt (.b32) (false) (0#3), d.bits, a.bits, 0, imm, true, [⟨.d, .dst⟩, ⟨.a, .src⟩], false⟩
  | .shr h d a b => some ⟨h, 0x014#10, modInt (.b32) (false) (0#3), d.bits, a.bits, b.bits, rrrLow (0#8) (none), true, [⟨.d, .dst⟩, ⟨.a, .src⟩, ⟨.b, .src⟩], false⟩
  | .shrImm h d a imm => some ⟨h, 0x054#10, modInt (.b32) (false) (0#3), d.bits, a.bits, 0, imm, true, [⟨.d, .dst⟩, ⟨.a, .src⟩], false⟩
  | .sar h d a b => some ⟨h, 0x015#10, modInt (.b32) (false) (0#3), d.bits, a.bits, b.bits, rrrLow (0#8) (none), true, [⟨.d, .dst⟩, ⟨.a, .src⟩, ⟨.b, .src⟩], false⟩
  | .sarImm h d a imm => some ⟨h, 0x055#10, modInt (.b32) (false) (0#3), d.bits, a.bits, 0, imm, true, [⟨.d, .dst⟩, ⟨.a, .src⟩], false⟩
  | .rotl h d a b => some ⟨h, 0x016#10, modInt (.b32) (false) (0#3), d.bits, a.bits, b.bits, rrrLow (0#8) (none), true, [⟨.d, .dst⟩, ⟨.a, .src⟩, ⟨.b, .src⟩], false⟩
  | .rotlImm h d a imm => some ⟨h, 0x056#10, modInt (.b32) (false) (0#3), d.bits, a.bits, 0, imm, true, [⟨.d, .dst⟩, ⟨.a, .src⟩], false⟩
  | .popc h d a => some ⟨h, 0x019#10, modInt (.b32) (false) (0#3), d.bits, a.bits, 0, rrrLow (0#8) (none), true, [⟨.d, .dst⟩, ⟨.a, .src⟩], false⟩
  | .clz h d a => some ⟨h, 0x01A#10, modInt (.b32) (false) (0#3), d.bits, a.bits, 0, rrrLow (0#8) (none), true, [⟨.d, .dst⟩, ⟨.a, .src⟩], false⟩
  | .brev h d a => some ⟨h, 0x01B#10, modInt (.b32) (false) (0#3), d.bits, a.bits, 0, rrrLow (0#8) (none), true, [⟨.d, .dst⟩, ⟨.a, .src⟩], false⟩
  | .bfx h t d a b => some ⟨h, 0x017#10, modInt (t) (false) (0#3), d.bits, a.bits, b.bits, rrrLow (0#8) (none), (t == .b32 || t == .i32 || t == .n32), [⟨.d, .dst⟩, ⟨.a, .src⟩, ⟨.b, .src⟩], false⟩
  | .bfxImm h t d a imm => some ⟨h, 0x057#10, modInt (t) (false) (0#3), d.bits, a.bits, 0, imm, (t == .b32 || t == .i32 || t == .n32), [⟨.d, .dst⟩, ⟨.a, .src⟩], false⟩
  | .bfi h d a b c => some ⟨h, 0x018#10, modInt (.b32) (false) (0#3), d.bits, a.bits, b.bits, rrrLow (c.bits) (none), true, [⟨.d, .dst⟩, ⟨.a, .src⟩, ⟨.b, .src⟩, ⟨.c, .src⟩], false⟩
  | .bfiImm h d a b imm => some ⟨h, 0x058#10, modInt (.b32) (false) (0#3), d.bits, a.bits, b.bits, imm, true, [⟨.d, .dst⟩, ⟨.a, .src⟩, ⟨.b, .src⟩], false⟩
  | .bsel h d a b c => some ⟨h, 0x01C#10, modInt (.b32) (false) (0#3), d.bits, a.bits, b.bits, rrrLow (c.bits) (none), true, [⟨.d, .dst⟩, ⟨.a, .src⟩, ⟨.b, .src⟩, ⟨.c, .src⟩], false⟩
  | .bselImm h d a b sel => some ⟨h, 0x05C#10, modInt (.b32) (false) (0#3), d.bits, a.bits, b.bits, 0#14 ++ sel, true, [⟨.d, .dst⟩, ⟨.a, .src⟩, ⟨.b, .src⟩], false⟩
  | .icmp h cond t pd a b => some ⟨h, 0x01D#10, modInt (t) (false) (cond.code), pd.setWidth 8, a.bits, b.bits, rrrLow (0#8) (none), (t == .b32 || t == .i32 || t == .n32 || t == .b64 || t == .i64 || t == .n64), [⟨.d, .pnum⟩, ⟨.a, if t.bytes == 8 then .pair else .src⟩, ⟨.b, if t.bytes == 8 then .pair else .src⟩], false⟩
  | .isel h d p b c => some ⟨h, 0x01E#10, modInt (.b32) (false) (0#3), d.bits, (Spec.p p).bits, b.bits, rrrLow (c.bits) (none), true, [⟨.d, .dst⟩, ⟨.a, .psel⟩, ⟨.b, .src⟩, ⟨.c, .src⟩], false⟩
  | .lea h sh d a b => some ⟨h, 0x020#10, modInt (.b32) (false) (sh), d.bits, a.bits, b.bits, rrrLow (0#8) (none), true, [⟨.d, .dst⟩, ⟨.a, .src⟩, ⟨.b, .src⟩], false⟩
  | .icmpImm h cond t pd a imm => some ⟨h, 0x05D#10, modInt (t) (false) (cond.code), pd.setWidth 8, a.bits, 0, imm, (t == .b32 || t == .i32 || t == .n32 || t == .b64 || t == .i64 || t == .n64), [⟨.d, .pnum⟩, ⟨.a, if t.bytes == 8 then .pair else .src⟩], false⟩
  | .iselImm h d p b imm => some ⟨h, 0x05E#10, modInt (.b32) (false) (0#3), d.bits, (Spec.p p).bits, b.bits, imm, true, [⟨.d, .dst⟩, ⟨.a, .psel⟩, ⟨.b, .src⟩], false⟩
  | .leaImm h sh d a imm => some ⟨h, 0x060#10, modInt (.b32) (false) (sh), d.bits, a.bits, 0, imm, true, [⟨.d, .dst⟩, ⟨.a, .src⟩], false⟩
  | .mov h t d a => some ⟨h, 0x01F#10, modInt (t) (false) (0#3), d.bits, a.bits, 0, rrrLow (0#8) (none), (t == .b32 || t == .b64), [⟨.d, if t == .b64 then .dpair else .dst⟩, ⟨.a, if t == .b64 then .pair else .src⟩], false⟩
  | .movi h t d imm => some ⟨h, 0x05F#10, modInt (t) (false) (0#3), d.bits, 0, 0, imm, (t == .b32 || t == .b64), [⟨.d, if t == .b64 then .dpair else .dst⟩], false⟩
  | .fadd h r d a b => some ⟨h, 0x081#10, modFloat (r) (0#3), d.bits, a.bits, b.bits, rrrLow (0#8) (none), (r != .rs), [⟨.d, .dst⟩, ⟨.a, .src⟩, ⟨.b, .src⟩], false⟩
  | .faddImm h r d a imm => some ⟨h, 0x0C1#10, modFloat (r) (0#3), d.bits, a.bits, 0, 0#2 ++ imm, (r != .rs), [⟨.d, .dst⟩, ⟨.a, .src⟩], false⟩
  | .fsub h r d a b => some ⟨h, 0x082#10, modFloat (r) (0#3), d.bits, a.bits, b.bits, rrrLow (0#8) (none), (r != .rs), [⟨.d, .dst⟩, ⟨.a, .src⟩, ⟨.b, .src⟩], false⟩
  | .fsubImm h r d a imm => some ⟨h, 0x0C2#10, modFloat (r) (0#3), d.bits, a.bits, 0, 0#2 ++ imm, (r != .rs), [⟨.d, .dst⟩, ⟨.a, .src⟩], false⟩
  | .fmul h r d a b => some ⟨h, 0x083#10, modFloat (r) (0#3), d.bits, a.bits, b.bits, rrrLow (0#8) (none), (r != .rs), [⟨.d, .dst⟩, ⟨.a, .src⟩, ⟨.b, .src⟩], false⟩
  | .fmulImm h r d a imm => some ⟨h, 0x0C3#10, modFloat (r) (0#3), d.bits, a.bits, 0, 0#2 ++ imm, (r != .rs), [⟨.d, .dst⟩, ⟨.a, .src⟩], false⟩
  | .fscl h r d a b => some ⟨h, 0x089#10, modFloat (r) (0#3), d.bits, a.bits, b.bits, rrrLow (0#8) (none), (r != .rs), [⟨.d, .dst⟩, ⟨.a, .src⟩, ⟨.b, .src⟩], false⟩
  | .fsclImm h r d a imm => some ⟨h, 0x0C9#10, modFloat (r) (0#3), d.bits, a.bits, 0, 0#2 ++ imm, (r != .rs), [⟨.d, .dst⟩, ⟨.a, .src⟩], false⟩
  | .ffma h r d a b c => some ⟨h, 0x084#10, modFloat (r) (0#3), d.bits, a.bits, b.bits, rrrLow (c.bits) (none), (r != .rs), [⟨.d, .dst⟩, ⟨.a, .src⟩, ⟨.b, .src⟩, ⟨.c, .src⟩], false⟩
  | .ffmaImm h r d a b imm => some ⟨h, 0x0C4#10, modFloat (r) (0#3), d.bits, a.bits, b.bits, 0#2 ++ imm, (r != .rs), [⟨.d, .dst⟩, ⟨.a, .src⟩, ⟨.b, .src⟩], false⟩
  | .fmin h num d a b => some ⟨h, 0x085#10, modFloat (.rn) (if num then 1#3 else 0#3), d.bits, a.bits, b.bits, rrrLow (0#8) (none), true, [⟨.d, .dst⟩, ⟨.a, .src⟩, ⟨.b, .src⟩], false⟩
  | .fminImm h num d a imm => some ⟨h, 0x0C5#10, modFloat (.rn) (if num then 1#3 else 0#3), d.bits, a.bits, 0, 0#2 ++ imm, true, [⟨.d, .dst⟩, ⟨.a, .src⟩], false⟩
  | .fmax h num d a b => some ⟨h, 0x086#10, modFloat (.rn) (if num then 1#3 else 0#3), d.bits, a.bits, b.bits, rrrLow (0#8) (none), true, [⟨.d, .dst⟩, ⟨.a, .src⟩, ⟨.b, .src⟩], false⟩
  | .fmaxImm h num d a imm => some ⟨h, 0x0C6#10, modFloat (.rn) (if num then 1#3 else 0#3), d.bits, a.bits, 0, 0#2 ++ imm, true, [⟨.d, .dst⟩, ⟨.a, .src⟩], false⟩
  | .fcmp h cond pd a b => some ⟨h, 0x087#10, modFloat (.rn) (cond.code), pd.setWidth 8, a.bits, b.bits, rrrLow (0#8) (none), true, [⟨.d, .pnum⟩, ⟨.a, .src⟩, ⟨.b, .src⟩], false⟩
  | .fcmpImm h cond pd a imm => some ⟨h, 0x0C7#10, modFloat (.rn) (cond.code), pd.setWidth 8, a.bits, 0, 0#2 ++ imm, true, [⟨.d, .pnum⟩, ⟨.a, .src⟩], false⟩
  | .fclass h d a => some ⟨h, 0x088#10, modFloat (.rn) (0#3), d.bits, a.bits, 0, rrrLow (0#8) (none), true, [⟨.d, .dst⟩, ⟨.a, .src⟩], false⟩
  | .hadd2 h sub r d a b => some ⟨h, 0x08A#10, modFloat (r) (if sub then 1#3 else 0#3), d.bits, a.bits, b.bits, rrrLow (0#8) (none), (r != .rs), [⟨.d, .dst⟩, ⟨.a, .src⟩, ⟨.b, .src⟩], false⟩
  | .hmul2 h r d a b => some ⟨h, 0x08B#10, modFloat (r) (0#3), d.bits, a.bits, b.bits, rrrLow (0#8) (none), (r != .rs), [⟨.d, .dst⟩, ⟨.a, .src⟩, ⟨.b, .src⟩], false⟩
  | .hfma2 h r d a b c => some ⟨h, 0x08C#10, modFloat (r) (0#3), d.bits, a.bits, b.bits, rrrLow (c.bits) (none), (r != .rs), [⟨.d, .dst⟩, ⟨.a, .src⟩, ⟨.b, .src⟩, ⟨.c, .src⟩], false⟩
  | .hadd2Imm h sub r d a imm => some ⟨h, 0x0CA#10, modFloat (r) (if sub then 1#3 else 0#3), d.bits, a.bits, 0, 0#2 ++ imm, (r != .rs), [⟨.d, .dst⟩, ⟨.a, .src⟩], false⟩
  | .hmul2Imm h r d a imm => some ⟨h, 0x0CB#10, modFloat (r) (0#3), d.bits, a.bits, 0, 0#2 ++ imm, (r != .rs), [⟨.d, .dst⟩, ⟨.a, .src⟩], false⟩
  | .hfma2Imm h r d a b imm => some ⟨h, 0x0CC#10, modFloat (r) (0#3), d.bits, a.bits, b.bits, 0#2 ++ imm, (r != .rs), [⟨.d, .dst⟩, ⟨.a, .src⟩, ⟨.b, .src⟩], false⟩
  | .badd2 h sub r d a b => some ⟨h, 0x08D#10, modFloat (r) (if sub then 1#3 else 0#3), d.bits, a.bits, b.bits, rrrLow (0#8) (none), (r != .rs), [⟨.d, .dst⟩, ⟨.a, .src⟩, ⟨.b, .src⟩], false⟩
  | .bmul2 h r d a b => some ⟨h, 0x08E#10, modFloat (r) (0#3), d.bits, a.bits, b.bits, rrrLow (0#8) (none), (r != .rs), [⟨.d, .dst⟩, ⟨.a, .src⟩, ⟨.b, .src⟩], false⟩
  | .bfma2 h r d a b c => some ⟨h, 0x08F#10, modFloat (r) (0#3), d.bits, a.bits, b.bits, rrrLow (c.bits) (none), (r != .rs), [⟨.d, .dst⟩, ⟨.a, .src⟩, ⟨.b, .src⟩, ⟨.c, .src⟩], false⟩
  | .badd2Imm h sub r d a imm => some ⟨h, 0x0CD#10, modFloat (r) (if sub then 1#3 else 0#3), d.bits, a.bits, 0, 0#2 ++ imm, (r != .rs), [⟨.d, .dst⟩, ⟨.a, .src⟩], false⟩
  | .bmul2Imm h r d a imm => some ⟨h, 0x0CE#10, modFloat (r) (0#3), d.bits, a.bits, 0, 0#2 ++ imm, (r != .rs), [⟨.d, .dst⟩, ⟨.a, .src⟩], false⟩
  | .bfma2Imm h r d a b imm => some ⟨h, 0x0CF#10, modFloat (r) (0#3), d.bits, a.bits, b.bits, 0#2 ++ imm, (r != .rs), [⟨.d, .dst⟩, ⟨.a, .src⟩, ⟨.b, .src⟩], false⟩
  | .hmnx2 h var d a b => some ⟨h, 0x090#10, modFloat (.rn) (var.code), d.bits, a.bits, b.bits, rrrLow (0#8) (none), true, [⟨.d, .dst⟩, ⟨.a, .src⟩, ⟨.b, .src⟩], false⟩
  | .hmnx2Imm h var d a imm => some ⟨h, 0x0D0#10, modFloat (.rn) (var.code), d.bits, a.bits, 0, 0#2 ++ imm, true, [⟨.d, .dst⟩, ⟨.a, .src⟩], false⟩
  | .f2i h t r d a => some ⟨h, 0x101#10, modConv (t) (false) (r), d.bits, a.bits, 0, rrrLow (0#8) (none), (t == .i32 || t == .n32 || t == .i64 || t == .n64 || t == .i8 || t == .n8 || t == .i16 || t == .n16) && r != .rs, [⟨.d, if t.bytes == 8 then .dpair else .dst⟩, ⟨.a, .src⟩], false⟩
  | .f2iFh h t r d a => some ⟨h, 0x102#10, modConv (t) (false) (r), d.bits, a.bits, 0, rrrLow (0#8) (none), (t == .i32 || t == .n32 || t == .i64 || t == .n64 || t == .i8 || t == .n8 || t == .i16 || t == .n16) && r != .rs, [⟨.d, if t.bytes == 8 then .dpair else .dst⟩, ⟨.a, .src⟩], false⟩
  | .f2iFb h t r d a => some ⟨h, 0x103#10, modConv (t) (false) (r), d.bits, a.bits, 0, rrrLow (0#8) (none), (t == .i32 || t == .n32 || t == .i64 || t == .n64 || t == .i8 || t == .n8 || t == .i16 || t == .n16) && r != .rs, [⟨.d, if t.bytes == 8 then .dpair else .dst⟩, ⟨.a, .src⟩], false⟩
  | .i2f h t r d a => some ⟨h, 0x104#10, modConv (t) (false) (r), d.bits, a.bits, 0, rrrLow (0#8) (none), (t == .f32 || t == .f16 || t == .bf16) && r != .rs, [⟨.d, .dst⟩, ⟨.a, .src⟩], false⟩
  | .i2fU h t r d a => some ⟨h, 0x105#10, modConv (t) (false) (r), d.bits, a.bits, 0, rrrLow (0#8) (none), (t == .f32 || t == .f16 || t == .bf16) && r != .rs, [⟨.d, .dst⟩, ⟨.a, .src⟩], false⟩
  | .i2fL h t r d a => some ⟨h, 0x106#10, modConv (t) (false) (r), d.bits, a.bits, 0, rrrLow (0#8) (none), (t == .f32 || t == .f16 || t == .bf16) && r != .rs, [⟨.d, .dst⟩, ⟨.a, .pair⟩], false⟩
  | .i2fUl h t r d a => some ⟨h, 0x107#10, modConv (t) (false) (r), d.bits, a.bits, 0, rrrLow (0#8) (none), (t == .f32 || t == .f16 || t == .bf16) && r != .rs, [⟨.d, .dst⟩, ⟨.a, .pair⟩], false⟩
  | .fcvt h t r d a => some ⟨h, 0x108#10, modConv (t) (false) (r), d.bits, a.bits, 0, rrrLow (0#8) (none), (t == .f32 || t == .f16 || t == .bf16) && t != .f32 && (r != .rs || t == .bf16), [⟨.d, .dst⟩, ⟨.a, .src⟩], false⟩
  | .fcvtFh h t r d a => some ⟨h, 0x109#10, modConv (t) (false) (r), d.bits, a.bits, 0, rrrLow (0#8) (none), (t == .f32 || t == .f16 || t == .bf16) && t != .f16 && (r != .rs || t == .bf16), [⟨.d, .dst⟩, ⟨.a, .src⟩], false⟩
  | .fcvtFb h t r d a => some ⟨h, 0x10A#10, modConv (t) (false) (r), d.bits, a.bits, 0, rrrLow (0#8) (none), (t == .f32 || t == .f16 || t == .bf16) && t != .bf16 && (r != .rs || t == .bf16), [⟨.d, .dst⟩, ⟨.a, .src⟩], false⟩
  | .f2f8E4m3 h sat r d a b c => some ⟨h, 0x10B#10, modConv (.b32) (sat) (r), d.bits, a.bits, b.bits, rrrLow (c.bits) (none), true, [⟨.d, .dst⟩, ⟨.a, .src⟩, ⟨.b, .src⟩, ⟨.c, .src⟩], false⟩
  | .f2f8E5m2 h sat r d a b c => some ⟨h, 0x10C#10, modConv (.b32) (sat) (r), d.bits, a.bits, b.bits, rrrLow (c.bits) (none), true, [⟨.d, .dst⟩, ⟨.a, .src⟩, ⟨.b, .src⟩, ⟨.c, .src⟩], false⟩
  | .f82fE4m3 h r d a b c => some ⟨h, 0x10D#10, modConv (.b32) (false) (r), d.bits, a.bits, b.bits, rrrLow (c.bits) (none), (r != .rs), [⟨.d, .dst⟩, ⟨.a, .src⟩, ⟨.b, .src⟩, ⟨.c, .src⟩], false⟩
  | .f82fE5m2 h r d a b c => some ⟨h, 0x10E#10, modConv (.b32) (false) (r), d.bits, a.bits, b.bits, rrrLow (c.bits) (none), (r != .rs), [⟨.d, .dst⟩, ⟨.a, .src⟩, ⟨.b, .src⟩, ⟨.c, .src⟩], false⟩
  | .frnd h r d a => some ⟨h, 0x10F#10, modConv (.f32) (false) (r), d.bits, a.bits, 0, rrrLow (0#8) (none), (r != .rs), [⟨.d, .dst⟩, ⟨.a, .src⟩], false⟩
  | .frcp h d a => some ⟨h, 0x110#10, modConv (.f32) (false) (.rn), d.bits, a.bits, 0, rrrLow (0#8) (none), true, [⟨.d, .dst⟩, ⟨.a, .src⟩], false⟩
  | .frsq h d a => some ⟨h, 0x111#10, modConv (.f32) (false) (.rn), d.bits, a.bits, 0, rrrLow (0#8) (none), true, [⟨.d, .dst⟩, ⟨.a, .src⟩], false⟩
  | .fsqrt h d a => some ⟨h, 0x112#10, modConv (.f32) (false) (.rn), d.bits, a.bits, 0, rrrLow (0#8) (none), true, [⟨.d, .dst⟩, ⟨.a, .src⟩], false⟩
  | .fexp2 h d a => some ⟨h, 0x113#10, modConv (.f32) (false) (.rn), d.bits, a.bits, 0, rrrLow (0#8) (none), true, [⟨.d, .dst⟩, ⟨.a, .src⟩], false⟩
  | .flog2 h d a => some ⟨h, 0x114#10, modConv (.f32) (false) (.rn), d.bits, a.bits, 0, rrrLow (0#8) (none), true, [⟨.d, .dst⟩, ⟨.a, .src⟩], false⟩
  | .fsin h d a => some ⟨h, 0x115#10, modConv (.f32) (false) (.rn), d.bits, a.bits, 0, rrrLow (0#8) (none), true, [⟨.d, .dst⟩, ⟨.a, .src⟩], false⟩
  | .fcos h d a => some ⟨h, 0x116#10, modConv (.f32) (false) (.rn), d.bits, a.bits, 0, rrrLow (0#8) (none), true, [⟨.d, .dst⟩, ⟨.a, .src⟩], false⟩
  | .ftanh h d a => some ⟨h, 0x117#10, modConv (.f32) (false) (.rn), d.bits, a.bits, 0, rrrLow (0#8) (none), true, [⟨.d, .dst⟩, ⟨.a, .src⟩], false⟩
  | .pset h op pd a b => some ⟨h, 0x181#10, modPred (.b32) (op.code), pd.setWidth 8, a.bits, b.bits, rrrLow (0#8) (none), true, [⟨.d, .pnum⟩, ⟨.a, .src⟩, ⟨.b, .src⟩], false⟩
  | .pmov h bit pd a => some ⟨h, 0x182#10, modPred (.b32) (if bit then 1#4 else 0#4), pd.setWidth 8, a.bits, 0, rrrLow (0#8) (none), true, [⟨.d, .pnum⟩, ⟨.a, .src⟩], false⟩
  | .vote h var d pe a p => some ⟨h, 0x183#10, modPred (.b32) (var.code), d.bits, a.bits, (Spec.p p).bits, rrrLow (0#8) (pe), true, [⟨.d, .dst⟩, ⟨.a, .src⟩, ⟨.b, .psel⟩], false⟩
  | .shfl h t var d pe a b c => some ⟨h, 0x184#10, modPred (t) (var.code), d.bits, a.bits, b.bits, rrrLow (c.bits) (pe), (t == .b32 || t == .b64), [⟨.d, if t == .b64 then .dpair else .dst⟩, ⟨.a, .src⟩, ⟨.b, if t == .b64 then .pair else .src⟩, ⟨.c, .src⟩], false⟩
  | .bcast h t d pe a b c => some ⟨h, 0x185#10, modPred (t) (0#4), d.bits, a.bits, b.bits, rrrLow (c.bits) (pe), (t == .b32 || t == .b64), [⟨.d, if t == .b64 then .dpair else .dst⟩, ⟨.a, .src⟩, ⟨.b, if t == .b64 then .pair else .src⟩, ⟨.c, .src⟩], false⟩
  | .redx h t op d pe a b => some ⟨h, 0x186#10, modPred (t) (0#1 ++ op.code), d.bits, a.bits, b.bits, rrrLow (0#8) (pe), (t == .b32 || t == .i32 || t == .n32 || t == .f32 && (op == .add || op == .min || op == .max)), [⟨.d, .dst⟩, ⟨.a, .src⟩, ⟨.b, .src⟩], false⟩
  | .scanx h t excl op d pe a b => some ⟨h, 0x187#10, modPred (t) (BitVec.ofBool excl ++ op.code), d.bits, a.bits, b.bits, rrrLow (0#8) (pe), (t == .b32 || t == .i32 || t == .n32 || t == .f32 && (op == .add || op == .min || op == .max)), [⟨.d, .dst⟩, ⟨.a, .src⟩, ⟨.b, .src⟩], false⟩
  | .matchx h t d pe a b => some ⟨h, 0x188#10, modPred (t) (0#4), d.bits, a.bits, b.bits, rrrLow (0#8) (pe), (t == .b32 || t == .b64), [⟨.d, .dst⟩, ⟨.a, .src⟩, ⟨.b, if t == .b64 then .pair else .src⟩], false⟩
  | .shq h d a => some ⟨h, 0x189#10, 0, d.bits, a.bits, 0, rrrLow (0#8) (none), true, [⟨.d, .dst⟩, ⟨.a, .src⟩], false⟩
  | .sha h a shape => some ⟨h, 0x18A#10, 0, 0, a.bits, 0, 0#32 ++ shape, (shape != 3#2), [⟨.a, .src⟩], false⟩
  | .shf h d a shape => some ⟨h, 0x18B#10, 0, d.bits, a.bits, 0, 0#32 ++ shape, (shape != 3#2), [⟨.d, .dst⟩, ⟨.a, .src⟩], false⟩
  | .shrsv h pd n => some ⟨h, 0x18C#10, 0, pd.setWidth 8, 0, 0, 0#26 ++ n, (n.toNat ≤ 128), [⟨.d, .pnum⟩], false⟩
  | .bra h off => some ⟨h, 0x201#10, 0, 0, 0, 0, off, true, [], false⟩
  | .brx h a => some ⟨h, 0x202#10, 0, 0, a.bits, 0, rrrLow (0#8) (none), true, [⟨.a, .pair⟩], false⟩
  | .call h d off => some ⟨h, 0x203#10, 0, d.bits, 0, 0, off, true, [⟨.d, .vpair⟩], false⟩
  | .callx h d a => some ⟨h, 0x204#10, 0, d.bits, a.bits, 0, rrrLow (0#8) (none), true, [⟨.d, .vpair⟩, ⟨.a, .pair⟩], false⟩
  | .ret h a => some ⟨h, 0x205#10, 0, 0, a.bits, 0, rrrLow (0#8) (none), true, [⟨.a, .pair⟩], false⟩
  | .join h a => some ⟨h, 0x206#10, 0, 0, a.bits, 0, rrrLow (0#8) (none), true, [⟨.a, .src⟩], false⟩
  | .joinImm h m => some ⟨h, 0x246#10, 0, 0, 0, 0, 0#2 ++ m, true, [], false⟩
  | .exit h => some ⟨h, 0x207#10, 0, 0, 0, 0, rrrLow (0#8) (none), true, [], false⟩
  | .exitSucc h a => some ⟨h, 0x207#10, 1, 0, a.bits, 0, rrrLow (0#8) (none), true, [⟨.a, .pair⟩], false⟩
  | .yield h => some ⟨h, 0x208#10, 0, 0, 0, 0, rrrLow (0#8) (none), true, [], false⟩
  | .sleept h a => some ⟨h, 0x209#10, 0, 0, a.bits, 0, rrrLow (0#8) (none), true, [⟨.a, .pair⟩], false⟩
  | .nop h => some ⟨h, 0x20A#10, 0, 0, 0, 0, rrrLow (0#8) (none), true, [], false⟩
  | .trap h code => some ⟨h, 0x20B#10, 0, 0, 0, 0, 0#2 ++ code, true, [], false⟩
  | .brkpt h code => some ⟨h, 0x20C#10, 0, 0, 0, 0, 0#2 ++ code, true, [], false⟩
  | .ld h scope ord bc t d m disp => some ⟨h, 0x281#10, modMem (scope) (ord) (bc), d.bits, m.a.bits, m.b.bits, memLow m disp t, (ord == .rlx || ord == .acq || ord == .sc) && (m.space != .priv || (scope == .thread && ord == .rlx)) && (m.space != .priv || !bc) && (t.bytes != 0 && t != .f32 && t != .f16 && t != .bf16), [⟨.d, .dstOf t⟩, ⟨.a, if m.space == .priv then .zonly else .quad⟩, ⟨.b, .src⟩], true⟩
  | .st h scope ord t d m disp => some ⟨h, 0x282#10, modMem (scope) (ord) (false), d.bits, m.a.bits, m.b.bits, memLow m disp t, (ord == .rlx || ord == .rel || ord == .sc) && (m.space != .priv || (scope == .thread && ord == .rlx)) && (t.bytes != 0 && t != .f32 && t != .f16 && t != .bf16), [⟨.d, .srcOf t⟩, ⟨.a, if m.space == .priv then .zonly else .quad⟩, ⟨.b, .src⟩], true⟩
  | .ldc h scope ord bc d m disp => some ⟨h, 0x283#10, modMem (scope) (ord) (bc), d.bits, m.a.bits, m.b.bits, memLow m disp .b128, (ord == .rlx || ord == .acq || ord == .sc) && m.space != .priv, [⟨.d, .quad⟩, ⟨.a, .quad⟩, ⟨.b, .src⟩], true⟩
  | .stc h scope ord d m disp => some ⟨h, 0x284#10, modMem (scope) (ord) (false), d.bits, m.a.bits, m.b.bits, memLow m disp .b128, (ord == .rlx || ord == .rel || ord == .sc) && m.space != .priv, [⟨.d, .quad⟩, ⟨.a, .quad⟩, ⟨.b, .src⟩], true⟩
  | .fence h scope ord => some ⟨h, 0x285#10, modMem (scope) (ord) (false), 0, 0, 0, 0, (ord != .rlx), [], false⟩
  | .pin h pd m disp => some ⟨h, 0x287#10, 0, pd.setWidth 8, m.a.bits, m.b.bits, memLow m disp .b32, (m.space == .glob), [⟨.d, .pnum⟩, ⟨.a, .quad⟩, ⟨.b, .src⟩], false⟩
  | .unpin h m disp => some ⟨h, 0x288#10, 0, 0, m.a.bits, m.b.bits, memLow m disp .b32, (m.space == .glob), [⟨.a, .quad⟩, ⟨.b, .src⟩], false⟩
  | .pref h m disp => some ⟨h, 0x289#10, 0, 0, m.a.bits, m.b.bits, memLow m disp .b32, (m.space == .glob), [⟨.a, .quad⟩, ⟨.b, .src⟩], true⟩
  | .icinv h m disp => some ⟨h, 0x28A#10, 0, 0, m.a.bits, m.b.bits, memLow m disp .b32, (m.space == .glob), [⟨.a, .quad⟩, ⟨.b, .src⟩], false⟩
  | .capnar h fmt pitch l d pe a b c => some ⟨h, 0x28B#10, modCapnar fmt pitch l, d.bits, a.bits, b.bits, pitch.getD 0#16 ++ c.bits ++ 0#6 ++ peBits pe, true, [⟨.d, .quad⟩, ⟨.a, .quad⟩, ⟨.b, if l then .vpair else .src⟩, ⟨.c, if l then .vpair else .src⟩], false⟩
  | .capperm h d a mask => some ⟨h, 0x28C#10, 0, d.bits, a.bits, 0, 0#26 ++ mask, true, [⟨.d, .quad⟩, ⟨.a, .quad⟩], false⟩
  | .capget h sel d a => some ⟨h, 0x28D#10, 0#5 ++ sel, d.bits, a.bits, 0, rrrLow (0#8) (none), true, [⟨.d, .dst⟩, ⟨.a, .quad⟩], false⟩
  | .captst h need pd a b c => some ⟨h, 0x28E#10, 0#2 ++ need, pd.setWidth 8, a.bits, b.bits, rrrLow (c.bits) (none), true, [⟨.d, .pnum⟩, ⟨.a, .quad⟩, ⟨.b, .src⟩, ⟨.c, .src⟩], false⟩
  | .waitmem h scope ord cond t d m disp => some ⟨h, 0x290#10 + cond.code.setWidth 10, modMem (scope) (ord) (false), d.bits, m.a.bits, m.b.bits, memLow m disp t, (t == .b32 || t == .i32 || t == .n32 || t == .b64 || t == .i64 || t == .n64) && m.space != .priv && (ord == .rlx || ord == .acq), [⟨.d, .srcOf t⟩, ⟨.a, .quad⟩, ⟨.b, .src⟩], true⟩
  | .atom h scope ord op t d m disp c => some ⟨h, 0x2A0#10 + op.code.setWidth 10, modMem (scope) (ord) (false), d.bits, m.a.bits, m.b.bits, memCLow m disp c t, atomTy op t && m.space != .priv, [⟨.d, if t.bytes == 8 then .dpair else .dst⟩, ⟨.a, .quad⟩, ⟨.b, .src⟩, ⟨.c, .atomC op t⟩], true⟩
  | .red h scope ord op t d m disp => some ⟨h, 0x2C0#10 + op.code.setWidth 10, modMem (scope) (ord) (false), d.bits, m.a.bits, m.b.bits, memLow m disp t, atomTy op t && op != .exch && op != .cas && m.space != .priv && (ord == .rlx || ord == .rel || ord == .sc), [⟨.d, .srcOf t⟩, ⟨.a, .quad⟩, ⟨.b, .src⟩], true⟩
  | .cpy h scope src dst m => some ⟨h, 0x301#10, modEng (scope) (dst.code ++ src.code), 0, m.a.bits, m.b.bits, engLow (0#8) (0#8) (0#8) m, scopeOk scope, [⟨.a, .quad⟩, ⟨.b, .src⟩], true⟩
  | .cpyg h scope src dst m e => some ⟨h, 0x302#10, modEng (scope) (dst.code ++ src.code), 0, m.a.bits, m.b.bits, engLow (e.bits) (0#8) (0#8) m, scopeOk scope, [⟨.a, .quad⟩, ⟨.b, .src⟩, ⟨.e, .src⟩], true⟩
  | .coll h scope src dst m e => some ⟨h, 0x303#10, modEng (scope) (dst.code ++ src.code), 0, m.a.bits, m.b.bits, engLow (e.bits) (0#8) (0#8) m, scopeOk scope && dst != .dws, [⟨.a, .quad⟩, ⟨.b, .src⟩, ⟨.e, .quad⟩], true⟩
  | .mma h scope bf acc bar slot m e f => some ⟨h, 0x304#10, modEng (scope) (barVar bar ++ acc.code ++ BitVec.ofBool bf), slot.setWidth 8, m.a.bits, m.b.bits, engLow (e.bits) (if bf then 0#8 else f.bits) ((barBits bar)) m, scopeOk scope && (!bf || f == .v 0), [⟨.d, .slotOf acc⟩, ⟨.a, .quad⟩, ⟨.b, .src⟩, ⟨.e, .src⟩] ++ (if bf then [] else [⟨.f, .quad⟩]) ++ barOps bar, true⟩
  | .mdrain h scope fmt t bar slot a r acc => some ⟨h, 0x305#10, modEng (scope) (barVar bar ++ BitVec.ofBool t ++ fmt.code), slot.setWidth 8, a.bits, 0, engLow (r.code ++ acc.code ++ 0#3) 0#8 (barBits bar) ⟨.v 0, .v 0, 0, 0⟩, scopeOk scope && (r != .rs || fmt == .bf16 || fmt == .e4m3), [⟨.d, .slotOf acc⟩, ⟨.a, if t then .quad28 else if fmt == .e4m3 then .quads30 else .quad30⟩] ++ barOps bar, true⟩
  | .mzero h scope fmt bar slot => some ⟨h, 0x306#10, modEng (scope) (barVar bar ++ 0#1 ++ fmt.code), slot.setWidth 8, 0, 0, engLow 0#8 0#8 (barBits bar) ⟨.v 0, .v 0, 0, 0⟩, scopeOk scope, [⟨.d, .slotOf fmt⟩] ++ barOps bar, false⟩
  | .wtload h scope src bar tbl m => some ⟨h, 0x307#10, modEng (scope) (barVar bar ++ 0#1 ++ src.code), tbl.setWidth 8, m.a.bits, m.b.bits, engLow (0#8) (0#8) ((barBits bar)) m, scopeOk scope, [⟨.d, .pnum⟩, ⟨.a, .quad⟩, ⟨.b, .src⟩] ++ barOps bar, true⟩
  | .widx h a b => some ⟨h, 0x308#10, 0, 0, a.bits, b.bits, rrrLow (0#8) (none), true, [⟨.a, .src⟩, ⟨.b, .pair⟩], false⟩
  | .barinit h sp m e f => some ⟨h, 0x309#10, modEng (.thread) (BitVec.ofBool sp ++ 0#3), 0, m.a.bits, m.b.bits, engLow (e.bits) (f.bits) (0#8) m, true, [⟨.a, .quad⟩, ⟨.b, .src⟩, ⟨.e, .src⟩, ⟨.f, .src⟩], false⟩
  | .bararr h scope sp n m => some ⟨h, 0x30A#10, modEng (scope) (BitVec.ofBool sp ++ 0#2 ++ n.var), 0, m.a.bits, m.b.bits, n.bits ++ m.sh ++ m.disp, scopeOk scope, [⟨.a, .quad⟩, ⟨.b, .src⟩] ++ n.ops, false⟩
  | .barwait h sp m e => some ⟨h, 0x30B#10, modEng (.thread) (BitVec.ofBool sp ++ 0#3), 0, m.a.bits, m.b.bits, engLow (e.bits) (0#8) (0#8) m, true, [⟨.a, .quad⟩, ⟨.b, .src⟩, ⟨.e, .src⟩], false⟩
  | .bartst h sp d m => some ⟨h, 0x30C#10, modEng (.thread) (BitVec.ofBool sp ++ 0#3), d.bits, m.a.bits, m.b.bits, engLow (0#8) (0#8) (0#8) m, true, [⟨.d, .dst⟩, ⟨.a, .quad⟩, ⟨.b, .src⟩], false⟩
  | .rngget h full d pe m => some ⟨h, 0x30E#10, modEng (.thread) (0#3 ++ BitVec.ofBool full), d.bits, m.a.bits, m.b.bits, engLow (pe.setWidth 8) (0#8) (0#8) m, true, [⟨.d, .dst⟩, ⟨.a, .quad⟩, ⟨.b, .src⟩, ⟨.e, .pnum⟩], false⟩
  | .rngput h full m e => some ⟨h, 0x30F#10, modEng (.thread) (0#3 ++ BitVec.ofBool full), 0, m.a.bits, m.b.bits, engLow (e.bits) (0#8) (0#8) m, true, [⟨.a, .quad⟩, ⟨.b, .src⟩, ⟨.e, .src⟩], false⟩
  | .rngclose h m => some ⟨h, 0x310#10, 0, 0, m.a.bits, m.b.bits, engLow (0#8) (0#8) (0#8) m, true, [⟨.a, .quad⟩, ⟨.b, .src⟩], false⟩
  | .waitcnt h cls n => some ⟨h, 0x30D#10, modEng (.thread) (0#2 ++ cls.code), 0, 0, 0, 0#28 ++ n, true, [], false⟩
  | .tbar h => some ⟨h, 0x311#10, 0, 0, 0, 0, rrrLow (0#8) (none), true, [], false⟩
  | .tspawn h a b => some ⟨h, 0x312#10, 0, 0, a.bits, b.bits, rrrLow (0#8) (none), true, [⟨.a, .pair⟩, ⟨.b, .src⟩], false⟩
  | .evsig h a name => some ⟨h, 0x313#10, 0, 0, a.bits, 0, 0#18 ++ name, (name != 0#16), [⟨.a, .src⟩], false⟩
  | .evwait h a name => some ⟨h, 0x314#10, 0, 0, a.bits, 0, 0#18 ++ name, (name != 0#16), [⟨.a, .src⟩], false⟩
  | .rdtime h d => some ⟨h, 0x315#10, 0, d.bits, 0, 0, rrrLow (0#8) (none), true, [⟨.d, .dpair⟩], false⟩
  | .rdid h sel d => some ⟨h, 0x316#10, modEng (.thread) (sel), d.bits, 0, 0, rrrLow (0#8) (none), (sel.toNat < 12), [⟨.d, .dst⟩], false⟩
  | .rdcnt h sel d => some ⟨h, 0x317#10, modEng (.thread) (0#1 ++ sel), d.bits, 0, 0, rrrLow (0#8) (none), (sel.toNat < 6), [⟨.d, if sel == 4#3 then .dpair else .dst⟩], false⟩
  | .hvlend h pd m e => some ⟨h, 0x318#10, 0, pd.setWidth 8, m.a.bits, m.b.bits, engLow (e.bits) (0#8) (0#8) m, true, [⟨.d, .pnum⟩, ⟨.a, .quad⟩, ⟨.b, .src⟩, ⟨.e, .src⟩], false⟩
  | .hvstat h d => some ⟨h, 0x319#10, 0, d.bits, 0, 0, rrrLow (0#8) (none), true, [⟨.d, .dst⟩], false⟩
  | .xret h => some ⟨h, 0x381#10, 0, 0, 0, 0, rrrLow (0#8) (none), true, [], false⟩
  | .mfx h reg d => some ⟨h, 0x382#10, 0, d.bits, 0, 0, 0#22 ++ reg, sysReg reg, [⟨.d, if sysReg64 reg then .dpair else .dst⟩], false⟩
  | .mtx h reg a => some ⟨h, 0x383#10, 0, 0, a.bits, 0, 0#22 ++ reg, sysReg reg && !(reg == 1#12 || reg == 3#12 || reg == 4#12), [⟨.a, if sysReg64 reg then .pair else .src⟩], false⟩
  | .tlbinv h ctx a b c => some ⟨h, 0x384#10, if ctx then 1#8 else 0#8, 0, a.bits, b.bits, rrrLow (c.bits) (none), true, [⟨.a, if ctx then .zonly else .pair⟩, ⟨.b, if ctx then .zonly else .pair⟩, ⟨.c, .src⟩], false⟩
  | .caproot h d a => some ⟨h, 0x385#10, 0, d.bits, a.bits, 0, rrrLow (0#8) (none), true, [⟨.d, .quad⟩, ⟨.a, .quad⟩], false⟩
  | .ckpt h => some ⟨h, 0x386#10, 0, 0, 0, 0, rrrLow (0#8) (none), true, [], false⟩
  | .halt h => some ⟨h, 0x387#10, 0, 0, 0, 0, rrrLow (0#8) (none), true, [], false⟩
  | .crossLaneComplete _ _ => none
  | .joinRelease _ _ => none
  | .yieldExpiry _ _ => none
  | .sleeptRelease _ _ => none
  | .waitmemSatisfied _ _ => none
  | .waitmemPoll _ _ => none
  | .storePerform _ _ _ => none
  | .atomicPerform _ _ _ => none
  | .loadReturn _ _ => none
  | .storeAcknowledge _ _ => none
  | .remoteLoadBlock _ _ => none
  | .pageWalk _ _ _ _ => none
  | .targetGatedRetry _ _ => none
  | .engineOpStart _ _ => none
  | .matrixGrant _ => none
  | .collectiveContribution _ _ _ _ _ _ => none
  | .engineOpComplete _ => none
  | .barwaitRelease _ _ => none
  | .rnggetWake _ _ => none
  | .waitcntRelease _ _ => none
  | .tbarComplete _ _ => none
  | .evwaitRelease _ _ => none
  | .runFetch _ _ => none
  | .turnArbitration _ _ => none
  | .warpLeaveSlot _ => none
  | .eventRecordApply _ => none
  | .schedulingRound _ => none
  | .evictionSaveComplete _ => none
  | .harvestPlacement _ _ => none
  | .harvestRevocation _ _ => none
  | .checkpointStart _ => none
  | .checkpointCommit _ => none
  | .checkpointFailure _ => none
  | .sliceEndRollback _ _ _ => none
  | .powerMeasurement _ _ => none
  | .railChange _ => none
  | .thermalLimit _ => none
  | .thermalStop _ => none
  | .clusterRetirement _ => none
  | .channelRetirement _ => none
  | .timeCorrection _ _ _ => none
  | .timeSourceLost _ => none
  | .scrubUnit _ => none
  | .powerUp => none
  | .reset => none
  | .ident => none
  | .settime _ => none
  | .loadseg _ _ _ => none
  | .verify _ => none
  | .start => none
  | .attest _ => none
  | .partitionCreate _ => none
  | .partitionDestroy _ => none
  | .memoryRelease _ _ => none
  | .ctxset _ _ _ _ _ => none
  | .ctxdel _ _ => none
  | .frontEndRangeSet _ _ _ => none
  | .traceBufferSet _ _ _ _ => none
  | .debugModeSet _ _ => none
  | .debugRelease _ _ _ _ => none
  | .railVote _ _ _ => none
  | .feNop _ => none
  | .launch _ => none
  | .grant _ => none
  | .feEvsig _ => none
  | .evreset _ => none
  | .cntread _ => none
  | .drain _ => none
  | .xtload _ => none
  | .tailWrite _ _ => none
  | .qenWrite _ _ => none
  | .cheadWrite _ _ => none
  | .pwrcapWrite _ => none
  | .registerWrite _ _ => none
  | .hostBar2Access _ _ _ _ => none
  | .loadServed _ _ _ => none
  | .releaseWaitElapsed _ _ => none
  | .powerGate _ _ => none
  | .fabricPortDown _ _ => none
  | .belowJunctionLimit _ => none
  | .powerRemoved => none

/-- The hints of the word are ones its instruction takes: CH (13 R275). -/
def Form.chOk (f : Form) : Bool := if f.hint then f.hdr.ch.toNat < 6 else f.hdr.ch == 0#3

/-- Each hold bit stands for a position that is read as a specifier (13 R285). -/
def Form.holdOk (f : Form) : Bool :=
  let reads := fun p => f.ops.any (fun o => o.pos == p && o.kind.held)
  (!f.hdr.hold.getLsbD 2 || reads .a) && (!f.hdr.hold.getLsbD 1 || reads .b) && (!f.hdr.hold.getLsbD 0 || reads .c)

/-- Every position holds a specifier of the kind it accepts (13 R266, R267). -/
def Form.specsOk (f : Form) : Bool := f.ops.all (fun o => o.kind.accepts (f.field o.pos))

/-- An instruction of Karah 3.0: its codes, specifiers and hints pass the tests of 22 R423. A step of the device has
no word and is well formed as it stands. -/
def Instr.wf (i : Instr) : Bool :=
  match i.form with
  | none => true
  | some f => f.codes && f.specsOk && f.chOk && f.holdOk

/-- The instruction carries a word; the others are steps of the device. -/
def Instr.encoded (i : Instr) : Bool := i.form.isSome

end Sys2Proof
end

