-- ==== Sys2Proof/Decode.lean ====
section
/-! DEFINITION. Decoding a word (13 R262-R286) with the report of the first failing test of 22 R423, and the encoder. -/

namespace Sys2Proof

/-- The fields of a word (13 R262). -/
structure Raw where
  opc : BitVec 10
  mod : BitVec 8
  d : BitVec 8
  a : BitVec 8
  b : BitVec 8
  low : BitVec 34
  hdr : Hdr

/-- A guard field (13 R262). -/
def guardOf (x : BitVec 4) : Guard := ⟨x.getLsbD 3, x.setWidth 3⟩

/-- The word taken apart. -/
def Raw.of (w : Insn) : Raw where
  opc := w.extractLsb' 86 10
  mod := w.extractLsb' 78 8
  d := w.extractLsb' 70 8
  a := w.extractLsb' 62 8
  b := w.extractLsb' 54 8
  low := w.extractLsb' 20 34
  hdr := ⟨guardOf (w.extractLsb' 16 4), guardOf (w.extractLsb' 12 4), w.extractLsb' 8 4, w.getLsbD 7, w.getLsbD 6,
    w.extractLsb' 3 3, w.setWidth 3⟩

/-- The specifier of a code; a reserved code, which `specValid` refuses, gives z. -/
def Spec.ofBits (x : BitVec 8) : Spec :=
  if x.toNat < 0x80 then .v (x.setWidth 7)
  else if x.toNat < 0x88 then .k (x.setWidth 3)
  else if x.toNat < 0x90 then .p (x.setWidth 3)
  else match x.toNat with
    | 0xF1 => .lid | 0xF2 => .wid | 0xF3 => .tid | 0xF4 => .cid | 0xF5 => .kid | _ => .z

/-- Reads the code of a TYPE (13 R273). -/
def Ty.ofCode (x : BitVec 4) : Option Ty :=
  match x.toNat with
  | 0 => Option.some .b32
  | 1 => Option.some .i32
  | 2 => Option.some .n32
  | 3 => Option.some .b64
  | 4 => Option.some .i64
  | 5 => Option.some .n64
  | 6 => Option.some .b8
  | 7 => Option.some .i8
  | 8 => Option.some .n8
  | 9 => Option.some .b16
  | 10 => Option.some .i16
  | 11 => Option.some .n16
  | 12 => Option.some .b128
  | 13 => Option.some .f32
  | 14 => Option.some .f16
  | 15 => Option.some .bf16
  | _ => Option.none

/-- Reads the code of a RND (07 R154). -/
def Rnd.ofCode (x : BitVec 3) : Option Rnd :=
  match x.toNat with
  | 0 => Option.some .rn
  | 1 => Option.some .rz
  | 2 => Option.some .ru
  | 3 => Option.some .rd
  | 4 => Option.some .rs
  | _ => Option.none

/-- Reads the code of a SCOPE (06 R139). -/
def Scope.ofCode (x : BitVec 4) : Option Scope :=
  match x.toNat with
  | 0 => Option.some .thread
  | 1 => Option.some .warp
  | 2 => Option.some .engine
  | 3 => Option.some .core
  | 4 => Option.some .team
  | 5 => Option.some .cluster
  | 6 => Option.some .die
  | 7 => Option.some .device
  | 8 => Option.some .host
  | 9 => Option.some .peer
  | 10 => Option.some .fabric
  | 11 => Option.some .system
  | _ => Option.none

/-- Reads the code of a ORDER (06 R140). -/
def Order.ofCode (x : BitVec 3) : Option Order :=
  match x.toNat with
  | 0 => Option.some .rlx
  | 1 => Option.some .acq
  | 2 => Option.some .rel
  | 3 => Option.some .acqrel
  | 4 => Option.some .sc
  | _ => Option.none

/-- Reads the code of a SPACE (13 R274). -/
def Space.ofCode (x : BitVec 3) : Option Space :=
  match x.toNat with
  | 0 => Option.some .priv
  | 1 => Option.some .scr
  | 2 => Option.some .shr
  | 3 => Option.some .chip
  | 4 => Option.some .glob
  | _ => Option.none

/-- Reads the code of a compare condition (13 R274). -/
def Cond.ofCode (x : BitVec 3) : Option Cond :=
  match x.toNat with
  | 0 => Option.some .eq
  | 1 => Option.some .ne
  | 2 => Option.some .lt
  | 3 => Option.some .le
  | 4 => Option.some .gt
  | 5 => Option.some .ge
  | _ => Option.none

/-- Reads the code of a FCMP condition (15 R331). -/
def FCond.ofCode (x : BitVec 3) : Option FCond :=
  match x.toNat with
  | 0 => Option.some .eq
  | 1 => Option.some .ne
  | 2 => Option.some .lt
  | 3 => Option.some .le
  | 4 => Option.some .gt
  | 5 => Option.some .ge
  | 6 => Option.some .num
  | 7 => Option.some .nan
  | _ => Option.none

/-- Reads the code of a atomic operation (13 R274). -/
def AtomOp.ofCode (x : BitVec 4) : Option AtomOp :=
  match x.toNat with
  | 0 => Option.some .add
  | 1 => Option.some .min
  | 2 => Option.some .max
  | 3 => Option.some .and
  | 4 => Option.some .or
  | 5 => Option.some .xor
  | 6 => Option.some .exch
  | 7 => Option.some .cas
  | 8 => Option.some .inc
  | 9 => Option.some .dec
  | _ => Option.none

/-- Reads the code of a reduction (14 R307). -/
def RedOp.ofCode (x : BitVec 3) : Option RedOp :=
  match x.toNat with
  | 0 => Option.some .add
  | 1 => Option.some .min
  | 2 => Option.some .max
  | 3 => Option.some .and
  | 4 => Option.some .or
  | 5 => Option.some .xor
  | _ => Option.none

/-- Reads the code of a PSET operation (14 R298). -/
def PsetOp.ofCode (x : BitVec 4) : Option PsetOp :=
  match x.toNat with
  | 0 => Option.some .and
  | 1 => Option.some .or
  | 2 => Option.some .xor
  | 3 => Option.some .andn
  | _ => Option.none

/-- Reads the code of a VOTE variant (14 R304). -/
def VoteVar.ofCode (x : BitVec 4) : Option VoteVar :=
  match x.toNat with
  | 0 => Option.some .every
  | 1 => Option.some .some
  | 2 => Option.some .mask
  | 3 => Option.some .same
  | 4 => Option.some .count
  | _ => Option.none

/-- Reads the code of a SHFL variant (14 R305). -/
def ShflVar.ofCode (x : BitVec 4) : Option ShflVar :=
  match x.toNat with
  | 0 => Option.some .lane
  | 1 => Option.some .back
  | 2 => Option.some .fwd
  | 3 => Option.some .swap
  | _ => Option.none

/-- Reads the code of a HMNX2 variant (15 R334). -/
def MnxVar.ofCode (x : BitVec 3) : Option MnxVar :=
  match x.toNat with
  | 0 => Option.some .min
  | 1 => Option.some .max
  | 2 => Option.some .minnum
  | 3 => Option.some .maxnum
  | _ => Option.none

/-- Reads the code of a counter class (13 R282). -/
def CntClass.ofCode (x : BitVec 2) : CntClass :=
  match x.toNat with
  | 0 => .copy
  | 1 => .gather
  | 2 => .mma
  | _ => .coll

/-- Reads the code of a source window (17 R369). -/
def SrcWin.ofCode (x : BitVec 2) : Option SrcWin :=
  match x.toNat with
  | 0 => Option.some .sscr
  | 1 => Option.some .sshr
  | 2 => Option.some .schip
  | _ => Option.none

/-- Reads the code of a destination window (17 R369). -/
def DstWin.ofCode (x : BitVec 2) : DstWin :=
  match x.toNat with
  | 0 => .dshr
  | 1 => .dscr
  | 2 => .dchip
  | _ => .dws

/-- Reads the code of a accumulator format (17 R371). -/
def AccFmt.ofCode (x : BitVec 2) : Option AccFmt :=
  match x.toNat with
  | 0 => Option.some .f32
  | 1 => Option.some .bf16
  | 2 => Option.some .f16
  | _ => Option.none

/-- Reads the code of a drain format (17 R369). -/
def DrainFmt.ofCode (x : BitVec 2) : DrainFmt :=
  match x.toNat with
  | 0 => .f32
  | 1 => .bf16
  | 2 => .f16
  | _ => .e4m3

/-- Reads the code of a element format (05 R115). -/
def Fmt.ofCode (x : BitVec 4) : Option Fmt :=
  match x.toNat with
  | 0 => Option.some .bytes
  | 1 => Option.some .f32
  | 2 => Option.some .f16
  | 3 => Option.some .bf16
  | 4 => Option.some .e4m3
  | 5 => Option.some .e5m2
  | 6 => Option.some .i8
  | 7 => Option.some .i32
  | 8 => Option.some .i64
  | 9 => Option.some .f64
  | 10 => Option.some .cwt
  | 11 => Option.some .s9
  | _ => Option.none

/-- A test of the fields. -/
def need (b : Bool) : Option Unit := if b then some () else none

namespace Raw
variable (f : Raw)
/-- D as a specifier. -/
def sd : Spec := Spec.ofBits f.d
/-- A as a specifier. -/
def sa : Spec := Spec.ofBits f.a
/-- B as a specifier. -/
def sb : Spec := Spec.ofBits f.b
/-- C as a specifier. -/
def sc : Spec := Spec.ofBits (f.low.extractLsb' 10 8)
/-- E as a specifier. -/
def se : Spec := Spec.ofBits (f.low.extractLsb' 26 8)
/-- F as a specifier. -/
def sf : Spec := Spec.ofBits (f.low.extractLsb' 18 8)
/-- MOD[7:4] as TYPE. -/
def ty : Option Ty := Ty.ofCode (f.mod.extractLsb' 4 4)
/-- MOD[3] as SAT. -/
def sat : Bool := f.mod.getLsbD 3
/-- MOD[2:0] as VAR. -/
def var3 : BitVec 3 := f.mod.setWidth 3
/-- MOD[3:0] as VAR. -/
def var4 : BitVec 4 := f.mod.setWidth 4
/-- MOD[7:5] as RND of the float class. -/
def rndF : Option Rnd := Rnd.ofCode (f.mod.extractLsb' 5 3)
/-- MOD[4:2] as VAR of the float class. -/
def varF : BitVec 3 := f.mod.extractLsb' 2 3
/-- MOD[2:0] as RND of the conversion class. -/
def rndC : Option Rnd := Rnd.ofCode (f.mod.setWidth 3)
/-- MOD[7:4] as SCOPE. -/
def scope : Option Scope := Scope.ofCode (f.mod.extractLsb' 4 4)
/-- MOD[3:1] as ORDER. -/
def ord : Option Order := Order.ofCode (f.mod.extractLsb' 1 3)
/-- The result predicate named by PE and PN. -/
def pe : Option (BitVec 3) := if f.low.getLsbD 3 then some (f.low.setWidth 3) else none
/-- The address fields of MEM. -/
def mem : Option MemArg :=
  (Space.ofCode (f.low.extractLsb' 4 3)).map fun s => ⟨f.sa, f.sb, f.low.extractLsb' 7 3, s⟩
/-- TYPE of MEM. -/
def memTy : Option Ty := Ty.ofCode (f.low.setWidth 4)
/-- The address fields of ENG. -/
def eng : EngArg := ⟨f.sa, f.sb, f.low.extractLsb' 7 3, f.low.setWidth 7⟩
/-- The barrier offset, where VAR[3] names one. -/
def bar : Option Spec := if f.mod.getLsbD 3 then some f.sc else none
/-- MOD[3:2] as a destination window. -/
def dstWin : DstWin := DstWin.ofCode (f.mod.extractLsb' 2 2)
/-- FK and FMT of CAPNAR. -/
def capFmt : Option (Option Fmt) :=
  if f.mod.getLsbD 3 then (Fmt.ofCode (f.mod.extractLsb' 4 4)).map some
  else if f.mod.extractLsb' 4 4 == 0#4 then some none else none
end Raw

/-- The instruction of a word of the integer and logic class; the outer answer is none where OPC is unassigned (R276), the inner where a
code is refused. -/
def buildInt (f : Raw) : Option (Option Instr) :=
  match f.opc.toNat with
  | 0x001 => some (do let t ← f.ty; let _ ← need (f.var3 == 0#3); pure (.iadd f.hdr t (f.sat) f.sd f.sa f.sb))
  | 0x041 => some (do let t ← f.ty; let _ ← need (f.var3 == 0#3); pure (.iaddImm f.hdr t (f.sat) f.sd f.sa f.low))
  | 0x002 => some (do let t ← f.ty; let _ ← need (f.var3 == 0#3); pure (.isub f.hdr t (f.sat) f.sd f.sa f.sb))
  | 0x042 => some (do let t ← f.ty; let _ ← need (f.var3 == 0#3); pure (.isubImm f.hdr t (f.sat) f.sd f.sa f.low))
  | 0x003 => some (do let t ← f.ty; let _ ← need (f.var3 == 0#3); pure (.imul f.hdr t (f.sat) f.sd f.sa f.sb))
  | 0x043 => some (do let t ← f.ty; let _ ← need (f.var3 == 0#3); pure (.imulImm f.hdr t (f.sat) f.sd f.sa f.low))
  | 0x004 => some (do let t ← f.ty; let _ ← need (!f.sat); let _ ← need (f.var3 == 0#3); pure (.imulh f.hdr t f.sd f.sa f.sb))
  | 0x044 => some (do let t ← f.ty; let _ ← need (!f.sat); let _ ← need (f.var3 == 0#3); pure (.imulhImm f.hdr t f.sd f.sa f.low))
  | 0x005 => some (do let t ← f.ty; let _ ← need (f.var3 == 0#3); pure (.imad f.hdr t (f.sat) f.sd f.sa f.sb f.sc))
  | 0x045 => some (do let t ← f.ty; let _ ← need (f.var3 == 0#3); pure (.imadImm f.hdr t (f.sat) f.sd f.sa f.sb f.low))
  | 0x006 => some (do let t ← f.ty; let _ ← need (!f.sat); let _ ← need (f.var3 == 0#3); pure (.imadw f.hdr t f.sd f.sa f.sb f.sc))
  | 0x046 => some (do let t ← f.ty; let _ ← need (!f.sat); let _ ← need (f.var3 == 0#3); pure (.imadwImm f.hdr t f.sd f.sa f.sb f.low))
  | 0x007 => some (do let t ← f.ty; let _ ← need (!f.sat); let _ ← need (f.var3 == 0#3); pure (.iadd64 f.hdr t f.sd f.sa f.sb))
  | 0x047 => some (do let t ← f.ty; let _ ← need (!f.sat); let _ ← need (f.var3 == 0#3); pure (.iadd64Imm f.hdr t f.sd f.sa f.low))
  | 0x008 => some (do let t ← f.ty; let _ ← need (!f.sat); let _ ← need (f.var3 == 0#3); pure (.imad64 f.hdr t f.sd f.sa f.sb f.sc))
  | 0x009 => some (do let t ← f.ty; let _ ← need (!f.sat); let _ ← need (f.var3 == 0#3); pure (.imin f.hdr t f.sd f.sa f.sb))
  | 0x049 => some (do let t ← f.ty; let _ ← need (!f.sat); let _ ← need (f.var3 == 0#3); pure (.iminImm f.hdr t f.sd f.sa f.low))
  | 0x00A => some (do let t ← f.ty; let _ ← need (!f.sat); let _ ← need (f.var3 == 0#3); pure (.imax f.hdr t f.sd f.sa f.sb))
  | 0x04A => some (do let t ← f.ty; let _ ← need (!f.sat); let _ ← need (f.var3 == 0#3); pure (.imaxImm f.hdr t f.sd f.sa f.low))
  | 0x00B => some (do let _ ← need (f.ty == some .i32); let _ ← need (f.var3 == 0#3); pure (.iabs f.hdr (f.sat) f.sd f.sa))
  | 0x00C => some (do let t ← f.ty; let _ ← need (f.var3 == 0#3); pure (.ineg f.hdr t (f.sat) f.sd f.sa))
  | 0x00D => some (do let t ← f.ty; let _ ← need (!f.sat); let _ ← need (f.var3 == 0#3); pure (.isad f.hdr t f.sd f.sa f.sb f.sc))
  | 0x04D => some (do let t ← f.ty; let _ ← need (!f.sat); let _ ← need (f.var3 == 0#3); pure (.isadImm f.hdr t f.sd f.sa f.sb f.low))
  | 0x00E => some (do let _ ← need (f.ty == some .b32); let _ ← need (!f.sat); let _ ← need (f.var3 == 0#3); pure (.and f.hdr f.sd f.sa f.sb))
  | 0x04E => some (do let _ ← need (f.ty == some .b32); let _ ← need (!f.sat); let _ ← need (f.var3 == 0#3); pure (.andImm f.hdr f.sd f.sa f.low))
  | 0x00F => some (do let _ ← need (f.ty == some .b32); let _ ← need (!f.sat); let _ ← need (f.var3 == 0#3); pure (.or f.hdr f.sd f.sa f.sb))
  | 0x04F => some (do let _ ← need (f.ty == some .b32); let _ ← need (!f.sat); let _ ← need (f.var3 == 0#3); pure (.orImm f.hdr f.sd f.sa f.low))
  | 0x010 => some (do let _ ← need (f.ty == some .b32); let _ ← need (!f.sat); let _ ← need (f.var3 == 0#3); pure (.xor f.hdr f.sd f.sa f.sb))
  | 0x050 => some (do let _ ← need (f.ty == some .b32); let _ ← need (!f.sat); let _ ← need (f.var3 == 0#3); pure (.xorImm f.hdr f.sd f.sa f.low))
  | 0x011 => some (do let _ ← need (f.ty == some .b32); let _ ← need (!f.sat); let _ ← need (f.var3 == 0#3); pure (.andn f.hdr f.sd f.sa f.sb))
  | 0x051 => some (do let _ ← need (f.ty == some .b32); let _ ← need (!f.sat); let _ ← need (f.var3 == 0#3); pure (.andnImm f.hdr f.sd f.sa f.low))
  | 0x012 => some (do let _ ← need (f.ty == some .b32); let _ ← need (!f.sat); let _ ← need (f.var3 == 0#3); pure (.not f.hdr f.sd f.sa))
  | 0x013 => some (do let _ ← need (f.ty == some .b32); let _ ← need (!f.sat); let _ ← need (f.var3 == 0#3); pure (.shl f.hdr f.sd f.sa f.sb))
  | 0x053 => some (do let _ ← need (f.ty == some .b32); let _ ← need (!f.sat); let _ ← need (f.var3 == 0#3); pure (.shlImm f.hdr f.sd f.sa f.low))
  | 0x014 => some (do let _ ← need (f.ty == some .b32); let _ ← need (!f.sat); let _ ← need (f.var3 == 0#3); pure (.shr f.hdr f.sd f.sa f.sb))
  | 0x054 => some (do let _ ← need (f.ty == some .b32); let _ ← need (!f.sat); let _ ← need (f.var3 == 0#3); pure (.shrImm f.hdr f.sd f.sa f.low))
  | 0x015 => some (do let _ ← need (f.ty == some .b32); let _ ← need (!f.sat); let _ ← need (f.var3 == 0#3); pure (.sar f.hdr f.sd f.sa f.sb))
  | 0x055 => some (do let _ ← need (f.ty == some .b32); let _ ← need (!f.sat); let _ ← need (f.var3 == 0#3); pure (.sarImm f.hdr f.sd f.sa f.low))
  | 0x016 => some (do let _ ← need (f.ty == some .b32); let _ ← need (!f.sat); let _ ← need (f.var3 == 0#3); pure (.rotl f.hdr f.sd f.sa f.sb))
  | 0x056 => some (do let _ ← need (f.ty == some .b32); let _ ← need (!f.sat); let _ ← need (f.var3 == 0#3); pure (.rotlImm f.hdr f.sd f.sa f.low))
  | 0x019 => some (do let _ ← need (f.ty == some .b32); let _ ← need (!f.sat); let _ ← need (f.var3 == 0#3); pure (.popc f.hdr f.sd f.sa))
  | 0x01A => some (do let _ ← need (f.ty == some .b32); let _ ← need (!f.sat); let _ ← need (f.var3 == 0#3); pure (.clz f.hdr f.sd f.sa))
  | 0x01B => some (do let _ ← need (f.ty == some .b32); let _ ← need (!f.sat); let _ ← need (f.var3 == 0#3); pure (.brev f.hdr f.sd f.sa))
  | 0x017 => some (do let t ← f.ty; let _ ← need (!f.sat); let _ ← need (f.var3 == 0#3); pure (.bfx f.hdr t f.sd f.sa f.sb))
  | 0x057 => some (do let t ← f.ty; let _ ← need (!f.sat); let _ ← need (f.var3 == 0#3); pure (.bfxImm f.hdr t f.sd f.sa f.low))
  | 0x018 => some (do let _ ← need (f.ty == some .b32); let _ ← need (!f.sat); let _ ← need (f.var3 == 0#3); pure (.bfi f.hdr f.sd f.sa f.sb f.sc))
  | 0x058 => some (do let _ ← need (f.ty == some .b32); let _ ← need (!f.sat); let _ ← need (f.var3 == 0#3); pure (.bfiImm f.hdr f.sd f.sa f.sb f.low))
  | 0x01C => some (do let _ ← need (f.ty == some .b32); let _ ← need (!f.sat); let _ ← need (f.var3 == 0#3); pure (.bsel f.hdr f.sd f.sa f.sb f.sc))
  | 0x05C => some (do let _ ← need (f.ty == some .b32); let _ ← need (!f.sat); let _ ← need (f.var3 == 0#3); pure (.bselImm f.hdr f.sd f.sa f.sb (f.low.setWidth 20)))
  | 0x01D => some (do let t ← f.ty; let _ ← need (!f.sat); let cond ← Cond.ofCode f.var3; pure (.icmp f.hdr cond t (f.d.setWidth 3) f.sa f.sb))
  | 0x01E => some (do let _ ← need (f.ty == some .b32); let _ ← need (!f.sat); let _ ← need (f.var3 == 0#3); pure (.isel f.hdr f.sd (f.a.setWidth 3) f.sb f.sc))
  | 0x020 => some (do let _ ← need (f.ty == some .b32); let _ ← need (!f.sat); pure (.lea f.hdr (f.var3) f.sd f.sa f.sb))
  | 0x05D => some (do let t ← f.ty; let _ ← need (!f.sat); let cond ← Cond.ofCode f.var3; pure (.icmpImm f.hdr cond t (f.d.setWidth 3) f.sa f.low))
  | 0x05E => some (do let _ ← need (f.ty == some .b32); let _ ← need (!f.sat); let _ ← need (f.var3 == 0#3); pure (.iselImm f.hdr f.sd (f.a.setWidth 3) f.sb f.low))
  | 0x060 => some (do let _ ← need (f.ty == some .b32); let _ ← need (!f.sat); pure (.leaImm f.hdr (f.var3) f.sd f.sa f.low))
  | 0x01F => some (do let t ← f.ty; let _ ← need (!f.sat); let _ ← need (f.var3 == 0#3); pure (.mov f.hdr t f.sd f.sa))
  | 0x05F => some (do let t ← f.ty; let _ ← need (!f.sat); let _ ← need (f.var3 == 0#3); pure (.movi f.hdr t f.sd f.low))
  | _ => none

/-- The instruction of a word of the float class; the outer answer is none where OPC is unassigned (R277), the inner where a
code is refused. -/
def buildFloat (f : Raw) : Option (Option Instr) :=
  match f.opc.toNat with
  | 0x081 => some (do let r ← f.rndF; let _ ← need (f.mod.setWidth 2 == 0#2); let _ ← need (f.varF == 0#3); pure (.fadd f.hdr r f.sd f.sa f.sb))
  | 0x0C1 => some (do let r ← f.rndF; let _ ← need (f.mod.setWidth 2 == 0#2); let _ ← need (f.varF == 0#3); pure (.faddImm f.hdr r f.sd f.sa (f.low.setWidth 32)))
  | 0x082 => some (do let r ← f.rndF; let _ ← need (f.mod.setWidth 2 == 0#2); let _ ← need (f.varF == 0#3); pure (.fsub f.hdr r f.sd f.sa f.sb))
  | 0x0C2 => some (do let r ← f.rndF; let _ ← need (f.mod.setWidth 2 == 0#2); let _ ← need (f.varF == 0#3); pure (.fsubImm f.hdr r f.sd f.sa (f.low.setWidth 32)))
  | 0x083 => some (do let r ← f.rndF; let _ ← need (f.mod.setWidth 2 == 0#2); let _ ← need (f.varF == 0#3); pure (.fmul f.hdr r f.sd f.sa f.sb))
  | 0x0C3 => some (do let r ← f.rndF; let _ ← need (f.mod.setWidth 2 == 0#2); let _ ← need (f.varF == 0#3); pure (.fmulImm f.hdr r f.sd f.sa (f.low.setWidth 32)))
  | 0x089 => some (do let r ← f.rndF; let _ ← need (f.mod.setWidth 2 == 0#2); let _ ← need (f.varF == 0#3); pure (.fscl f.hdr r f.sd f.sa f.sb))
  | 0x0C9 => some (do let r ← f.rndF; let _ ← need (f.mod.setWidth 2 == 0#2); let _ ← need (f.varF == 0#3); pure (.fsclImm f.hdr r f.sd f.sa (f.low.setWidth 32)))
  | 0x084 => some (do let r ← f.rndF; let _ ← need (f.mod.setWidth 2 == 0#2); let _ ← need (f.varF == 0#3); pure (.ffma f.hdr r f.sd f.sa f.sb f.sc))
  | 0x0C4 => some (do let r ← f.rndF; let _ ← need (f.mod.setWidth 2 == 0#2); let _ ← need (f.varF == 0#3); pure (.ffmaImm f.hdr r f.sd f.sa f.sb (f.low.setWidth 32)))
  | 0x085 => some (do let _ ← need (f.rndF == some .rn); let _ ← need (f.mod.setWidth 2 == 0#2); let _ ← need (f.varF == 0#3 || f.varF == 1#3); pure (.fmin f.hdr (f.varF == 1#3) f.sd f.sa f.sb))
  | 0x0C5 => some (do let _ ← need (f.rndF == some .rn); let _ ← need (f.mod.setWidth 2 == 0#2); let _ ← need (f.varF == 0#3 || f.varF == 1#3); pure (.fminImm f.hdr (f.varF == 1#3) f.sd f.sa (f.low.setWidth 32)))
  | 0x086 => some (do let _ ← need (f.rndF == some .rn); let _ ← need (f.mod.setWidth 2 == 0#2); let _ ← need (f.varF == 0#3 || f.varF == 1#3); pure (.fmax f.hdr (f.varF == 1#3) f.sd f.sa f.sb))
  | 0x0C6 => some (do let _ ← need (f.rndF == some .rn); let _ ← need (f.mod.setWidth 2 == 0#2); let _ ← need (f.varF == 0#3 || f.varF == 1#3); pure (.fmaxImm f.hdr (f.varF == 1#3) f.sd f.sa (f.low.setWidth 32)))
  | 0x087 => some (do let _ ← need (f.rndF == some .rn); let _ ← need (f.mod.setWidth 2 == 0#2); let cond ← FCond.ofCode f.varF; pure (.fcmp f.hdr cond (f.d.setWidth 3) f.sa f.sb))
  | 0x0C7 => some (do let _ ← need (f.rndF == some .rn); let _ ← need (f.mod.setWidth 2 == 0#2); let cond ← FCond.ofCode f.varF; pure (.fcmpImm f.hdr cond (f.d.setWidth 3) f.sa (f.low.setWidth 32)))
  | 0x088 => some (do let _ ← need (f.mod == 0#8); pure (.fclass f.hdr f.sd f.sa))
  | 0x08A => some (do let r ← f.rndF; let _ ← need (f.mod.setWidth 2 == 0#2); let _ ← need (f.varF == 0#3 || f.varF == 1#3); pure (.hadd2 f.hdr (f.varF == 1#3) r f.sd f.sa f.sb))
  | 0x08B => some (do let r ← f.rndF; let _ ← need (f.mod.setWidth 2 == 0#2); let _ ← need (f.varF == 0#3); pure (.hmul2 f.hdr r f.sd f.sa f.sb))
  | 0x08C => some (do let r ← f.rndF; let _ ← need (f.mod.setWidth 2 == 0#2); let _ ← need (f.varF == 0#3); pure (.hfma2 f.hdr r f.sd f.sa f.sb f.sc))
  | 0x0CA => some (do let r ← f.rndF; let _ ← need (f.mod.setWidth 2 == 0#2); let _ ← need (f.varF == 0#3 || f.varF == 1#3); pure (.hadd2Imm f.hdr (f.varF == 1#3) r f.sd f.sa (f.low.setWidth 32)))
  | 0x0CB => some (do let r ← f.rndF; let _ ← need (f.mod.setWidth 2 == 0#2); let _ ← need (f.varF == 0#3); pure (.hmul2Imm f.hdr r f.sd f.sa (f.low.setWidth 32)))
  | 0x0CC => some (do let r ← f.rndF; let _ ← need (f.mod.setWidth 2 == 0#2); let _ ← need (f.varF == 0#3); pure (.hfma2Imm f.hdr r f.sd f.sa f.sb (f.low.setWidth 32)))
  | 0x08D => some (do let r ← f.rndF; let _ ← need (f.mod.setWidth 2 == 0#2); let _ ← need (f.varF == 0#3 || f.varF == 1#3); pure (.badd2 f.hdr (f.varF == 1#3) r f.sd f.sa f.sb))
  | 0x08E => some (do let r ← f.rndF; let _ ← need (f.mod.setWidth 2 == 0#2); let _ ← need (f.varF == 0#3); pure (.bmul2 f.hdr r f.sd f.sa f.sb))
  | 0x08F => some (do let r ← f.rndF; let _ ← need (f.mod.setWidth 2 == 0#2); let _ ← need (f.varF == 0#3); pure (.bfma2 f.hdr r f.sd f.sa f.sb f.sc))
  | 0x0CD => some (do let r ← f.rndF; let _ ← need (f.mod.setWidth 2 == 0#2); let _ ← need (f.varF == 0#3 || f.varF == 1#3); pure (.badd2Imm f.hdr (f.varF == 1#3) r f.sd f.sa (f.low.setWidth 32)))
  | 0x0CE => some (do let r ← f.rndF; let _ ← need (f.mod.setWidth 2 == 0#2); let _ ← need (f.varF == 0#3); pure (.bmul2Imm f.hdr r f.sd f.sa (f.low.setWidth 32)))
  | 0x0CF => some (do let r ← f.rndF; let _ ← need (f.mod.setWidth 2 == 0#2); let _ ← need (f.varF == 0#3); pure (.bfma2Imm f.hdr r f.sd f.sa f.sb (f.low.setWidth 32)))
  | 0x090 => some (do let _ ← need (f.rndF == some .rn); let _ ← need (f.mod.setWidth 2 == 0#2); let var ← MnxVar.ofCode f.varF; pure (.hmnx2 f.hdr var f.sd f.sa f.sb))
  | 0x0D0 => some (do let _ ← need (f.rndF == some .rn); let _ ← need (f.mod.setWidth 2 == 0#2); let var ← MnxVar.ofCode f.varF; pure (.hmnx2Imm f.hdr var f.sd f.sa (f.low.setWidth 32)))
  | _ => none

/-- The instruction of a word of the conversion and special-function class; the outer answer is none where OPC is unassigned (R278), the inner where a
code is refused. -/
def buildConv (f : Raw) : Option (Option Instr) :=
  match f.opc.toNat with
  | 0x101 => some (do let t ← f.ty; let r ← f.rndC; let _ ← need (!f.sat); pure (.f2i f.hdr t r f.sd f.sa))
  | 0x102 => some (do let t ← f.ty; let r ← f.rndC; let _ ← need (!f.sat); pure (.f2iFh f.hdr t r f.sd f.sa))
  | 0x103 => some (do let t ← f.ty; let r ← f.rndC; let _ ← need (!f.sat); pure (.f2iFb f.hdr t r f.sd f.sa))
  | 0x104 => some (do let t ← f.ty; let r ← f.rndC; let _ ← need (!f.sat); pure (.i2f f.hdr t r f.sd f.sa))
  | 0x105 => some (do let t ← f.ty; let r ← f.rndC; let _ ← need (!f.sat); pure (.i2fU f.hdr t r f.sd f.sa))
  | 0x106 => some (do let t ← f.ty; let r ← f.rndC; let _ ← need (!f.sat); pure (.i2fL f.hdr t r f.sd f.sa))
  | 0x107 => some (do let t ← f.ty; let r ← f.rndC; let _ ← need (!f.sat); pure (.i2fUl f.hdr t r f.sd f.sa))
  | 0x108 => some (do let t ← f.ty; let r ← f.rndC; let _ ← need (!f.sat); pure (.fcvt f.hdr t r f.sd f.sa))
  | 0x109 => some (do let t ← f.ty; let r ← f.rndC; let _ ← need (!f.sat); pure (.fcvtFh f.hdr t r f.sd f.sa))
  | 0x10A => some (do let t ← f.ty; let r ← f.rndC; let _ ← need (!f.sat); pure (.fcvtFb f.hdr t r f.sd f.sa))
  | 0x10B => some (do let _ ← need (f.ty == some .b32); let r ← f.rndC; pure (.f2f8E4m3 f.hdr (f.sat) r f.sd f.sa f.sb f.sc))
  | 0x10C => some (do let _ ← need (f.ty == some .b32); let r ← f.rndC; pure (.f2f8E5m2 f.hdr (f.sat) r f.sd f.sa f.sb f.sc))
  | 0x10D => some (do let _ ← need (f.ty == some .b32); let _ ← need (!f.sat); let r ← f.rndC; pure (.f82fE4m3 f.hdr r f.sd f.sa f.sb f.sc))
  | 0x10E => some (do let _ ← need (f.ty == some .b32); let _ ← need (!f.sat); let r ← f.rndC; pure (.f82fE5m2 f.hdr r f.sd f.sa f.sb f.sc))
  | 0x10F => some (do let _ ← need (f.ty == some .f32); let _ ← need (!f.sat); let r ← f.rndC; pure (.frnd f.hdr r f.sd f.sa))
  | 0x110 => some (do let _ ← need (f.mod == modConv .f32 false .rn); pure (.frcp f.hdr f.sd f.sa))
  | 0x111 => some (do let _ ← need (f.mod == modConv .f32 false .rn); pure (.frsq f.hdr f.sd f.sa))
  | 0x112 => some (do let _ ← need (f.mod == modConv .f32 false .rn); pure (.fsqrt f.hdr f.sd f.sa))
  | 0x113 => some (do let _ ← need (f.mod == modConv .f32 false .rn); pure (.fexp2 f.hdr f.sd f.sa))
  | 0x114 => some (do let _ ← need (f.mod == modConv .f32 false .rn); pure (.flog2 f.hdr f.sd f.sa))
  | 0x115 => some (do let _ ← need (f.mod == modConv .f32 false .rn); pure (.fsin f.hdr f.sd f.sa))
  | 0x116 => some (do let _ ← need (f.mod == modConv .f32 false .rn); pure (.fcos f.hdr f.sd f.sa))
  | 0x117 => some (do let _ ← need (f.mod == modConv .f32 false .rn); pure (.ftanh f.hdr f.sd f.sa))
  | _ => none

/-- The instruction of a word of the predicate, cross-lane and shape class; the outer answer is none where OPC is unassigned (R279), the inner where a
code is refused. -/
def buildPred (f : Raw) : Option (Option Instr) :=
  match f.opc.toNat with
  | 0x181 => some (do let _ ← need (f.ty == some .b32); let op ← PsetOp.ofCode f.var4; pure (.pset f.hdr op (f.d.setWidth 3) f.sa f.sb))
  | 0x182 => some (do let _ ← need (f.ty == some .b32); let _ ← need (f.var4 == 0#4 || f.var4 == 1#4); pure (.pmov f.hdr (f.var4 == 1#4) (f.d.setWidth 3) f.sa))
  | 0x183 => some (do let _ ← need (f.ty == some .b32); let var ← VoteVar.ofCode f.var4; pure (.vote f.hdr var f.sd (f.pe) f.sa (f.b.setWidth 3)))
  | 0x184 => some (do let t ← f.ty; let var ← ShflVar.ofCode f.var4; pure (.shfl f.hdr t var f.sd (f.pe) f.sa f.sb f.sc))
  | 0x185 => some (do let t ← f.ty; let _ ← need (f.var4 == 0#4); pure (.bcast f.hdr t f.sd (f.pe) f.sa f.sb f.sc))
  | 0x186 => some (do let t ← f.ty; let _ ← need (!f.var4.getLsbD 3); let op ← RedOp.ofCode f.var3; pure (.redx f.hdr t op f.sd (f.pe) f.sa f.sb))
  | 0x187 => some (do let t ← f.ty; let op ← RedOp.ofCode f.var3; pure (.scanx f.hdr t (f.var4.getLsbD 3) op f.sd (f.pe) f.sa f.sb))
  | 0x188 => some (do let t ← f.ty; let _ ← need (f.var4 == 0#4); pure (.matchx f.hdr t f.sd (f.pe) f.sa f.sb))
  | 0x189 => some (do let _ ← need (f.mod == 0#8); pure (.shq f.hdr f.sd f.sa))
  | 0x18A => some (do let _ ← need (f.mod == 0#8); pure (.sha f.hdr f.sa (f.low.setWidth 2)))
  | 0x18B => some (do let _ ← need (f.mod == 0#8); pure (.shf f.hdr f.sd f.sa (f.low.setWidth 2)))
  | 0x18C => some (do let _ ← need (f.mod == 0#8); pure (.shrsv f.hdr (f.d.setWidth 3) (f.low.setWidth 8)))
  | _ => none

/-- The instruction of a word of the control class; the outer answer is none where OPC is unassigned (R280), the inner where a
code is refused. -/
def buildCtl (f : Raw) : Option (Option Instr) :=
  match f.opc.toNat with
  | 0x201 => some (do let _ ← need (f.mod == 0#8); pure (.bra f.hdr (f.low)))
  | 0x202 => some (do let _ ← need (f.mod == 0#8); pure (.brx f.hdr f.sa))
  | 0x203 => some (do let _ ← need (f.mod == 0#8); pure (.call f.hdr f.sd (f.low)))
  | 0x204 => some (do let _ ← need (f.mod == 0#8); pure (.callx f.hdr f.sd f.sa))
  | 0x205 => some (do let _ ← need (f.mod == 0#8); pure (.ret f.hdr f.sa))
  | 0x206 => some (do let _ ← need (f.mod == 0#8); pure (.join f.hdr f.sa))
  | 0x246 => some (do let _ ← need (f.mod == 0#8); pure (.joinImm f.hdr (f.low.setWidth 32)))
  | 0x207 => some (if f.mod == 1#8 then pure (.exitSucc f.hdr f.sa) else do let _ ← need (f.mod == 0#8); pure (.exit f.hdr))
  | 0x208 => some (do let _ ← need (f.mod == 0#8); pure (.yield f.hdr))
  | 0x209 => some (do let _ ← need (f.mod == 0#8); pure (.sleept f.hdr f.sa))
  | 0x20A => some (do let _ ← need (f.mod == 0#8); pure (.nop f.hdr))
  | 0x20B => some (do let _ ← need (f.mod == 0#8); pure (.trap f.hdr (f.low.setWidth 32)))
  | 0x20C => some (do let _ ← need (f.mod == 0#8); pure (.brkpt f.hdr (f.low.setWidth 32)))
  | _ => none

/-- The instruction of a word of the memory, atomic and fence class; the outer answer is none where OPC is unassigned (R281), the inner where a
code is refused. -/
def buildMem (f : Raw) : Option (Option Instr) :=
  match f.opc.toNat with
  | 0x281 => some (do let scope ← f.scope; let ord ← f.ord; let m ← f.mem; let t ← f.memTy; pure (.ld f.hdr scope ord (f.mod.getLsbD 0) t f.sd m (f.low.extractLsb' 10 24)))
  | 0x282 => some (do let scope ← f.scope; let ord ← f.ord; let _ ← need (!f.mod.getLsbD 0); let m ← f.mem; let t ← f.memTy; pure (.st f.hdr scope ord t f.sd m (f.low.extractLsb' 10 24)))
  | 0x283 => some (do let scope ← f.scope; let ord ← f.ord; let m ← f.mem; let _ ← need (f.memTy == some .b128); pure (.ldc f.hdr scope ord (f.mod.getLsbD 0) f.sd m (f.low.extractLsb' 10 24)))
  | 0x284 => some (do let scope ← f.scope; let ord ← f.ord; let _ ← need (!f.mod.getLsbD 0); let m ← f.mem; let _ ← need (f.memTy == some .b128); pure (.stc f.hdr scope ord f.sd m (f.low.extractLsb' 10 24)))
  | 0x285 => some (do let scope ← f.scope; let ord ← f.ord; let _ ← need (!f.mod.getLsbD 0); pure (.fence f.hdr scope ord))
  | 0x287 => some (do let m ← f.mem; let _ ← need (f.memTy == some .b32); let _ ← need (f.mod == 0#8); pure (.pin f.hdr (f.d.setWidth 3) m (f.low.extractLsb' 10 24)))
  | 0x288 => some (do let m ← f.mem; let _ ← need (f.memTy == some .b32); let _ ← need (f.mod == 0#8); pure (.unpin f.hdr m (f.low.extractLsb' 10 24)))
  | 0x289 => some (do let m ← f.mem; let _ ← need (f.memTy == some .b32); let _ ← need (f.mod == 0#8); pure (.pref f.hdr m (f.low.extractLsb' 10 24)))
  | 0x28A => some (do let m ← f.mem; let _ ← need (f.memTy == some .b32); let _ ← need (f.mod == 0#8); pure (.icinv f.hdr m (f.low.extractLsb' 10 24)))
  | 0x28B => some (do let _ ← need (!f.mod.getLsbD 0); let fmt ← f.capFmt; pure (.capnar f.hdr fmt (if f.mod.getLsbD 2 then some (f.low.extractLsb' 18 16) else none) (f.mod.getLsbD 1) f.sd (f.pe) f.sa f.sb f.sc))
  | 0x28C => some (do let _ ← need (f.mod == 0#8); pure (.capperm f.hdr f.sd f.sa (f.low.setWidth 8)))
  | 0x28D => some (do let _ ← need (f.mod.extractLsb' 3 5 == 0#5); pure (.capget f.hdr (f.mod.setWidth 3) f.sd f.sa))
  | 0x28E => some (do let _ ← need (f.mod.extractLsb' 6 2 == 0#2); pure (.captst f.hdr (f.mod.setWidth 6) (f.d.setWidth 3) f.sa f.sb f.sc))
  | 0x290 | 0x291 | 0x292 | 0x293 | 0x294 | 0x295 => some (do let scope ← f.scope; let ord ← f.ord; let _ ← need (!f.mod.getLsbD 0); let m ← f.mem; let t ← f.memTy; let cond ← Cond.ofCode (f.opc.setWidth 3); pure (.waitmem f.hdr scope ord cond t f.sd m (f.low.extractLsb' 10 24)))
  | 0x2A0 | 0x2A1 | 0x2A2 | 0x2A3 | 0x2A4 | 0x2A5 | 0x2A6 | 0x2A7 | 0x2A8 | 0x2A9 => some (do let scope ← f.scope; let ord ← f.ord; let _ ← need (!f.mod.getLsbD 0); let m ← f.mem; let t ← f.memTy; let op ← AtomOp.ofCode (f.opc.setWidth 4); pure (.atom f.hdr scope ord op t f.sd m (f.low.extractLsb' 18 16) f.sc))
  | 0x2C0 | 0x2C1 | 0x2C2 | 0x2C3 | 0x2C4 | 0x2C5 | 0x2C8 | 0x2C9 => some (do let scope ← f.scope; let ord ← f.ord; let _ ← need (!f.mod.getLsbD 0); let m ← f.mem; let t ← f.memTy; let op ← AtomOp.ofCode (f.opc.setWidth 4); pure (.red f.hdr scope ord op t f.sd m (f.low.extractLsb' 10 24)))
  | _ => none

/-- The instruction of a word of the engine, barrier, event and time class; the outer answer is none where OPC is unassigned (R282), the inner where a
code is refused. -/
def buildEng (f : Raw) : Option (Option Instr) :=
  match f.opc.toNat with
  | 0x301 => some (do let scope ← f.scope; let src ← SrcWin.ofCode (f.mod.setWidth 2); pure (.cpy f.hdr scope src (f.dstWin) (f.eng)))
  | 0x302 => some (do let scope ← f.scope; let src ← SrcWin.ofCode (f.mod.setWidth 2); pure (.cpyg f.hdr scope src (f.dstWin) (f.eng) (f.se)))
  | 0x303 => some (do let scope ← f.scope; let src ← SrcWin.ofCode (f.mod.setWidth 2); pure (.coll f.hdr scope src (f.dstWin) (f.eng) (f.se)))
  | 0x304 => some (do let scope ← f.scope; let acc ← AccFmt.ofCode (f.mod.extractLsb' 1 2); pure (.mma f.hdr scope (f.mod.getLsbD 0) acc (f.bar) (f.d.setWidth 6) (f.eng) (f.se) (if f.mod.getLsbD 0 then .v 0 else f.sf)))
  | 0x305 => some (do let scope ← f.scope; let r ← Rnd.ofCode (f.low.extractLsb' 31 3); let acc ← AccFmt.ofCode (f.low.extractLsb' 29 2); pure (.mdrain f.hdr scope (DrainFmt.ofCode (f.mod.setWidth 2)) (f.mod.getLsbD 2) (f.bar) (f.d.setWidth 6) f.sa r acc))
  | 0x306 => some (do let scope ← f.scope; let _ ← need (!f.mod.getLsbD 2); let fmt ← AccFmt.ofCode (f.mod.setWidth 2); pure (.mzero f.hdr scope fmt (f.bar) (f.d.setWidth 6)))
  | 0x307 => some (do let scope ← f.scope; let _ ← need (!f.mod.getLsbD 2); let src ← SrcWin.ofCode (f.mod.setWidth 2); pure (.wtload f.hdr scope src (f.bar) (f.d.setWidth 3) (f.eng)))
  | 0x308 => some (do let _ ← need (f.mod == 0#8); pure (.widx f.hdr f.sa f.sb))
  | 0x309 => some (do let _ ← need (f.scope == some .thread); let _ ← need (f.mod.setWidth 3 == 0#3); pure (.barinit f.hdr (f.mod.getLsbD 3) (f.eng) (f.se) (f.sf)))
  | 0x30A => some (do let scope ← f.scope; let _ ← need (f.mod.extractLsb' 1 2 == 0#2); pure (.bararr f.hdr scope (f.mod.getLsbD 3) (if f.mod.getLsbD 0 then .imm (f.low.extractLsb' 10 24) else .reg f.se) (f.eng)))
  | 0x30B => some (do let _ ← need (f.scope == some .thread); let _ ← need (f.mod.setWidth 3 == 0#3); pure (.barwait f.hdr (f.mod.getLsbD 3) (f.eng) (f.se)))
  | 0x30C => some (do let _ ← need (f.scope == some .thread); let _ ← need (f.mod.setWidth 3 == 0#3); pure (.bartst f.hdr (f.mod.getLsbD 3) f.sd (f.eng)))
  | 0x30E => some (do let _ ← need (f.scope == some .thread); let _ ← need (f.mod.extractLsb' 1 3 == 0#3); pure (.rngget f.hdr (f.mod.getLsbD 0) f.sd (f.low.extractLsb' 26 3) (f.eng)))
  | 0x30F => some (do let _ ← need (f.scope == some .thread); let _ ← need (f.mod.extractLsb' 1 3 == 0#3); pure (.rngput f.hdr (f.mod.getLsbD 0) (f.eng) (f.se)))
  | 0x310 => some (do let _ ← need (f.mod == 0#8); pure (.rngclose f.hdr (f.eng)))
  | 0x30D => some (do let _ ← need (f.scope == some .thread); let _ ← need (f.mod.extractLsb' 2 2 == 0#2); pure (.waitcnt f.hdr (CntClass.ofCode (f.mod.setWidth 2)) (f.low.setWidth 6)))
  | 0x311 => some (do let _ ← need (f.mod == 0#8); pure (.tbar f.hdr))
  | 0x312 => some (do let _ ← need (f.mod == 0#8); pure (.tspawn f.hdr f.sa f.sb))
  | 0x313 => some (do let _ ← need (f.mod == 0#8); pure (.evsig f.hdr f.sa (f.low.setWidth 16)))
  | 0x314 => some (do let _ ← need (f.mod == 0#8); pure (.evwait f.hdr f.sa (f.low.setWidth 16)))
  | 0x315 => some (do let _ ← need (f.mod == 0#8); pure (.rdtime f.hdr f.sd))
  | 0x316 => some (do let _ ← need (f.scope == some .thread); pure (.rdid f.hdr (f.var4) f.sd))
  | 0x317 => some (do let _ ← need (f.scope == some .thread); let _ ← need (!f.mod.getLsbD 3); pure (.rdcnt f.hdr (f.mod.setWidth 3) f.sd))
  | 0x318 => some (do let _ ← need (f.mod == 0#8); pure (.hvlend f.hdr (f.d.setWidth 3) (f.eng) (f.se)))
  | 0x319 => some (do let _ ← need (f.mod == 0#8); pure (.hvstat f.hdr f.sd))
  | _ => none

/-- The instruction of a word of the system class; the outer answer is none where OPC is unassigned (R283), the inner where a
code is refused. -/
def buildSys (f : Raw) : Option (Option Instr) :=
  match f.opc.toNat with
  | 0x381 => some (do let _ ← need (f.mod == 0#8); pure (.xret f.hdr))
  | 0x382 => some (do let _ ← need (f.mod == 0#8); pure (.mfx f.hdr (f.low.setWidth 12) f.sd))
  | 0x383 => some (do let _ ← need (f.mod == 0#8); pure (.mtx f.hdr (f.low.setWidth 12) f.sa))
  | 0x384 => some (do let _ ← need (f.mod == 0#8 || f.mod == 1#8); pure (.tlbinv f.hdr (f.mod == 1#8) f.sa f.sb f.sc))
  | 0x385 => some (do let _ ← need (f.mod == 0#8); pure (.caproot f.hdr f.sd f.sa))
  | 0x386 => some (do let _ ← need (f.mod == 0#8); pure (.ckpt f.hdr))
  | 0x387 => some (do let _ ← need (f.mod == 0#8); pure (.halt f.hdr))
  | _ => none

/-- The instruction of a word, by class (13 R276-R283). -/
def build (f : Raw) : Option (Option Instr) :=
  match (f.opc.extractLsb' 7 3).toNat with
  | 0 => buildInt f
  | 1 => buildFloat f
  | 2 => buildConv f
  | 3 => buildPred f
  | 4 => buildCtl f
  | 5 => buildMem f
  | 6 => buildEng f
  | _ => buildSys f

/-- A guard's field. -/
def Guard.bits (g : Guard) : BitVec 4 := BitVec.ofBool g.neg ++ g.pred

/-- Bits [19:0] of the word. -/
def Hdr.bits (h : Hdr) : BitVec 20 :=
  h.g1.bits ++ h.g2.bits ++ h.stall ++ BitVec.ofBool h.yld ++ BitVec.ofBool h.bnd ++ h.hold ++ h.ch

/-- The word of a form. -/
def Form.word (f : Form) : Insn := f.opc ++ f.mod ++ f.d ++ f.a ++ f.b ++ f.low ++ f.hdr.bits

/-- Why a word is no instruction: the test of 22 R423 that fails first. -/
inductive IllegalWord where
  | opc | mod | spec | unused | ch | hold
deriving DecidableEq, Repr

/-- DETAIL of the illegal-encoding fault (22 R423). -/
def IllegalWord.detail : IllegalWord → Nat
  | .opc => 1 | .mod => 2 | .spec => 3 | .unused => 4 | .ch => 5 | .hold => 6

/-- The decode check (22 R423), total on every word. The unused-field test compares the word with the one its form
writes: they differ exactly where a bit stands that no field of the entry holds. -/
def decode (w : Insn) : Except IllegalWord Instr :=
  let r := Raw.of w
  match build r with
  | none => .error .opc
  | some none => .error .mod
  | some (some i) =>
    match i.form with
    | none => .error .opc
    | some f =>
      let raw : Form := ⟨f.hdr, f.opc, f.mod, r.d, r.a, r.b, r.low, f.codes, f.ops, f.hint⟩
      if !f.codes then .error .mod
      else if !raw.specsOk then .error .spec
      else if f.word != w then .error .unused
      else if !f.chOk then .error .ch
      else if !f.holdOk then .error .hold
      else .ok i

/-- The word of an instruction; a step of the device has none and gives the zero word, which is no instruction. -/
def encode (i : Instr) : Insn :=
  match i.form with
  | some f => f.word
  | none => 0#96

/-- Three little-endian 32-bit words, lowest first (13 R263): the byte of the word at an offset from its address. -/
def Insn.byte (w : Insn) (i : Nat) : Byte := w.extractLsb' (8 * i) 8

/-- The twelve bytes of a word as they lie in memory. -/
def Insn.toBytes (w : Insn) : List Byte := (List.range 12).map w.byte

/-- The word that twelve bytes make. -/
def Insn.ofBytes (bs : List Byte) : Insn :=
  bs.foldr (fun b acc => (acc <<< 8) ||| b.setWidth 96) 0#96

/-- The instruction read from a word whose bits are w; the bits above nbits are zero. A word is 96 bits. -/
def decodeTableWord (nbits w : Nat) : Option Instr :=
  match decode (Insn.ofBytes (Insn.toBytes (BitVec.ofNat 96 (w % 2 ^ nbits)))) with
  | .ok i => some i
  | .error _ => none

/-- The words whose OPC ends a run whatever the BND bit says (02 R23, 22 R420). -/
def endsRun (w : Insn) : Bool :=
  let o := (w.extractLsb' 86 10).toNat
  w.getLsbD 6 ||
  (0x183 ≤ o && o ≤ 0x188) || (0x201 ≤ o && o ≤ 0x209) || o == 0x20B || o == 0x20C || o == 0x246 ||
  (0x290 ≤ o && o ≤ 0x295) || o == 0x30B || o == 0x30D || o == 0x30E || o == 0x311 || o == 0x314 ||
  o == 0x381 || o == 0x387

end Sys2Proof
end

