-- ==== Sys2Proof/Machine/State.lean ====
section
/-! DEFINITION. The state of the module: everything the spec gives it, as plain data, and the state after reset. -/

namespace Sys2Proof.Machine

/-- A shape of a register (02 R38). -/
inductive Shape where
  | u | a | w
deriving DecidableEq, Repr

/-- The value of a register in its shape (02 R38). -/
inductive Val where
  | uni (x : Word)
  | aff (base stride : Word)
  | wide (x : Line)
deriving DecidableEq, Repr

/-- A register with its descriptor (02 R39), its tags, its recency (02 R54) and its dirty bit (04 R99). -/
structure Reg where
  val : Val
  tags : Mask
  spl : Bool
  line : Nat
  used : Nat
  dirty : Bool
deriving DecidableEq, Repr

/-- What one trap reports (21 R413). -/
structure Cause where
  code : BitVec 8
  detail : BitVec 8
  xaddr : DWord
  xstat : Word
  imp : Bool
deriving DecidableEq, Repr

/-- A trap frame (21 R411), with a number of its own. -/
structure Frame where
  id : Nat
  xpc : DWord
  xaddr : DWord
  xcause : Word
  xstat : Word
  xmask : Mask
  ks : Vector Word 8
deriving DecidableEq, Repr

/-- A deferred group (21 R415): its lanes, its instruction and when it trapped. -/
structure Deferred where
  lns : Mask
  x : VA
  since : Nat
deriving DecidableEq, Repr

/-- The imprecise record of a warp (21 R414). -/
structure ImpRec where
  space : Space
  bank : BitVec 16
  off : BitVec 48
  further : Word
deriving DecidableEq, Repr

/-- A held operand (02 R30): the word that holds it is `age` instructions back; `stale` after a write of its register. -/
structure Hold where
  pos : Pos
  spec : Spec
  vals : List (Val × Mask)
  age : Nat
  stale : Bool
deriving DecidableEq, Repr

/-- Where a path stands when it does not run (04 R87). -/
inductive Wait where
  | none
  /-- at the JOIN at its PC, with the members it names (02 R32) -/
  | join (m : Mask)
  /-- arrived at a cross-lane instruction at its PC: the instruction, the member mask read in each lane, the lanes its
  guards hold for, the sources as read on arrival (14 R300) -/
  | cross (i : Instr) (masks : Line) (guard : Mask) (srcs : List Line)
  /-- since which cycle of its cluster, in twentieths; whether the warp has taken a further turn (14 R320) -/
  | yield (since : Nat) (turned : Bool)
  | sleep (t : DWord)
  /-- its entry of the access queue must be satisfied -/
  | waitmem (entry : Nat)
  /-- the barrier object in .scr or .shr must leave the phase (06 R149) -/
  | barwait (scr : Bool) (off : Nat) (phase : Bool)
  /-- the ring instruction waits for a change of the descriptor (03 R70) -/
  | ring (full : Bool) (d : Spec) (pe : BitVec 3) (off : Nat) (lns : Mask)
  | waitcnt (cls : CntClass) (n : BitVec 6)
  | tbar
  | evwait (name : BitVec 16) (target : Word)
  /-- handler lanes that stand at XRET (21 R416) -/
  | xret
  /-- its word waits for its entry of the access queue to be performed at the home (23 R436); the run goes on after -/
  | home (entry : Nat)
  /-- a breakpoint group that the debug agent holds (21 R417) -/
  | debug
deriving DecidableEq, Repr

/-- A path of a warp (02 R21): its lanes, its PC, the words of its run not yet issued, its held operands. The
paths of a handler carry its frame, each the same; a held breakpoint group carries its own. -/
structure Path where
  pid : Nat
  lns : Mask
  pc : VA
  run : List Insn
  /-- a word of the run has issued -/
  begun : Bool
  runId : Nat
  /-- the runs whose word issued last in the path's lanes stands just before its PC -/
  behind : List Nat
  holds : List Hold
  wait : Wait
  frame : Option Frame
  /-- the place of a released deferred group among those that execute again first (21 R415) -/
  retry : Option Nat
  /-- the instant from which it waits -/
  since : DWord
  remote : Bool
  /-- its next word issues no earlier than this cycle of its cluster, in twentieths (02 R29) -/
  stall : Nat
deriving DecidableEq, Repr

/-- A path as it begins: it stands at a PC with nothing fetched. -/
def Path.new (pid : Nat) (lns : Mask) (pc : VA) (since : DWord) : Path :=
  { pid := pid, lns := lns, pc := pc, run := [], begun := false, runId := 0, behind := [], holds := [], wait := .none
    frame := none, retry := none, since := since, remote := false, stall := 0 }

/-- A fixed-latency result that has not landed (02 R29, 15 R327): the cycle of its cluster, in twentieths, from which it
may be used, the v registers, k registers and predicates it writes, its lanes, its flags. -/
structure Flight where
  ready : Nat
  regs : List Nat
  ks : List Nat
  preds : List Nat
  lns : Mask
  flags : BitVec 5
deriving DecidableEq, Repr

/-- What an entry of the access queue does (16 R346, 17 R367). -/
inductive EKind where
  | ld | ldc | st | stc
  | atom (op : AtomOp)
  | red (op : AtomOp)
  | waitmem (c : Cond)
  | fence
  | barinit
  | bararr
  | bartst
  | barwait
  | ring
  | evsig
  | tspawn
deriving DecidableEq, Repr

/-- An aperture (09 R214). -/
structure Aperture where
  va : DWord
  sz : DWord
  pa : DWord
deriving DecidableEq, Repr

/-- One access of an entry: the lanes it serves, where, its operands and what came of it. -/
structure Acc where
  lns : Mask
  /-- effective offset, or virtual address -/
  off : Nat
  /-- device-physical byte address in .glob, offset in a window -/
  pa : Nat
  /-- bytes of the location -/
  len : Nat
  /-- the aperture through which it goes (09 R214) -/
  view : Option Aperture
  data : List Byte
  cmp : List Byte
  /-- the tag a STC writes, the tag a LDC reads; of a WAITMEM lane, that it holds a watch entry (16 R355) -/
  tag : Bool
  /-- a WAITMEM request has reached the home -/
  seen : Bool
  served : Bool
  res : List Byte
  g : DWord
deriving DecidableEq, Repr

/-- An entry of the access queue. -/
structure Entry where
  id : Nat
  kind : EKind
  space : Space
  scope : Scope
  ord : Order
  ty : Ty
  x : VA
  pid : Nat
  runId : Nat
  accs : List Acc
  /-- the instruction that issued it, in privileged mode or not -/
  instr : Instr
  priv : Bool
  ch : BitVec 3
  /-- the destination and its number of registers; none where no register is written -/
  dst : Option (Spec × Nat)
  /-- what the destination registers held that took their lines at issue (02 R53) -/
  held : List (Nat × Val)
  lns : Mask
  shape : Shape
  relDone : Bool
  /-- the place of the end of its release wait among those of the module (06 R141) -/
  relSeq : Nat
  /-- the frame of the handler that issued it -/
  frame : Option Nat
  issued : DWord
  /-- the instant of the first answer that the target is gated (23 R437) -/
  gated : Option DWord
deriving DecidableEq, Repr

/-- Names a core of a cluster. -/
structure CoreKey where
  cluster : Nat
  core : Nat
deriving DecidableEq, Repr

/-- A slot of a core: 0 to 15 owner slots, 16 and 17 harvest slots (02 R20). -/
structure Place where
  core : CoreKey
  slot : Nat
deriving DecidableEq, Repr

/-- A warp. -/
structure Warp where
  key : WarpKey
  part : Nat
  place : Option Place
  role : BitVec 2
  nregs : Nat
  wres : Nat
  plim : Nat
  nback : Nat
  pbase : VA
  regs : Vector Reg 128
  preds : Vector Mask 7
  xflags : BitVec 5
  /-- the fixed-latency results that have not landed -/
  flying : List Flight
  wspill : Word
  cntCopy : Nat
  cntGather : Nat
  cntMma : Nat
  cntColl : Nat
  hzn : DWord
  /-- of each line the newest store to it whose value the warp has read (06 R137) -/
  seen : Tab Nat Nat
  exited : Mask
  paths : List Path
  defers : List Deferred
  imp : Option ImpRec
  queue : List Entry
  clock : Nat
  ended : Bool
  harvest : Bool
  parked : Bool
  revs : BitVec 16
  lentMap : Bool
deriving DecidableEq, Repr

/-- A task record (03 R73). -/
structure TaskRec where
  dinc : BitVec 16
  devt : BitVec 16
  waits : List (BitVec 16 × BitVec 16)
  taskid : BitVec 16
  harv : Bool
  tslot : Nat
  shr : Nat
  scr : Nat
  prio : Nat
  warps : Nat
  teams : Nat
  arglen : BitVec 16
  args : VA
  kdesc : VA
deriving DecidableEq, Repr

/-- A kernel descriptor (11 R242). -/
structure KDesc where
  entry : VA
  roles : BitVec 32
  plim : Nat
  nback : Nat
  wres : Nat
  regs : Nat
  minscr : Nat
  minshr : Nat
  mint : Nat
  warps : Nat
  namefp : DWord
deriving DecidableEq, Repr

/-- A crew error (23 R438). -/
structure CrewErr where
  ecode : BitVec 8
  edet : BitVec 8
  etask : BitVec 16
  eaddr : DWord
deriving DecidableEq, Repr

/-- The states of a task (04 R82). A harvest task queued at its partition is `queued`. -/
inductive Phase where
  | waiting | ready | running | blocked | saving (step3 : Bool) | evicted | resumable | held | queued
deriving DecidableEq, Repr

/-- A successor record as a lane named it by EXIT.succ, and whether its warp has ended (23 R439). -/
structure Succ where
  who : WarpKey
  lane : Nat
  addr : DWord
  ended : Bool
deriving DecidableEq, Repr

/-- A task, and the crew that runs it. -/
structure Task where
  id : Nat
  part : Nat
  job : Nat
  ctx : BitVec 6
  trec : TaskRec
  kd : KDesc
  phase : Phase
  admseq : DWord
  eprio : Nat
  rounds : Nat
  /-- order in which it became runnable -/
  readySeq : Nat
  cluster : Nat
  /-- the core of each team -/
  cores : List Nat
  shr : Store
  shrLen : Nat
  scr : List Store
  scrLen : Nat
  tile : Store
  tslot : Nat
  /-- decoder tables D0 to D7, 272 bytes each; none where the crew has no table set -/
  tables : Option (Vector (List Byte) 8)
  blockedAt : DWord
  /-- wait entries not yet satisfied, with whether each holds a wait cell (04 R92) -/
  cells : List (BitVec 16 × Word × Bool)
  /-- the records its warps named by EXIT.succ: first those of warps that have ended, in time (03 R78, 23 R439) -/
  succs : List Succ
  err : Option CrewErr
  /-- the horizon its warps had when they ended -/
  hzn : DWord
  /-- the release occurred while the save was under way -/
  woken : Bool
deriving DecidableEq, Repr

/-- A job (03 R79). -/
structure Job where
  id : Nat
  part : Nat
  fe : Nat
  ctx : BitVec 6
  seq : Word
  irq : Bool
  status : BitVec 8
  err : Option CrewErr
  hzn : DWord
deriving DecidableEq, Repr

/-- A translation context (05 R103, 10 R231) with its counts of 05 R127. -/
structure Context where
  root : DWord
  pinq : Nat
  hentry : DWord
  fills : DWord
  wbacks : DWord
deriving DecidableEq, Repr

/-- What a walk found (05 R122). -/
inductive Walk where
  | page (pa : Nat) (size : Nat) (u w x : Bool)
  | invalid (level : Nat)
  | malformed (level : Nat)
  | outside
deriving DecidableEq, Repr

/-- A result a TLB holds: it covers `size` bytes from `base`. -/
structure TlbEntry where
  ctx : BitVec 6
  base : Nat
  size : Nat
  walk : Walk
  /-- the leaf's address, and whether its D bit is known to be set -/
  leaf : Nat
  dset : Bool
deriving DecidableEq, Repr

/-- The trace buffer of a partition (10 R238). -/
structure Trace where
  base : Nat
  size : Nat
  mask : BitVec 16
  pos : Nat
deriving DecidableEq, Repr

/-- An effect held until a commit (04 R100). -/
inductive Held where
  | hostWrite (a : Nat) (bs : List Byte)
  /-- of an entry of an access queue: not acknowledged before the commit (06 R144) -/
  | peerWrite (entry : Nat) (a : Nat) (bs : List Byte) (tag : Bool)
  /-- the contribution of a COLL (09 R212) -/
  | send (op : Nat)
  | msix (fe : Nat)
deriving DecidableEq, Repr

/-- A storage whose lines an undo log covers (04 R99). -/
inductive Area where
  | hbm
  | shr (task : Nat)
  | scr (task team : Nat)
  | tile (task : Nat)
  | chip (part : Nat)
  | ws (cluster : Nat)
  /-- the registers of a warp (23 R433) -/
  | regs (w : WarpKey)
  /-- the undo log of a partition; a unit is an entry, from the newest (26 R454) -/
  | log (part : Nat)
  /-- what a checkpoint reads of a partition beside its stores (26 R453) -/
  | image (part : Nat)
  /-- the index of a cluster; a line is an entry (08 R182) -/
  | idx (cluster : Nat)
  /-- the L1 and the instruction cache of a core, the L2 of a die, what the TLBs of a cluster hold of a partition (05 R128); a
  unit is of the line cached, of the bytes translated -/
  | l1 (c : CoreKey)
  | icache (c : CoreKey)
  | l2 (die : Bool)
  | tlb (part cluster : Nat)
deriving DecidableEq, Repr

/-- The old contents of a line. -/
structure Undo where
  area : Area
  line : Nat
  bytes : List Byte
  tags : List Nat
  poison : List Nat
  bad : Bool
deriving DecidableEq, Repr

/-- A job of an engine: an operation issued and not yet complete (06 R146). -/
inductive OpPhase where
  | queued
  /-- its work is done: its own horizon, and the failure it reports -/
  | worked (ehzn : DWord) (err : Option CrewErr)
  /-- a COLL that waits for its members (09 R211): its own horizon, the card it read, how many members -/
  | collecting (ehzn : DWord) (card : List Byte) (members : Nat)
deriving DecidableEq, Repr

/-- An engine operation with what its issue fixed. -/
structure EngOp where
  id : Nat
  part : Nat
  instr : Instr
  w : WarpKey
  core : CoreKey
  slot : Nat
  /-- its counter; WTLOAD has none (03 R67) -/
  cls : Option CntClass
  scope : Scope
  /-- HZN at issue -/
  hzn : DWord
  x : VA
  /-- lanes that take part -/
  lns : Mask
  /-- the capabilities its quads held: that of A of MMA and WTLOAD, the peer set of COLL, the destinations of MDRAIN -/
  caps : List CapBits
  /-- the effective offset of its memory operand -/
  off : Nat
  /-- the row number of each lane of CPYG -/
  rows : Line
  /-- the four scale registers of MMA.e4m3 -/
  scales : List Line
  /-- the index b of MMA -/
  b : Nat
  /-- its barrier object: whether it lies in .scr, and its window offset -/
  bar : Option (Bool × Nat)
  /-- the entries of its warp's access queue it waits for (06 R146) -/
  earlier : List Nat
  phase : OpPhase
  /-- bytes its barrier update subtracts; none: whatever PBYT holds -/
  bytes : Option Nat
  /-- its place among the COLLs of its set -/
  k : Nat
  /-- the instant of the first answer that a target is gated (23 R437) -/
  gated : Option DWord
deriving DecidableEq, Repr

/-- The contributions that have reached a COLL set (09 R211). -/
structure Contribution where
  part : Nat
  set : BitVec 8
  k : Nat
  pos : Nat
  cols : BitVec 16
  data : List Word
deriving DecidableEq, Repr

/-- A record of a cluster's event queue (04 R91). -/
structure EvRec where
  part : Nat
  name : BitVec 16
  amount : Word
  /-- of a completion record, the TASKID (03 R76) -/
  taskid : Option (BitVec 16)
deriving DecidableEq, Repr

/-- A turn of a core (02 R25): the warp, its turn paths, whether it set YLD. -/
structure Turn where
  w : WarpKey
  prim : Nat
  sec : Option Nat
  yld : Bool
deriving DecidableEq, Repr

/-- A line of an instruction cache (05 R124). -/
structure ICLine where
  part : Nat
  ctx : BitVec 6
  line : Nat
  bytes : List Byte
deriving DecidableEq, Repr

/-- The range a team lends (17 R387). -/
structure Lent where
  task : Nat
  team : Nat
  off : Nat
  len : Nat
deriving DecidableEq, Repr

/-- A core. -/
structure Core where
  lfsr : Word
  turn : Option Turn
  /-- the last owner warp to issue and its slot -/
  last : Option (WarpKey × Nat)
  lastYld : Bool
  consec : Nat
  lastHarv : Option Nat
  lent : Option Lent
  /-- the cycle of its cluster, in twentieths, since which no owner warp was ready -/
  idleSince : Nat
  icache : List ICLine
deriving DecidableEq, Repr

/-- A cluster. -/
structure Cluster where
  ws : Store
  widx : Tab Nat DWord
  genCopy0 : Word
  genCopy1 : Word
  genMma : Word
  events : List EvRec
  /-- core and slot of the warp the matrix engine granted last (08 R177), and of those whose work each copy engine and
  the gather engine took last (09 R195) -/
  lastGrant : Option (Nat × Nat)
  lastCopy0 : Option (Nat × Nat)
  lastCopy1 : Option (Nat × Nat)
  lastGather : Option (Nat × Nat)
  rail : Rail
  /-- its core cycles up to the last change of its rail, in twentieths, and the instant of that change (01 R15) -/
  cycles : Nat
  railSince : Nat
  gated : Bool
deriving DecidableEq, Repr

/-- A front end (10 R220). -/
structure FrontEnd where
  part : Option Nat
  qbase : DWord
  qsize : BitVec 4
  qerr : Bool
  qen : Bool
  tail : Word
  head : Word
  cbase : DWord
  csize : BitVec 4
  chead : Word
  cidx : Word
  clbase : BitVec 5
  cllimit : BitVec 5
  ctx : BitVec 6
  /-- low halves of 64-bit registers written in two accesses (10 R219) -/
  qbaseLow : Word
  cbaseLow : Word
  /-- its interrupt waits for room among the held effects (04 R100) -/
  irqDue : Bool
  /-- the instant from which what the last write to TAIL acquired is visible (10 R221) -/
  after : DWord
  /-- the last G of its own writes to memory, and whether a write of its own is held (10 R222, 06 R144) -/
  hzn : DWord
  owes : Bool
deriving DecidableEq, Repr

/-- A crew that has completed, with its warps as they ended: what its tile memory and its registers hold still stands
until work is placed on its cluster again (05 R112). -/
structure Past where
  task : Task
  warps : List Warp
deriving DecidableEq, Repr

/-- What a checkpoint keeps of a partition (04 R98). -/
structure Image where
  warps : List Warp
  tasks : List Task
  jobs : List Job
  ops : List EngOp
  contribs : List Contribution
  events : Tab (BitVec 16) Word
  admNext : DWord
  lastPlaced : Nat
  harvestQ : List Nat
  pins : List (Nat × BitVec 6)
  clusterEvents : List (Nat × List EvRec)
  past : List Past
  colls : Tab (BitVec 8) Nat
  apertures : Vector Aperture 16
  xtables : Tab (BitVec 3) (List Byte)
  lents : List (CoreKey × Lent)
  /-- HEAD and the next entry's index of the partition's front ends [21] -/
  heads : List (Nat × Word × Word)
  /-- the epoch that the checkpoint closed -/
  epoch : Word
deriving DecidableEq, Repr

/-- The windows that a partition holds of a cluster's weight store and index (08 R180): WSROWS and WSIDX. -/
structure WsWindow where
  rows : Word
  idx : Word
deriving DecidableEq, Repr

/-- A partition. -/
structure Part where
  id : Nat
  arg : PartArg
  clusters : BitVec 32
  clpres : BitVec 32
  chgrant : BitVec 256
  chpres : BitVec 256
  /-- the partition map (05 R120): the device's unit for each GiB of the partition -/
  units : Tab Nat Nat
  lloc : Word
  lrem : Word
  flease : Word
  fskew : Word
  windows : Tab Nat WsWindow
  /-- the last G of the host's writes to its memory (10 R221) -/
  hostG : DWord
  ctxs : Tab (BitVec 6) Context
  events : Tab (BitVec 16) Word
  admNext : DWord
  lastPlaced : Nat
  harvestQ : List Nat
  apertures : Vector Aperture 16
  /-- expander tables X0 to X7 (09 R217); an unlisted one has every count zero -/
  xtables : Tab (BitVec 3) (List Byte)
  trace : Option Trace
  debug : Bool
  epoch : Word
  chip : Store
  tlb : List TlbEntry
  votes : Tab (BitVec 5) Rail
  charge : Nat
  /-- how many scheduling rounds are due (04 R81) -/
  roundsDue : Nat
  colls : Tab (BitVec 8) Nat
  -- time-sliced partitions
  active : Bool
  ckNext : DWord
  sliceEnd : DWord
  /-- a checkpoint is in progress since this instant -/
  ckBegan : Option DWord
  heldFx : List Held
  undo : List Undo
  image : Option Image
  ckFails : Nat
  failed : Bool
deriving DecidableEq, Repr

/-- What one place shows of a line: its 128 bytes, the tagged granules and the poisoned units of it, the GWCT of the
store that wrote it, and how many stores it has seen. -/
structure LineView where
  bytes : List Byte
  tags : List Nat
  poison : List Nat
  gwct : DWord
  seq : Nat
deriving DecidableEq, Repr

/-- The old contents of a line until its switch instant (06 R134). -/
structure Switch where
  inst : Nat
  old : LineView
deriving DecidableEq, Repr

/-- A byte that a warp has stored and sees by forwarding (06 R134): the warp, the address, the byte, the store, its G, and
the tag that the store leaves on the granule. -/
structure OwnByte where
  who : WarpKey
  addr : Nat
  byte : Byte
  seq : Nat
  g : Nat
  tag : Bool
deriving DecidableEq, Repr

/-- What the home of a line keeps (06 R132-R134). -/
structure LineInfo where
  gwct : DWord
  lloc : Nat
  lrem : Nat
  lfab : Nat
  sw : Option Switch
  seq : Nat
  own : List OwnByte
deriving DecidableEq, Repr

/-- Who holds a copy (06 R132). -/
inductive Holder where
  | l1 (c : CoreKey)
  | die (d : Bool)
  | fabric
deriving DecidableEq, Repr

/-- A copy of a line. -/
structure Copy where
  holder : Holder
  line : Nat
  view : LineView
  lease : Nat
deriving DecidableEq, Repr

/-- A line of an L2 (05 R109, R126, R127): owner, dirty, contexts that pin it, recency. -/
structure L2Line where
  line : Nat
  part : Nat
  ctx : BitVec 6
  dirty : Bool
  pins : List (BitVec 6)
  retain : Bool
  used : Nat
deriving DecidableEq, Repr

/-- A private line in a core's L1 (05 R106): the virtual line it holds, where that is in memory, and whether it is dirty. -/
structure L1Line where
  core : CoreKey
  part : Nat
  ctx : BitVec 6
  va : Nat
  line : Nat
  dirty : Bool
deriving DecidableEq, Repr

/-- The states of the module (10 R226). -/
inductive Boot where
  | off | rom | verified | run
deriving DecidableEq, Repr

/-- A stage of a power emergency (26 R455). -/
inductive Emergency where
  | none
  | moved (since : DWord)
  | stopped
deriving DecidableEq, Repr

/-- An error of stored bits that no access has met yet (23 R433): where, and whether the code corrects it. -/
structure Upset where
  area : Area
  unit : Nat
  correctable : Bool
deriving DecidableEq, Repr

/-- A cluster or a channel: what a retirement reports to the hypervisor (26 R460), and what corrections are counted for
(23 R433). -/
inductive Report where
  | cluster (k : Nat)
  | channel (n : Nat)
deriving DecidableEq, Repr

/-- An error of protected storage as it is counted (26 R457): for what, when, its unit, and whether it was corrected. -/
structure SoftError where
  what : Report
  wall : Nat
  area : Area
  unit : Nat
  correctable : Bool
deriving DecidableEq, Repr

/-- What moves next. Each is whole and indivisible: a word of a path issues, two words issue together (02 R26), a step
of the device takes place, time passes, a stored bit is upset. -/
inductive Move where
  | issue (w : WarpKey) (pid : Nat)
  | pair (w : WarpKey) (prim sec : Nat)
  | dev (i : Instr)
  | tick (ns : Nat)
  | upset (u : Upset)
  /-- the L1 of a core evicts a private line (05 R106) -/
  | l1Evict (c : CoreKey) (line : Nat)
deriving DecidableEq, Repr

/-- The module. -/
structure State where
  /-- the moves chosen to come next [1] -/
  agenda : List Move
  /-- the path whose word issues -/
  cur : Option (WarpKey × Nat)
  /-- the warp as both words of a dual issue read it [2] -/
  dual : Option Warp
  /-- the next number for a name -/
  fresh : Nat
  /-- how many free values have been drawn -/
  draws : Nat
  gtime : DWord
  /-- nanoseconds that have passed since power-up -/
  wall : Nat
  /-- by how much the GTIME of a die's units stands ahead [3], at most 2 ns (01 R12) -/
  skew0 : Fin 3
  skew1 : Fin 3
  boot : Boot
  clPres : BitVec 32
  chPres : BitVec 256
  chRetired : BitVec 256
  secFused : Word
  staging : Memory
  measurement : BitVec 384
  /-- the last attestation report (10 R229) -/
  report : List Byte
  secVer : Word
  mbReq : List Byte
  mbResp : List Byte
  mbBusy : Bool
  fwReq : List Byte
  fwResp : List Byte
  fwBusy : Bool
  pwrcap : Word
  /-- the power measured in each of the last microseconds of the window, the latest first (10 R235) -/
  watts : List Nat
  grants : Nat
  idle : Nat
  emergency : Emergency
  /-- since when each die exceeds its junction limit (26 R456) -/
  hot0 : Option DWord
  hot1 : Option DWord
  portsDown : BitVec 18
  /-- the peers whose homes answer gated (23 R437) -/
  gatedPeers : List Nat
  timeSrc : Option TimeSrc
  tLast : DWord
  lastPtp : Option DWord
  lastFabric : Option DWord
  lastPtm : Option DWord
  slew : Int
  offset : Nat
  /-- a source has been regained, and the offset measured since has not been below 50 ns (23 R444) -/
  regaining : Bool
  hPeers : List Nat
  /-- the hypervisor's cross-partition option (04 R97) -/
  crossHarvest : Bool
  scrubQ : List Nat
  cleanPool : List Nat
  /-- the instant at which a unit was last zeroed (06 R133) -/
  scrubbed : Tab Nat DWord
  hostMem : Memory
  /-- what the host's last read through BAR2 returned (10 R218) -/
  hostData : List Byte
  irqs : List (Fn × Nat)
  reports : List Report
  corrected : Tab Report Nat
  /-- the errors of the last 24 h, the latest first, that drive retirement (26 R457-R459) -/
  softErrors : List SoftError
  upsets : List Upset
  fes : Vector FrontEnd 16
  vfLink : BitVec 16
  parts : Tab Nat Part
  jobs : Tab Nat Job
  tasks : Tab Nat Task
  past : List Past
  warps : Tab WarpKey Warp
  cores : Tab CoreKey Core
  clusters : Tab Nat Cluster
  ops : List EngOp
  contribs : List Contribution
  hbm : Store
  lines : Tab Nat LineInfo
  copies : List Copy
  l2 : List L2Line
  l1 : List L1Line
deriving DecidableEq, Repr

/-- Why the machine stops: nothing the spec describes makes it stop, an address that is absent included. -/
inductive Fault where
deriving DecidableEq, Repr

/-- Why an instruction has no meaning. -/
inductive Refusal where
  /-- raised by exec for an instruction the model gives no meaning; safe -/
  | notModelled (mnemonic : String)
deriving DecidableEq, Repr

/-- A register as a starting warp has it (02 R40). -/
def Reg.zero : Reg := ⟨.uni 0, 0, false, 0, 0, false⟩

/-- A core that nothing has used. -/
def Core.fresh : Core := ⟨1, none, none, false, 0, none, none, 0, []⟩

/-- A cluster that nothing has used. -/
def Cluster.fresh : Cluster := ⟨.empty, [], 1, 1, 1, [], none, none, none, none, .vlo, 0, 0, false⟩

/-- A front end after reset (10 R220). -/
def FrontEnd.fresh : FrontEnd := ⟨none, 0, 0, false, false, 0, 0, 0, 0, 0, 0, 0, 0, 0, 0, 0, false, 0, 0, false⟩

/-- What a home keeps of a line never stored (06 R133). -/
def LineInfo.fresh : LineInfo := ⟨0, 0, 0, 0, none, 0, []⟩

/-- An aperture that is off. -/
def Aperture.off : Aperture := ⟨0, 0, 0⟩

/-- The module after power-up and self-test (10 R226). -/
def State.reset : State where
  agenda := []
  cur := none
  dual := none
  fresh := 1
  draws := 0
  gtime := 0
  wall := 0
  skew0 := 0
  skew1 := 0
  boot := .rom
  clPres := BitVec.allOnes 32
  chPres := BitVec.allOnes 256
  chRetired := 0
  secFused := 0
  staging := []
  measurement := 0
  report := List.replicate 256 0
  secVer := 0
  mbReq := List.replicate 256 0
  mbResp := List.replicate 256 0
  mbBusy := false
  fwReq := List.replicate 256 0
  fwResp := List.replicate 256 0
  fwBusy := false
  pwrcap := 0x03E80708
  watts := []
  grants := 8
  idle := 0
  emergency := .none
  hot0 := none
  hot1 := none
  portsDown := 0
  gatedPeers := []
  timeSrc := none
  tLast := 0
  lastPtp := none
  lastFabric := none
  lastPtm := none
  slew := 0
  offset := 0
  regaining := false
  hPeers := []
  crossHarvest := false
  scrubQ := []
  cleanPool := List.range 384
  scrubbed := []
  hostMem := []
  hostData := []
  irqs := []
  reports := []
  corrected := []
  softErrors := []
  upsets := []
  fes := Vector.replicate 16 FrontEnd.fresh
  vfLink := 0
  parts := []
  jobs := []
  tasks := []
  past := []
  warps := []
  cores := []
  clusters := []
  ops := []
  contribs := []
  hbm := .empty
  lines := []
  copies := []
  l2 := []
  l1 := []

end Sys2Proof.Machine
end

