-- ==== Sys2Proof/Machine/Ops.lean ====
section
/-! DEFINITION. The named operations over the state: its tables, time, the undo log, the homes of lines with their
leases, translation, the end of a crew, taking a trap and returning from one. -/

namespace Sys2Proof.Machine

/-! ## Tables -/

/-- The warp of a key. -/
def State.warp (s : State) (k : WarpKey) : Option Warp := s.warps.find k
/-- The state with a warp set under a key. -/
def State.putWarp (s : State) (k : WarpKey) (w : Warp) : State := { s with warps := s.warps.set k w }
/-- The state with a warp set. -/
def State.setWarp (s : State) (w : Warp) : State := { s with warps := s.warps.set w.key w }
/-- The partition of a number. -/
def State.part (s : State) (p : Nat) : Option Part := s.parts.find p
/-- The state with a partition set under a number. -/
def State.putPart (s : State) (n : Nat) (p : Part) : State := { s with parts := s.parts.set n p }
/-- The state with a partition set. -/
def State.setPart (s : State) (p : Part) : State := { s with parts := s.parts.set p.id p }
/-- The task of a number. -/
def State.task (s : State) (t : Nat) : Option Task := s.tasks.find t
/-- The state with a task set. -/
def State.setTask (s : State) (t : Task) : State := { s with tasks := s.tasks.set t.id t }
/-- The job of a number. -/
def State.job (s : State) (j : Nat) : Option Job := s.jobs.find j
/-- The state with a job set. -/
def State.setJob (s : State) (j : Job) : State := { s with jobs := s.jobs.set j.id j }
/-- A core. -/
def State.core (s : State) (c : CoreKey) : Core := (s.cores.find c).getD Core.fresh
/-- The state with a core set. -/
def State.setCore (s : State) (c : CoreKey) (x : Core) : State := { s with cores := s.cores.set c x }
/-- A cluster. -/
def State.cluster (s : State) (k : Nat) : Cluster := (s.clusters.find k).getD Cluster.fresh
/-- The state with a cluster set. -/
def State.setCluster (s : State) (k : Nat) (x : Cluster) : State := { s with clusters := s.clusters.set k x }
/-- Twentieths of a core cycle in a nanosecond (01 R12, R15): 850 MHz, 1.30 GHz. -/
def railSpeed (r : Rail) : Nat := match r with | .vlo => 17 | .vhi => 26
/-- The core cycles of a cluster since power-up, in twentieths: each at the clock of the rail in force (01 R15). -/
def State.cyclesOf (s : State) (k : Nat) : Nat :=
  let c := s.cluster k
  c.cycles + (s.wall - c.railSince) * railSpeed c.rail
/-- A new number for a name. -/
def State.name (s : State) : Nat × State := (s.fresh, { s with fresh := s.fresh + 1 })

/-- The value that the next draw of an open value gives. -/
def State.draw (s : State) : DWord × State := (Config.freeValue s.draws, { s with draws := s.draws + 1 })

/-- A path that stands at an address, its run over. -/
def Path.stand (p : Path) (pc : VA) (wait : Wait) (since : DWord) : Path :=
  { p with pc := pc, run := [], begun := false, runId := 0, behind := [], holds := [], wait := wait, retry := none, since := since }

/-- The lanes that wait at a JOIN or a cross-lane instruction lose their arrival: they issue it again (14 R303). -/
def Path.unarrive (p : Path) (since : DWord) : Path :=
  match p.wait with
  | .join _ | .cross .. => p.stand p.pc .none since
  | _ => p

/-- A path of a warp. -/
def Warp.path (w : Warp) (pid : Nat) : Option Path := w.paths.find? (·.pid == pid)
/-- The warp with a path set. -/
def Warp.setPath (w : Warp) (p : Path) : Warp := { w with paths := w.paths.map (fun q => if q.pid == p.pid then p else q) }
/-- The warp without a path. -/
def Warp.dropPath (w : Warp) (pid : Nat) : Warp := { w with paths := w.paths.filter (·.pid != pid) }
/-- Changes a warp, where it exists. -/
def State.onWarp (s : State) (k : WarpKey) (f : Warp → Warp) : State :=
  match s.warp k with
  | some w => s.putWarp k (f w)
  | none => s
/-- Changes a path, where it exists. -/
def State.onPath (s : State) (k : WarpKey) (pid : Nat) (f : Path → Path) : State :=
  s.onWarp k (fun w => match w.path pid with | some p => w.setPath (f p) | none => w)
/-- Changes a task, where it exists. -/
def State.onTask (s : State) (t : Nat) (f : Task → Task) : State :=
  match s.task t with
  | some x => { s with tasks := s.tasks.set t (f x) }
  | none => s
/-- Changes a partition, where it exists. -/
def State.onPart (s : State) (p : Nat) (f : Part → Part) : State :=
  match s.part p with
  | some x => s.putPart p (f x)
  | none => s
/-- Changes a job, where it exists. -/
def State.onJob (s : State) (j : Nat) (f : Job → Job) : State :=
  match s.job j with
  | some x => { s with jobs := s.jobs.set j (f x) }
  | none => s

/-- The context in which a warp runs (05 R103). -/
def State.ctxOf (s : State) (w : Warp) : BitVec 6 :=
  match s.task w.key.task with
  | some t => t.ctx
  | none => 0

/-- A path runs in privileged mode: it is a handler path (13 R284). -/
def Path.privileged (p : Path) : Bool := p.frame.isSome

/-! ## Time (06 R130) -/

/-- The die of a cluster (01 R7): die 1 where true. -/
def dieOf (cluster : Nat) : Bool := decide (16 ≤ cluster)
/-- GTIME as the units of a die read it. -/
def State.now (s : State) (die : Bool) : Nat := s.gtime.toNat + (if die then s.skew1 else s.skew0).val
/-- GTIME of the core of a warp; of a warp without a place, the module's. -/
def State.nowAt (s : State) (w : Warp) : Nat :=
  match w.place with
  | some pl => s.now (dieOf pl.core.cluster)
  | none => s.gtime.toNat
/-- The larger of a horizon and a completion time (06 R138). -/
def joinHzn (h : DWord) (g : Nat) : DWord := if h.toNat < g then BitVec.ofNat 64 g else h

/-- The two largest of a list. -/
def twoLargest (l : List Nat) : Nat :=
  let (a, b) := l.foldl (fun (a, b) x => if a < x then (x, a) else if b < x then (a, x) else (a, b)) (0, 0)
  a + b
/-- The holdover term of this device (23 R443, R444): once a source is regained, until the offset is below 50 ns, at least the
offset. -/
def State.holdover (s : State) : Nat :=
  max (if s.regaining then s.offset else 0) ((s.gtime.toNat - s.tLast.toNat - 1000000000) / 1000000)
/-- The effective FSKEW of a partition (23 R443). -/
def State.fskew (s : State) (p : Part) : Nat :=
  min (p.fskew.toNat + twoLargest (s.holdover :: s.hPeers)) 0xFFFFF

/-! ## Stores and the undo log (04 R99) -/

/-- The storage of an area. -/
def State.area (s : State) : Area → Store
  | .hbm => s.hbm
  | .shr t => match s.task t with | some x => x.shr | none => .empty
  | .scr t k => match s.task t with | some x => x.scr.getD k .empty | none => .empty
  | .tile t => match s.task t with | some x => x.tile | none => .empty
  | .chip p => match s.part p with | some x => x.chip | none => .empty
  | .ws k => (s.cluster k).ws
  | .regs _ | .log _ | .image _ | .idx _ | .l1 _ | .icache _ | .l2 _ | .tlb .. => .empty

/-- The state with the storage of an area set. -/
def State.setArea (s : State) (a : Area) (st : Store) : State :=
  match a with
  | .hbm => { s with hbm := st }
  | .shr t => s.onTask t (fun x => { x with shr := st })
  | .scr t k => s.onTask t (fun x => { x with scr := x.scr.set k st })
  | .tile t => s.onTask t (fun x => { x with tile := st })
  | .chip p => s.onPart p (fun x => { x with chip := st })
  | .ws k => s.setCluster k { s.cluster k with ws := st }
  | .regs _ | .log _ | .image _ | .idx _ | .l1 _ | .icache _ | .l2 _ | .tlb .. => s

/-- The old contents of a line of an area; of an index, those of an entry (08 R182). -/
def State.lineUndo (s : State) (a : Area) (line : Nat) : Undo :=
  let st := s.area a
  match a with
  | .idx k => { area := a, line := line, bytes := leBytes 8 (((s.cluster k).widx.find line).getD 0).toNat, tags := [], poison := [], bad := false }
  | _ =>
  { area := a, line := line, bytes := st.mem.bytes (128 * line) 128
    tags := st.tags.filter (fun g => g / 8 == line), poison := st.poison.filter (fun u => u / 4 == line), bad := false }

/-- Logs the line, where the partition is time-sliced and the epoch has not logged it. -/
def State.logLine (s : State) (part : Nat) (a : Area) (line : Nat) : State :=
  s.onPart part (fun p =>
    if p.arg.sliced && !p.undo.any (fun u => u.area == a && u.line == line) then
      { p with undo := s.lineUndo a line :: p.undo } else p)

/-- Writes bytes of an area for a partition. -/
def State.writeArea (s : State) (part : Nat) (a : Area) (off : Nat) (bs : List Byte) : State :=
  let s := (blocks 128 off bs.length).foldl (fun s l => s.logLine part a l) s
  s.setArea a ((s.area a).write off bs)

/-- Units of an area upset before are whole again where every word of them has been written (23 R433). -/
def State.renew (s : State) (a : Area) (written : Nat → Bool) : State :=
  { s with upsets := s.upsets.filter (fun u => !(u.area == a && (List.range 8).all (fun i => written (32 * u.unit + 4 * i)))) }

/-! ## Homes of global lines -/

/-- A partition-physical address as a device-physical one (05 R120). -/
def Part.phys (p : Part) (pa : Nat) : Option Nat :=
  (p.units.find (pa / 2 ^ 30)).map (fun u => u * 2 ^ 30 + pa % 2 ^ 30)

/-- A device-physical address is homed on a peer (DESIGN CHOICE [13]). -/
def isPeer (dev : Nat) : Bool := decide (384 * 2 ^ 30 ≤ dev)

/-- The peer device that homes a device address: each has the address space of one module above that of this one
(DESIGN CHOICE [13]). -/
def peerOf (dev : Nat) : Nat := dev / (384 * 2 ^ 30) - 1

/-- Every fabric port is down (23 R437). -/
def State.portsOut (s : State) : Bool := s.portsDown == BitVec.allOnes 18

/-- The home of an address answers gated, or cannot be reached (23 R437). -/
def State.homeGated (s : State) (dev : Nat) : Bool := isPeer dev && (s.portsOut || s.gatedPeers.contains (peerOf dev))

/-- The channels of a partition's quota, ascending. -/
def Part.channels (p : Part) : List Nat := (List.range 256).filter p.chgrant.getLsbD

/-- The channel of a line (01 R19): consecutive 64 KiB pages lie on consecutive channels of the quota (the function is
DESIGN CHOICE [13]). -/
def Part.channel (p : Part) (line : Nat) : Nat := let c := p.channels; c.getD (line / 512 % c.length) 0

/-- The die at whose L2 a line is homed (01 R8). -/
def Part.homeDie (p : Part) (line : Nat) : Bool := decide (128 ≤ p.channel line)

/-- The GTIME of the home of a line. -/
def State.homeTime (s : State) (p : Part) (line : Nat) : Nat :=
  if isPeer (128 * line) then s.gtime.toNat else s.now (p.homeDie line)

/-- The GTIME of the home of a line of a partition, by its number. -/
def State.timeAt (s : State) (part line : Nat) : Nat :=
  match s.part part with
  | some p => s.homeTime p line
  | none => s.gtime.toNat

/-- What the home keeps of a line: one never stored since its unit was zeroed has the GTIME of that (06 R133). -/
def State.lineInfo (s : State) (line : Nat) : LineInfo :=
  (s.lines.find line).getD { LineInfo.fresh with gwct := (s.scrubbed.find (line / 2 ^ 23)).getD 0 }

/-- The line as it stands at its home. -/
def State.homeNow (s : State) (line : Nat) : LineView :=
  let li := s.lineInfo line
  { bytes := s.hbm.mem.bytes (128 * line) 128
    tags := s.hbm.tags.filter (fun g => g / 8 == line)
    poison := s.hbm.poison.filter (fun u => u / 4 == line)
    gwct := li.gwct, seq := li.seq }

/-- The line as readers at its home are served it at an instant: the old value before the switch (06 R134). -/
def State.homeView (s : State) (line t : Nat) : LineView :=
  match (s.lineInfo line).sw with
  | some sw => if t < sw.inst then sw.old else s.homeNow line
  | none => s.homeNow line

/-- What an access read: bytes, tag of the granule, whether a byte was poisoned, GWCT. -/
structure ReadVal where
  bytes : List Byte
  tag : Bool
  poison : Bool
  g : Nat
deriving DecidableEq, Repr

/-- Reads n bytes at a device address from a view, with a warp's own newer stores forwarded (06 R134, 16 R346). -/
def LineView.read (v : LineView) (own : List OwnByte) (who : Option WarpKey) (a n : Nat) : ReadVal :=
  let newer := own.filter (fun o => who == some o.who && v.seq < o.seq)
  let mine := newer.filter (fun o => a ≤ o.addr && o.addr < a + n)
  { bytes := (List.range n).map (fun i => mine.foldl (fun b o => if o.addr == a + i then o.byte else b) (v.bytes.getD (a % 128 + i) 0))
    tag := (newer.filter (fun o => o.addr / 16 == a / 16)).foldl (fun _ o => o.tag) (v.tags.contains (a / 16))
    poison := (blocks 32 a n).any v.poison.contains
    g := mine.foldl (fun g o => max g o.g) v.gwct.toNat }

/-- A store of bytes within one line is accepted at its home at instant P: the switch instant, G and the forwarded
bytes (06 R134), with the tag the store leaves. The bytes themselves are written by the caller. -/
def State.homeAccept (s : State) (dev : Nat) (bs : List Byte) (who : Option WarpKey) (t : Nat) (tag : Bool := false) : State × Nat :=
  let line := dev / 128
  let li := s.lineInfo line
  let S := max t li.lloc
  let g := max S (max li.lrem li.lfab)
  let sw : Option Switch :=
    if S ≤ t then none
    else match li.sw with
      | some sw => if t < sw.inst then some sw else some ⟨S, s.homeNow line⟩
      | none => some ⟨S, s.homeNow line⟩
  let own := li.own.filter (fun o => t < o.g)
  let own := match who with
    | some k => own ++ (bs.zip (List.range bs.length)).map (fun (b, i) => ⟨k, dev + i, b, li.seq + 1, g, tag⟩)
    | none => own
  let li := { li with gwct := BitVec.ofNat 64 g, sw := sw, seq := li.seq + 1, own := if g ≤ t then [] else own }
  ({ s with lines := s.lines.set line li }, g)

/-- Performs a store of bytes within one line at its home, at instant P (06 R134), and gives its G. -/
def State.homeStore (s : State) (part : Nat) (dev : Nat) (bs : List Byte) (who : Option WarpKey) (t : Nat) (tag : Bool := false) :
    State × Nat :=
  let (s, g) := s.homeAccept dev bs who t tag
  (s.writeArea part .hbm dev bs, g)

/-- Writes a trace record, where the partition's trace enables its kind (10 R238, R239); the buffer lies at
partition-physical addresses (DESIGN CHOICE [14]). -/
def State.trace (s : State) (part kind cluster core slot data : Nat) : State :=
  match s.part part with
  | none => s
  | some p =>
    match p.trace with
    | none => s
    | some t =>
      if t.size < 32 || kind < 1 || 11 < kind || !t.mask.getLsbD kind then s
      else
        let w := s.gtime.toNat + kind * 2 ^ 64 + cluster * 2 ^ 72 + core * 2 ^ 80 + slot * 2 ^ 87 + p.epoch.toNat * 2 ^ 96
          + data * 2 ^ 128
        let s := s.putPart part { p with trace := some { t with pos := (t.pos + 32) % (t.size / 32 * 32) } }
        match p.phys (t.base + t.pos) with
        | none => s
        | some dev =>
          let bs := leBytes 32 w
          let (s, _) := s.homeAccept dev bs none (s.homeTime p (dev / 128))
          s.setArea .hbm (s.hbm.write dev bs)

/-- Sets the tag that a STC or GRANT writes with its 16 bytes. -/
def State.setHbmTag (s : State) (dev : Nat) (t : Bool) : State := { s with hbm := s.hbm.setTag dev t }

/-- The colour set of a line in its L2 (05 R109): die, colour, set index. -/
def Part.l2Set (p : Part) (line : Nat) : Bool × Nat × Nat :=
  let d := p.homeDie line
  let cols := (List.range 48).filter (if d then p.arg.l2col1 else p.arg.l2col0).getLsbD
  (d, cols.getD (line / 1024 % 2048 % cols.length) 0, line % 1024)

/-- The fill counts of a context. -/
def Part.chargeTraffic (p : Part) (ctx : BitVec 6) (fill wback : Bool) : Part :=
  match p.ctxs.find ctx with
  | some c =>
    { p with ctxs := p.ctxs.set ctx { c with
        fills := c.fills + (if fill then 1 else 0), wbacks := c.wbacks + (if wback then 1 else 0) } }
  | none => p

/-- The least recent line that may leave a set: unhinted lines before retained ones, pinned ones never. -/
def l2Victim (set : List L2Line) : Option L2Line :=
  let free := set.filter (fun l => l.pins.isEmpty)
  let pool := let u := free.filter (fun l => !l.retain); if u.isEmpty then free else u
  pool.foldl (fun b l => match b with | none => some l | some x => if l.used < x.used then some l else b) none

/-- The lines of a set of an L2. -/
def State.l2Lines (s : State) (p : Part) (key : Bool × Nat × Nat) : List L2Line :=
  s.l2.filter (fun l => l.part == p.id && !isPeer (128 * l.line) && p.l2Set l.line == key)

/-- The windows of a partition in a cluster's weight store (08 R180). -/
def Part.window (p : Part) (cluster : Nat) : WsWindow := (p.windows.find cluster).getD ⟨0, 0⟩

/-- An access of a context reaches the home L2 of a line (05 R127), under a cache hint (13 R275). -/
def State.l2Touch (s : State) (part : Nat) (ctx : BitVec 6) (line : Nat) (write : Bool) (ch : Nat) : State :=
  if isPeer (128 * line) then s
  else match s.part part with
  | none => s
  | some p =>
    match s.l2.find? (fun l => l.line == line) with
    | some l =>
      let l := { l with used := s.fresh, ctx := if write then ctx else l.ctx, dirty := l.dirty || write }
      { s with fresh := s.fresh + 1, l2 := s.l2.map (fun x => if x.line == line then l else x) }
    | none =>
      if ch == 4 then (if write then s else s.putPart part (p.chargeTraffic ctx true false))
      else
        let key := p.l2Set line
        let set := s.l2Lines p key
        let out := if set.length < 16 then none else l2Victim set
        let p := p.chargeTraffic ctx true false
        let p := match out with
          | some v => if v.dirty then p.chargeTraffic v.ctx false true else p
          | none => p
        let l2 := match out with
          | some v => s.l2.filter (fun l => l.line != v.line)
          | none => s.l2
        let new : L2Line := { line := line, part := part, ctx := ctx, dirty := write, pins := [], retain := ch == 2,
                              used := if ch == 1 then 0 else s.fresh }
        { s.putPart part p with fresh := s.fresh + 1, l2 := new :: l2 }

/-- An access under a hint: with `next-line` the following line is fetched too (13 R275). -/
def State.l2Access (s : State) (part : Nat) (ctx : BitVec 6) (line : Nat) (write : Bool) (ch : Nat) : State :=
  let s := s.l2Touch part ctx line write ch
  if ch == 5 && !isPeer (128 * line) then s.l2Touch part ctx (line + 1) false 0 else s

/-- An access reaches a private line in the L1 of a core (05 R106): one that is not there is filled from its home L2, and one
that is written becomes dirty before the write is complete (05 R129). -/
def State.l1Access (s : State) (c : CoreKey) (part : Nat) (ctx : BitVec 6) (va line : Nat) (write : Bool) (ch : Nat) : State :=
  if s.l1.any (fun x => x.core == c && x.line == line) then
    if write then { s with l1 := s.l1.map (fun x => if x.core == c && x.line == line then { x with dirty := true } else x) } else s
  else
    let s := s.l2Access part ctx line false ch
    { s with l1 := ⟨c, part, ctx, va, line, write⟩ :: s.l1 }

/-- The private lines that `which` names leave their L1s, a dirty one written back to its home L2 (05 R106). -/
def State.writeBack (s : State) (which : L1Line → Bool) : State :=
  let s := (s.l1.filter (fun x => which x && x.dirty)).foldl (fun s x => s.l2Access x.part x.ctx x.line true 0) s
  { s with l1 := s.l1.filter (fun x => !which x) }

/-- A private line lies in the region of a warp (05 R104). -/
def Warp.hasPrivate (w : Warp) (x : L1Line) : Bool :=
  x.part == w.part && decide ((x.va + 2 ^ 50 - w.pbase.toNat / 128) % 2 ^ 50 < w.plim + w.nback)

/-- The copy of a line that a holder may use at its own GTIME (06 R132). -/
def State.copyOf (s : State) (h : Holder) (line t : Nat) : Option Copy :=
  s.copies.find? (fun c => c.holder == h && c.line == line &&
    (match h with | .fabric => t < c.lease | _ => t + 2 < c.lease))

/-- Who would hold a copy that a load at a scope makes of a line, with its duration (06 R132). A fabric copy of a device is
one for both of its dies (DESIGN CHOICE [103]). -/
def State.holderFor (s : State) (p : Part) (c : CoreKey) (scope : Scope) (line : Nat) : Option (Holder × Nat) :=
  let d := dieOf c.cluster
  if isPeer (128 * line) then
    if scope.code.toNat < Scope.peer.code.toNat && p.flease.toNat != 0 && s.fskew p < 0xFFFFF
    then some (.fabric, p.flease.toNat) else none
  else if p.homeDie line == d then
    if scope.code.toNat < Scope.die.code.toNat && p.lloc.toNat != 0 then some (.l1 c, p.lloc.toNat) else none
  else
    if scope.code.toNat < Scope.device.code.toNat && p.lrem.toNat != 0 then some (.die d, p.lrem.toNat) else none

/-- Grants a lease on a line at its home: a copy of the value served, whose lease ends no later than a pending switch
(06 R132, R134). -/
def State.grantLease (s : State) (h : Holder) (line t dur : Nat) : State :=
  let li := s.lineInfo line
  let e := match li.sw with
    | some sw => if t < sw.inst then min (t + dur) sw.inst else t + dur
    | none => t + dur
  let li := match h with
    | .l1 _ => { li with lloc := max li.lloc e }
    | .die _ => { li with lrem := max li.lrem e }
    | .fabric => { li with lfab := max li.lfab e }
  { s with
    copies := { holder := h, line := line, view := s.homeView line t, lease := e }
      :: s.copies.filter (fun c => !(c.holder == h && c.line == line))
    lines := s.lines.set line li }

/-- The tag of a peer's granule as a partition sees it: that of its last held write there. -/
def Part.heldTag (p : Part) (a : Nat) (t : Bool) : Bool :=
  p.heldFx.foldl (fun t h => match h with
    | .peerWrite _ x ys g => if (blocks 16 x ys.length).contains (a / 16) then g else t
    | _ => t) t

/-- What a partition sees of a peer's bytes: its own held writes at once (04 R100). -/
def Part.heldOver (p : Part) (a : Nat) (bs : List Byte) : List Byte :=
  (bs.zip (List.range bs.length)).map (fun (b, i) =>
    p.heldFx.foldl (fun b h => match h with
      | .peerWrite _ x ys _ => if x ≤ a + i && a + i < x + ys.length then ys.getD (a + i - x) b else b
      | _ => b) b)

/-- A load at a scope reads at its line's home, whatever copy there is (06 R132): at .device or wider; and at .die or wider,
where the copy is older than a value its warp has read (06 R137). -/
def State.readsHome (s : State) (who : Option WarpKey) (scope : Scope) (line : Nat) (cp : Copy) : Bool :=
  decide (Scope.device.code.toNat ≤ scope.code.toNat)
    || (decide (Scope.die.code.toNat ≤ scope.code.toNat) && (match who.bind s.warp with
      | some w => decide (cp.view.seq < (w.seen.find line).getD 0)
      | none => false))

/-- A warp has read a value of a line (06 R137): it is kept of a line whose home is not on the warp's die, of which alone a
load at .die can meet a copy. -/
def State.noteRead (s : State) (p : Part) (c : CoreKey) (who : Option WarpKey) (line seq : Nat) : State :=
  match who with
  | none => s
  | some k =>
    if !isPeer (128 * line) && p.homeDie line == dieOf c.cluster then s
    else s.onWarp k (fun w => { w with seen := w.seen.set line (max seq ((w.seen.find line).getD 0)) })

/-- A load of n bytes within one line reaches the holder of its line and is served there (06 R132, R133). -/
def State.serveLoad (s : State) (part : Nat) (ctx : BitVec 6) (c : CoreKey) (who : Option WarpKey) (dev n : Nat)
    (scope : Scope) (ch : Nat) : State × ReadVal :=
  match s.part part with
  | none => (s, ⟨List.replicate n 0, false, false, 0⟩)
  | some p =>
    let line := dev / 128
    let kind := s.holderFor p c scope line
    let hit := match kind with
      | some (h, _) => (s.copyOf h line (s.now (dieOf c.cluster))).filter (fun cp => !s.readsHome who scope line cp)
      | none => none
    match hit with
    | some cp => (s.noteRead p c who line cp.view.seq, cp.view.read (s.lineInfo line).own who dev n)
    | none =>
      let t := s.homeTime p line
      let old := s.homeView line t
      let v := old.read (s.lineInfo line).own who dev n
      let v := if isPeer dev then { v with bytes := p.heldOver dev v.bytes, tag := p.heldTag dev v.tag } else v
      let s := (s.noteRead p c who line old.seq).l2Access part ctx line false ch
      match kind with
      | some (.l1 k, dur) => (if ch == 3 then s else s.grantLease (.l1 k) line t dur, v)
      | some (h, dur) => (s.grantLease h line t dur, v)
      | none => (s, v)

/-- A global store removes the line from the storing core's L1 (06 R134). -/
def State.dropL1 (s : State) (c : CoreKey) (line : Nat) : State :=
  { s with copies := s.copies.filter (fun x => !(x.holder == .l1 c && x.line == line)) }

/-! ## Translation (05 R118-R123) -/

/-- How an address is used. -/
inductive Use where
  | read | write | exec
deriving DecidableEq, Repr

/-- What a walk gives: the entries it reads, those in which it sets A, the result with the range it covers and the leaf's
address; or the entries read up to a poisoned one. -/
inductive WalkOut where
  | found (reads seen : List Nat) (base size : Nat) (w : Walk) (leaf : Nat)
  | poisoned (reads : List Nat)
deriving DecidableEq, Repr

/-- log2 of the range that an entry of a level maps; above the levels, that of a root. -/
def levelBits : Nat → Nat
  | 0 => 16 | 1 => 21 | 2 => 30 | 3 => 39 | 4 => 48 | _ => 57
/-- Bytes of the table that an entry of a level names. -/
def tableBytes (level : Nat) : Nat := if level = 1 then 512 else 8192

/-- An entry as its home shows it to a walker, a load at scope .device (05 R121). -/
def State.tableEntry (s : State) (p : Part) (dev : Nat) : ReadVal :=
  (s.homeView (dev / 128) (s.homeTime p (dev / 128))).read [] none dev 16

/-- Walks from a table at a level downwards (05 R118, R119). -/
def State.walkFrom (s : State) (p : Part) (va : Nat) : Nat → Nat → List Nat → List Nat → WalkOut
  | fuel, table, reads, seen =>
    let level := fuel
    let bits := levelBits level
    let base := va / 2 ^ bits * 2 ^ bits
    let idx := va / 2 ^ bits % (if level = 0 then 32 else 512)
    match p.phys (table + 16 * idx) with
    | none => .found reads seen (va / 2 ^ levelBits (level + 1) * 2 ^ levelBits (level + 1)) (2 ^ levelBits (level + 1)) .outside 0
    | some dev =>
      let v := s.tableEntry p dev
      let reads := reads ++ [dev]
      if v.poison then .poisoned reads
      else
        let e := leNat (v.bytes.take 8)
        let x := leNat (v.bytes.drop 8)
        let leaf := e / 2 % 2 == 1
        let addr := e / 256 % 2 ^ 40 * 256
        if e % 2 == 0 then .found reads seen base (2 ^ bits) (.invalid level) 0
        else if e / 2 ^ 48 != 0 || (leaf && 3 ≤ level) || (!leaf && level == 0)
            || (if leaf then x / 8 != 0 || (x / 2 % 2 == 1 && x / 4 % 2 == 1) || addr % 2 ^ bits != 0
                else x != 0 || addr % tableBytes level != 0) then
          .found reads seen base (2 ^ bits) (.malformed level) 0
        else if leaf then
          match p.phys addr with
          | some _ => .found reads (seen ++ [dev]) base (2 ^ bits)
              (.page addr (2 ^ bits) (x % 2 == 1) (x / 2 % 2 == 1) (x / 4 % 2 == 1)) dev
          | none => .found reads (seen ++ [dev]) base (2 ^ bits) .outside 0
        else match fuel with
          | 0 => .found reads seen base (2 ^ bits) (.malformed level) 0
          | k + 1 => State.walkFrom s p va k addr reads (seen ++ [dev])

/-- A word of an entry as the last store left it at its home. -/
def State.tableWord (s : State) (dev : Nat) : Nat := leNat (s.hbm.mem.bytes dev 8)

/-- ORs a bit into an entry at its home, where it is clear (05 R121). -/
def State.orEntry (s : State) (part : Nat) (ctx : BitVec 6) (dev bit : Nat) : State :=
  let e := s.tableWord dev
  if e.testBit bit then s
  else ((s.l2Touch part ctx (dev / 128) true 0).homeStore part dev (leBytes 8 (e + 2 ^ bit)) none (s.timeAt part (dev / 128))).1

/-- A walk for an address: the entries are read through the home L2 (05 R127), A set along the way, the result held (05
R121, R122). -/
def State.walk (s : State) (part : Nat) (ctx : BitVec 6) (va : Nat) : State × Option TlbEntry :=
  match s.part part with
  | none => (s, none)
  | some p =>
    match p.ctxs.find ctx with
    | none => (s, none)
    | some c =>
      let fill := fun (s : State) (reads : List Nat) => reads.foldl (fun s dev => s.l2Touch part ctx (dev / 128) false 0) s
      match s.walkFrom p va 4 c.root.toNat [] [] with
      | .poisoned reads => (fill s reads, none)
      | .found reads seen base size w leaf =>
        let s := seen.foldl (fun s dev => s.orEntry part ctx dev 2) (fill s reads)
        let e : TlbEntry := { ctx := ctx, base := base, size := size, walk := w, leaf := leaf
                              dset := (s.tableWord leaf).testBit 3 }
        (s.onPart part (fun p =>
          { p with tlb := e :: p.tlb.filter (fun x => !(x.ctx == ctx && x.base == base && x.size == size)) }), some e)

/-- The result a TLB holds for an address. -/
def Part.tlbHit (p : Part) (ctx : BitVec 6) (va : Nat) : Option TlbEntry :=
  p.tlb.find? (fun e => e.ctx == ctx && e.base ≤ va && va < e.base + e.size)

/-- The translation of an address: the code and DETAIL of the fault (23 R431), or the device-physical address. -/
def State.translate (s : State) (part : Nat) (ctx : BitVec 6) (va : Nat) (use : Use) (priv : Bool) :
    State × Except (Nat × Nat) Nat :=
  match s.part part with
  | none => (s, .error (0x0A, 1))
  | some p =>
    let (s, e) := match p.tlbHit ctx va with
      | some e => (s, some e)
      | none => s.walk part ctx va
    match e with
    | none => (s, .error (0x14, 4))
    | some e =>
      match e.walk with
      | .invalid l => (s, .error (0x08, l))
      | .malformed l => (s, .error (0x09, l))
      | .outside => (s, .error (0x0A, 1))
      | .page pa size u w x =>
        match p.phys (pa + va % size) with
        | none => (s, .error (0x0A, 1))
        | some dev =>
          if !u && !priv then (s, .error (0x0A, 4))
          else match use with
            | .read => (s, .ok dev)
            | .exec => if x then (s, .ok dev) else (s, .error (0x0A, 3))
            | .write =>
              if !w then (s, .error (0x0A, 2))
              else if e.dset then (s, .ok dev)
              else
                let s := s.orEntry part ctx e.leaf 3
                (s.onPart part (fun p => { p with
                  tlb := p.tlb.map (fun x => if x == e then { x with dset := true } else x) }), .ok dev)

/-- Drops the held translations that overlap a range of a context, or all of the context's (05 R123). -/
def State.shootdown (s : State) (part : Nat) (ctx : BitVec 6) (range : Option (Nat × Nat)) : State :=
  s.onPart part (fun p => { p with
    tlb := p.tlb.filter (fun e => !(e.ctx == ctx && (match range with
      | none => true
      | some (a, len) => decide (e.base < a + len) && decide (a < e.base + e.size)))) })

/-! ## Ends of crews, parking, the handler -/

/-- Records the first crew error of a crew and of its job; the job ends with status 4 (23 R438). -/
def State.crewError (s : State) (t : Task) (e : CrewErr) : State :=
  let s := s.onTask t.id (fun x => { x with err := some (x.err.getD e) })
  s.onJob t.job (fun j => { j with status := 4, err := some (j.err.getD e) })

/-- The path is a handler path: it has a frame, and is no breakpoint group that the debug agent holds. -/
def Path.handler (p : Path) : Bool := p.frame.isSome && p.wait != .debug

/-- The warp has a handler path. -/
def Warp.inHandler (w : Warp) : Bool := w.paths.any Path.handler

/-- Trap frames held on a core (21 R411, R417): one for a handler, one for each held breakpoint group. -/
def State.framesHeld (s : State) (c : CoreKey) : Nat :=
  (s.warps.vals.filter (fun w => w.place.any (·.core == c))).foldl
    (fun n w => n + (if w.inHandler then 1 else 0) + (w.paths.filter (fun p => p.wait == .debug)).length) 0

/-- Changes the frame of the warp's handler, which all its paths share. -/
def Warp.onFrame (w : Warp) (f : Frame → Frame) : Warp :=
  { w with paths := w.paths.map (fun p => if p.handler then { p with frame := p.frame.map f } else p) }

/-- The deferred groups of a warp are released, each a path at its instruction (21 R415): in ascending order of the
instant at which they trapped, then of their lowest lane. -/
def State.releaseDefers (s : State) (k : WarpKey) : State :=
  match s.warp k with
  | none => s
  | some w =>
    let low : Deferred → Nat := fun d => match d.lns.lowest with | some l => l.val | none => 32
    let ds := sortBy (fun a b => a.since < b.since || (a.since == b.since && low a ≤ low b)) w.defers
    let s := s.putWarp k { w with defers := [] }
    (ds.zip (List.range ds.length)).foldl (fun s (d, i) =>
      let (pid, s) := s.name
      s.onWarp k (fun w => { w with paths := w.paths ++
        [{ Path.new pid d.lns d.x s.gtime with retry := some i }] })) s

/-- A frame of a core has been freed: the deferred groups of its warps without a handler are released (21 R415). -/
def State.frameFreed (s : State) (c : CoreKey) : State :=
  (s.warps.vals.filter (fun w => w.place.any (·.core == c) && !w.inHandler && !w.defers.isEmpty)).foldl
    (fun s w => s.releaseDefers w.key) s

/-- A frame of the core of a warp has been freed. -/
def State.freedBy (s : State) (k : WarpKey) : State :=
  match (s.warp k).bind (·.place) with
  | some pl => s.frameFreed pl.core
  | none => s.releaseDefers k

/-- A warp ended at once: no lane, no path, no deferred group. -/
def Warp.kill (w : Warp) : Warp := { w with exited := Mask.all, paths := [], defers := [], imp := none, ended := true }

/-- The harvest warps of a crew: those of its partition that stand on a core where it has a warp (DEDUCED [133]). -/
def State.harvestOf (s : State) (t : Task) : List Warp :=
  let cores := (s.warps.vals.filter (fun w => w.key.task == t.id)).filterMap (fun w => w.place.map (·.core))
  s.warps.vals.filter (fun w => w.part == t.part && w.key.task != t.id && !w.ended && (match w.place with
    | some pl => decide (16 ≤ pl.slot) && cores.contains pl.core
    | none => false))

/-- Ends a crew as HALT does (17 R395, 26 R451), and its harvest warps with it, whose state is discarded: their tasks
complete as it does (DEDUCED [133]). A harvest warp ends alone. -/
def State.endCrew (s : State) (k : WarpKey) (ecode edet : Nat) (eaddr : DWord) : State :=
  match s.task k.task with
  | none => s
  | some t =>
    let err : CrewErr := { ecode := BitVec.ofNat 8 ecode, edet := BitVec.ofNat 8 edet, etask := t.trec.taskid, eaddr := eaddr }
    let lost := if t.trec.harv then [] else s.harvestOf t
    let s := lost.foldl (fun s w => match s.task w.key.task with | some u => s.crewError u err | none => s) (s.crewError t err)
    let hit := fun (x : WarpKey) => if t.trec.harv then x == k else x.task == k.task || lost.any (·.key == x)
    let cores := (s.warps.vals.filter (fun w => hit w.key && w.paths.any (fun p => p.frame.isSome))).filterMap (fun w => w.place.map (·.core))
    let s := { s with warps := s.warps.map (fun (x, w) => if hit x then (x, w.kill) else (x, w)) }
    cores.foldl (fun s c => s.frameFreed c) s

/-- XCAUSE of a cause (21 R413). -/
def Cause.word (c : Cause) : Word := BitVec.ofBool c.imp ++ 0#7 ++ c.detail ++ 0#8 ++ c.code

/-- The frame of a parked sub-warp at handler entry (21 R411, R413). -/
def Frame.enter (id : Nat) (xpc : DWord) (c : Cause) (lns : Mask) : Frame :=
  { id := id, xpc := xpc, xaddr := c.xaddr, xcause := c.word, xstat := c.xstat, xmask := lns, ks := Vector.replicate 8 0 }

/-- Lanes of a warp that trap stand deferred (21 R415): it has a handler path, or its core's eight frames are held. -/
def State.mustDefer (s : State) (w : Warp) : Bool :=
  w.inHandler || (match w.place with
    | some pl => decide (8 ≤ s.framesHeld pl.core)
    | none => false)

/-- TAKING A TRAP (21 R407, R410-R412, R415): the lanes of one cause, already taken off their path, at the instruction
at `x`, to resume at `xpc`. They take a frame and enter the handler in privileged mode, or hold a breakpoint frame for
the debug agent, or stand deferred; a context without a handler, or an XPC that breaks 14 R315, gives a double fault as the
handler would be entered. -/
def State.takeTrap (s : State) (k : WarpKey) (lns : Mask) (x : VA) (xpc : DWord) (c : Cause) (hold : Bool) : State :=
  match s.warp k with
  | none => s
  | some w =>
    let hentry : DWord := match s.part w.part with
      | some p => (match p.ctxs.find (s.ctxOf w) with | some c => c.hentry | none => 0)
      | none => 0
    if s.mustDefer w then
      s.putWarp k { w with defers := w.defers ++ [{ lns := lns, x := x, since := s.gtime.toNat }] }
    else if !hold && (hentry == 0 || decide (2 ^ 57 ≤ xpc.toNat) || xpc.toNat % 4 != 0) then
      s.endCrew k 0x4A c.code.toNat (x.setWidth 64)
    else
      let (pid, s) := s.name
      let p : Path := { Path.new pid lns (if hold then x else hentry.setWidth 57) s.gtime with
                        wait := if hold then .debug else .none, frame := some (Frame.enter pid xpc c lns) }
      s.putWarp k { w with paths := w.paths ++ [p], flying := w.flying.map (fun f => { f with ks := [] }) }

/-- Lanes stand deferred at their instruction (21 R415). -/
def State.defer (s : State) (k : WarpKey) (lns : Mask) (x : VA) : State :=
  s.onWarp k (fun w => { w with defers := w.defers ++ [{ lns := lns, x := x, since := s.gtime.toNat }] })

/-- Takes lanes off a path; a path without lanes is gone. -/
def State.offPath (s : State) (k : WarpKey) (pid : Nat) (lns : Mask) : State :=
  s.onWarp k (fun w => match w.path pid with
    | some p =>
      let rest := p.lns &&& ~~~lns
      if rest == 0 then w.dropPath pid else w.setPath { p with lns := rest }
    | none => w)

/-- PARKING (21 R407): the faulting lanes of an instruction leave their path; those whose cause has the code of the
lowest one trap together, the others stand deferred. In a handler path a fault is a double fault (21 R412). -/
def State.park (s : State) (k : WarpKey) (pid : Nat) (x : VA) (xpc : DWord) (faults : List (Lane × Cause)) (hold : Bool) :
    State :=
  match faults with
  | [] => s
  | (l, c) :: _ =>
    match (s.warp k).bind (·.path pid) with
    | none => s
    | some p =>
      if p.frame.isSome then s.endCrew k 0x4A c.code.toNat (x.setWidth 64)
      else
        let (low, cause) := faults.foldl (fun (b, d) (m, e) => if m < b then (m, e) else (b, d)) (l, c)
        let all := Mask.of (fun m => faults.any (·.1 == m))
        let group := Mask.of (fun m => m == low || faults.any (fun (n, e) => n == m && e.code == cause.code))
        let s := s.offPath k pid all
        let s := s.takeTrap k group x xpc cause hold
        let rest := all &&& ~~~group
        if rest == 0 then s else s.defer k rest x

/-- A group leaves its frame for XPC (21 R416): XPC is checked under 14 R315, the paths `pids` are gone, the lanes of XMASK
that have not exited become one path at XPC outside privileged mode, and deferred groups are released. -/
def State.leaveFrame (s : State) (k : WarpKey) (pids : List Nat) (f : Frame) (x : VA) : State :=
  match s.warp k with
  | none => s
  | some w =>
    if f.xpc.toNat % 4 != 0 || 2 ^ 57 ≤ f.xpc.toNat then s.endCrew k 0x4A 0x0E (x.setWidth 64)
    else
      let lns := f.xmask &&& ~~~w.exited
      let (pid, s) := s.name
      let p := Path.new pid lns (f.xpc.setWidth 57) s.gtime
      let ps := w.paths.filter (fun q => !pids.contains q.pid)
      (s.putWarp k { w with paths := if lns == 0 then ps else ps ++ [p] }).freedBy k

/-- RETURNING FROM A HANDLER (21 R416), once every lane of XMASK that has not exited stands at XRET. A handler whose
lanes have all exited leaves its frame too (DEDUCED [17]). -/
def State.returnTrap (s : State) (k : WarpKey) : State :=
  match s.warp k with
  | none => s
  | some w =>
    let hs := w.paths.filter Path.handler
    match hs with
    | [] => s
    | p :: _ =>
      match p.frame with
      | none => s
      | some f => if hs.all (fun q => q.wait == .xret) then s.leaveFrame k (hs.map (·.pid)) f p.pc else s

end Sys2Proof.Machine
end

