-- ==== Sys2Proof/Machine/Apertures.lean ====
section
/-! DEFINITION. Apertures (09 R214-R216), and where an access of a partition goes: through the aperture that holds its
address, or the page tables. -/

namespace Sys2Proof.Machine

/-- The aperture that holds an address (09 R214): its number and its registers. Of several whose ranges hold it the one of
the lowest number applies (DESIGN CHOICE [121]). -/
def Part.aperture (p : Part) (va : Nat) : Option (Nat × Aperture) :=
  ((List.range 16).zip p.apertures.toList).find? (fun (_, a) =>
    let x := a.va.toNat % 16
    let b := a.va.toNat / 65536 % 2 ^ 41 * 65536
    1 ≤ x && x ≤ 4 && b ≤ va && va < b + a.sz.toNat % 2 ^ 40)

/-- Its transform. -/
def Aperture.xform (a : Aperture) : Nat := a.va.toNat % 16
/-- Its first virtual address. -/
def Aperture.base (a : Aperture) : Nat := a.va.toNat / 65536 % 2 ^ 41 * 65536
/-- The partition-physical address of its buffer. -/
def Aperture.buf (a : Aperture) : Nat := a.pa.toNat / 128 % 2 ^ 41 * 128
/-- Bytes of a view element. -/
def Aperture.elem (a : Aperture) : Nat := match a.xform with | 2 => 4 | 4 => 1 | _ => 2
/-- Bytes of a buffer element. -/
def Aperture.bufElem (a : Aperture) : Nat := match a.xform with | 2 => 2 | 4 => 1 | _ => 4
/-- The buffer bytes that n view bytes at a virtual address stand for: where, from the buffer's start, and how many. -/
def Aperture.span (a : Aperture) (va n : Nat) : Nat × Nat :=
  ((va - a.base) / a.elem * a.bufElem, n / a.elem * a.bufElem)
/-- The formats of view and buffer. -/
def Aperture.formats (a : Aperture) : FFmt × FFmt :=
  match a.xform with | 1 => (.bf16, .f32) | 2 => (.f32, .bf16) | _ => (.f16, .f32)

/-- Elements of one width converted to another format under .rn. -/
def convertBytes (src dst : FFmt) (bs : List Byte) : List Byte :=
  let n := src.width / 8
  ((List.range (bs.length / n)).map (fun i =>
    leBytes (dst.width / 8) (Fp.convert dst .rn false 0 (src.read (leNat ((bs.drop (n * i)).take n)))).1)).flatten

/-- n bytes of a partition's physical memory as they stand at their homes, with the largest GWCT of their lines and
whether a byte of them is poisoned; none outside the map. -/
def State.physBytes (s : State) (p : Part) (who : Option WarpKey) (pa n : Nat) (t : Nat → Nat) : Option ReadVal :=
  (blocks 128 pa n).foldl (fun r l =>
    match r, p.phys (128 * l) with
    | some r, some dev =>
      let lo := max pa (128 * l)
      let hi := min (pa + n) (128 * l + 128)
      let v := (s.homeView (dev / 128) (t (dev / 128))).read (s.lineInfo (dev / 128)).own who (dev + (lo - 128 * l)) (hi - lo)
      some { bytes := r.bytes ++ v.bytes, tag := false, poison := r.poison || v.poison, g := max r.g v.g }
    | _, _ => none) (some ⟨[], false, false, 0⟩)

/-- A range of a partition's physical memory: where it begins, its bytes. -/
abbrev Range := Nat × Nat

/-- The headers of the first t images of a stream of coded tiles, and the address of image t: each image stands at the next
16-byte boundary (09 R198). -/
def State.imageAt (s : State) (p : Part) (t : Nat → Nat) : Nat → Nat → Option (List Range × Nat)
  | 0, pa => some ([], pa)
  | k + 1, pa =>
    match s.physBytes p none pa 208 t with
    | some v => (State.imageAt s p t k (pa + ((TileHdr.of v.bytes).totlen + 15) / 16 * 16)).map (fun (l, x) => ((pa, 208) :: l, x))
    | none => none

/-- The buffer bytes that a read of n view bytes uses, in ranges (09 R216): of a decoded tile the headers before its image, and
the image, whose header comes last but one; none where they cannot be found. -/
def State.viewRanges (s : State) (p : Part) (a : Aperture) (va n : Nat) (t : Nat → Nat) : Option (List Range) :=
  if a.xform == 4 then
    match s.imageAt p t ((va - a.base) / 16384) a.buf with
    | none => none
    | some (before, pa) =>
      match s.physBytes p none pa 208 t with
      | none => none
      | some h => some (before ++ [(pa, 208), (pa, max 208 (TileHdr.of h.bytes).totlen)])
  else
    let (off, len) := a.span va n
    some [(a.buf + off, len)]

/-- The bytes of some ranges one after another, with the largest GWCT of their lines and whether one of them is poisoned. -/
def State.rangeBytes (s : State) (p : Part) (who : Option WarpKey) (t : Nat → Nat) (l : List Range) : Option ReadVal :=
  l.foldl (fun r (pa, n) =>
    match r, s.physBytes p who pa n t with
    | some r, some v => some { v with bytes := r.bytes ++ v.bytes, poison := r.poison || v.poison, g := max r.g v.g }
    | _, _ => none) (some ⟨[], false, false, 0⟩)

/-- A tile decoded through the partition's expander tables (09 R215, R217): its 16,384 bytes; none where the image is
malformed. -/
def Part.expandTile (p : Part) (image : List Byte) : Option (List Byte) :=
  let hd := TileHdr.of (image.take 208)
  if !hd.ok none || image.length != hd.totlen then none
  else
    let tbl := (p.xtables.find (BitVec.ofNat 3 hd.tbl)).getD (List.replicate 272 0)
    match decodeTile (imageSubs hd.slen (image.drop 208)) tbl with
    | .ok cols => some (tileBytes cols)
    | .error _ => none

/-- What a read through an aperture gives: bytes, GWCT, and the DETAIL of uncorrectable data where it meets any. -/
def State.viewRead (s : State) (p : Part) (who : Option WarpKey) (a : Aperture) (va n : Nat) (t : Nat → Nat) :
    List Byte × Nat × Option Nat :=
  match (s.viewRanges p a va n t).bind (fun l => (s.rangeBytes p who t l).map (fun v => (l.length, v))) with
  | none => (List.replicate n 0, 0, some 4)
  | some (k, v) =>
    if v.poison then (List.replicate n 0, 0, some 4)
    else if a.xform == 4 then
      match p.expandTile (v.bytes.drop (208 * (k - 1))) with
      | none => (List.replicate n 0, 0, some 4)
      | some bs => ((bs.drop ((va - a.base) % 16384)).take n, v.g, none)
    else (convertBytes a.formats.2 a.formats.1 v.bytes, v.g, none)

/-- The device lines that a read through an aperture uses. -/
def State.viewLines (s : State) (p : Part) (a : Aperture) (va n : Nat) (t : Nat → Nat) : List Nat :=
  ((s.viewRanges p a va n t).getD []).flatMap (fun (pa, k) => (blocks 128 pa k).filterMap (fun l => (p.phys (128 * l)).map (· / 128)))

/-! ## Where an access goes -/

/-- The place of an access: the device-physical address of its first byte, its bytes there, the aperture it goes through. -/
structure Loc where
  dev : Nat
  len : Nat
  view : Option Aperture
deriving DecidableEq, Repr

/-- Where n bytes at a virtual address are: through the aperture that holds the address, which takes the place of the page
tables for every access of the partition (09 R214), or by translation; or the code and DETAIL of the fault. -/
def State.locate (s : State) (part : Nat) (ctx : BitVec 6) (va n : Nat) (use : Use) (priv : Bool) :
    State × Except (Nat × Nat) Loc :=
  match (s.part part).bind (fun p => (p.aperture va).map (fun a => (p, a.2))) with
  | some (p, a) =>
    if n % a.elem != 0 then (s, .error (0x06, 0))
    else
      let (off, len) := a.span va n
      match p.phys (a.buf + if a.xform == 4 then 0 else off) with
      | none => (s, .error (0x0A, 1))
      | some dev => if a.xform == 4 && use == .write then (s, .error (0x0A, 2)) else (s, .ok ⟨dev, len, some a⟩)
  | none =>
    match s.translate part ctx va use priv with
    | (s, .error e) => (s, .error e)
    | (s, .ok dev) => (s, .ok ⟨dev, n, none⟩)

/-- An access of a located place reaches the home L2 of each line it touches (05 R127), under a hint (13 R275). -/
def State.touchLoc (s : State) (part : Nat) (ctx : BitVec 6) (x : Loc) (write : Bool) (ch : Nat) : State :=
  (blocks 128 x.dev x.len).foldl (fun s l => s.l2Access part ctx l write ch) s

/-- An access of a warp to a located place of its private region reaches the L1 of its core (05 R106). -/
def State.touchPriv (s : State) (w : Warp) (ctx : BitVec 6) (va : Nat) (x : Loc) (write : Bool) (ch : Nat) : State :=
  let core := match w.place with | some pl => pl.core | none => ⟨0, 0⟩
  (blocks 128 x.dev x.len).foldl (fun s l => s.l1Access core w.part ctx (va / 128) l write ch) s

/-- The n bytes at a located place as their homes show them, with their GWCT; or the DETAIL of uncorrectable data among
them, `space` where it is no coded tile's. -/
def State.locRead (s : State) (part : Nat) (va n space : Nat) (x : Loc) : Except Nat (List Byte × Nat) :=
  match s.part part with
  | none => .ok (List.replicate n 0, 0)
  | some p =>
    match x.view with
    | some a =>
      match s.viewRead p none a va n (s.homeTime p) with
      | (_, _, some _) => .error (if a.xform == 4 then 4 else space)
      | (bs, g, none) => .ok (bs, g)
    | none =>
      let bad := s.hbm.poisoned x.dev n
      let l := x.dev / 128
      let v := (s.homeView l (s.homeTime p l)).read (s.lineInfo l).own none x.dev n
      if bad then .error space else .ok (v.bytes, v.g)

/-- Stores bytes at a located place, by the clock of each line's home: through a view, in the buffer's format (09 R215). -/
def State.locWrite (s : State) (part : Nat) (x : Loc) (bs : List Byte) : State :=
  match x.view with
  | none => (s.homeStore part x.dev bs none (s.timeAt part (x.dev / 128))).1
  | some a =>
    let bs := convertBytes a.formats.1 a.formats.2 bs
    (blocks 128 x.dev bs.length).foldl (fun s l =>
      let lo := max x.dev (128 * l)
      (s.homeStore part lo ((bs.drop (lo - x.dev)).take (128 * l + 128 - lo)) none (s.timeAt part l)).1) s

end Sys2Proof.Machine
end

