-- ==== Sys2Proof/Machine/Names.lean ====
section
/-! DEFINITION. What the positions of an instruction name: its registers read and written, its privilege. -/

namespace Sys2Proof

/-! ## Positions and registers -/

/-- How many registers a position of a kind names. -/
def Kind.count : Kind → Nat
  | .src | .dst => 1
  | .pair | .dpair | .vpair => 2
  | .quad28 => 16
  | .quads30 => 8
  | .vquad | .quad | .quad30 => 4
  | _ => 0

/-- The instruction reads its D position. -/
def Instr.readsD : Instr → Bool
  | .st .. | .stc .. | .red .. | .waitmem .. => true
  | _ => false

/-- The v registers that a specifier names as n registers. -/
def Spec.regs (sp : Spec) (n : Nat) : List Nat :=
  match sp with
  | .v m => (List.range n).map (· + m.toNat)
  | _ => []

/-- The v registers of one position of a form. -/
def Form.regsAt (f : Form) (o : Opnd) : List Nat :=
  if o.kind.count == 0 then [] else (Spec.ofBits (f.field o.pos)).regs o.kind.count

/-- The v registers the positions of a form name. -/
def Form.named (f : Form) : List Nat := (f.ops.map f.regsAt).flatten

/-- The v registers an instruction names. -/
def Instr.names (i : Instr) : List Nat := match i.form with | some f => f.named | none => []

/-- The v registers an instruction reads. SHQ and SHA read no value (14 R310, R311). -/
def Instr.reads (i : Instr) : List Nat :=
  match i.form with
  | none => []
  | some f =>
    match i with
    | .shq .. | .sha .. => []
    | _ => ((f.ops.filter (fun o => o.pos != .d || i.readsD)).map f.regsAt).flatten

/-- The v registers an instruction writes. -/
def Instr.writes (i : Instr) : List Nat :=
  match i.form with
  | none => []
  | some f => ((f.ops.filter (fun o => o.pos == .d && !i.readsD)).map f.regsAt).flatten

/-- The k registers of one position of a form. -/
def Form.kregsAt (f : Form) (o : Opnd) : List Nat :=
  match Spec.ofBits (f.field o.pos) with
  | .k m => (List.range o.kind.count).map (· + m.toNat)
  | _ => []

/-- The k registers an instruction names. -/
def Instr.knames (i : Instr) : List Nat := match i.form with | some f => (f.ops.map f.kregsAt).flatten | none => []

/-- The k registers an instruction writes. -/
def Instr.kwrites (i : Instr) : List Nat :=
  match i.form with
  | none => []
  | some f => ((f.ops.filter (fun o => o.pos == .d && !i.readsD)).map f.kregsAt).flatten

/-- The predicate of one position of a form; p7 is none (13 R270). -/
def Form.predAt (f : Form) (o : Opnd) : Option Nat :=
  match Spec.ofBits (f.field o.pos) with
  | .p n => if n.toNat < 7 then some n.toNat else none
  | _ => none

/-- The predicates of which an instruction reads the lanes of its path: those of its guards, and one read lane by lane. -/
def Instr.lanePreds (i : Instr) : List Nat :=
  match i.form with
  | none => []
  | some f => [f.hdr.g1.pred.toNat, f.hdr.g2.pred.toNat].filter (· < 7)
      ++ (f.ops.filter (fun o => o.pos != .d && o.kind == .psel)).filterMap f.predAt

/-- The predicates an instruction writes. -/
def Instr.pwrites (i : Instr) : List Nat :=
  match i with
  | .wtload .. => []
  | .capnar _ _ _ _ _ pe _ _ _ => (match pe with | some p => [p.toNat] | none => [])
  | _ => match i.form with
    | none => []
    | some f => (f.ops.filter (fun o => o.kind == .pnum)).map (fun o => (f.field o.pos).toNat)

/-- An instruction writes a register of those a specifier names, or a predicate. -/
def Instr.overwrites (i : Instr) (sp : Spec) (n : Nat) : Bool :=
  match sp with
  | .v _ => (sp.regs n).any i.writes.contains
  | .k m => (List.range n).any (fun j => i.kwrites.contains (m.toNat + j))
  | .p m => i.pwrites.contains m.toNat
  | _ => false

/-- The latency of a fixed-latency producer in core cycles (02 R29): on the scalar-affine unit, and on the vector
datapath. None for an instruction the table does not list: its results may be used at once (DESIGN CHOICE [101]). -/
def Instr.latency (i : Instr) : Option (Nat × Nat) :=
  match i.form with
  | none => none
  | some f =>
    let n := f.opc.toNat
    if [0x01D, 0x05D, 0x181, 0x182].contains n then some (4, 4)
    else if n < 0x080 then some (2, 4)
    else if n < 0x100 then some (5, 5)
    else if 0x101 ≤ n && n < 0x110 then some (6, 6)
    else if 0x110 ≤ n && n < 0x118 then some (12, 12)
    else if [0x189, 0x28D, 0x28E, 0x315, 0x316, 0x317, 0x319, 0x382].contains n then some (3, 3)
    else if [0x18B, 0x18C, 0x28B, 0x28C].contains n then some (2, 4)
    else none

/-- The v registers whose naming counts as a use for recency (02 R54): SHQ and SHA do not use their A (14 R310, R311). -/
def Instr.uses (i : Instr) : List Nat :=
  match i with
  | .shq .. | .sha .. => i.writes
  | _ => i.names

/-- Whether an instruction names k registers (13 R284). -/
def Form.namesK (f : Form) : Bool :=
  f.ops.any (fun o => (o.kind.count != 0 || o.kind == .psel) && (match Spec.ofBits (f.field o.pos) with | .k _ => true | _ => false))

/-- The positions whose registers lie at or above REGS, by their DETAIL (13 R268, 21 R413). -/
def Form.beyond (f : Form) (nregs : Nat) : Option Nat :=
  let bad := fun p => f.ops.any (fun o => o.pos == p && (f.regsAt o).any (fun n => nregs ≤ n))
  if bad .d then some 1 else if bad .a then some 2 else if bad .b then some 3 else if bad .c then some 4
  else if bad .e then some 5 else if bad .f then some 6 else none

/-- The instruction is one of 13 R283 that only privileged code issues. -/
def Instr.privileged : Instr → Bool
  | .xret .. | .mfx .. | .mtx .. | .tlbinv .. | .caproot .. | .halt .. => true
  | _ => false

/-- A register that only firmware writes (17 R390). -/
def firmwareReg (r : BitVec 12) : Bool := decide (0x20 ≤ r.toNat) && decide (r.toNat < 0x40)

/-- An instruction that no path may issue: MTX to a firmware register (17 R390). -/
def Instr.barred : Instr → Bool
  | .mtx _ reg _ => firmwareReg reg
  | _ => false

/-- An instruction that a harvest warp may not issue (17 R387). -/
def Instr.ownersOnly : Instr → Bool
  | .hvlend .. => true
  | _ => false

/-- The guards and hints of an instruction's word; all clear for a step without a word. -/
def Instr.hdr (i : Instr) : Hdr :=
  match i.form with
  | some f => f.hdr
  | none => ⟨⟨false, 7⟩, ⟨false, 7⟩, 0, false, false, 0, 0⟩

end Sys2Proof
end

