-- ==== Sys2Proof/Machine/Operands.lean ====
section
/-! DEFINITION. Operands: the shapes and values of registers and special sources (02 R38-R50), held operands (02 R30),
gathering with line allocation, spills and reloads (02 R51-R57), the partial-mask write (02 R48), and the frame around
every instruction: the checks of decode and issue, the faulting lanes, the advance of the path. -/

namespace Sys2Proof.Machine

/-! ## Values and shapes -/

/-- The value in a lane (02 R38). -/
def Val.at : Val → Lane → Word
  | .uni x, _ => x
  | .aff b s, l => b + BitVec.ofNat 32 l.val * s
  | .wide x, l => x[l.val]

/-- The shape of a value. -/
def Val.shape : Val → Shape
  | .uni _ => .u
  | .aff _ _ => .a
  | .wide _ => .w

/-- The 32 words of a value. -/
def Val.line (v : Val) : Line := Vector.ofFn v.at

/-- One value per lane. -/
def Line.of (f : Lane → Word) : Line := Vector.ofFn f

/-- A result in the shape its rule gives; an affine result without stride is uniform (02 R41). The uniform value is
that of `l0`, a written lane. -/
def Val.make (sh : Shape) (l0 : Lane) (x : Line) : Val :=
  match sh with
  | .u => .uni x[l0.val]
  | .a => let st := x[1] - x[0]; if st == 0 then .uni x[0] else .aff x[0] st
  | .w => .wide x

/-- Whether an affine source keeps its shape in an operation (02 R44). -/
inductive Keep where
  /-- never -/
  | never
  /-- sums and differences -/
  | linear
deriving DecidableEq, Repr

/-- The result shape of 02 R43: W from a W source, U from U sources, else W unless the operation is affine-preserving. -/
def shapeOf (affine : Bool) (srcs : List Shape) : Shape :=
  if srcs.contains .w then .w
  else if srcs.all (· == .u) then .u
  else if affine then .a else .w

/-! ## The issuing path -/

/-- What an instruction sees as it issues: its warp, the warp it reads (02 R27), its path, its address, the active
lanes, the written lanes that have not exited. -/
structure Ctx where
  k : WarpKey
  pid : Nat
  w : Warp
  rd : Warp
  p : Path
  x : VA
  h : Hdr
  act : Mask
  wr : Mask
  priv : Bool
deriving DecidableEq, Repr

/-- A predicate of a warp (13 R270). -/
def Warp.pred (w : Warp) (n : BitVec 3) : Mask := if h : n.toNat < 7 then w.preds[n.toNat] else Mask.all

/-- The lanes for which a guard holds. -/
def Warp.guard (w : Warp) (g : Guard) : Mask := let m := w.pred g.pred; if g.neg then ~~~m else m

/-- The lowest written lane; lane 0 where none is. -/
def Ctx.low (c : Ctx) : Lane := (c.wr.lowest).getD 0

/-! ## Reading operands -/

/-- The virtual address of a backing slot's line (02 R55). -/
def Warp.backing (w : Warp) (slot : Nat) : Nat := w.pbase.toNat + (w.plim + slot) * 128

/-- The word of each lane in 128 bytes. -/
def lineOfBytes (bs : List Byte) : Line :=
  Vector.ofFn (fun (l : Lane) => BitVec.ofNat 32 (leNat ((bs.drop (4 * l.val)).take 4)))

/-- The 128 bytes of a line. -/
def bytesOfLine (x : Line) : List Byte := (x.toList.map (fun w => leBytes 4 w.toNat)).flatten

/-- The data of a spilled register, as its reload will find it (02 R55). -/
def State.backed (s : State) (w : Warp) (slot : Nat) : Line :=
  match s.locate w.part (s.ctxOf w) (w.backing slot) 128 .read true with
  | (s, .ok x) => (match s.locRead w.part (w.backing slot) 128 0 x with
    | .ok (bs, _) => lineOfBytes bs
    | .error _ => Vector.replicate 32 0)
  | (_, .error _) => Vector.replicate 32 0

/-- A register's value and tags; a spilled one has its backing line's value. -/
def State.regVal (s : State) (w : Warp) (n : Nat) : Val × Mask :=
  if h : n < 128 then
    let r := w.regs[n]
    if r.spl then (.wide (s.backed w r.line), 0) else (r.val, r.tags)
  else (.uni 0, 0)

/-- A register with the value that it has in its backing line where it is spilled. -/
def State.shown (s : State) (w : Warp) (r : Reg) : Reg := if r.spl then { r with val := .wide (s.backed w r.line), tags := 0 } else r

/-- The warp as an instruction reads it, before its gathering moves anything (02 R27, R57): a spilled register shows the
value of its backing line. -/
def State.readable (s : State) (w : Warp) : Warp :=
  if w.regs.toList.any (·.spl) then { w with regs := w.regs.map (s.shown w) } else w

/-- The issuing context; none where no path issues. `always` is set by an instruction that ignores its guards. -/
def State.issuing (s : State) (h : Hdr) (always : Bool) : Option Ctx :=
  match s.cur with
  | none => none
  | some (k, pid) =>
    match s.warp k with
    | none => none
    | some w =>
      match w.path pid with
      | none => none
      | some p =>
        let rd := s.dual.getD (s.readable w)
        let act := p.lns &&& ~~~w.exited
        let g := if always then Mask.all else rd.guard h.g1 &&& rd.guard h.g2
        some { k := k, pid := pid, w := w, rd := rd, p := p, x := p.pc, h := h, act := act, wr := act &&& g,
               priv := p.privileged }

/-- The value of register k of an operand (13 R266, R267). -/
def Ctx.specVal (c : Ctx) (sp : Spec) (k : Nat) : Val × Mask :=
  match sp with
  | .v n => if h : n.toNat + k < 128 then (c.rd.regs[n.toNat + k].val, c.rd.regs[n.toNat + k].tags) else (.uni 0, 0)
  | .k n => (.uni (match (c.rd.path c.pid).bind (·.frame) with | some f => f.ks.toList.getD (n.toNat + k) 0 | none => 0), 0)
  | .p n => (.uni (c.rd.pred n), 0)
  | .z => (.uni 0, 0)
  | .lid => (.aff 0 1, 0)
  | .wid => (.uni (BitVec.ofNat 32 c.k.wid), 0)
  | .tid => (.uni (BitVec.ofNat 32 c.k.team), 0)
  | .cid => (.uni (BitVec.ofNat 32 (match c.w.place with | some pl => pl.core.core | none => 0)), 0)
  | .kid => (.uni (BitVec.ofNat 32 (match c.w.place with | some pl => pl.core.cluster | none => 0)), 0)

/-- The path's warp is in a harvest slot, where hold bits have no effect (02 R30). -/
def Warp.inHarvest (w : Warp) : Bool := match w.place with | some pl => decide (16 ≤ pl.slot) | none => false

/-- Register k of the operand that stands at a position: the held value where one is held for the same specifier
(02 R30). It is the context's alone: what the state has become by a word's gathering or a companion's write plays no
part. -/
def State.opnd (_ : State) (c : Ctx) (pos : Pos) (sp : Spec) (k : Nat) : Val × Mask :=
  match (if c.w.inHarvest then none else c.p.holds.find? (fun h => h.pos == pos && h.spec == sp)) with
  | some h => h.vals.getD k (c.specVal sp k)
  | none => c.specVal sp k

/-- The lane words of a one-register operand. -/
def State.word (s : State) (c : Ctx) (pos : Pos) (sp : Spec) (l : Lane) : Word := (s.opnd c pos sp 0).1.at l

/-- The lane values of a pair. -/
def State.pairAt (s : State) (c : Ctx) (pos : Pos) (sp : Spec) (l : Lane) : DWord :=
  (s.opnd c pos sp 1).1.at l ++ (s.opnd c pos sp 0).1.at l

/-- The 128 bits of a quad in a lane. -/
def State.quadAt (s : State) (c : Ctx) (pos : Pos) (sp : Spec) (l : Lane) : CapBits :=
  (s.opnd c pos sp 3).1.at l ++ (s.opnd c pos sp 2).1.at l ++ (s.opnd c pos sp 1).1.at l ++ (s.opnd c pos sp 0).1.at l

/-- The tag of a quad in a lane (02 R50). -/
def State.quadTag (s : State) (c : Ctx) (pos : Pos) (sp : Spec) (l : Lane) : Bool :=
  (List.range 4).all (fun k => (s.opnd c pos sp k).2.has l)

/-- The shapes of the n registers of an operand. -/
def State.shapes (s : State) (c : Ctx) (pos : Pos) (sp : Spec) (n : Nat) : List Shape :=
  (List.range n).map (fun k => (s.opnd c pos sp k).1.shape)

/-! ## Pending writes -/

/-- An entry will still write register n. -/
def Entry.pends (e : Entry) (n : Nat) : Bool :=
  match e.dst with
  | some (.v d, k) => d.toNat ≤ n && n < d.toNat + k
  | _ => false

/-- An entry issued in a frame will still write k register n of it. -/
def Entry.pendsK (e : Entry) (frame : Option Nat) (n : Nat) : Bool :=
  match e.dst with
  | some (.k d, k) => frame.isSome && e.frame == frame && d.toNat ≤ n && n < d.toNat + k
  | _ => false

/-- The number of a path's frame. -/
def Path.frameId (p : Path) : Option Nat := p.frame.map (·.id)

/-- The number of the frame that the warp's handler holds. -/
def Warp.frameId (w : Warp) : Option Nat := (w.paths.find? Path.handler).bind Path.frameId

/-- A FENCE of the warp is not complete. -/
def Warp.fencing (w : Warp) : Bool := w.queue.any (fun e => e.kind == .fence)

/-- Register n has a pending write (02 R24). -/
def Warp.pending (w : Warp) (n : Nat) : Bool := w.queue.any (fun e => e.pends n)

/-! ## Entries of the access queue (16 R346, 06 R141) -/

/-- The access holds back every later one until it has returned. -/
def Entry.isAcq (e : Entry) : Bool :=
  match e.ord with
  | .acq | .acqrel => true
  | .sc => match e.kind with | .st | .stc | .red _ => false | _ => true
  | _ => false
/-- The access holds back every later one until it is performed. -/
def Entry.isRel (e : Entry) : Bool :=
  match e.ord with
  | .rel | .acqrel => true
  | .sc => match e.kind with | .ld | .ldc | .waitmem _ => false | _ => true
  | _ => false
/-- The access performs a release wait first. -/
def Entry.waits (e : Entry) : Bool := e.isRel || e.ord == .sc
/-- Every access of the entry is performed. -/
def Entry.done (e : Entry) : Bool := e.kind != .fence && e.accs.all (·.served)
/-- The entry only loads. -/
def Entry.isLoad (e : Entry) : Bool := match e.kind with | .ld | .ldc | .bartst => true | _ => false

/-- Two accesses touch a common byte. -/
def overlaps (sa sb : Space) (a b : Acc) : Bool := sa == sb && a.pa < b.pa + b.len && b.pa < a.pa + a.len

/-- The entries of a warp before one. -/
def Warp.before (w : Warp) (e : Entry) : List Entry := w.queue.takeWhile (·.id != e.id)

/-- An access of an entry may be performed now (R346). -/
def Warp.mayGo (w : Warp) (e : Entry) (a : Acc) : Bool :=
  !a.served && (!e.waits || e.relDone) && (w.before e).all (fun f =>
    !f.isAcq && (!f.isRel || f.done) && f.accs.all (fun b => b.served || !overlaps e.space f.space a b))

/-- An entry that would only release a path: it waits for a value that another warp writes. -/
def Entry.idle (e : Entry) : Bool :=
  match e.kind with
  | .waitmem _ | .barwait => true
  | .ring => (match e.instr with | .rngget .. => true | _ => false)
  | _ => false

/-! ## Wide lines (02 R51-R58) -/

/-- Registers of a warp that hold a line. -/
def Warp.wuse (w : Warp) : Nat := (w.regs.toList.filter (fun r => r.val.shape == .w && !r.spl)).length

/-- Lines a warp holds of its core's pool; a parked harvest warp's lie in the reserve banks. -/
def Warp.holds (w : Warp) : Nat := if w.parked then 0 else max w.wres w.wuse

/-- The warps placed on a core. -/
def State.onCore (s : State) (c : CoreKey) : List Warp :=
  s.warps.vals.filter (fun w => w.place.any (·.core == c))

/-- Shared free lines of a core (02 R52), when `extra` more lines are taken by warp k. -/
def State.sharedFree (s : State) (c : CoreKey) (k : WarpKey) (extra : Nat) : Nat :=
  768 - (s.onCore c).foldl (fun n w => n + (if w.key == k then max w.wres (w.wuse + extra) else w.holds)) 0

/-- Line numbers in use on a core. -/
def State.linesUsed (s : State) (c : CoreKey) : List Nat :=
  ((s.onCore c).map (fun w => if w.parked then [] else
    (w.regs.toList.filter (fun r => r.val.shape == .w && !r.spl)).map (·.line))).flatten

/-- The free line of the first bank, from the home bank upwards modulo 8, that has one (02 R35); the lowest of it. -/
def freeLine (used : List Nat) (home : Nat) : Nat :=
  (((List.range 8).map (fun i => (home + i) % 8)).map (fun b =>
    (List.range 96).map (fun j => 96 * b + j))).flatten.find? (fun n => !used.contains n) |>.getD 0

/-- The home bank of a register in a slot (02 R35). -/
def homeBank (n slot : Nat) : Nat := Nat.xor (n % 8) (slot % 8)

/-- The lines that harvest warps of a core hold. -/
def State.harvestLines (s : State) (c : CoreKey) : Nat :=
  (((s.onCore c).filter (fun w => w.inHarvest && !w.parked)).map Warp.wuse).sum

/-- A harvest warp of a core holds lines. -/
def State.harvestHolds (s : State) (c : CoreKey) : Bool :=
  (s.onCore c).any (fun w => w.inHarvest && !w.parked && 0 < w.wuse)

/-- Harvest warps of a core have issued accesses to the lent range that are not yet performed. Of a parked one neither a wait
counts, nor an access that its queue or its lanes hold back: the range returns without them (04 R96, 20 R405). -/
def State.rangeBusy (s : State) (c : CoreKey) : Bool :=
  (s.onCore c).any (fun w => w.inHarvest && w.queue.any (fun e => e.space == .scr && !(w.parked && e.idle)
    && e.accs.any (fun a => !a.served && (!w.parked || (w.mayGo e a && !a.seen)))))

/-- The core cycles from a demand to the owner's issue (04 R96): cycle 1 where it needs nothing that harvest holds; the first n
of its lines have moved by cycle 24 + n; the range is back at latest at cycle 24, and which of the cycles before it is stands
open while an access is outstanding (DESIGN CHOICE [97]). -/
def State.revokeCycles (s : State) (c : CoreKey) (lines : Nat) : Nat × State :=
  if 0 < lines then (24 + lines, s)
  else if s.rangeBusy c then (1 + s.draw.1.toNat % 24, s.draw.2)
  else (1, s)

/-- Revokes every harvest warp of a core (04 R96): they are parked, the turn of one ends, the lent range is the owner's
again, and REVS of each rises. `away` withdraws the range for good; the demand is for `lines` of their lines. -/
def State.revoke (s : State) (c : CoreKey) (away : Bool) (lines : Nat) : State :=
  let x := s.core c
  let hs := (s.onCore c).filter (fun w => w.inHarvest && !w.parked)
  let (cycles, s) := s.revokeCycles c lines
  let s := s.setCore c { x with
    turn := match x.turn with
      | some t => if hs.any (fun w => w.key == t.w) then none else some t
      | none => none
    lent := if away then none else x.lent }
  hs.foldl (fun (s : State) (w : Warp) =>
    let revs := w.revs + 1
    let s := s.setWarp { w with parked := true, revs := revs, paths := w.paths.map (·.unarrive s.gtime) }
    let task := match s.task w.key.task with | some t => t.trec.taskid.toNat | none => 0
    s.trace w.part 7 c.cluster c.core (match w.place with | some pl => pl.slot | none => 0)
      (revs.toNat + task * 2 ^ 16 + cycles % 2 ^ 16 * 2 ^ 32)) s

/-- The victim of a spill (02 R54). -/
def Warp.victim (w : Warp) (named taken : List Nat) : Option Nat :=
  (List.range 128).foldl (fun b n =>
    if h : n < 128 then
      let r := w.regs[n]
      if r.val.shape == .w && !r.spl && r.tags == 0 && !named.contains n && !taken.contains n && !w.pending n then
        match b with
        | none => some n
        | some m => if hm : m < 128 then (if r.used < w.regs[m].used then some n else some m) else some n
      else b
    else b) none

/-- The lowest free slot of the backing area. -/
def Warp.freeSlot (w : Warp) : Option Nat :=
  (List.range w.nback).find? (fun j => !w.regs.toList.any (fun r => r.spl && r.line == j))

/-- Changes one register. -/
def Warp.setReg (w : Warp) (n : Nat) (r : Reg) : Warp := if h : n < 128 then { w with regs := w.regs.set n r } else w

/-- The fault of a backing line's access (02 R55). -/
def backingCause (w : Warp) (slot code detail : Nat) : Cause :=
  { code := BitVec.ofNat 8 code, detail := BitVec.ofNat 8 (if code == 0x14 then 0 else detail)
    xaddr := BitVec.ofNat 64 (w.backing slot), xstat := 0, imp := false }

/-- Spills the victim of a warp to its lowest free slot and gives the line (02 R54). -/
def State.spill (s : State) (k : WarpKey) (priv : Bool) (named taken : List Nat) : State × Except Cause (Option Nat) :=
  match s.warp k with
  | none => (s, .ok none)
  | some w =>
    match w.victim named taken, w.freeSlot with
    | some v, some slot =>
      match s.locate w.part (s.ctxOf w) (w.backing slot) 128 .write priv with
      | (s, .error (code, detail)) => (s, .error (backingCause w slot code detail))
      | (s, .ok x) =>
        if h : v < 128 then
          let r := w.regs[v]
          let s := (s.touchPriv w (s.ctxOf w) (w.backing slot) x true 0).locWrite w.part x (bytesOfLine r.val.line)
          let w := (w.setReg v { r with val := .wide (Vector.replicate 32 0), spl := true, line := slot })
          (s.putWarp k { w with wspill := w.wspill + 1 }, .ok (some r.line))
        else (s, .ok none)
    | _, _ => (s, .ok none)

/-- Takes a line for register n of a warp (02 R53), `taken` being the registers that have already taken one for this
instruction, and `more` how many need one after it: the number of the line. A warp that has been saved has no core: its registers take lines when it is placed
again. -/
def State.takeLine (s : State) (k : WarpKey) (priv : Bool) (x : VA) (named : List Nat) (taken : List (Nat × Nat)) (n more : Nat) :
    State × Except Cause Nat :=
  match (s.warp k).bind (fun w => w.place.map (fun pl => (w, pl))) with
  | none => (s, .ok 0)
  | some (w, pl) =>
    let used := s.linesUsed pl.core ++ taken.map (·.2)
    let bank := homeBank n pl.slot
    let wuse := w.wuse + taken.length
    let shared := s.sharedFree pl.core k taken.length
    let harv := w.inHarvest
    if wuse < w.wres || (0 < shared && !(harv && 30 ≤ wuse)) then (s, .ok (freeLine used bank))
    else if !harv && s.harvestHolds pl.core then
      let s := s.revoke pl.core false (min (1 + more) (s.harvestLines pl.core))
      (s, .ok (freeLine (s.linesUsed pl.core ++ taken.map (·.2)) bank))
    else
      match s.spill k priv named (taken.map (·.1)) with
      | (s, .error c) => (s, .error c)
      | (s, .ok (some line)) => (s, .ok line)
      | (s, .ok none) =>
        (s, .error { code := 0x0F, detail := 0, xaddr := x.setWidth 64, xstat := BitVec.ofNat 32 n, imp := false })

/-- Copies a spilled register's data into a line (02 R55). -/
def State.reload (s : State) (k : WarpKey) (priv : Bool) (n line : Nat) : State × Except Cause Unit :=
  match s.warp k with
  | none => (s, .ok ())
  | some w =>
    if h : n < 128 then
      let r := w.regs[n]
      match s.locate w.part (s.ctxOf w) (w.backing r.line) 128 .read priv with
      | (s, .error (code, detail)) => (s, .error (backingCause w r.line code detail))
      | (s, .ok x) =>
        match s.locRead w.part (w.backing r.line) 128 0 x with
        | .error _ => (s, .error (backingCause w r.line 0x14 0))
        | .ok (bs, _) =>
          ((s.touchPriv w (s.ctxOf w) (w.backing r.line) x false 0).putWarp k
            (w.setReg n { r with val := .wide (lineOfBytes bs), spl := false, line := line }), .ok ())
    else (s, .ok ())

/-- Gathering (02 R53-R57): each register of the list, ascending, that needs a line takes one; a spilled one that is
read or partly written is reloaded. Gives the lines taken for registers that become wide. -/
def State.gather (s : State) (k : WarpKey) (priv : Bool) (x : VA) (named : List Nat) :
    List (Nat × Bool) → List (Nat × Nat) → State × Except Cause (List (Nat × Nat))
  | [], taken => (s, .ok taken)
  | (n, reload) :: needs, taken =>
    match s.takeLine k priv x named taken n needs.length with
    | (s, .error c) => (s, .error c)
    | (s, .ok line) =>
      if reload then
        match s.reload k priv n line with
        | (s, .error c) => (s, .error c)
        | (s, .ok ()) => State.gather s k priv x named needs taken
      else State.gather s k priv x named needs ((n, line) :: taken)

/-! ## The partial-mask write (02 R48) -/

/-- One destination: the specifier, which of its registers, the result's shape, its values and tags. -/
structure Dest where
  spec : Spec
  reg : Nat
  shape : Shape
  x : Line
  tags : Mask
deriving DecidableEq, Repr

/-- The lanes that count as written: those written and, with one at least, those that have exited. -/
def wset (wr exited : Mask) : Mask := if wr == 0 then 0 else wr ||| exited

/-- The tags as written: an exited lane takes that of the lowest written lane. -/
def spreadTags (wr exited tags : Mask) : Mask :=
  let t := match wr.lowest with | some l => tags.has l | none => false
  (tags &&& wr) ||| (if t then exited &&& ~~~wr else 0)

/-- What a write makes of a register (02 R48): none where it leaves it unchanged. `old` is its value and tags. The result is
narrowed (02 R41) before a partial write is compared with what the register held (DEDUCED [114]). -/
def mergeReg (wr exited : Mask) (d : Dest) (old : Val × Mask) : Option (Val × Mask) :=
  let ws := wset wr exited
  let tags := spreadTags wr exited d.tags
  let l0 := wr.lowest.getD 0
  let sh := if tags == 0 || tags == ws then d.shape else .w
  let new := Val.make sh l0 d.x
  if ws == Mask.all then some (new, tags)
  else if old.2 == 0 && tags == 0 && new.shape != .w && old.1 == new then none
  else some (.wide (Line.of (fun l => if ws.has l then d.x[l.val] else old.1.at l)), (old.2 &&& ~~~ws) ||| tags)

/-- The register number of a destination that is a v register. -/
def Dest.num (d : Dest) : Option Nat :=
  match d.spec with
  | .v n => some (n.toNat + d.reg)
  | _ => none

/-- What a destination needs of the pool as some lanes write it: none, a line, or a line with a reload. Where no lane is
written it needs none. -/
def State.destNeedIn (s : State) (c : Ctx) (wr : Mask) (d : Dest) : Option (Nat × Bool) :=
  match d.num with
  | none => none
  | some n =>
    if h : n < 128 ∧ wr ≠ 0 then
      let r := c.w.regs[n]
      match mergeReg wr c.w.exited d (s.regVal c.w n) with
      | none => none
      | some (v, _) =>
        if v.shape != .w then none
        else if r.spl then some (n, wset wr c.w.exited != Mask.all)
        else if r.val.shape == .w then none else some (n, false)
    else none

/-- What a destination needs of the pool, as the lanes `wr` write it; or as every written lane would, since gathering comes
before what fails in single lanes (22 R418). -/
def State.destNeed (s : State) (c : Ctx) (wr : Mask) (d : Dest) : Option (Nat × Bool) :=
  (s.destNeedIn c wr d).or (s.destNeedIn c c.wr d)

/-- Merges needs of one register: a reload wins. -/
def addNeed (l : List (Nat × Bool)) (x : Nat × Bool) : List (Nat × Bool) :=
  if l.any (·.1 == x.1) then l.map (fun y => if y.1 == x.1 then (y.1, y.2 || x.2) else y) else x :: l

/-- The needs of an instruction, ascending (02 R53). A spilled register that the instruction reads is reloaded, one whose value
it takes from a hold too (02 R55; DESIGN CHOICE [115]). -/
def State.needs (s : State) (c : Ctx) (reads : List Nat) (wr : Mask) (dests : List Dest) : List (Nat × Bool) :=
  let a := reads.filterMap (fun n => if h : n < 128 then (if c.w.regs[n].spl then some (n, true) else none) else none)
  sortBy (fun x y => x.1 ≤ y.1) ((a ++ dests.filterMap (s.destNeed c wr)).foldl addNeed [])

/-- Writes one destination. -/
def State.writeDest (s : State) (k : WarpKey) (wr : Mask) (taken : List (Nat × Nat)) (d : Dest) : State :=
  if wr == 0 then s
  else match d.spec with
  | .v m =>
    let n := m.toNat + d.reg
    s.onWarp k (fun w =>
      if h : n < 128 then
        let r := w.regs[n]
        match mergeReg wr w.exited d (r.val, r.tags) with
        | none => w
        | some (v, t) =>
          let line := if v.shape == .w then (match taken.find? (·.1 == n) with | some (_, l) => l | none => r.line) else 0
          w.setReg n { val := v, tags := t, spl := false, line := line, used := r.used, dirty := true }
      else w)
  | .k m =>
    s.onWarp k (fun w => w.onFrame (fun f => { f with
      ks := Vector.ofFn (fun (i : Fin 8) => if i.val == m.toNat + d.reg then d.x[(wr.lowest.getD 0).val] else f.ks[i.val]) }))
  | _ => s

/-- Writes a predicate in the written lanes (13 R269), those that have exited among them (02 R48). -/
def Warp.setPred (w : Warp) (n : BitVec 3) (wr bits : Mask) : Warp :=
  if h : n.toNat < 7 then
    { w with preds := w.preds.set n.toNat ((w.preds[n.toNat] &&& ~~~wr) ||| (bits &&& wr)) } else w

/-- Counts the use of the named registers, ascending (02 R54). -/
def Warp.touch (w : Warp) (named : List Nat) : Warp :=
  sortBy (· ≤ ·) named.eraseDups |>.foldl (fun w n =>
    if h : n < 128 then
      let r := w.regs[n]
      if r.val.shape == .w && !r.spl then { w.setReg n { r with used := w.clock } with clock := w.clock + 1 } else w
    else w) w

/-! ## The frame of an instruction -/

/-- The holds after an instruction (02 R30): those of the last two words age, and those its HOLD bits set are added. A
hold whose register the word writes, in a lane at least, is stale. -/
def State.nextHolds (s : State) (c : Ctx) (i : Instr) : List Hold :=
  match i.form with
  | none => []
  | some f =>
    let wrote := fun (sp : Spec) (n : Nat) => c.wr != 0 && i.overwrites sp n
    let old := (c.p.holds.filter (fun h => h.age < 2)).map (fun h =>
      { h with age := h.age + 1, stale := h.stale || wrote h.spec h.vals.length })
    let new := f.ops.filterMap (fun o =>
      let bit := match o.pos with | .a => 2 | .b => 1 | .c => 0 | _ => 9
      if bit < 3 && c.h.hold.getLsbD bit then
        let sp := Spec.ofBits (f.field o.pos)
        some { pos := o.pos, spec := sp, vals := (List.range (max 1 o.kind.count)).map (s.opnd c o.pos sp), age := 1,
               stale := wrote sp (max 1 o.kind.count) : Hold }
      else none)
    new ++ old.filter (fun h => !new.any (fun g => g.pos == h.pos))

/-- The core cycles of a warp's cluster, in twentieths. -/
def State.clockOf (s : State) (w : Warp) : Nat := s.cyclesOf (match w.place with | some pl => pl.core.cluster | none => 0)

/-- The cycle in which a word of a path issues now, in twentieths (02 R29): that of its cluster, or the one its path's
STALL leaves it where that begins later in the same nanosecond. -/
def State.posOf (s : State) (w : Warp) (p : Path) : Nat := max (s.clockOf w) p.stall

/-- The cycle of its cluster, in twentieths, before which a word of the warp must begin to issue in this nanosecond. -/
def State.slotEnd (s : State) (w : Warp) : Nat :=
  s.clockOf w + railSpeed (match w.place with | some pl => (s.cluster pl.core.cluster).rail | none => .vlo)

/-- The first cycle in which the next word of the issuing path may issue (02 R29). -/
def State.nextSlot (s : State) (c : Ctx) : Nat := s.posOf c.w c.p + 20 * (c.h.stall.toNat + 1)

/-- The path goes on to the next word of its run. -/
def State.advance (s : State) (c : Ctx) (i : Instr) : State :=
  let holds := s.nextHolds c i
  let slot := s.nextSlot c
  s.onPath c.k c.pid (fun p => { p with
    pc := p.pc + 12, run := p.run.drop 1, begun := true, behind := [p.runId], holds := holds, retry := none, since := s.gtime
    stall := slot })

/-- A cause that reports the instruction's address. -/
def Ctx.cause (c : Ctx) (code detail : Nat) : Cause :=
  { code := BitVec.ofNat 8 code, detail := BitVec.ofNat 8 detail, xaddr := c.x.setWidth 64, xstat := 0, imp := false }

/-- The same fault in every lane of a set. -/
def allLanes (m : Mask) (c : Cause) : List (Lane × Cause) := (lanes.filter m.has).map (fun l => (l, c))

/-- Lanes without a fault, of those written. -/
def Ctx.ok (c : Ctx) (faults : List (Lane × Cause)) : Mask := c.wr &&& ~~~(Mask.of (fun l => faults.any (·.1 == l)))

/-- The context in which the lanes that fault write nothing. -/
def Ctx.spared (c : Ctx) (faults : List (Lane × Cause)) : Ctx := if faults.isEmpty then c else { c with wr := c.ok faults }

/-- Lanes of the path fault at X with no effect; the others go on. -/
def State.faultAt (s : State) (c : Ctx) (i : Instr) (faults : List (Lane × Cause)) : State :=
  (s.advance (c.spared faults) i).park c.k c.pid c.x (c.x.setWidth 64) faults false

/-! ## Latency (02 R28, R29, 15 R327) -/

/-- The sticky flags of a warp with those of results that have not landed. -/
def Warp.raised (w : Warp) : XFlags := w.flying.foldl (fun g f => g ||| f.flags) w.xflags

/-- Results whose cycle has come have landed. -/
def Warp.land (w : Warp) (pos : Nat) : Warp :=
  { w with xflags := (w.flying.filter (fun f => decide (f.ready ≤ pos))).foldl (fun g f => g ||| f.flags) w.xflags
           flying := w.flying.filter (fun f => !decide (f.ready ≤ pos)) }

/-- Every result has landed: the warp leaves its core, or its lines. -/
def Warp.landAll (w : Warp) : Warp := { w with xflags := w.raised, flying := [] }

/-- A result that a later one overwrites in all its lanes is waited for no longer. -/
def Flight.under (f : Flight) (g : Flight) : Flight :=
  if f.lns &&& ~~~g.lns != 0 then f
  else { f with regs := f.regs.filter (fun n => !g.regs.contains n), ks := f.ks.filter (fun n => !g.ks.contains n)
                preds := f.preds.filter (fun n => !g.preds.contains n) }

/-- An instruction runs on the scalar-affine unit (02 R28): it issues alone, its sources are uniform or affine, and so are
its results and its destinations, as warp `w` holds them after it. -/
def State.scalarRun (s : State) (c : Ctx) (i : Instr) (dests : List Dest) (w : Warp) : Bool :=
  s.dual.isNone && dests.all (fun d => d.shape != .w) && i.writes.all (fun n => if h : n < 128 then w.regs[n].val.shape != .w else true)
    && (match i.form with
      | none => true
      | some f => f.ops.all (fun o => (o.pos == .d && !i.readsD) ||
          (List.range o.kind.count).all (fun k => (s.opnd c o.pos (Spec.ofBits (f.field o.pos)) k).1.shape != .w)))

/-- The flags of an instruction are raised, and its results may be used, once its latency has passed. -/
def State.produce (s : State) (c : Ctx) (wr : Mask) (i : Instr) (dests : List Dest) (preds : List Nat) (flags : XFlags)
    (w : Warp) : Warp :=
  let pos := s.posOf c.w c.p
  let w := w.land pos
  match i.latency with
  | none => { w with xflags := w.xflags ||| flags }
  | some (scalar, vector) =>
    let f : Flight := { ready := pos + 20 * (if s.scalarRun c i dests w then scalar else vector), regs := i.writes, ks := i.kwrites
                        preds := preds.filter (· < 7), lns := wr, flags := flags }
    { w with flying := f :: w.flying.map (·.under f) }

/-- Writes what came of an instruction: gathers (02 R53) for the registers `reads` and the destinations, and where no line
is wanting writes its destinations and its predicates in the lanes `wr`, raises its flags, counts the use of `uses` and goes
on with `fin`. -/
def State.putThen (s : State) (c : Ctx) (wr : Mask) (i : Instr) (reads uses : List Nat) (dests : List Dest)
    (preds : List (BitVec 3 × Mask)) (flags : XFlags) (fin : State → State) : State :=
  let named := i.names
  match s.gather c.k c.priv c.x named (s.needs c reads wr dests) [] with
  | (s, .error e) => s.faultAt c i (allLanes c.wr e)
  | (s, .ok taken) =>
    let s := dests.foldl (fun s d => s.writeDest c.k wr taken d) s
    fin (s.onWarp c.k (fun w => (preds.foldl (fun (v : Warp) q => v.setPred q.1 (wset wr v.exited) q.2)
      (s.produce c wr i dests (preds.map (·.1.toNat)) flags w)).touch uses))

/-- An instruction gathers before what can fail in single lanes or in its address (22 R418, R419): `body` goes on from the
state in which the lines its sources and `dests` need can be had. -/
def State.gathered (s : State) (c : Ctx) (i : Instr) (dests : List Dest) (body : State → State) : State :=
  match s.gather c.k c.priv c.x i.names (s.needs c i.reads c.wr dests) [] with
  | (t, .error e) => t.faultAt c i (allLanes c.wr e)
  | (t, .ok _) => body t

/-- Completes an instruction that reads its sources now. -/
def State.commitThen (s : State) (c : Ctx) (wr : Mask) (i : Instr) (dests : List Dest) (preds : List (BitVec 3 × Mask))
    (flags : XFlags) (fin : State → State) : State :=
  s.putThen c wr i i.reads i.uses dests preds flags fin

/-- Completes an instruction that performs `more`, advances, and parks the faulting lanes. -/
def State.commitTo (s : State) (c : Ctx) (wr : Mask) (i : Instr) (faults : List (Lane × Cause)) (dests : List Dest)
    (preds : List (BitVec 3 × Mask)) (flags : XFlags) (more : State → State) : State :=
  s.commitThen c wr i dests preds flags (fun s => (more s).faultAt c i faults)

/-- The lanes written are those without a fault. -/
def State.commit (s : State) (c : Ctx) (i : Instr) (faults : List (Lane × Cause)) (dests : List Dest)
    (preds : List (BitVec 3 × Mask)) (flags : XFlags) (more : State → State) : State :=
  s.commitTo c (c.ok faults) i faults dests preds flags more

/-- The word takes a held value at a position (02 R30). -/
def Ctx.takes (c : Ctx) (f : Form) (o : Opnd) : Bool :=
  !c.w.inHarvest && c.p.holds.any (fun h => h.pos == o.pos && h.spec == Spec.ofBits (f.field o.pos))

/-- The positions from which the word fetches a value: a held one reads no register. -/
def Ctx.fetches (c : Ctx) (i : Instr) (f : Form) : List Opnd :=
  match i with
  | .shq .. | .sha .. => []
  | _ => f.ops.filter (fun o => (o.pos != .d || i.readsD) && !c.takes f o)

/-- The instruction reads a fixed-latency result before its cycle (02 R29): of a v register or a predicate those of its own
lanes; a k register and a predicate read as a mask have no lanes (13 R266). -/
def State.early (s : State) (c : Ctx) (i : Instr) (f : Form) : Bool :=
  let src := c.fetches i f
  c.rd.flying.any (fun x => decide (s.posOf c.w c.p < x.ready)
    && ((x.lns &&& c.act != 0 && (src.any (fun o => (f.regsAt o).any x.regs.contains) || i.lanePreds.any x.preds.contains))
      || (c.priv && src.any (fun o => (f.kregsAt o).any x.ks.contains))
      || (src.filter (·.kind.count != 0)).any (fun o => (f.predAt o).any x.preds.contains)))

/-- The hazard Glume finds before a word issues (22 R429). -/
def State.hazard (s : State) (c : Ctx) (i : Instr) : Option Nat :=
  let mine := c.w.queue.filter (fun e => e.runId == c.p.runId)
  let pend := fun n => mine.any (·.pends n)
  let pendK := fun n => mine.any (·.pendsK c.p.frameId n)
  match i.form with
  | none => none
  | some f =>
    if (c.fetches i f).any (fun o => (f.regsAt o).any pend || (f.kregsAt o).any pendK) then some 1
    else if i.writes.any pend || i.kwrites.any pendK then some 2
    else if s.early c i f then some 3
    else if !c.w.inHarvest && f.ops.any (fun o => c.p.holds.any (fun h => h.pos == o.pos
        && h.spec == Spec.ofBits (f.field o.pos) && h.stale)) then some 4 else none

/-- The partition of a warp has debug mode on. -/
def State.debugOn (s : State) (w : Warp) : Bool := match s.part w.part with | some p => p.debug | none => false

/-- The path may not issue the instruction (13 R284, 17 R390). -/
def Ctx.forbids (c : Ctx) (f : Form) (i : Instr) : Bool := ((f.namesK || i.privileged) && !c.priv) || i.barred

/-- The role that the warp lacks for the instruction (03 R67): the one required, or that of an owner's warp (17 R387). -/
def Ctx.roleLacks (c : Ctx) (i : Instr) (role : Option (BitVec 2)) : Option Nat :=
  if i.ownersOnly && c.w.inHarvest then some 0 else (role.filter (· != c.w.role)).map (·.toNat)

/-- THE ISSUE OF AN INSTRUCTION: privilege at decode, the Glume hazard, role and operand range at issue (22 R418, R419),
then `body`; `idle` where no lane is written. `role` is the role the instruction requires. -/
def State.issueWith (s : State) (i : Instr) (h : Hdr) (always : Bool) (role : Option (BitVec 2)) (idle : Ctx → State → State)
    (body : Ctx → State → State) : Host.Outcome State Fault Refusal :=
  .next (match s.issuing h always, i.form with
    | some c, some f =>
      if c.forbids f i then s.faultAt c i (allLanes c.act (c.cause 0x02 0))
      else match (if s.debugOn c.w then s.hazard c i else none) with
      | some d => s.faultAt c i (allLanes c.act (c.cause 0x22 d))
      | none =>
        if c.wr == 0 then idle c s
        else match c.roleLacks i role with
        | some r => s.faultAt c i (allLanes c.wr (c.cause 0x04 r))
        | none =>
          match f.beyond c.w.nregs with
          | some d => s.faultAt c i (allLanes c.wr (c.cause 0x0D d))
          | none => body c s
    | _, _ => s)

/-- An instruction that without a written lane has no effect (13 R270). -/
def State.issue (s : State) (i : Instr) (h : Hdr) (always : Bool) (role : Option (BitVec 2)) (body : Ctx → State → State) :
    Host.Outcome State Fault Refusal :=
  s.issueWith i h always role (fun c s => s.advance c i) body

/-- A one-register result in every written lane. -/
def State.result (s : State) (c : Ctx) (i : Instr) (d : Spec) (sh : Shape) (x : Line) : State :=
  s.commit c i [] [⟨d, 0, sh, x, 0⟩] [] 0 id

/-- A pair result. -/
def State.result64 (s : State) (c : Ctx) (i : Instr) (d : Spec) (sh : Shape) (x : Lane → DWord) : State :=
  s.commit c i [] [⟨d, 0, sh, Line.of (fun l => (x l).setWidth 32), 0⟩, ⟨d, 1, sh, Line.of (fun l => (x l).extractLsb' 32 32), 0⟩]
    [] 0 id

/-- A predicate result. -/
def State.resultP (s : State) (c : Ctx) (i : Instr) (pd : BitVec 3) (f : Lane → Bool) : State :=
  s.commit c i [] [] [(pd, Mask.of f)] 0 id

end Sys2Proof.Machine
end

