-- ==== Sys2Proof/Machine/Integer.lean ====
section
/-! DEFINITION. The integer, logic, move and address instructions (14 R290-R297). -/

namespace Sys2Proof.Machine

/-! ## Values -/

/-- The integer a word stands for under a type (14 R288). -/
def intOf (t : Ty) (x : Word) : Int := if t.signed then x.toInt else x.toNat
/-- The integer a 64-bit value stands for. -/
def intOf64 (t : Ty) (x : DWord) : Int := if t.signed then x.toInt else x.toNat

/-- An exact integer as a 32-bit result: modulo 2^32, or clamped to the range of the type (14 R290). -/
def narrow32 (t : Ty) (sat : Bool) (v : Int) : Word :=
  if sat then
    let lo : Int := if t.signed then -(2 ^ 31) else 0
    let hi : Int := if t.signed then 2 ^ 31 - 1 else 2 ^ 32 - 1
    BitVec.ofInt 32 (max lo (min hi v))
  else BitVec.ofInt 32 v

/-- Shift left with counts of 32 and more (14 R292). -/
def shlW (a k : Word) : Word := if k.toNat < 32 then a <<< k.toNat else 0
/-- Logical shift right. -/
def shrW (a k : Word) : Word := if k.toNat < 32 then a >>> k.toNat else 0
/-- Arithmetic shift right. -/
def sarW (a k : Word) : Word := a.sshiftRight (min k.toNat 31)
/-- Rotate left. -/
def rotlW (a k : Word) : Word := a.rotateLeft (k.toNat % 32)
/-- The number of 1 bits. -/
def popcW (a : Word) : Word := BitVec.ofNat 32 (((List.range 32).filter a.getLsbD).length)
/-- The number of leading 0 bits. -/
def clzW (a : Word) : Word := BitVec.ofNat 32 (((List.range 32).map (fun i => a.getLsbD (31 - i))).takeWhile (!·)).length
/-- Bit i moved to bit 31 − i. -/
def brevW (a : Word) : Word :=
  (List.range 32).foldl (fun r i => if a.getLsbD i then r ||| BitVec.twoPow 32 (31 - i) else r) 0

/-- Position and width of a field (14 R293). -/
def fieldOf (b : Word) : Nat × Nat :=
  let pos := min (b.toNat % 256) 32
  (pos, min (min (b.toNat / 256 % 256) 32) (32 - pos))
/-- BFX. -/
def bfxW (t : Ty) (a b : Word) : Word :=
  let (pos, wid) := fieldOf b
  let f := a.toNat / 2 ^ pos % 2 ^ wid
  if wid == 0 then 0
  else if t == .i32 && f.testBit (wid - 1) then BitVec.ofInt 32 ((f : Int) - 2 ^ wid) else BitVec.ofNat 32 f
/-- BFI. -/
def bfiW (a b c : Word) : Word :=
  let (pos, wid) := fieldOf b
  let m := BitVec.ofNat 32 ((2 ^ wid - 1) * 2 ^ pos)
  (c &&& ~~~m) ||| ((a <<< pos) &&& m)
/-- BSEL (14 R294). -/
def bselW (a b c : Word) : Word :=
  (List.range 4).foldl (fun r i =>
    let k := c.toNat / 2 ^ (5 * i) % 32
    let y : Byte := (b ++ a).extractLsb' (8 * (k % 8)) 8
    let z : Byte := match k / 8 with
      | 0 => y | 1 => 0 | 2 => if y.getLsbD 7 then 0xFF else 0 | _ => ~~~y
    r ||| (z.setWidth 32 <<< (8 * i))) 0

/-- The condition of a comparison of two integers (13 R274). -/
def Cond.holds (c : Cond) (a b : Int) : Bool :=
  match c with
  | .eq => a == b | .ne => a != b | .lt => a < b | .le => a ≤ b | .gt => b < a | .ge => b ≤ a

/-- |x(a) − x(b)| + c. -/
def isadW (t : Ty) (a b c : Word) : Word := BitVec.ofInt 32 ((intOf t a - intOf t b).natAbs + (c.toNat : Int))
/-- ⌊x(a) · x(b) / 2^32⌋. -/
def imulhW (t : Ty) (a b : Word) : Word := BitVec.ofInt 32 (intOf t a * intOf t b / 2 ^ 32)
/-- x(a) · x(b) + c modulo 2^64. -/
def imadwD (t : Ty) (a b : Word) (c : DWord) : DWord := BitVec.ofInt 64 (intOf t a * intOf t b) + c

/-! ## Shared forms -/

/-- A source: a position with its specifier, or an immediate. -/
inductive Src where
  | at (p : Pos) (sp : Spec)
  | imm (x : DWord)
deriving DecidableEq, Repr

/-- Register k of a source. -/
def State.src (s : State) (c : Ctx) : Src → Nat → Val
  | .at p sp, k => (s.opnd c p sp k).1
  | .imm x, 0 => .uni (x.setWidth 32)
  | .imm x, _ => .uni (x.extractLsb' 32 32)

/-- The 64-bit value of a source in a lane. -/
def State.srcD (s : State) (c : Ctx) (a : Src) (l : Lane) : DWord := (s.src c a 1).at l ++ (s.src c a 0).at l

/-- An immediate of imm34 (13 R271): its low word, its sign extension to 64 bits. -/
def imm34 (x : BitVec 34) : Src := .imm (x.signExtend 64)

/-- The affine-preserving rows of 02 R44 with one source. -/
def affKeep : Shape → Bool := fun _ => true
/-- A sum or difference keeps an affine shape. -/
def affSum : Shape → Shape → Bool := fun _ _ => true
/-- A product keeps an affine shape unless both factors are affine. -/
def affMul : Shape → Shape → Bool := fun a b => !(a == .a && b == .a)
/-- A product and sum keeps an affine shape where one factor, and one alone, is affine (02 R44). -/
def affMad : Shape → Shape → Bool := fun x y => (x == .a) != (y == .a)
/-- A shift keeps an affine shape by a uniform count. -/
def affShl : Shape → Shape → Bool := fun _ b => b == .u
/-- Nothing keeps an affine shape. -/
def affNone : Shape → Shape → Bool := fun _ _ => false

/-- One source, one result. -/
def alu1 (i : Instr) (h : Hdr) (d : Spec) (a : Src) (aff : Bool) (f : Word → Word) (s : State) :
    Host.Outcome State Fault Refusal :=
  s.issue i h false none fun c s =>
    let x := s.src c a 0
    s.result c i d (shapeOf aff [x.shape]) (Line.of fun l => f (x.at l))

/-- Two sources, one result. -/
def alu2 (i : Instr) (h : Hdr) (d : Spec) (a b : Src) (aff : Shape → Shape → Bool) (f : Word → Word → Word) (s : State) :
    Host.Outcome State Fault Refusal :=
  s.issue i h false none fun c s =>
    let x := s.src c a 0
    let y := s.src c b 0
    s.result c i d (shapeOf (aff x.shape y.shape) [x.shape, y.shape]) (Line.of fun l => f (x.at l) (y.at l))

/-- Three sources, one result. -/
def alu3 (i : Instr) (h : Hdr) (d : Spec) (a b e : Src) (aff : Shape → Shape → Bool) (f : Word → Word → Word → Word)
    (s : State) : Host.Outcome State Fault Refusal :=
  s.issue i h false none fun c s =>
    let x := s.src c a 0
    let y := s.src c b 0
    let z := s.src c e 0
    s.result c i d (shapeOf (aff x.shape y.shape) [x.shape, y.shape, z.shape]) (Line.of fun l => f (x.at l) (y.at l) (z.at l))

/-- A 64-bit result, never affine (02 R44), from sources of which each may be a pair. -/
def alu64 (i : Instr) (h : Hdr) (d : Spec) (srcs : List (Src × Bool)) (f : (Src → Lane → DWord) → Lane → DWord) (s : State) :
    Host.Outcome State Fault Refusal :=
  s.issue i h false none fun c s =>
    let shs := (srcs.map fun (a, pair) => (s.src c a 0).shape :: (if pair then [(s.src c a 1).shape] else [])).flatten
    s.result64 c i d (shapeOf false shs) (f (s.srcD c))

/-- A comparison into a predicate. -/
def aluP (i : Instr) (h : Hdr) (pd : BitVec 3) (f : (Src → Lane → DWord) → Lane → Bool) (s : State) :
    Host.Outcome State Fault Refusal :=
  s.issue i h false none fun c s => s.resultP c i pd (f (s.srcD c))

/-! ## Arithmetic (R290, R291) -/

/-- IADD -/
def execIadd (h : Hdr) (t : Ty) (sat : Bool) (d a b : Spec) (s : State) : Host.Outcome State Fault Refusal :=
  alu2 (.iadd h t sat d a b) h d (.at .a a) (.at .b b) (if sat then affNone else affSum)
    (fun x y => narrow32 t sat (intOf t x + intOf t y)) s
/-- IADD with an immediate -/
def execIaddImm (h : Hdr) (t : Ty) (sat : Bool) (d a : Spec) (imm : BitVec 34) (s : State) : Host.Outcome State Fault Refusal :=
  alu2 (.iaddImm h t sat d a imm) h d (.at .a a) (imm34 imm) (if sat then affNone else affSum)
    (fun x y => narrow32 t sat (intOf t x + intOf t y)) s
/-- ISUB -/
def execIsub (h : Hdr) (t : Ty) (sat : Bool) (d a b : Spec) (s : State) : Host.Outcome State Fault Refusal :=
  alu2 (.isub h t sat d a b) h d (.at .a a) (.at .b b) (if sat then affNone else affSum)
    (fun x y => narrow32 t sat (intOf t x - intOf t y)) s
/-- ISUB with an immediate -/
def execIsubImm (h : Hdr) (t : Ty) (sat : Bool) (d a : Spec) (imm : BitVec 34) (s : State) : Host.Outcome State Fault Refusal :=
  alu2 (.isubImm h t sat d a imm) h d (.at .a a) (imm34 imm) (if sat then affNone else affSum)
    (fun x y => narrow32 t sat (intOf t x - intOf t y)) s
/-- IMUL -/
def execImul (h : Hdr) (t : Ty) (sat : Bool) (d a b : Spec) (s : State) : Host.Outcome State Fault Refusal :=
  alu2 (.imul h t sat d a b) h d (.at .a a) (.at .b b) (if sat then affNone else affMul)
    (fun x y => narrow32 t sat (intOf t x * intOf t y)) s
/-- IMUL with an immediate -/
def execImulImm (h : Hdr) (t : Ty) (sat : Bool) (d a : Spec) (imm : BitVec 34) (s : State) : Host.Outcome State Fault Refusal :=
  alu2 (.imulImm h t sat d a imm) h d (.at .a a) (imm34 imm) (if sat then affNone else affMul)
    (fun x y => narrow32 t sat (intOf t x * intOf t y)) s
/-- IMULH -/
def execImulh (h : Hdr) (t : Ty) (d a b : Spec) (s : State) : Host.Outcome State Fault Refusal :=
  alu2 (.imulh h t d a b) h d (.at .a a) (.at .b b) affNone (imulhW t) s
/-- IMULH with an immediate -/
def execImulhImm (h : Hdr) (t : Ty) (d a : Spec) (imm : BitVec 34) (s : State) : Host.Outcome State Fault Refusal :=
  alu2 (.imulhImm h t d a imm) h d (.at .a a) (imm34 imm) affNone (imulhW t) s
/-- IMAD -/
def execImad (h : Hdr) (t : Ty) (sat : Bool) (d a b c : Spec) (s : State) : Host.Outcome State Fault Refusal :=
  alu3 (.imad h t sat d a b c) h d (.at .a a) (.at .b b) (.at .c c) (if sat then affNone else affMad)
    (fun x y z => narrow32 t sat (intOf t x * intOf t y + intOf t z)) s
/-- IMAD with an immediate -/
def execImadImm (h : Hdr) (t : Ty) (sat : Bool) (d a b : Spec) (imm : BitVec 34) (s : State) : Host.Outcome State Fault Refusal :=
  alu3 (.imadImm h t sat d a b imm) h d (.at .a a) (.at .b b) (imm34 imm) (if sat then affNone else affMad)
    (fun x y z => narrow32 t sat (intOf t x * intOf t y + intOf t z)) s
/-- IMADW -/
def execImadw (h : Hdr) (t : Ty) (d a b c : Spec) (s : State) : Host.Outcome State Fault Refusal :=
  alu64 (.imadw h t d a b c) h d [(.at .a a, false), (.at .b b, false), (.at .c c, true)]
    (fun v l => imadwD t ((v (.at .a a) l).setWidth 32) ((v (.at .b b) l).setWidth 32) (v (.at .c c) l)) s
/-- IMADW with an immediate -/
def execImadwImm (h : Hdr) (t : Ty) (d a b : Spec) (imm : BitVec 34) (s : State) : Host.Outcome State Fault Refusal :=
  alu64 (.imadwImm h t d a b imm) h d [(.at .a a, false), (.at .b b, false)]
    (fun v l => imadwD t ((v (.at .a a) l).setWidth 32) ((v (.at .b b) l).setWidth 32) (imm.signExtend 64)) s
/-- IADD64 -/
def execIadd64 (h : Hdr) (t : Ty) (d a b : Spec) (s : State) : Host.Outcome State Fault Refusal :=
  alu64 (.iadd64 h t d a b) h d [(.at .a a, true), (.at .b b, true)] (fun v l => v (.at .a a) l + v (.at .b b) l) s
/-- IADD64 with an immediate -/
def execIadd64Imm (h : Hdr) (t : Ty) (d a : Spec) (imm : BitVec 34) (s : State) : Host.Outcome State Fault Refusal :=
  alu64 (.iadd64Imm h t d a imm) h d [(.at .a a, true)] (fun v l => v (.at .a a) l + imm.signExtend 64) s
/-- IMAD64 -/
def execImad64 (h : Hdr) (t : Ty) (d a b c : Spec) (s : State) : Host.Outcome State Fault Refusal :=
  alu64 (.imad64 h t d a b c) h d [(.at .a a, true), (.at .b b, true), (.at .c c, true)]
    (fun v l => v (.at .a a) l * v (.at .b b) l + v (.at .c c) l) s
/-- IMIN -/
def execImin (h : Hdr) (t : Ty) (d a b : Spec) (s : State) : Host.Outcome State Fault Refusal :=
  alu2 (.imin h t d a b) h d (.at .a a) (.at .b b) affNone (fun x y => if intOf t x ≤ intOf t y then x else y) s
/-- IMIN with an immediate -/
def execIminImm (h : Hdr) (t : Ty) (d a : Spec) (imm : BitVec 34) (s : State) : Host.Outcome State Fault Refusal :=
  alu2 (.iminImm h t d a imm) h d (.at .a a) (imm34 imm) affNone (fun x y => if intOf t x ≤ intOf t y then x else y) s
/-- IMAX -/
def execImax (h : Hdr) (t : Ty) (d a b : Spec) (s : State) : Host.Outcome State Fault Refusal :=
  alu2 (.imax h t d a b) h d (.at .a a) (.at .b b) affNone (fun x y => if intOf t x ≤ intOf t y then y else x) s
/-- IMAX with an immediate -/
def execImaxImm (h : Hdr) (t : Ty) (d a : Spec) (imm : BitVec 34) (s : State) : Host.Outcome State Fault Refusal :=
  alu2 (.imaxImm h t d a imm) h d (.at .a a) (imm34 imm) affNone (fun x y => if intOf t x ≤ intOf t y then y else x) s
/-- IABS -/
def execIabs (h : Hdr) (sat : Bool) (d a : Spec) (s : State) : Host.Outcome State Fault Refusal :=
  alu1 (.iabs h sat d a) h d (.at .a a) false (fun x => narrow32 .i32 sat x.toInt.natAbs) s
/-- INEG -/
def execIneg (h : Hdr) (t : Ty) (sat : Bool) (d a : Spec) (s : State) : Host.Outcome State Fault Refusal :=
  alu1 (.ineg h t sat d a) h d (.at .a a) (!sat) (fun x => narrow32 t sat (-(intOf t x))) s
/-- ISAD -/
def execIsad (h : Hdr) (t : Ty) (d a b c : Spec) (s : State) : Host.Outcome State Fault Refusal :=
  alu3 (.isad h t d a b c) h d (.at .a a) (.at .b b) (.at .c c) affNone (isadW t) s
/-- ISAD with an immediate -/
def execIsadImm (h : Hdr) (t : Ty) (d a b : Spec) (imm : BitVec 34) (s : State) : Host.Outcome State Fault Refusal :=
  alu3 (.isadImm h t d a b imm) h d (.at .a a) (.at .b b) (imm34 imm) affNone (isadW t) s

/-! ## Logic, shifts, bit fields (R292-R294) -/

/-- AND -/
def execAnd (h : Hdr) (d a b : Spec) (s : State) : Host.Outcome State Fault Refusal :=
  alu2 (.and h d a b) h d (.at .a a) (.at .b b) affNone (· &&& ·) s
/-- AND with an immediate -/
def execAndImm (h : Hdr) (d a : Spec) (imm : BitVec 34) (s : State) : Host.Outcome State Fault Refusal :=
  alu2 (.andImm h d a imm) h d (.at .a a) (imm34 imm) affNone (· &&& ·) s
/-- OR -/
def execOr (h : Hdr) (d a b : Spec) (s : State) : Host.Outcome State Fault Refusal :=
  alu2 (.or h d a b) h d (.at .a a) (.at .b b) affNone (· ||| ·) s
/-- OR with an immediate -/
def execOrImm (h : Hdr) (d a : Spec) (imm : BitVec 34) (s : State) : Host.Outcome State Fault Refusal :=
  alu2 (.orImm h d a imm) h d (.at .a a) (imm34 imm) affNone (· ||| ·) s
/-- XOR -/
def execXor (h : Hdr) (d a b : Spec) (s : State) : Host.Outcome State Fault Refusal :=
  alu2 (.xor h d a b) h d (.at .a a) (.at .b b) affNone (· ^^^ ·) s
/-- XOR with an immediate -/
def execXorImm (h : Hdr) (d a : Spec) (imm : BitVec 34) (s : State) : Host.Outcome State Fault Refusal :=
  alu2 (.xorImm h d a imm) h d (.at .a a) (imm34 imm) affNone (· ^^^ ·) s
/-- ANDN -/
def execAndn (h : Hdr) (d a b : Spec) (s : State) : Host.Outcome State Fault Refusal :=
  alu2 (.andn h d a b) h d (.at .a a) (.at .b b) affNone (fun x y => x &&& ~~~y) s
/-- ANDN with an immediate -/
def execAndnImm (h : Hdr) (d a : Spec) (imm : BitVec 34) (s : State) : Host.Outcome State Fault Refusal :=
  alu2 (.andnImm h d a imm) h d (.at .a a) (imm34 imm) affNone (fun x y => x &&& ~~~y) s
/-- NOT -/
def execNot (h : Hdr) (d a : Spec) (s : State) : Host.Outcome State Fault Refusal :=
  alu1 (.not h d a) h d (.at .a a) false (fun x => ~~~x) s
/-- SHL -/
def execShl (h : Hdr) (d a b : Spec) (s : State) : Host.Outcome State Fault Refusal :=
  alu2 (.shl h d a b) h d (.at .a a) (.at .b b) affShl shlW s
/-- SHL with an immediate -/
def execShlImm (h : Hdr) (d a : Spec) (imm : BitVec 34) (s : State) : Host.Outcome State Fault Refusal :=
  alu2 (.shlImm h d a imm) h d (.at .a a) (imm34 imm) affShl shlW s
/-- SHR -/
def execShr (h : Hdr) (d a b : Spec) (s : State) : Host.Outcome State Fault Refusal :=
  alu2 (.shr h d a b) h d (.at .a a) (.at .b b) affNone shrW s
/-- SHR with an immediate -/
def execShrImm (h : Hdr) (d a : Spec) (imm : BitVec 34) (s : State) : Host.Outcome State Fault Refusal :=
  alu2 (.shrImm h d a imm) h d (.at .a a) (imm34 imm) affNone shrW s
/-- SAR -/
def execSar (h : Hdr) (d a b : Spec) (s : State) : Host.Outcome State Fault Refusal :=
  alu2 (.sar h d a b) h d (.at .a a) (.at .b b) affNone sarW s
/-- SAR with an immediate -/
def execSarImm (h : Hdr) (d a : Spec) (imm : BitVec 34) (s : State) : Host.Outcome State Fault Refusal :=
  alu2 (.sarImm h d a imm) h d (.at .a a) (imm34 imm) affNone sarW s
/-- ROTL -/
def execRotl (h : Hdr) (d a b : Spec) (s : State) : Host.Outcome State Fault Refusal :=
  alu2 (.rotl h d a b) h d (.at .a a) (.at .b b) affNone rotlW s
/-- ROTL with an immediate -/
def execRotlImm (h : Hdr) (d a : Spec) (imm : BitVec 34) (s : State) : Host.Outcome State Fault Refusal :=
  alu2 (.rotlImm h d a imm) h d (.at .a a) (imm34 imm) affNone rotlW s
/-- POPC -/
def execPopc (h : Hdr) (d a : Spec) (s : State) : Host.Outcome State Fault Refusal :=
  alu1 (.popc h d a) h d (.at .a a) false popcW s
/-- CLZ -/
def execClz (h : Hdr) (d a : Spec) (s : State) : Host.Outcome State Fault Refusal :=
  alu1 (.clz h d a) h d (.at .a a) false clzW s
/-- BREV -/
def execBrev (h : Hdr) (d a : Spec) (s : State) : Host.Outcome State Fault Refusal :=
  alu1 (.brev h d a) h d (.at .a a) false brevW s
/-- BFX -/
def execBfx (h : Hdr) (t : Ty) (d a b : Spec) (s : State) : Host.Outcome State Fault Refusal :=
  alu2 (.bfx h t d a b) h d (.at .a a) (.at .b b) affNone (bfxW t) s
/-- BFX with an immediate -/
def execBfxImm (h : Hdr) (t : Ty) (d a : Spec) (imm : BitVec 34) (s : State) : Host.Outcome State Fault Refusal :=
  alu2 (.bfxImm h t d a imm) h d (.at .a a) (imm34 imm) affNone (bfxW t) s
/-- BFI -/
def execBfi (h : Hdr) (d a b c : Spec) (s : State) : Host.Outcome State Fault Refusal :=
  alu3 (.bfi h d a b c) h d (.at .a a) (.at .b b) (.at .c c) affNone bfiW s
/-- BFI with an immediate -/
def execBfiImm (h : Hdr) (d a b : Spec) (imm : BitVec 34) (s : State) : Host.Outcome State Fault Refusal :=
  alu3 (.bfiImm h d a b imm) h d (.at .a a) (.at .b b) (imm34 imm) affNone bfiW s
/-- BSEL -/
def execBsel (h : Hdr) (d a b c : Spec) (s : State) : Host.Outcome State Fault Refusal :=
  alu3 (.bsel h d a b c) h d (.at .a a) (.at .b b) (.at .c c) affNone bselW s
/-- BSEL with an immediate selector -/
def execBselImm (h : Hdr) (d a b : Spec) (sel : BitVec 20) (s : State) : Host.Outcome State Fault Refusal :=
  alu3 (.bselImm h d a b sel) h d (.at .a a) (.at .b b) (.imm (sel.setWidth 64)) affNone bselW s

/-! ## Compare, select, move, address (R295-R297) -/

/-- The condition of ICMP on two values under a type: 64 bits for the 64-bit types. -/
def icmpHolds (cond : Cond) (t : Ty) (x y : DWord) : Bool :=
  if t.bytes == 8 then Cond.holds cond (intOf64 t x) (intOf64 t y)
  else Cond.holds cond (intOf t (x.setWidth 32)) (intOf t (y.setWidth 32))

/-- ICMP -/
def execIcmp (h : Hdr) (cond : Cond) (t : Ty) (pd : BitVec 3) (a b : Spec) (s : State) : Host.Outcome State Fault Refusal :=
  aluP (.icmp h cond t pd a b) h pd (fun v l => icmpHolds cond t (v (.at .a a) l) (v (.at .b b) l)) s
/-- ICMP with an immediate -/
def execIcmpImm (h : Hdr) (cond : Cond) (t : Ty) (pd : BitVec 3) (a : Spec) (imm : BitVec 34) (s : State) :
    Host.Outcome State Fault Refusal :=
  aluP (.icmpImm h cond t pd a imm) h pd (fun v l => icmpHolds cond t (v (.at .a a) l) (imm.signExtend 64)) s

/-- The shape of a predicate that selects lane by lane (02 R47). -/
def selShape (m : Mask) : Shape := if m == 0 || m == Mask.all then .u else .w

/-- ISEL over a second source. -/
def iselWith (i : Instr) (h : Hdr) (d : Spec) (p : BitVec 3) (b e : Src) (s : State) : Host.Outcome State Fault Refusal :=
  s.issue i h false none fun c s =>
    let m := match (s.opnd c .a (.p p) 0).1 with | .uni x => x | _ => 0
    let y := s.src c b 0
    let z := s.src c e 0
    s.result c i d (shapeOf false [selShape m, y.shape, z.shape]) (Line.of fun l => if Mask.has m l then y.at l else z.at l)
/-- ISEL -/
def execIsel (h : Hdr) (d : Spec) (p : BitVec 3) (b c : Spec) (s : State) : Host.Outcome State Fault Refusal :=
  iselWith (.isel h d p b c) h d p (.at .b b) (.at .c c) s
/-- ISEL with an immediate -/
def execIselImm (h : Hdr) (d : Spec) (p : BitVec 3) (b : Spec) (imm : BitVec 34) (s : State) : Host.Outcome State Fault Refusal :=
  iselWith (.iselImm h d p b imm) h d p (.at .b b) (imm34 imm) s

/-- MOV: each register of a pair takes its own source's shape (02 R44; 14 R289 for the pair: DEDUCED [15]). -/
def execMov (h : Hdr) (t : Ty) (d a : Spec) (s : State) : Host.Outcome State Fault Refusal :=
  s.issue (.mov h t d a) h false none fun c s =>
    let x := (s.opnd c .a a 0).1
    if t == .b64 then
      let y := (s.opnd c .a a 1).1
      let sh := shapeOf false [x.shape, y.shape]
      s.commit c (.mov h t d a) [] [⟨d, 0, sh, x.line, 0⟩, ⟨d, 1, sh, y.line, 0⟩] [] 0 id
    else s.result c (.mov h t d a) d (shapeOf true [x.shape]) x.line
/-- MOVI -/
def execMovi (h : Hdr) (t : Ty) (d : Spec) (imm : BitVec 34) (s : State) : Host.Outcome State Fault Refusal :=
  s.issue (.movi h t d imm) h false none fun c s =>
    if t == .b64 then s.result64 c (.movi h t d imm) d .u (fun _ => imm.signExtend 64)
    else s.result c (.movi h t d imm) d .u (Line.of fun _ => imm.setWidth 32)
/-- An affine sum with at most one affine source (02 R44, LEA's add). -/
def affLea : Shape → Shape → Bool := affMul
/-- LEA -/
def execLea (h : Hdr) (sh : BitVec 3) (d a b : Spec) (s : State) : Host.Outcome State Fault Refusal :=
  alu2 (.lea h sh d a b) h d (.at .a a) (.at .b b) affLea (fun x y => x + (y <<< sh.toNat)) s
/-- LEA with an immediate -/
def execLeaImm (h : Hdr) (sh : BitVec 3) (d a : Spec) (imm : BitVec 34) (s : State) : Host.Outcome State Fault Refusal :=
  alu2 (.leaImm h sh d a imm) h d (.at .a a) (imm34 imm) affLea (fun x y => x + (y <<< sh.toNat)) s

end Sys2Proof.Machine
end

