-- ==== Sys2Proof/Machine/Turn.lean ====
section
/-! DEFINITION. Turns of a core (02 R25, 04 R93): the word at the head of a run, the end of a turn; and what comes of a word
that is no instruction (13 R285, 22 R423, R425). -/

namespace Sys2Proof.Machine

/-- Goes on from an outcome's next state. -/
def andThen (o : Host.Outcome State Fault Refusal) (f : State → Host.Outcome State Fault Refusal) :
    Host.Outcome State Fault Refusal :=
  match o with
  | .next s => f s
  | .fault r => .fault r
  | .refused r => .refused r

/-- The word at the head of a path's run. -/
def State.headWord (s : State) (k : WarpKey) (pid : Nat) : Option Insn :=
  match s.warp k with
  | none => none
  | some w =>
    match w.path pid with
    | some p => if p.wait == .none then p.run.head? else none
    | none => none

/-- The core's turn is the warp's and the path is a turn path of it (02 R25). -/
def State.inTurn (s : State) (k : WarpKey) (pid : Nat) : Bool :=
  match s.warp k with
  | none => false
  | some w =>
    match w.place with
    | none => false
    | some pl =>
      match (s.core pl.core).turn with
      | none => false
      | some t => t.w == k && (t.prim == pid || t.sec == some pid)

/-- A word that is no instruction stops every active lane of its path (22 R423, R425). -/
def State.illegalWord (s : State) (k : WarpKey) (pid : Nat) (e : IllegalWord) : State :=
  match s.warp k with
  | none => s
  | some w =>
    match w.path pid with
    | none => s
    | some p =>
      let c : Cause := { code := 0x01, detail := BitVec.ofNat 8 e.detail, xaddr := p.pc.setWidth 64, xstat := 0, imp := false }
      let s := s.onPath k pid (fun p => { p with run := p.run.drop 1 })
      s.park k pid p.pc (p.pc.setWidth 64) (allLanes (p.lns &&& ~~~w.exited) c) false

/-- The runs of the turn paths are done (02 R25): a path that is gone, or has left its run, has none left. -/
def Turn.over (t : Turn) (w : Option Warp) : Bool :=
  let done := fun pid => match w.bind (·.path pid) with
    | some p => p.run.isEmpty || (match p.wait with | .none | .home _ => false | _ => true)
    | none => true
  done t.prim && (match t.sec with | some q => done q | none => true)

/-- The end of a turn: what the choice of the next one needs (04 R93). -/
def Core.endTurn (c : Core) (t : Turn) (slot : Nat) : Core :=
  let owner := decide (slot < 16)
  let same := owner && c.last.any (fun (k, n) => k == t.w && n == slot)
  { c with
    turn := none
    last := if owner then some (t.w, slot) else c.last
    lastYld := if owner then t.yld else c.lastYld
    consec := if same then c.consec + 1 else if owner then 1 else 0
    lastHarv := if owner then c.lastHarv else some slot }

/-- A turn is a further turn for the paths that yielded before it (14 R320). -/
def Warp.afterTurn (w : Warp) (t : Turn) : Warp :=
  { w with paths := w.paths.map (fun p => match p.wait with
      | .yield n _ => if p.pid == t.prim || t.sec == some p.pid then p else { p with wait := .yield n true }
      | _ => p) }

/-- After a word of a path: its YLD bit (02 R31), and the end of the turn. -/
def State.afterWord (s : State) (c : CoreKey) (slot : Nat) (yld : Bool) : State :=
  let x := s.core c
  match x.turn with
  | none => s
  | some t =>
    let t := { t with yld := t.yld || yld }
    if t.over (s.warp t.w) then (s.setCore c (x.endTurn t slot)).onWarp t.w (·.afterTurn t)
    else s.setCore c { x with turn := some t }

/-- The YLD bit of a word. -/
def wordYld (w : Insn) : Bool := w.getLsbD 7

/-- The place of a warp; the first slot where it has none. -/
def State.placeOf (s : State) (k : WarpKey) : Place := ((s.warp k).bind (·.place)).getD ⟨⟨0, 0⟩, 0⟩

/-- A warp of a partition of its own on the first slot of the first core, with a run in its path's buffer and the core's
turn: what a loaded program stands at when its run has been fetched (log entry [16]). -/
def State.withRun (s : State) (run : List Insn) : State :=
  let k : WarpKey := ⟨0, 0, 0⟩
  let p : Path := { Path.new 0 Mask.all 0x10000 s.gtime with run := run }
  let w : Warp := { key := k, part := 0, place := some ⟨⟨0, 0⟩, 0⟩, role := 0, nregs := 128, wres := 32, plim := 0
                    nback := 0, pbase := 0, regs := Vector.replicate 128 Reg.zero, preds := Vector.replicate 7 0
                    xflags := 0, flying := [], wspill := 0, cntCopy := 0, cntGather := 0, cntMma := 0, cntColl := 0, hzn := 0
                    seen := []
                    exited := 0, paths := [p], defers := [], imp := none, queue := [], clock := 1, ended := false
                    harvest := false, parked := false, revs := 0, lentMap := false }
  { (s.setWarp w).setCore ⟨0, 0⟩ { s.core ⟨0, 0⟩ with turn := some ⟨k, 0, none, false⟩ } with
    agenda := .issue k 0 :: s.agenda }

end Sys2Proof.Machine
end

