-- ==== Sys2Proof/Machine/Control.lean ====
section
/-! DEFINITION. Control (14 R314-R324), the release of waiting paths, and XRET (21 R416). -/

namespace Sys2Proof.Machine

/-! ## Paths that part -/

/-- The issuing path parts into groups of lanes with their PCs (14 R314): the first keeps the path's number. -/
def State.regroup (s : State) (c : Ctx) (groups : List (Mask × VA)) : State :=
  match (s.warp c.k).bind (·.path c.pid) with
  | none => s
  | some p =>
    let slot := s.nextSlot c
    match groups.filter (fun g => g.1 != 0) with
    | [] => s.onWarp c.k (fun w => w.dropPath c.pid)
    | g :: rest =>
      let s := s.onPath c.k c.pid (fun p => { p.stand g.2 .none s.gtime with lns := g.1, stall := slot })
      rest.foldl (fun s g =>
        let (pid, s) := s.name
        s.onWarp c.k (fun w => { w with paths := w.paths ++ [{ p.stand g.2 .none s.gtime with pid := pid, lns := g.1, stall := slot }] })) s

/-- The issuing path waits at X (04 R87). -/
def State.block (s : State) (c : Ctx) (wait : Wait) : State :=
  s.onPath c.k c.pid (fun p => { p.stand c.x wait s.gtime with stall := s.nextSlot c })

/-- A waiting path is released at the address after the one it stands at. A warp that is saved has no path to release: its
paths execute again at their blocking instructions (04 R90). -/
def State.release (s : State) (k : WarpKey) (pid : Nat) : State :=
  if ((s.warp k).bind (·.place)).isNone then s else s.onPath k pid (fun p => p.stand (p.pc + 12) .none s.gtime)

/-! ## Branches and calls (R315, R316) -/

/-- The target of a label (13 R263). -/
def labelTarget (x : VA) (off : BitVec 34) : VA := x + 12 + 12 * off.signExtend 57

/-- The address after X as a link. -/
def linkOf (x : VA) : DWord := (x + 12).setWidth 64

/-- The link's two destinations. -/
def linkDests (d : Spec) (x : VA) : List Dest :=
  [⟨d, 0, .u, Vector.replicate 32 ((linkOf x).setWidth 32), 0⟩, ⟨d, 1, .u, Vector.replicate 32 ((linkOf x).extractLsb' 32 32), 0⟩]

/-- A branch to a label. -/
def branchTo (i : Instr) (h : Hdr) (off : BitVec 34) (dests : VA → List Dest) (s : State) : Host.Outcome State Fault Refusal :=
  s.issue i h false none fun c s =>
    s.commitThen c c.wr i (dests c.x) [] 0 fun s =>
      s.regroup c [(c.wr, labelTarget c.x off), (c.act &&& ~~~c.wr, c.x + 12)]

/-- A target that R315 admits. -/
def targetOk (x : DWord) : Bool := x.toNat % 4 == 0 && decide (x.toNat < 2 ^ 57)

/-- One group for each distinct target, in the order of its lowest lane. -/
def targetGroups (m : Mask) (f : Lane → DWord) : List (Mask × VA) :=
  ((lanes.filter m.has).foldl (fun (l : List DWord) x => if l.contains (f x) then l else l ++ [f x]) []).map
    (fun t => (Mask.of (fun x => m.has x && f x == t), t.setWidth 57))

/-- A branch to a register target. -/
def branchReg (i : Instr) (h : Hdr) (a : Spec) (dests : VA → List Dest) (s : State) : Host.Outcome State Fault Refusal :=
  s.issue i h false none fun c s =>
    let t := s.pairAt c .a a
    let faults := (lanes.filter (fun l => c.wr.has l && !targetOk (t l))).map (fun l =>
      (l, { c.cause 0x0E 0 with xaddr := t l }))
    let ok := c.ok faults
    s.commitThen c ok i (dests c.x) [] 0 fun s =>
      (s.park c.k c.pid c.x (c.x.setWidth 64) faults false).regroup c
        (targetGroups ok t ++ [(c.act &&& ~~~c.wr, c.x + 12)])

/-- BRA -/
def execBra (h : Hdr) (off : BitVec 34) (s : State) : Host.Outcome State Fault Refusal :=
  branchTo (.bra h off) h off (fun _ => []) s
/-- CALL -/
def execCall (h : Hdr) (d : Spec) (off : BitVec 34) (s : State) : Host.Outcome State Fault Refusal :=
  branchTo (.call h d off) h off (linkDests d) s
/-- BRX -/
def execBrx (h : Hdr) (a : Spec) (s : State) : Host.Outcome State Fault Refusal :=
  branchReg (.brx h a) h a (fun _ => []) s
/-- CALLX -/
def execCallx (h : Hdr) (d a : Spec) (s : State) : Host.Outcome State Fault Refusal :=
  branchReg (.callx h d a) h a (linkDests d) s
/-- RET -/
def execRet (h : Hdr) (a : Spec) (s : State) : Host.Outcome State Fault Refusal :=
  branchReg (.ret h a) h a (fun _ => []) s

/-! ## JOIN (02 R32, 14 R317) -/

/-- The paths that wait at the JOIN at X: those of the warp's handler, or those outside it, for which a parked lane has
not arrived (21 R407). -/
def Warp.joiners (w : Warp) (x : VA) (hand : Bool) : List (Path × Mask) :=
  w.paths.filterMap (fun p => match p.wait with
    | .join m => if p.pc == x && p.frame.isSome == hand then some (p, m) else none
    | _ => none)

/-- Every lane named at X that has not exited waits there. -/
def Warp.joinDue (w : Warp) (x : VA) (hand : Bool) : Bool :=
  let js := w.joiners x hand
  let m := js.foldl (fun a (_, m) => a ||| m) 0
  let at' := js.foldl (fun a (p, _) => a ||| p.lns) 0
  !js.isEmpty && m &&& ~~~w.exited &&& ~~~at' == 0

/-- The lanes that wait at X leave as one path. -/
def State.joinRelease (s : State) (k : WarpKey) (x : VA) (hand : Bool) : State :=
  match s.warp k with
  | none => s
  | some w =>
    if !w.joinDue x hand then s
    else match w.joiners x hand with
    | [] => s
    | (p, _) :: rest =>
      let lns := rest.foldl (fun a (q, _) => a ||| q.lns) p.lns
      let slot := rest.foldl (fun n (q, _) => max n q.stall) p.stall
      let w := rest.foldl (fun (w : Warp) (q, _) => w.dropPath q.pid) w
      s.putWarp k (w.setPath { p.stand (x + 12) .none s.gtime with lns := lns, stall := slot })

/-- JOIN with a mask read in each lane. -/
def joinWith (i : Instr) (h : Hdr) (m : State → Ctx → Lane → Word) (s : State) : Host.Outcome State Fault Refusal :=
  s.issue i h true none fun c s =>
    let mask := lanes.foldl (fun a l => if c.act.has l then a ||| m s c l else a) (0 : Mask)
    s.commitThen c c.act i [] [] 0 fun s => (s.block c (.join mask)).joinRelease c.k c.x c.priv
/-- JOIN -/
def execJoin (h : Hdr) (a : Spec) (s : State) : Host.Outcome State Fault Refusal :=
  joinWith (.join h a) h (fun s c l => s.word c .a a l) s
/-- JOIN with an immediate mask -/
def execJoinImm (h : Hdr) (m : Word) (s : State) : Host.Outcome State Fault Refusal :=
  joinWith (.joinImm h m) h (fun _ _ _ => m) s
/-- The release at a JOIN -/
def execJoinRelease (w : WarpKey) (x : VA) (s : State) : Host.Outcome State Fault Refusal :=
  .next ((s.joinRelease w x false).joinRelease w x true)

/-! ## EXIT (R318, R319) -/

/-- The imprecise record that an instruction of a path outside a handler must report (21 R414). -/
def Ctx.report (c : Ctx) : Option Cause :=
  if c.priv then none
  else c.w.imp.map (fun r =>
    { code := 0x15, detail := r.space.code.setWidth 8, xaddr := r.bank ++ r.off, xstat := r.further, imp := true })

/-- The report: every written lane parks and the record is cleared. Lanes that can only stand deferred report nothing yet:
the record stays for their instruction's next execution (21 R415). -/
def State.reportImp (s : State) (c : Ctx) (i : Instr) (e : Cause) : State :=
  (if s.mustDefer c.w then s else s.onWarp c.k (fun w => { w with imp := none })).faultAt c i (allLanes c.wr e)

/-- A warp ends: the records that it named stand behind those of the warps that ended before it, by lane (23 R439). -/
def endSuccs (k : WarpKey) (l : List Succ) : List Succ :=
  let mine := sortBy (fun (a b : Succ) => a.lane ≤ b.lane) (l.filter (fun x => x.who == k))
  l.filter (fun x => x.ended && x.who != k) ++ mine.map (fun x => { x with ended := true })
    ++ l.filter (fun x => !x.ended && x.who != k)

/-- Lanes of the issuing path end. -/
def State.exitLanes (s : State) (c : Ctx) : State :=
  let s := s.onWarp c.k (fun w =>
    let gone := w.exited ||| c.wr
    { w with exited := gone, ended := gone == Mask.all, imp := if gone == Mask.all then none else w.imp })
  let s := if (s.warp c.k).any (·.ended) then s.onTask c.k.task (fun t => { t with succs := endSuccs c.k t.succs }) else s
  let s := s.offPath c.k c.pid c.wr
  if c.priv then
    match s.warp c.k with
    | some w => if w.inHandler then s.returnTrap c.k else s.freedBy c.k
    | none => s
  else s

/-- EXIT, with what it does for the task. -/
def exitWith (i : Instr) (h : Hdr) (f : Ctx → State → State) (s : State) : Host.Outcome State Fault Refusal :=
  s.issue i h false none fun c s =>
    match c.report with
    | some e => s.reportImp c i e
    | none => s.commitThen c c.wr i [] [] 0 fun s => ((f c s).advance c i).exitLanes c
/-- EXIT -/
def execExit (h : Hdr) (s : State) : Host.Outcome State Fault Refusal := exitWith (.exit h) h (fun _ s => s) s
/-- EXIT.succ: the records named are kept (03 R78) -/
def execExitSucc (h : Hdr) (a : Spec) (s : State) : Host.Outcome State Fault Refusal :=
  exitWith (.exitSucc h a) h (fun c s =>
    let named := (lanes.filter c.wr.has).map (fun l => (⟨c.k, l.val, s.pairAt c .a a l, false⟩ : Succ))
    s.onTask c.k.task (fun t => { t with succs := t.succs ++ named })) s

/-! ## YIELD, SLEEPT, NOP, TRAP, BRKPT -/

/-- YIELD -/
def execYield (h : Hdr) (s : State) : Host.Outcome State Fault Refusal :=
  s.issue (.yield h) h false none fun c s =>
    let s := s.onPath c.k c.pid (fun p =>
      { p.stand (c.x + 12) (.yield (s.posOf c.w c.p) false) s.gtime with stall := s.nextSlot c })
    match c.w.place with
    | none => s
    | some pl =>
      let x := s.core pl.core
      s.setCore pl.core { x with turn := x.turn.map (fun t => { t with yld := true }) }

/-- Twentieths of 64 core cycles. -/
def cycles64 : Nat := 1280

/-- The end of a YIELD's wait (14 R320): a further turn, or 64 core cycles. -/
def State.yieldDue (s : State) (w : Warp) (p : Path) : Bool :=
  match p.wait with
  | .yield since turned => turned || decide (since + cycles64 ≤ s.clockOf w)
  | _ => false
/-- A yielding path is ready again -/
def execYieldExpiry (w : WarpKey) (pid : Nat) (s : State) : Host.Outcome State Fault Refusal :=
  .next (s.onWarp w (fun x => match x.path pid with
    | some p => if s.yieldDue x p then x.setPath { p with wait := .none } else x
    | none => x))

/-- SLEEPT -/
def execSleept (h : Hdr) (a : Spec) (s : State) : Host.Outcome State Fault Refusal :=
  s.issue (.sleept h a) h false none fun c s =>
    let t := lanes.foldl (fun n l => if c.wr.has l then max n (s.pairAt c .a a l).toNat else n) 0
    s.commitThen c c.wr (.sleept h a) [] [] 0 fun s =>
      if t ≤ s.nowAt c.w then s.advance c (.sleept h a) else s.block c (.sleep (BitVec.ofNat 64 t))

/-- The instant of a SLEEPT is reached (06 R130). -/
def State.sleepDue (s : State) (w : Warp) (p : Path) : Bool :=
  match p.wait with
  | .sleep t => decide (t.toNat ≤ s.nowAt w)
  | _ => false
/-- The release of a SLEEPT -/
def execSleeptRelease (w : WarpKey) (pid : Nat) (s : State) : Host.Outcome State Fault Refusal :=
  .next (match s.warp w with
    | none => s
    | some x =>
      match x.path pid with
      | none => s
      | some p => if s.sleepDue x p then s.release w pid else s)

/-- NOP -/
def execNop (h : Hdr) (s : State) : Host.Outcome State Fault Refusal :=
  s.issue (.nop h) h false none fun c s => s.advance c (.nop h)

/-- The written lanes stop at X, to resume at X + 12, with a code (R323). -/
def State.stopWith (s : State) (c : Ctx) (i : Instr) (cause : Nat) (code : Word) (hold : Bool) : State :=
  (s.advance c i).park c.k c.pid c.x (c.x.setWidth 64 + 12) (allLanes c.wr { c.cause cause 0 with xstat := code }) hold
/-- TRAP -/
def execTrap (h : Hdr) (code : Word) (s : State) : Host.Outcome State Fault Refusal :=
  s.issue (.trap h code) h false none fun c s => s.stopWith c (.trap h code) 0x20 code false
/-- BRKPT -/
def execBrkpt (h : Hdr) (code : Word) (s : State) : Host.Outcome State Fault Refusal :=
  s.issue (.brkpt h code) h false none fun c s =>
    if s.debugOn c.w then s.stopWith c (.brkpt h code) 0x21 code true else s.advance c (.brkpt h code)

/-- XRET -/
def execXret (h : Hdr) (s : State) : Host.Outcome State Fault Refusal :=
  s.issue (.xret h) h true none fun c s => (s.block c .xret).returnTrap c.k

end Sys2Proof.Machine
end

