-- ==== Sys2Proof/Machine/Special.lean ====
section
/-! DEFINITION. The special functions (07 R163, R164): each value is found in fixed point with far more bits than FP32
has, and rounded once under .rn. -/

namespace Sys2Proof.Machine

/-- Fraction bits of the fixed-point work. -/
def specP : Nat := 320

/-- Terms of a Taylor or Gregory series of n rounds: `step k t` gives the next term. -/
def series (step : Nat → Nat → Nat) (use : Nat → Nat → Int) : Nat → Nat → Nat → Int → Int
  | 0, _, _, acc => acc
  | n + 1, k, t, acc => series step use n (k + 1) (step k t) (acc + use k t)

/-- atanh(1/q) or atan(1/q) in fixed point. -/
def recipSeries (q : Nat) (alt : Bool) : Nat :=
  (series (fun _ t => t / (q * q)) (fun k t => let v : Int := (t / (2 * k + 1) : Nat); if alt && k % 2 == 1 then -v else v)
    170 0 (2 ^ specP / q) 0).toNat

/-- ln 2 = 2 atanh(1/3). -/
def specLn2 : Nat := 2 * recipSeries 3 false

/-- π/2 = 2 (4 atan(1/5) − atan(1/239)). -/
def specHalfPi : Nat := 8 * recipSeries 5 true - 2 * recipSeries 239 true

/-- e^y − 1 for y in [0, 1), fixed point. -/
def expm1Fix (y : Nat) : Nat :=
  (series (fun k t => t * y / 2 ^ specP / (k + 2)) (fun _ t => (t : Nat)) 80 0 y 0).toNat

/-- sin y for |y| < 1, fixed point. -/
def sinFix (y : Nat) : Int :=
  series (fun k t => t * y / 2 ^ specP * y / 2 ^ specP / ((2 * k + 2) * (2 * k + 3)))
    (fun k t => let v : Int := (t : Nat); if k % 2 == 1 then -v else v) 45 0 y 0

/-- cos y for |y| < 1, fixed point. -/
def cosFix (y : Nat) : Int :=
  series (fun k t => t * y / 2 ^ specP * y / 2 ^ specP / ((2 * k + 1) * (2 * k + 2)))
    (fun k t => let v : Int := (t : Nat); if k % 2 == 1 then -v else v) 45 0 (2 ^ specP) 0

/-- ln m for m = a/b in [1, 2]: 2 atanh((a − b)/(a + b)). -/
def lnFix (a b : Nat) : Nat :=
  let z := (a - b) * 2 ^ specP / (a + b)
  2 * (series (fun _ t => t * z / 2 ^ specP * z / 2 ^ specP) (fun k t => ((t / (2 * k + 1) : Nat) : Int)) 105 0 z 0).toNat

/-- Bits of the work below which a value is taken as lying strictly between two multiples. -/
def specGuard : Nat := 40

/-- A fixed-point value that is not exact. -/
def fixed (neg : Bool) (v : Nat) (e : Int) : Exact :=
  ⟨neg, v >>> specGuard, e + specGuard - specP, true⟩

/-- The greatest n of at most `fuel` bits with n² ≤ x. -/
def isqrt (x : Nat) : Nat → Nat → Nat
  | 0, acc => acc
  | k + 1, acc => let t := acc + 2 ^ k; isqrt x k (if t * t ≤ x then t else acc)

/-- A magnitude just below m · 2^e. -/
def below (neg : Bool) (m : Nat) (e : Int) : Exact := ⟨neg, (m <<< 64) - 1, e - 64, true⟩

/-- The square root of m · 2^e. -/
def sqrtExact (m : Nat) (e : Int) : Exact :=
  let (m, e) := if e % 2 == 0 then (m, e) else (2 * m, e - 1)
  let x := m <<< 64
  let r := isqrt x 48 0
  ⟨false, r, (e - 64) / 2, r * r != x⟩

/-- The reciprocal of m · 2^e. -/
def recipExact (neg : Bool) (m : Nat) (e : Int) : Exact :=
  let k : Nat := Nat.log2 m + 64
  ⟨neg, 2 ^ k / m, -e - (k : Int), 2 ^ k % m != 0⟩

/-- The reciprocal of the square root of m · 2^e. -/
def rsqrtExact (m : Nat) (e : Int) : Exact :=
  let (m, e) := if e % 2 == 0 then (m, e) else (2 * m, e - 1)
  let k : Nat := 64
  let x := 2 ^ (2 * k) / m
  let r := isqrt x 66 0
  ⟨false, r, -(e / 2) - (k : Int), r * r * m != 2 ^ (2 * k)⟩

/-- x as a multiple of 2^-specP; its low bits below that are dropped. -/
def toFix (m : Nat) (e : Int) : Nat :=
  if 0 ≤ e + specP then m <<< (e + specP).toNat else m >>> (-(e + specP)).toNat

/-- 2^x for x = ±m · 2^e. -/
def exp2Exact (neg : Bool) (m : Nat) (e : Int) : Exact :=
  let top : Int := e + Nat.log2 m
  if top < -60 then (if neg then below false 1 0 else ⟨false, 2 ^ 64, -64, true⟩)
  else if 8 ≤ top then ⟨false, 1, if neg then -512 else 512, neg⟩
  else
    let v : Int := if neg then -(toFix m e : Int) else toFix m e
    let n : Int := v / 2 ^ specP
    let f : Nat := (v % 2 ^ specP).toNat
    if f == 0 then ⟨false, 1, n, false⟩ else fixed false (2 ^ specP + expm1Fix (f * specLn2 / 2 ^ specP)) n

/-- log2 of m · 2^e. -/
def log2Exact (m : Nat) (e : Int) : Exact :=
  let t := Nat.log2 m
  let n : Int := e + t
  if m == 2 ^ t then Exact.ofInt n 0 false
  else
    let v : Int := n * 2 ^ specP + (lnFix m (2 ^ t) * 2 ^ specP / specLn2 : Nat)
    fixed (decide (v < 0)) v.natAbs 0

/-- sin (or cos) of ±m · 2^e, |x| < 2^22. -/
def sinExact (cos neg : Bool) (m : Nat) (e : Int) : Exact :=
  let top : Int := e + Nat.log2 m
  if top < -60 then (if cos then below false 1 0 else below neg m e)
  else
    let x := toFix m e
    let k := (x + specHalfPi / 2) / specHalfPi
    let r : Int := (x : Int) - k * specHalfPi
    let s := sinFix r.natAbs
    let s := if r < 0 then -s else s
    let c := cosFix r.natAbs
    let q := (if cos then k + 1 else k) % 4
    let v : Int := match q with | 0 => s | 1 => c | 2 => -s | _ => -c
    let v := if neg && !cos then -v else v
    fixed (decide (v < 0)) v.natAbs 0

/-- tanh of ±m · 2^e. -/
def tanhExact (neg : Bool) (m : Nat) (e : Int) : Exact :=
  let top : Int := e + Nat.log2 m
  if top < -60 then below neg m e
  else if 6 ≤ top then below neg 1 0
  else
    let y := 2 * toFix m e
    let n := y / specLn2
    let ex := (2 ^ specP + expm1Fix (y % specLn2)) * 2 ^ n
    fixed neg ((ex - 2 ^ specP) * 2 ^ specP / (ex + 2 ^ specP)) 0

/-- Delivers a special function's exact value as FP32. -/
def spec32 (x : Exact) : Nat × XFlags := FFmt.f32.round .rn false 0 x

/-- FRCP (07 R164). -/
def frcpVal : Fp → Nat × XFlags
  | .nan s => FFmt.f32.deliver .rn false 0 (.nan s)
  | .inf n => (FFmt.f32.sign n, 0)
  | .fin n m e => if m == 0 then (FFmt.f32.inf n, XFlags.divzero) else spec32 (recipExact n m e)

/-- FRSQ. -/
def frsqVal : Fp → Nat × XFlags
  | .nan s => FFmt.f32.deliver .rn false 0 (.nan s)
  | .inf n => if n then (FFmt.f32.nan, XFlags.invalid) else (0, 0)
  | .fin n m e =>
    if m == 0 then (FFmt.f32.inf n, XFlags.divzero)
    else if n then (FFmt.f32.nan, XFlags.invalid) else spec32 (rsqrtExact m e)

/-- FSQRT. -/
def fsqrtVal : Fp → Nat × XFlags
  | .nan s => FFmt.f32.deliver .rn false 0 (.nan s)
  | .inf n => if n then (FFmt.f32.nan, XFlags.invalid) else (FFmt.f32.inf false, 0)
  | .fin n m e =>
    if m == 0 then (FFmt.f32.sign n, 0)
    else if n then (FFmt.f32.nan, XFlags.invalid) else spec32 (sqrtExact m e)

/-- FEXP2. -/
def fexp2Val : Fp → Nat × XFlags
  | .nan s => FFmt.f32.deliver .rn false 0 (.nan s)
  | .inf n => (if n then 0 else FFmt.f32.inf false, 0)
  | .fin n m e => if m == 0 then spec32 ⟨false, 1, 0, false⟩ else spec32 (exp2Exact n m e)

/-- FLOG2. -/
def flog2Val : Fp → Nat × XFlags
  | .nan s => FFmt.f32.deliver .rn false 0 (.nan s)
  | .inf n => if n then (FFmt.f32.nan, XFlags.invalid) else (FFmt.f32.inf false, 0)
  | .fin n m e =>
    if m == 0 then (FFmt.f32.inf true, XFlags.divzero)
    else if n then (FFmt.f32.nan, XFlags.invalid) else spec32 (log2Exact m e)

/-- FSIN and FCOS. -/
def fsinVal (cos : Bool) : Fp → Nat × XFlags
  | .nan s => FFmt.f32.deliver .rn false 0 (.nan s)
  | .inf _ => (FFmt.f32.nan, XFlags.invalid)
  | .fin n m e =>
    if m == 0 then (if cos then spec32 ⟨false, 1, 0, false⟩ else (FFmt.f32.sign n, 0))
    else if 22 ≤ e + Nat.log2 m then (FFmt.f32.nan, XFlags.invalid) else spec32 (sinExact cos n m e)

/-- FTANH. -/
def ftanhVal : Fp → Nat × XFlags
  | .nan s => FFmt.f32.deliver .rn false 0 (.nan s)
  | .inf n => spec32 ⟨n, 1, 0, false⟩
  | .fin n m e => if m == 0 then (FFmt.f32.sign n, 0) else spec32 (tanhExact n m e)

end Sys2Proof.Machine
end

