-- ==== Sys2Proof/Machine/Float.lean ====
section
/-! DEFINITION. The float and conversion instructions (15 R325-R343). -/

namespace Sys2Proof.Machine

/-! ## Shared forms -/

/-- A result in a format: bits and flags. -/
abbrev FRes := Nat × XFlags

/-- The union of flags over the written lanes (07 R159). -/
def flagsOf (wr : Mask) (v : Vector (Word × XFlags) 32) : XFlags :=
  lanes.foldl (fun f l => if wr.has l then f ||| v[l.val].2 else f) 0

/-- Each lane's result and flags: once for a U result (02 R45). -/
def perLane (u : Bool) (low : Lane) (g : Lane → Word × XFlags) : Vector (Word × XFlags) 32 :=
  if u then Vector.replicate 32 (g low) else Vector.ofFn (fun (l : Fin 32) => g l)

/-- All the shapes are U. -/
def allU (l : List Shape) : Bool := l.all (· == .u)

/-- A float result: U from U sources, else W (02 R45), with its flags. -/
def State.resultF (s : State) (c : Ctx) (i : Instr) (d : Spec) (srcs : List Shape) (more : State → State)
    (g : Lane → Word × XFlags) : State :=
  let u := allU srcs
  let v := perLane u c.low g
  s.commit c i [] [⟨d, 0, if u then .u else .w, Line.of (fun l => v[l.val].1), 0⟩] [] (flagsOf c.wr v) more

/-- One source. -/
def flt1 (i : Instr) (h : Hdr) (d : Spec) (a : Src) (f : Word → FRes) (s : State) : Host.Outcome State Fault Refusal :=
  s.issue i h false none fun c s =>
    let x := s.src c a 0
    s.resultF c i d [x.shape] id fun l => let (y, g) := f (x.at l); (BitVec.ofNat 32 y, g)

/-- Two sources. -/
def flt2 (i : Instr) (h : Hdr) (d : Spec) (a b : Src) (f : Word → Word → FRes) (s : State) :
    Host.Outcome State Fault Refusal :=
  s.issue i h false none fun c s =>
    let x := s.src c a 0
    let y := s.src c b 0
    s.resultF c i d [x.shape, y.shape] id fun l => let (z, g) := f (x.at l) (y.at l); (BitVec.ofNat 32 z, g)

/-- Three sources. -/
def flt3 (i : Instr) (h : Hdr) (d : Spec) (a b e : Src) (f : Word → Word → Word → FRes) (s : State) :
    Host.Outcome State Fault Refusal :=
  s.issue i h false none fun c s =>
    let x := s.src c a 0
    let y := s.src c b 0
    let w := s.src c e 0
    s.resultF c i d [x.shape, y.shape, w.shape] id fun l =>
      let (z, g) := f (x.at l) (y.at l) (w.at l); (BitVec.ofNat 32 z, g)

/-- An FP32 immediate (13 R271). -/
def immF (x : Word) : Src := .imm (x.setWidth 64)

/-! ## Values (R328-R334) -/

/-- a + b in a format. -/
def faddV (f : FFmt) (r : Rnd) (a b : Nat) : FRes := f.deliver r false 0 (Fp.add r (f.read a) (f.read b))
/-- a − b. -/
def fsubV (f : FFmt) (r : Rnd) (a b : Nat) : FRes := f.deliver r false 0 (Fp.add r (f.read a) (f.read b).negate)
/-- a · b. -/
def fmulV (f : FFmt) (r : Rnd) (a b : Nat) : FRes := f.deliver r false 0 (Fp.mul (f.read a) (f.read b))
/-- a · b + c. -/
def ffmaV (f : FFmt) (r : Rnd) (a b c : Nat) : FRes := f.deliver r false 0 (Fp.fma r (f.read a) (f.read b) (f.read c))
/-- a · 2^n (R329); beyond ±1000 every count gives what ±1000 gives. -/
def fsclV (r : Rnd) (a n : Word) : FRes :=
  match FFmt.f32.read a.toNat with
  | .fin neg m e =>
    if m == 0 then (a.toNat, 0)
    else FFmt.f32.round r false 0 ⟨neg, m, e + max (-1000) (min 1000 n.toInt), false⟩
  | .inf _ => (a.toNat, 0)
  | .nan sn => (FFmt.f32.nan, if sn then XFlags.invalid else 0)

/-- The smaller, or the larger, of two values, +0 above −0 (R330). -/
def fmnxV (f : FFmt) (mx num : Bool) (a b : Nat) : FRes :=
  let x := f.read a
  let y := f.read b
  let g : XFlags := if x.snan || y.snan then XFlags.invalid else 0
  if x.isNan && y.isNan then (f.nan, g)
  else if x.isNan then (if num then b else f.nan, g)
  else if y.isNan then (if num then a else f.nan, g)
  else
    let aBelow := match Fp.cmp x y with
      | .lt => true
      | .gt => false
      | .eq => decide (2 ^ (f.ebits + f.fbits) ≤ a)
    (if aBelow != mx then a else b, g)

/-- FCMP's condition and flags (R331). -/
def fcmpV (cond : FCond) (a b : Word) : Bool × XFlags :=
  let x := FFmt.f32.read a.toNat
  let y := FFmt.f32.read b.toNat
  let nan := x.isNan || y.isNan
  let ordered : Bool := match cond with | .lt | .le | .gt | .ge => true | _ => false
  let o := Fp.cmp x y
  let t := match cond with
    | .eq => !nan && o == .eq
    | .ne => nan || o != .eq
    | .lt => !nan && o == .lt
    | .le => !nan && o != .gt
    | .gt => !nan && o == .gt
    | .ge => !nan && o != .lt
    | .num => !nan
    | .nan => nan
  (t, if x.snan || y.snan || (nan && ordered) then XFlags.invalid else 0)

/-- FCLASS (R332). -/
def fclassV (a : Word) : FRes :=
  let bit : Nat := match FFmt.f32.read a.toNat with
    | .nan true => 0
    | .nan false => 1
    | .inf true => 2
    | .inf false => 9
    | .fin neg m e =>
      if m == 0 then (if neg then 5 else 6)
      else if m < 2 ^ 23 then (if neg then 4 else 7)
      else if neg then 3 else 8
  (2 ^ bit, 0)

/-- A packed operation on both elements (R333). -/
def packV (f : List Nat → FRes) (xs : List Word) : FRes :=
  let (a, g) := f (xs.map (fun x => x.toNat % 65536))
  let (b, k) := f (xs.map (fun x => x.toNat / 65536))
  (b * 65536 + a, g ||| k)

/-- A packed operation of two sources. -/
def pack2 (f : Nat → Nat → FRes) (x y : Word) : FRes :=
  packV (fun l => match l with | [a, b] => f a b | _ => (0, 0)) [x, y]
/-- A packed operation of three sources. -/
def pack3 (f : Nat → Nat → Nat → FRes) (x y z : Word) : FRes :=
  packV (fun l => match l with | [a, b, c] => f a b c | _ => (0, 0)) [x, y, z]

/-- HMNX2 (R334). -/
def hmnxV (v : MnxVar) (a b : Nat) : FRes :=
  match v with
  | .min => fmnxV .f16 false false a b
  | .max => fmnxV .f16 true false a b
  | .minnum => fmnxV .f16 false true a b
  | .maxnum => fmnxV .f16 true true a b

/-! ## Conversions (R335-R341) -/

/-- The float format of a TYPE. -/
def fmtOf : Ty → FFmt
  | .f16 => .f16
  | .bf16 => .bf16
  | _ => .f32

/-- The range of an integer TYPE and its width (R336). -/
def intRange : Ty → Int × Int
  | .i8 => (-128, 127) | .n8 => (0, 255) | .i16 => (-32768, 32767) | .n16 => (0, 65535)
  | .i64 => (-(2 ^ 63), 2 ^ 63 - 1) | .n64 => (0, 2 ^ 64 - 1)
  | .n32 => (0, 2 ^ 32 - 1)
  | _ => (-(2 ^ 31), 2 ^ 31 - 1)

/-- A source bit pattern of a format: a 16-bit one from [15:0]. -/
def srcBits (f : FFmt) (x : Word) : Nat := x.toNat % 2 ^ f.width

/-- F2I: the integer in 64 bits, and the flags. -/
def f2iV (f : FFmt) (t : Ty) (r : Rnd) (x : Word) : DWord × XFlags :=
  let (lo, hi) := intRange t
  let (v, g) := Fp.toInt r lo hi (f.read (srcBits f x))
  (BitVec.ofInt 64 v, g)

/-- FRND (R339). -/
def frndV (r : Rnd) (x : Word) : FRes :=
  match FFmt.f32.read x.toNat with
  | .nan sn => (FFmt.f32.nan, if sn then XFlags.invalid else 0)
  | .inf _ => (x.toNat, 0)
  | .fin neg m e =>
    let (n, _) := Exact.roundAt ⟨neg, m, e, false⟩ r 0 0
    (FFmt.f32.round .rn false 0 ⟨neg, n, 0, false⟩).1 |> fun y => (y, 0)

/-- The exact quotient of two values with the specials of R340, and DIVZERO. -/
def Fp.div (a b : Fp) : Pre × XFlags :=
  match a, b with
  | .nan x, y => (.nan (x || y.snan), 0)
  | x, .nan y => (.nan (x.snan || y), 0)
  | .inf _, .inf _ => (.nan true, 0)
  | .inf x, .fin n _ _ => (.inf (x != n), 0)
  | .fin n _ _, .inf x => (.num ⟨n != x, 0, 0, false⟩, 0)
  | .fin na ma ea, .fin nb mb eb =>
    if mb == 0 then (if ma == 0 then (.nan true, 0) else (.inf (na != nb), XFlags.divzero))
    else
      let k := 96 + Nat.log2 mb
      (.num ⟨na != nb, (ma <<< k) / mb, ea - eb - k, (ma <<< k) % mb != 0⟩, 0)

/-- A value before rounding delivered to an FP8 format by the rows of R160. -/
def deliver8 (f : FFmt) (r : Rnd) (sat : Bool) (draw : Word) : Pre → FRes
  | .nan inv => (f.nan, if inv then XFlags.invalid else 0)
  | .inf n => Fp.convert f r sat draw (.inf n)
  | .num x => f.round r sat draw x

/-- One element of F2F8 (R340). -/
def quot8 (f : FFmt) (r : Rnd) (sat : Bool) (draw : Word) (x d : Nat) : FRes :=
  let (y, g) := Fp.div (FFmt.f32.read x) (FFmt.f32.read d)
  let (q, k) := deliver8 f r sat draw y
  (q, g ||| k)

/-- The FP32 one that z stands for as a divisor or a scale (R340, R341). -/
def orOne (c : Spec) (x : Word) : Word := if c == .z then 0x3F800000 else x

/-- F82F (R341). -/
def f82fV (f : FFmt) (r : Rnd) (a b c : Word) : FRes :=
  FFmt.f32.deliver r false 0 (Fp.mul (f.read (a.toNat / 2 ^ (8 * (b.toNat % 4)) % 256)) (FFmt.f32.read c.toNat))

/-! ## Draws (07 R157) -/

/-- The core on which a warp executes. -/
def Ctx.core (c : Ctx) : CoreKey := match c.w.place with | some pl => pl.core | none => ⟨0, 0⟩

/-- n draws of a generator: the values, in order, and the state that is left. -/
def drawMany : Nat → Word → List Word × Word
  | 0, g => ([], g)
  | n + 1, g => let g := lfsrNext g; let (l, e) := drawMany n g; (g :: l, e)

/-- The lanes that draw, ascending: one for a U result (02 R45), else every lane that counts as written (15 R326). -/
def Ctx.drawers (c : Ctx) (u : Bool) : List Lane :=
  if u then [c.low] else lanes.filter (wset c.wr c.w.exited).has

/-- The draws of each lane, n for each drawer, and the generator's state after them. -/
def State.drawsFor (s : State) (c : Ctx) (u : Bool) (n : Nat) : (Lane → List Word) × Word :=
  let who := c.drawers u
  let (l, g) := drawMany (n * who.length) (s.core c.core).lfsr
  (fun x => (l.drop (n * who.findIdx (· == x))).take n, g)

/-- Sets the generator of a core. -/
def State.setLfsr (s : State) (k : CoreKey) (g : Word) : State := s.setCore k { s.core k with lfsr := g }

/-! ## Meanings: FP32 and packed arithmetic -/

/-- FADD -/
def execFadd (h : Hdr) (r : Rnd) (d a b : Spec) (s : State) : Host.Outcome State Fault Refusal :=
  flt2 (.fadd h r d a b) h d (.at .a a) (.at .b b) (fun x y => faddV .f32 r x.toNat y.toNat) s
/-- FADD with an immediate -/
def execFaddImm (h : Hdr) (r : Rnd) (d a : Spec) (imm : Word) (s : State) : Host.Outcome State Fault Refusal :=
  flt2 (.faddImm h r d a imm) h d (.at .a a) (immF imm) (fun x y => faddV .f32 r x.toNat y.toNat) s
/-- FSUB -/
def execFsub (h : Hdr) (r : Rnd) (d a b : Spec) (s : State) : Host.Outcome State Fault Refusal :=
  flt2 (.fsub h r d a b) h d (.at .a a) (.at .b b) (fun x y => fsubV .f32 r x.toNat y.toNat) s
/-- FSUB with an immediate -/
def execFsubImm (h : Hdr) (r : Rnd) (d a : Spec) (imm : Word) (s : State) : Host.Outcome State Fault Refusal :=
  flt2 (.fsubImm h r d a imm) h d (.at .a a) (immF imm) (fun x y => fsubV .f32 r x.toNat y.toNat) s
/-- FMUL -/
def execFmul (h : Hdr) (r : Rnd) (d a b : Spec) (s : State) : Host.Outcome State Fault Refusal :=
  flt2 (.fmul h r d a b) h d (.at .a a) (.at .b b) (fun x y => fmulV .f32 r x.toNat y.toNat) s
/-- FMUL with an immediate -/
def execFmulImm (h : Hdr) (r : Rnd) (d a : Spec) (imm : Word) (s : State) : Host.Outcome State Fault Refusal :=
  flt2 (.fmulImm h r d a imm) h d (.at .a a) (immF imm) (fun x y => fmulV .f32 r x.toNat y.toNat) s
/-- FFMA -/
def execFfma (h : Hdr) (r : Rnd) (d a b c : Spec) (s : State) : Host.Outcome State Fault Refusal :=
  flt3 (.ffma h r d a b c) h d (.at .a a) (.at .b b) (.at .c c) (fun x y z => ffmaV .f32 r x.toNat y.toNat z.toNat) s
/-- FFMA with an immediate -/
def execFfmaImm (h : Hdr) (r : Rnd) (d a b : Spec) (imm : Word) (s : State) : Host.Outcome State Fault Refusal :=
  flt3 (.ffmaImm h r d a b imm) h d (.at .a a) (.at .b b) (immF imm) (fun x y z => ffmaV .f32 r x.toNat y.toNat z.toNat) s
/-- FSCL -/
def execFscl (h : Hdr) (r : Rnd) (d a b : Spec) (s : State) : Host.Outcome State Fault Refusal :=
  flt2 (.fscl h r d a b) h d (.at .a a) (.at .b b) (fsclV r) s
/-- FSCL with an immediate -/
def execFsclImm (h : Hdr) (r : Rnd) (d a : Spec) (imm : Word) (s : State) : Host.Outcome State Fault Refusal :=
  flt2 (.fsclImm h r d a imm) h d (.at .a a) (immF imm) (fsclV r) s
/-- FMIN -/
def execFmin (h : Hdr) (num : Bool) (d a b : Spec) (s : State) : Host.Outcome State Fault Refusal :=
  flt2 (.fmin h num d a b) h d (.at .a a) (.at .b b) (fun x y => fmnxV .f32 false num x.toNat y.toNat) s
/-- FMIN with an immediate -/
def execFminImm (h : Hdr) (num : Bool) (d a : Spec) (imm : Word) (s : State) : Host.Outcome State Fault Refusal :=
  flt2 (.fminImm h num d a imm) h d (.at .a a) (immF imm) (fun x y => fmnxV .f32 false num x.toNat y.toNat) s
/-- FMAX -/
def execFmax (h : Hdr) (num : Bool) (d a b : Spec) (s : State) : Host.Outcome State Fault Refusal :=
  flt2 (.fmax h num d a b) h d (.at .a a) (.at .b b) (fun x y => fmnxV .f32 true num x.toNat y.toNat) s
/-- FMAX with an immediate -/
def execFmaxImm (h : Hdr) (num : Bool) (d a : Spec) (imm : Word) (s : State) : Host.Outcome State Fault Refusal :=
  flt2 (.fmaxImm h num d a imm) h d (.at .a a) (immF imm) (fun x y => fmnxV .f32 true num x.toNat y.toNat) s
/-- FCMP over its second source. -/
def fcmpWith (i : Instr) (h : Hdr) (cond : FCond) (pd : BitVec 3) (a b : Src) (s : State) : Host.Outcome State Fault Refusal :=
  s.issue i h false none fun c s =>
    let x := s.src c a 0
    let y := s.src c b 0
    let v := perLane (allU [x.shape, y.shape]) c.low fun l =>
      let (t, g) := fcmpV cond (x.at l) (y.at l); (if t then 1 else 0, g)
    s.commit c i [] [] [(pd, Mask.of fun l => v[l.val].1 == 1)] (flagsOf c.wr v) id
/-- FCMP -/
def execFcmp (h : Hdr) (cond : FCond) (pd : BitVec 3) (a b : Spec) (s : State) : Host.Outcome State Fault Refusal :=
  fcmpWith (.fcmp h cond pd a b) h cond pd (.at .a a) (.at .b b) s
/-- FCMP with an immediate -/
def execFcmpImm (h : Hdr) (cond : FCond) (pd : BitVec 3) (a : Spec) (imm : Word) (s : State) : Host.Outcome State Fault Refusal :=
  fcmpWith (.fcmpImm h cond pd a imm) h cond pd (.at .a a) (immF imm) s
/-- FCLASS -/
def execFclass (h : Hdr) (d a : Spec) (s : State) : Host.Outcome State Fault Refusal :=
  flt1 (.fclass h d a) h d (.at .a a) fclassV s
/-- HADD2 -/
def execHadd2 (h : Hdr) (sub : Bool) (r : Rnd) (d a b : Spec) (s : State) : Host.Outcome State Fault Refusal :=
  flt2 (.hadd2 h sub r d a b) h d (.at .a a) (.at .b b) (pack2 (if sub then fsubV .f16 r else faddV .f16 r)) s
/-- HADD2 with an immediate -/
def execHadd2Imm (h : Hdr) (sub : Bool) (r : Rnd) (d a : Spec) (imm : Word) (s : State) : Host.Outcome State Fault Refusal :=
  flt2 (.hadd2Imm h sub r d a imm) h d (.at .a a) (immF imm) (pack2 (if sub then fsubV .f16 r else faddV .f16 r)) s
/-- HMUL2 -/
def execHmul2 (h : Hdr) (r : Rnd) (d a b : Spec) (s : State) : Host.Outcome State Fault Refusal :=
  flt2 (.hmul2 h r d a b) h d (.at .a a) (.at .b b) (pack2 (fmulV .f16 r)) s
/-- HMUL2 with an immediate -/
def execHmul2Imm (h : Hdr) (r : Rnd) (d a : Spec) (imm : Word) (s : State) : Host.Outcome State Fault Refusal :=
  flt2 (.hmul2Imm h r d a imm) h d (.at .a a) (immF imm) (pack2 (fmulV .f16 r)) s
/-- HFMA2 -/
def execHfma2 (h : Hdr) (r : Rnd) (d a b c : Spec) (s : State) : Host.Outcome State Fault Refusal :=
  flt3 (.hfma2 h r d a b c) h d (.at .a a) (.at .b b) (.at .c c) (pack3 (ffmaV .f16 r)) s
/-- HFMA2 with an immediate -/
def execHfma2Imm (h : Hdr) (r : Rnd) (d a b : Spec) (imm : Word) (s : State) : Host.Outcome State Fault Refusal :=
  flt3 (.hfma2Imm h r d a b imm) h d (.at .a a) (.at .b b) (immF imm) (pack3 (ffmaV .f16 r)) s
/-- BADD2 -/
def execBadd2 (h : Hdr) (sub : Bool) (r : Rnd) (d a b : Spec) (s : State) : Host.Outcome State Fault Refusal :=
  flt2 (.badd2 h sub r d a b) h d (.at .a a) (.at .b b) (pack2 (if sub then fsubV .bf16 r else faddV .bf16 r)) s
/-- BADD2 with an immediate -/
def execBadd2Imm (h : Hdr) (sub : Bool) (r : Rnd) (d a : Spec) (imm : Word) (s : State) : Host.Outcome State Fault Refusal :=
  flt2 (.badd2Imm h sub r d a imm) h d (.at .a a) (immF imm) (pack2 (if sub then fsubV .bf16 r else faddV .bf16 r)) s
/-- BMUL2 -/
def execBmul2 (h : Hdr) (r : Rnd) (d a b : Spec) (s : State) : Host.Outcome State Fault Refusal :=
  flt2 (.bmul2 h r d a b) h d (.at .a a) (.at .b b) (pack2 (fmulV .bf16 r)) s
/-- BMUL2 with an immediate -/
def execBmul2Imm (h : Hdr) (r : Rnd) (d a : Spec) (imm : Word) (s : State) : Host.Outcome State Fault Refusal :=
  flt2 (.bmul2Imm h r d a imm) h d (.at .a a) (immF imm) (pack2 (fmulV .bf16 r)) s
/-- BFMA2 -/
def execBfma2 (h : Hdr) (r : Rnd) (d a b c : Spec) (s : State) : Host.Outcome State Fault Refusal :=
  flt3 (.bfma2 h r d a b c) h d (.at .a a) (.at .b b) (.at .c c) (pack3 (ffmaV .bf16 r)) s
/-- BFMA2 with an immediate -/
def execBfma2Imm (h : Hdr) (r : Rnd) (d a b : Spec) (imm : Word) (s : State) : Host.Outcome State Fault Refusal :=
  flt3 (.bfma2Imm h r d a b imm) h d (.at .a a) (.at .b b) (immF imm) (pack3 (ffmaV .bf16 r)) s
/-- HMNX2 -/
def execHmnx2 (h : Hdr) (var : MnxVar) (d a b : Spec) (s : State) : Host.Outcome State Fault Refusal :=
  flt2 (.hmnx2 h var d a b) h d (.at .a a) (.at .b b) (pack2 (hmnxV var)) s
/-- HMNX2 with an immediate -/
def execHmnx2Imm (h : Hdr) (var : MnxVar) (d a : Spec) (imm : Word) (s : State) : Host.Outcome State Fault Refusal :=
  flt2 (.hmnx2Imm h var d a imm) h d (.at .a a) (immF imm) (pack2 (hmnxV var)) s

/-! ## Meanings: conversions and special functions -/

/-- F2I from a format: a pair for the 64-bit types. -/
def f2iFrom (f : FFmt) (i : Instr) (h : Hdr) (t : Ty) (r : Rnd) (d a : Spec) (s : State) : Host.Outcome State Fault Refusal :=
  s.issue i h false none fun c s =>
    let x := s.src c (.at .a a) 0
    let u := allU [x.shape]
    let low := perLane u c.low fun l => let (v, g) := f2iV f t r (x.at l); (v.setWidth 32, g)
    let sh : Shape := if u then .u else .w
    let lo : Dest := ⟨d, 0, sh, Line.of (fun l => low[l.val].1), 0⟩
    let high := perLane u c.low fun l => let (v, g) := f2iV f t r (x.at l); (v.extractLsb' 32 32, g)
    let hi : Dest := ⟨d, 1, sh, Line.of (fun l => high[l.val].1), 0⟩
    s.commit c i [] (if t.bytes == 8 then [lo, hi] else [lo]) [] (flagsOf c.wr low) id
/-- F2I -/
def execF2i (h : Hdr) (t : Ty) (r : Rnd) (d a : Spec) (s : State) : Host.Outcome State Fault Refusal :=
  f2iFrom .f32 (.f2i h t r d a) h t r d a s
/-- F2I.fh -/
def execF2iFh (h : Hdr) (t : Ty) (r : Rnd) (d a : Spec) (s : State) : Host.Outcome State Fault Refusal :=
  f2iFrom .f16 (.f2iFh h t r d a) h t r d a s
/-- F2I.fb -/
def execF2iFb (h : Hdr) (t : Ty) (r : Rnd) (d a : Spec) (s : State) : Host.Outcome State Fault Refusal :=
  f2iFrom .bf16 (.f2iFb h t r d a) h t r d a s

/-- I2F of a 64-bit source read by `val`. -/
def i2fFrom (val : DWord → Int) (pair : Bool) (i : Instr) (h : Hdr) (t : Ty) (r : Rnd) (d a : Spec) (s : State) : Host.Outcome State Fault Refusal :=
  s.issue i h false none fun c s =>
    let shs := (s.src c (.at .a a) 0).shape :: (if pair then [(s.src c (.at .a a) 1).shape] else [])
    s.resultF c i d shs id fun l =>
      let (y, g) := intToFp (fmtOf t) r 0 (val (s.srcD c (.at .a a) l)); (BitVec.ofNat 32 y, g)
/-- I2F -/
def execI2f (h : Hdr) (t : Ty) (r : Rnd) (d a : Spec) (s : State) : Host.Outcome State Fault Refusal :=
  i2fFrom (fun x => (x.setWidth 32).toInt) false (.i2f h t r d a) h t r d a s
/-- I2F.u -/
def execI2fU (h : Hdr) (t : Ty) (r : Rnd) (d a : Spec) (s : State) : Host.Outcome State Fault Refusal :=
  i2fFrom (fun x => (x.setWidth 32).toNat) false (.i2fU h t r d a) h t r d a s
/-- I2F.l -/
def execI2fL (h : Hdr) (t : Ty) (r : Rnd) (d a : Spec) (s : State) : Host.Outcome State Fault Refusal :=
  i2fFrom (fun x => x.toInt) true (.i2fL h t r d a) h t r d a s
/-- I2F.ul -/
def execI2fUl (h : Hdr) (t : Ty) (r : Rnd) (d a : Spec) (s : State) : Host.Outcome State Fault Refusal :=
  i2fFrom (fun x => x.toNat) true (.i2fUl h t r d a) h t r d a s

/-- FCVT from a format, with a draw under .rs. -/
def fcvtFrom (f : FFmt) (i : Instr) (h : Hdr) (t : Ty) (r : Rnd) (d a : Spec) (s : State) : Host.Outcome State Fault Refusal :=
  s.issue i h false none fun c s =>
    let x := s.src c (.at .a a) 0
    let u := allU [x.shape]
    let dr := if r == .rs then s.drawsFor c u 1 else (fun _ => [], (s.core c.core).lfsr)
    s.resultF c i d [x.shape] (if r == .rs then fun s => s.setLfsr c.core dr.2 else id) fun l =>
      let (y, g) := Fp.convert (fmtOf t) r false ((dr.1 l).headD 0) (f.read (srcBits f (x.at l)))
      (BitVec.ofNat 32 y, g)
/-- FCVT -/
def execFcvt (h : Hdr) (t : Ty) (r : Rnd) (d a : Spec) (s : State) : Host.Outcome State Fault Refusal :=
  fcvtFrom .f32 (.fcvt h t r d a) h t r d a s
/-- FCVT.fh -/
def execFcvtFh (h : Hdr) (t : Ty) (r : Rnd) (d a : Spec) (s : State) : Host.Outcome State Fault Refusal :=
  fcvtFrom .f16 (.fcvtFh h t r d a) h t r d a s
/-- FCVT.fb -/
def execFcvtFb (h : Hdr) (t : Ty) (r : Rnd) (d a : Spec) (s : State) : Host.Outcome State Fault Refusal :=
  fcvtFrom .bf16 (.fcvtFb h t r d a) h t r d a s

/-- F2F8 to a format, with two draws under .rs. -/
def f2f8To (f : FFmt) (i : Instr) (h : Hdr) (sat : Bool) (r : Rnd) (d a b c : Spec) (s : State) : Host.Outcome State Fault Refusal :=
  s.issue i h false none fun k s =>
    let x := s.src k (.at .a a) 0
    let y := s.src k (.at .b b) 0
    let z := s.src k (.at .c c) 0
    let shs := [x.shape, y.shape, z.shape]
    let dr := if r == .rs then s.drawsFor k (allU shs) 2 else (fun _ => [], (s.core k.core).lfsr)
    s.resultF k i d shs (if r == .rs then fun s => s.setLfsr k.core dr.2 else id) fun l =>
      let v := (orOne c (z.at l)).toNat
      let (p, g) := quot8 f r sat ((dr.1 l).getD 0 0) (x.at l).toNat v
      let (q, e) := quot8 f r sat ((dr.1 l).getD 1 0) (y.at l).toNat v
      (BitVec.ofNat 32 (q * 256 + p), g ||| e)
/-- F2F8.e4m3 -/
def execF2f8E4m3 (h : Hdr) (sat : Bool) (r : Rnd) (d a b c : Spec) (s : State) : Host.Outcome State Fault Refusal :=
  f2f8To .e4 (.f2f8E4m3 h sat r d a b c) h sat r d a b c s
/-- F2F8.e5m2 -/
def execF2f8E5m2 (h : Hdr) (sat : Bool) (r : Rnd) (d a b c : Spec) (s : State) : Host.Outcome State Fault Refusal :=
  f2f8To .e5 (.f2f8E5m2 h sat r d a b c) h sat r d a b c s
/-- F82F.e4m3 -/
def execF82fE4m3 (h : Hdr) (r : Rnd) (d a b c : Spec) (s : State) : Host.Outcome State Fault Refusal :=
  flt3 (.f82fE4m3 h r d a b c) h d (.at .a a) (.at .b b) (.at .c c) (fun x y z => f82fV .e4 r x y (orOne c z)) s
/-- F82F.e5m2 -/
def execF82fE5m2 (h : Hdr) (r : Rnd) (d a b c : Spec) (s : State) : Host.Outcome State Fault Refusal :=
  flt3 (.f82fE5m2 h r d a b c) h d (.at .a a) (.at .b b) (.at .c c) (fun x y z => f82fV .e5 r x y (orOne c z)) s
/-- FRND -/
def execFrnd (h : Hdr) (r : Rnd) (d a : Spec) (s : State) : Host.Outcome State Fault Refusal :=
  flt1 (.frnd h r d a) h d (.at .a a) (frndV r) s
/-- FRCP -/
def execFrcp (h : Hdr) (d a : Spec) (s : State) : Host.Outcome State Fault Refusal :=
  flt1 (.frcp h d a) h d (.at .a a) (fun x => frcpVal (FFmt.f32.read x.toNat)) s
/-- FRSQ -/
def execFrsq (h : Hdr) (d a : Spec) (s : State) : Host.Outcome State Fault Refusal :=
  flt1 (.frsq h d a) h d (.at .a a) (fun x => frsqVal (FFmt.f32.read x.toNat)) s
/-- FSQRT -/
def execFsqrt (h : Hdr) (d a : Spec) (s : State) : Host.Outcome State Fault Refusal :=
  flt1 (.fsqrt h d a) h d (.at .a a) (fun x => fsqrtVal (FFmt.f32.read x.toNat)) s
/-- FEXP2 -/
def execFexp2 (h : Hdr) (d a : Spec) (s : State) : Host.Outcome State Fault Refusal :=
  flt1 (.fexp2 h d a) h d (.at .a a) (fun x => fexp2Val (FFmt.f32.read x.toNat)) s
/-- FLOG2 -/
def execFlog2 (h : Hdr) (d a : Spec) (s : State) : Host.Outcome State Fault Refusal :=
  flt1 (.flog2 h d a) h d (.at .a a) (fun x => flog2Val (FFmt.f32.read x.toNat)) s
/-- FSIN -/
def execFsin (h : Hdr) (d a : Spec) (s : State) : Host.Outcome State Fault Refusal :=
  flt1 (.fsin h d a) h d (.at .a a) (fun x => fsinVal false (FFmt.f32.read x.toNat)) s
/-- FCOS -/
def execFcos (h : Hdr) (d a : Spec) (s : State) : Host.Outcome State Fault Refusal :=
  flt1 (.fcos h d a) h d (.at .a a) (fun x => fsinVal true (FFmt.f32.read x.toNat)) s
/-- FTANH -/
def execFtanh (h : Hdr) (d a : Spec) (s : State) : Host.Outcome State Fault Refusal :=
  flt1 (.ftanh h d a) h d (.at .a a) (fun x => ftanhVal (FFmt.f32.read x.toNat)) s

end Sys2Proof.Machine
end

