-- ==== Sys2Proof/Machine/Access.lean ====
section
/-! DEFINITION. Memory accesses (05, 16 R344-R347): capabilities, the address of a lane and its checks, windows with their
guard granules, apertures, and the order that the access queue keeps. -/

namespace Sys2Proof.Machine

/-! ## Capabilities (05 R113, R114) -/

/-- BASE. -/
def capBase (c : CapBits) : Nat := c.toNat % 2 ^ 57
/-- FMT. -/
def capFmt (c : CapBits) : Nat := c.toNat / 2 ^ 57 % 16
/-- The reserved bits [63:61]. -/
def capZero (c : CapBits) : Nat := c.toNat / 2 ^ 61 % 8
/-- LEN. -/
def capLen (c : CapBits) : Nat := c.toNat / 2 ^ 64 % 2 ^ 40
/-- PERM. -/
def capPerm (c : CapBits) : BitVec 8 := c.extractLsb' 104 8
/-- PITCH. -/
def capPitch (c : CapBits) : Nat := c.toNat / 2 ^ 112
/-- A capability from its fields. -/
def capMake (base fmt zero len : Nat) (perm : BitVec 8) (pitch : Nat) : CapBits :=
  BitVec.ofNat 128 (base % 2 ^ 57 + fmt % 16 * 2 ^ 57 + zero % 8 * 2 ^ 61 + len % 2 ^ 40 * 2 ^ 64 + perm.toNat * 2 ^ 104
    + pitch % 65536 * 2 ^ 112)

/-- PERM.R -/
def permR : BitVec 8 := 1
/-- PERM.W -/
def permW : BitVec 8 := 2
/-- PERM.ATOM -/
def permAtom : BitVec 8 := 4
/-- PERM.ASYNC -/
def permAsync : BitVec 8 := 8
/-- PERM.MMA -/
def permMma : BitVec 8 := 16
/-- DERIVE. -/
def capDerive (c : CapBits) : Bool := (capPerm c).getLsbD 5
/-- GLOBAL. -/
def capGlobal (c : CapBits) : Bool := (capPerm c).getLsbD 6
/-- SEAL. -/
def capSeal (c : CapBits) : Bool := (capPerm c).getLsbD 7

/-- cap_check: the number of the first condition that fails. `fmt` is the format an entry requires, `sealOk` that it
accepts sealed capabilities. -/
def capCheck (tag : Bool) (c : CapBits) (glob : Bool) (off len : Nat) (perm : BitVec 8) (fmt : Option Nat) (sealOk : Bool) :
    Option Nat :=
  if !tag then some 1
  else if capSeal c && !sealOk then some 2
  else if capGlobal c != glob then some 3
  else if capPerm c &&& perm != perm then some 4
  else if off < capBase c || capLen c < off - capBase c + len then some 5
  else if capZero c != 0 || 12 ≤ capFmt c || (match fmt with | some f => capFmt c != f | none => false) then some 6
  else none

/-! ## Windows (05 R107-R111) -/

/-- The chip colours of a partition: die 0's ascending, then die 1's. -/
def Part.chipColours (p : Part) : List Nat :=
  (List.range 48).filter p.arg.chcol0.getLsbD ++ (List.range 48).filter p.arg.chcol1.getLsbD

/-- The storage a window space of a warp names, where the window begins in it, and its length. A harvest warp's
scratchpad is the range lent on its core (04 R97). -/
def State.window (s : State) (w : Warp) (sp : Space) : Area × Nat × Nat :=
  match sp with
  | .scr =>
    if w.harvest then
      match w.place.bind (fun pl => (s.core pl.core).lent) with
      | some l => if w.lentMap then (.scr l.task l.team, l.off, l.len) else (.scr w.key.task w.key.team, 0, 0)
      | none => (.scr w.key.task w.key.team, 0, 0)
    else (.scr w.key.task w.key.team, 0, match s.task w.key.task with | some t => t.scrLen | none => 0)
  | .shr => (.shr w.key.task, 0, match s.task w.key.task with | some t => t.shrLen | none => 0)
  | _ => (.chip w.part, 0, match s.part w.part with | some p => p.chipColours.length * 2 ^ 21 | none => 0)

/-- The bank of a window access (21 R413): the core that holds the byte, or the colour. Beyond the last colour of .chip the
spec names no colour: an open value. -/
def State.bankOf (s : State) (w : Warp) (sp : Space) (off : Nat) : Nat × State :=
  let own := match w.place with | some pl => pl.core.core | none => 0
  match sp with
  | .scr => (own, s)
  | .shr =>
    let k := off / 256 % 128
    (k, s)
  | _ =>
    match (s.part w.part).bind (fun p => p.chipColours[off / 2 ^ 21]?) with
    | some k => (k, s)
    | none => let (v, s) := s.draw; (v.toNat % 65536, s)

/-- A guard-granule access is recorded (21 R414). -/
def State.guardAccess (s : State) (k : WarpKey) (sp : Space) (off : Nat) : State :=
  match s.warp k with
  | none => s
  | some w =>
    match w.imp with
    | some r => s.putWarp k { w with imp := some { r with further := if r.further == BitVec.allOnes 32 then r.further else r.further + 1 } }
    | none =>
      let (bank, s) := s.bankOf w sp off
      s.putWarp k { w with imp := some { space := sp, bank := BitVec.ofNat 16 bank, off := BitVec.ofNat 48 off, further := 0 } }

/-- The bytes of a window access as they read: zero outside the window. -/
def State.windowBytes (s : State) (w : Warp) (sp : Space) (off n : Nat) : List Byte :=
  let (a, base, len) := s.window w sp
  let st := s.area a
  (List.range n).map (fun i => if off + i < len then st.mem.byte (base + off + i) else 0)

/-- A window access lies inside its window whole. -/
def State.windowIn (s : State) (w : Warp) (sp : Space) (off n : Nat) : Bool := let (_, _, len) := s.window w sp; off + n ≤ len

/-- Writes bytes of an area at an instant, which their lines take as GWCT (06 R135). -/
def State.stampWrite (s : State) (part : Nat) (a : Area) (off : Nat) (bs : List Byte) (t : Nat) : State :=
  let s := s.writeArea part a off bs
  s.setArea a ((s.area a).stamp off bs.length t)

/-- The chip colours of an offset lie on die 1. -/
def Part.chipDie (p : Part) (off : Nat) : Bool := decide (((List.range 48).filter p.arg.chcol0.getLsbD).length ≤ off / 2 ^ 21)

/-- The GTIME of the home of a window's byte: for .chip that of the die that holds its colour (05 R110, 06 R135). -/
def State.windowNow (s : State) (w : Warp) (sp : Space) (off : Nat) : Nat :=
  match sp with
  | .chip => (match s.part w.part with | some p => s.now (p.chipDie off) | none => s.nowAt w)
  | _ => s.nowAt w

/-- Writes the bytes of a window access that lie in the window. -/
def State.windowWrite (s : State) (w : Warp) (sp : Space) (off : Nat) (bs : List Byte) : State :=
  let (a, base, len) := s.window w sp
  let bs := bs.take (len - off)
  if bs.isEmpty || len ≤ off then s else s.stampWrite w.part a (base + off) bs (s.windowNow w sp off)

/-! ## The address of a lane (16 R344) -/

/-- The offset register and the displacement. -/
def memOffset (b : Word) (sh : BitVec 3) (disp : Int) : Int := (b.toNat <<< sh.toNat : Nat) + disp

/-- An address modulo 2^57. -/
def mod57 (x : Int) : Nat := (x % (2 ^ 57 : Int)).toNat

/-- The effective offset of a lane through a capability. -/
def effOffset (c : CapBits) (b : Word) (sh : BitVec 3) (disp : Int) : Nat := mod57 (capBase c + memOffset b sh disp)

/-- A lane's cause at an address. -/
def Ctx.causeAt (c : Ctx) (code detail addr : Nat) : Cause := { c.cause code detail with xaddr := BitVec.ofNat 64 addr }

/-- The translation of a .glob access of n bytes: through the aperture that holds its address, or the page tables. -/
def State.globAddr (s : State) (c : Ctx) (va n : Nat) (use : Use) : State × Except Cause Acc :=
  let acc : Acc := { lns := 0, off := va, pa := 0, len := n, view := none, data := [], cmp := [], tag := false
                     seen := false, served := false, res := [], g := 0 }
  match s.locate c.w.part (s.ctxOf c.w) va n use c.priv with
  | (s, .error (code, detail)) => (s, .error (c.causeAt code (if code == 0x14 then Space.glob.code.toNat else detail) va))
  | (s, .ok x) => (s, .ok { acc with pa := x.dev, len := x.len, view := x.view })

/-- A lane's access outside .priv, formed and checked in the order of R344; `align` is the alignment required. -/
def State.laneAddr (s : State) (c : Ctx) (m : MemArg) (disp : Int) (n align : Nat) (perm : BitVec 8) (use : Use) (l : Lane) :
    State × Except Cause Acc :=
  let q := s.quadAt c .a m.a l
  let off := effOffset q (s.word c .b m.b l) m.sh disp
  match capCheck (s.quadTag c .a m.a l) q (m.space == .glob) off n perm none false with
  | some d => (s, .error (c.causeAt 0x05 d off))
  | none =>
    if off % align != 0 then (s, .error (c.causeAt 0x06 0 off))
    else if m.space == .glob then s.globAddr c off n use
    else (s, .ok { lns := 0, off := off, pa := off, len := n, view := none, data := [], cmp := [], tag := false
                   seen := false, served := false, res := [], g := 0 })

/-- The accesses of the lanes of a set, in ascending order, and the lanes that fault. -/
def State.formAll (s : State) (form : State → Lane → State × Except Cause Acc) (m : Mask) :
    State × List (Lane × Cause) × List Acc :=
  (lanes.filter m.has).foldl (fun (r : State × List (Lane × Cause) × List Acc) l =>
    match form r.1 l with
    | (s, .error e) => (s, r.2.1 ++ [(l, e)], r.2.2)
    | (s, .ok a) => (s, r.2.1, r.2.2 ++ [{ a with lns := BitVec.twoPow 32 l.val }])) (s, [], [])

/-- A uniform address is formed once for every lane of a set (R345). -/
def State.formOnce (s : State) (form : State → Lane → State × Except Cause Acc) (m : Mask) :
    State × List (Lane × Cause) × List Acc :=
  match m.lowest with
  | none => (s, [], [])
  | some l =>
    match form s l with
    | (s, .error e) => (s, allLanes m e, [])
    | (s, .ok a) => (s, [], [{ a with lns := m }])

/-- The address of a memory instruction is uniform (02 R46). -/
def State.uniform (s : State) (c : Ctx) (m : MemArg) : Bool :=
  allU (s.shapes c .a m.a 4) && (s.opnd c .b m.b 0).1.shape == .u

/-! ## The access queue (16 R346, 06 R141) -/

/-- The scope at which an access acts (06 R142). -/
def Entry.effScope (e : Entry) : Scope :=
  if e.kind != .fence && (e.space == .glob || e.space == .chip) && e.ord != .rlx && e.scope.code.toNat < Scope.die.code.toNat
  then .die else e.scope

/-- The instant a release at a scope waits for (06 R139); none where it waits for no time. -/
def releaseTime (sc : Scope) (strict : Bool) (hzn fskew : Nat) : Option Nat :=
  match sc with
  | .die => some hzn
  | .device | .host => some (hzn + if strict then 2 else 0)
  | .peer | .fabric => some (hzn + fskew)
  | .system => some (hzn + max (if strict then 2 else 0) fskew)
  | _ => none

/-- A scope at which a release waits for the commit of held writes (06 R144). -/
def outward (sc : Scope) : Bool := Scope.host.code.toNat ≤ sc.code.toNat

/-- The held effects of a partition hold a write. -/
def Part.holdsWrite (p : Part) : Bool := p.heldFx.any (fun h => match h with | .msix _ => false | _ => true)

/-- Bytes of the held-effects buffer an effect takes (04 R100): those it carries (DESIGN CHOICE [18]). -/
def Held.size : Held → Nat
  | .hostWrite _ bs => bs.length
  | .peerWrite _ _ bs _ => bs.length
  | .send _ => 128
  | .msix _ => 4
/-- Bytes of held effects of a partition. -/
def Part.heldBytes (p : Part) : Nat := (p.heldFx.map Held.size).sum

/-- The held effects of a partition are seven eighths of what they may be: 256 KiB and the overflow region (04 R100;
DESIGN CHOICE [18]). -/
def Part.fxTight (p : Part) : Bool := p.arg.sliced && decide (7 * (2 ^ 18 + p.arg.overflow) ≤ 8 * p.heldBytes)

/-- An earlier entry of which a release at .peer needs no acknowledgement (06 R143): all its accesses are to peers other
than those that home the release's locations. -/
def Entry.elsewhere (e f : Entry) : Bool :=
  e.effScope == .peer && e.kind != .fence && f.kind != .fence && e.space == .glob && f.space == .glob
    && f.accs.all (fun b => isPeer b.pa && e.accs.all (fun a => peerOf a.pa != peerOf b.pa))

/-- The release wait of an entry has ended (06 R141). -/
def State.releaseOver (s : State) (w : Warp) (e : Entry) : Bool :=
  (w.before e).all (fun f => (f.isLoad && f.done) || e.elsewhere f)
    && (match s.part w.part with
      | some p =>
        (match releaseTime e.effScope (e.ord == .sc) w.hzn.toNat (s.fskew p) with
          | some t => decide (t ≤ s.nowAt w)
          | none => true)
          && !(outward e.effScope && p.holdsWrite)
      | none => true)

/-- Puts an entry at the end of a warp's queue. -/
def State.enqueue (s : State) (k : WarpKey) (e : Entry) : State :=
  let (id, s) := s.name
  s.onWarp k (fun w => { w with queue := w.queue ++ [{ e with id := id }] })

/-- The queue is full (R346). -/
def Warp.full (w : Warp) : Bool := 64 ≤ w.queue.length

/-- Changes an entry of a warp. -/
def State.onEntry (s : State) (k : WarpKey) (id : Nat) (f : Entry → Entry) : State :=
  s.onWarp k (fun w => { w with queue := w.queue.map (fun e => if e.id == id then f e else e) })
/-- Removes an entry that is complete. -/
def State.dropEntry (s : State) (k : WarpKey) (id : Nat) : State :=
  s.onWarp k (fun w => { w with queue := w.queue.filter (·.id != id) })
/-- Changes the accesses of an entry. -/
def Entry.mapAcc (e : Entry) (f : Acc → Acc) : Entry := { e with accs := e.accs.map f }
/-- HZN joins a GWCT (06 R138). -/
def State.join (s : State) (k : WarpKey) (g : Nat) : State := s.onWarp k (fun w => { w with hzn := joinHzn w.hzn g })

/-- An entry of the queue, by its number. -/
def Warp.entry (w : Warp) (id : Nat) : Option Entry := w.queue.find? (·.id == id)

/-- A new entry of an instruction. -/
def Ctx.entry (c : Ctx) (s : State) (i : Instr) (kind : EKind) (space : Space) (scope : Scope) (ord : Order) (ty : Ty)
    (accs : List Acc) : Entry :=
  { id := 0, kind := kind, space := space, scope := scope, ord := ord, ty := ty, x := c.x, pid := c.pid, runId := c.p.runId
    accs := accs, instr := i, priv := c.priv, ch := c.h.ch, dst := none, held := [], lns := accs.foldl (fun m a => m ||| a.lns) 0, shape := .w
    relDone := false, relSeq := 0, frame := c.p.frameId, issued := s.gtime, gated := none }

/-! ## What is found after issue (23 R434, R437) -/

/-- Replaces an access of an entry. -/
def State.setAcc (s : State) (k : WarpKey) (id : Nat) (old new : Acc) : State :=
  s.onEntry k id (fun e => e.mapAcc (fun a => if a == old then new else a))
/-- Takes an access off its entry: it is never performed. -/
def State.dropAcc (s : State) (k : WarpKey) (id : Nat) (a : Acc) : State :=
  s.onEntry k id (fun e => { e with accs := e.accs.filter (· != a) })

/-- The v registers that the words of a run name. -/
def runNames (run : List Insn) : List Nat :=
  (run.map (fun w => match decode w with
    | .ok i => i.names
    | .error _ => [])).flatten

/-- The k registers that the words of a run name. -/
def runKnames (run : List Insn) : List Nat :=
  (run.map (fun w => match decode w with
    | .ok i => i.knames
    | .error _ => [])).flatten

/-- The entry keeps the path's run from starting (02 R24): it will write a register that the run names, of the k registers
one of the path's own frame. -/
def Path.heldBy (p : Path) (e : Entry) : Bool :=
  (runNames p.run).any e.pends || (p.frame.isSome && (runKnames p.run).any (e.pendsK p.frameId))

/-- The entries that keep a path's run from starting. -/
def Warp.holdsBack (w : Warp) (p : Path) : List Entry :=
  let names := runNames p.run
  let ks := if p.frame.isSome then runKnames p.run else []
  w.queue.filter (fun e => names.any e.pends || ks.any (e.pendsK p.frameId))

/-- The path stands where its lanes can still take the trap at X: just behind the access, or waiting at it, or before a run
that the access itself holds back, words of its own run having issued after it (23 R434; DEDUCED [132]). -/
def Path.precise (p : Path) (e : Entry) : Bool :=
  p.frameId == e.frame && ((p.pc == e.x + 12 && p.behind.contains e.runId) || (p.pc == e.x && p.wait != .none)
    || (!p.begun && p.behind.contains e.runId && p.heldBy e))

/-- Whether the path's next run is held back by the access is not yet known: the run has still to be fetched. -/
def Path.unfetched (p : Path) (e : Entry) : Bool :=
  e.dst.isSome && p.frameId == e.frame && p.wait == .none && p.run.isEmpty && p.behind.contains e.runId && p.pc != e.x + 12
    && p.pc.toNat % 4 == 0

/-- The trap of an access is taken at X: the path can still take it there, or it is of a target that is unavailable, which
is precise (21 R408, R413). -/
def Path.takesAt (p : Path) (e : Entry) (code : BitVec 8) : Bool := p.precise e || (code == 0x13 && p.frameId == e.frame)

/-- Lanes of a path take the trap of their accesses: precisely at X, or at the path's next instruction boundary. -/
def State.findOn (s : State) (k : WarpKey) (e : Entry) (code : BitVec 8) (faults : List (Lane × Cause)) (p : Path) : State :=
  let here := faults.filter (fun f => p.lns.has f.1)
  if p.takesAt e code then s.park k p.pid e.x (e.x.setWidth 64) here false
  else s.park k p.pid p.pc (p.pc.setWidth 64) (here.map (fun f => (f.1, { f.2 with imp := code == 0x14 }))) false

/-- The finding can reach the lanes: the warp is placed, none of them stands deferred or with the debug agent or before a run
not yet fetched that it may hold back, and those
in a handler can take it as the double fault it is (21 R412). A finding that is not precise waits until its lanes have left
their handler. -/
def Warp.reachable (w : Warp) (e : Entry) (code : BitVec 8) (m : Mask) : Bool :=
  w.place.isSome && w.defers.all (fun d => d.lns &&& m == 0)
    && w.paths.all (fun p => p.lns &&& m == 0 || (p.wait != .debug && !p.unfetched e && (p.frame.isNone || p.takesAt e code)))

/-- The lanes of accesses. -/
def accLanes (as : List Acc) : Mask := as.foldl (fun m a => m ||| a.lns) 0

/-- What came of accesses at their home: they are performed no further, and their lanes trap together. Where the finding
cannot reach them yet the accesses stand, marked. -/
def State.findAll (s : State) (k : WarpKey) (e : Entry) (as : List Acc) (code detail : Nat) : State :=
  match s.warp k with
  | none => s
  | some w =>
    if !w.reachable e (BitVec.ofNat 8 code) (accLanes as &&& ~~~w.exited) then
      as.foldl (fun s a => s.setAcc k e.id a { a with seen := true }) s
    else
      let faults := (as.map (fun (a : Acc) => allLanes (a.lns &&& ~~~w.exited)
        { code := BitVec.ofNat 8 code, detail := BitVec.ofNat 8 detail, xaddr := BitVec.ofNat 64 a.off, xstat := 0, imp := false })).flatten
      w.paths.foldl (fun s p => s.findOn k e (BitVec.ofNat 8 code) faults p) (as.foldl (fun s a => s.dropAcc k e.id a) s)

end Sys2Proof.Machine
end

