-- ==== Sys2Proof/Machine/Memory.lean ====
section
/-! DEFINITION. Memory instructions at issue (16 R348-R358): loads, stores, atomics, fences, waits, pins, prefetch; accesses
to lane-private memory; and the demand an owner's access makes on a lent range. -/

namespace Sys2Proof.Machine

/-! ## Values -/

/-- A value of fewer than 32 bits extended, or the word j of a wider one (07 R153). -/
def loadedWord (t : Ty) (bs : List Byte) (j : Nat) : Word :=
  if t.bytes < 4 then
    let x := leNat (bs.take t.bytes)
    if t.signed && x.testBit (8 * t.bytes - 1) then BitVec.ofInt 32 ((x : Int) - 2 ^ (8 * t.bytes)) else BitVec.ofNat 32 x
  else BitVec.ofNat 32 (leNat ((bs.drop (4 * j)).take 4))

/-- How many registers hold a value of a type. -/
def Ty.regCount (t : Ty) : Nat := max 1 (t.bytes / 4)

/-- The low n bytes of a data operand in a lane. -/
def State.dataBytes (s : State) (c : Ctx) (pos : Pos) (sp : Spec) (n : Nat) (l : Lane) : List Byte :=
  ((List.range ((n + 3) / 4)).map (fun k => leBytes 4 ((s.opnd c pos sp k).1.at l).toNat)).flatten.take n

/-- The value an atomic writes (16 R351) from what the location held, the data and the comparand. -/
def atomValue (op : AtomOp) (t : Ty) (m c cmp : List Byte) : List Byte :=
  let n := t.bytes
  let x := leNat m
  let y := leNat c
  let int : Nat → Int := fun v => if t.signed && v.testBit (8 * n - 1) then (v : Int) - 2 ^ (8 * n) else v
  let r : Nat := match op with
    | .add => if t == .f32 then (faddV .f32 .rn x y).1 else x + y
    | .min => if t == .f32 then (fmnxV .f32 false false x y).1 else if int x ≤ int y then x else y
    | .max => if t == .f32 then (fmnxV .f32 true false x y).1 else if int x ≤ int y then y else x
    | .and => Nat.land x y
    | .or => Nat.lor x y
    | .xor => Nat.xor x y
    | .exch => y
    | .cas => if m == cmp then y else x
    | .inc => if y ≤ x then 0 else x + 1
    | .dec => if x == 0 || y < x then y else x - 1
  leBytes n r

/-! ## Lane-private memory (05 R104-R106) -/

/-- The virtual address of a private byte. -/
def Warp.privAddr (w : Warp) (l : Lane) (o : Nat) : Nat := w.pbase.toNat + o / 4 * 128 + l.val * 4 + o % 4

/-- The pieces of a private access that lie in consecutive bytes: offset from its start, bytes. -/
def privPieces (o n : Nat) : List (Nat × Nat) :=
  if n ≤ 4 then [(o, n)] else (List.range (n / 4)).map (fun j => (o + 4 * j, 4))

/-- A piece of a private access: its address, its bytes, where it is. -/
structure PrivPiece where
  va : Nat
  len : Nat
  loc : Loc
deriving DecidableEq, Repr

/-- The rank of a cause of an access that goes to a place (22 R419). -/
def Cause.rank (e : Cause) : Nat :=
  if e.code == 0x06 then 11 else if e.code == 0x08 || e.code == 0x09 then 13 else if e.code == 0x0A then 14
  else if e.code == 0x13 then 15 else 16

/-- Of the causes that pieces of an access meet, in their order, the lane keeps the one of the highest rank. -/
def worst : List Cause → Option Cause
  | [] => none
  | e :: es =>
    match worst es with
    | none => some e
    | some f => some (if f.rank < e.rank then f else e)

/-- A piece of a private access is where its address leads, or meets a cause. -/
def State.privPiece (s : State) (c : Ctx) (use : Use) (o va k : Nat) : State × Except Cause PrivPiece :=
  match s.locate c.w.part (s.ctxOf c.w) va k use c.priv with
  | (s, .error (code, detail)) => (s, .error (c.causeAt code (if code == 0x14 then 0 else detail) va))
  | (s, .ok p) =>
    match s.locRead c.w.part va k 0 p with
    | .error d => (s, .error (c.causeAt 0x14 d o))
    | .ok _ => (s, .ok ⟨va, k, p⟩)

/-- The places of a private access of a lane, or its fault (16 R344): each piece is looked for, and of the causes met the one
of the highest rank stands. -/
def State.privForm (s : State) (c : Ctx) (m : MemArg) (disp : Int) (n : Nat) (use : Use) (l : Lane) :
    State × Except Cause (List PrivPiece) :=
  let o := mod57 (memOffset (s.word c .b m.b l) m.sh disp)
  if o % n != 0 then (s, .error (c.causeAt 0x06 0 o))
  else if c.w.plim * 4 < o + n then (s, .error (c.causeAt 0x07 0 o))
  else
    let (s, bad, good) := (privPieces o n).foldl (fun (r : State × List Cause × List PrivPiece) (x, k) =>
      match r.1.privPiece c use o (c.w.privAddr l x) k with
      | (s, .error e) => (s, r.2.1 ++ [e], r.2.2)
      | (s, .ok p) => (s, r.2.1, r.2.2 ++ [p])) (s, [], [])
    match worst bad with
    | some e => (s, .error e)
    | none => (s, .ok good)

/-- The bytes of a private access and the GWCT they carry. -/
def State.privRead (s : State) (part : Nat) (ps : List PrivPiece) : List Byte × Nat :=
  ps.foldl (fun (r : List Byte × Nat) p => match s.locRead part p.va p.len 0 p.loc with
    | .ok (bs, g) => (r.1 ++ bs, max r.2 g)
    | .error _ => r) ([], 0)

/-- A private access reaches its lines in the L1 of the warp's core (05 R106). -/
def State.privTouch (s : State) (c : Ctx) (ps : List PrivPiece) (write : Bool) : State :=
  ps.foldl (fun s p => s.touchPriv c.w (s.ctxOf c.w) p.va p.loc write c.h.ch.toNat) s

/-- Stores the bytes of a private access; the line is the warp's alone, and the horizon stays. The bytes of a line that is dirty
in an L1 lie in the memory it is homed on, as those of a line that is dirty in an L2 do [105]. -/
def State.privWrite (s : State) (c : Ctx) (ps : List PrivPiece) (bs : List Byte) : State :=
  (ps.foldl (fun (r : State × List Byte) p =>
    (r.1.locWrite c.w.part p.loc (r.2.take p.len), r.2.drop p.len)) (s.privTouch c ps true, bs)).1

/-- The lanes of a private access: their pieces, or their faults. -/
def State.privAll (s : State) (c : Ctx) (m : MemArg) (disp : Int) (n : Nat) (use : Use) :
    State × List (Lane × Cause) × List (Lane × List PrivPiece) :=
  (lanes.filter c.wr.has).foldl (fun (r : State × List (Lane × Cause) × List (Lane × List PrivPiece)) l =>
    match r.1.privForm c m disp n use l with
    | (s, .error e) => (s, r.2.1 ++ [(l, e)], r.2.2)
    | (s, .ok ps) => (s, r.2.1, r.2.2 ++ [(l, ps)])) (s, [], [])

/-- A load from lane-private memory: W, at once. -/
def State.privLoad (s : State) (c : Ctx) (i : Instr) (t : Ty) (d : Spec) (m : MemArg) (disp : Int) : State :=
  let (s, faults, ps) := s.privAll c m disp t.bytes .read
  let vals := ps.map (fun (l, p) => (l, s.privRead c.w.part p))
  let dests := (List.range (Ty.regCount t)).map (fun j => (⟨d, j, .w, Line.of (fun l =>
    match vals.find? (·.1 == l) with | some (_, bs, _) => loadedWord t bs j | none => 0), 0⟩ : Dest))
  s.commit c i faults dests [] 0 (fun s => vals.foldl (fun s (_, _, g) => s.join c.k g)
    (ps.foldl (fun s (_, p) => s.privTouch c p false) s))

/-- A store to lane-private memory, lanes ascending. -/
def State.privStore (s : State) (c : Ctx) (i : Instr) (t : Ty) (d : Spec) (m : MemArg) (disp : Int) : State :=
  let (s, faults, ps) := s.privAll c m disp t.bytes .write
  s.commit c i faults [] [] 0 (fun t' => ps.foldl (fun s' (l, p) => s'.privWrite c p (s.dataBytes c .d d t.bytes l)) t')

/-! ## The lent range (04 R96, R97) -/

/-- Harvest warps run on a core. -/
def State.harvestRuns (s : State) (c : CoreKey) : Bool := (s.onCore c).any (fun w => w.inHarvest && !w.parked)

/-- An owner's accesses touch the range its team lends. -/
def State.touchesLent (s : State) (c : Ctx) (sp : Space) (accs : List Acc) : Bool :=
  !c.w.inHarvest && sp == .scr && (match (s.core c.core).lent with
    | some l => l.task == c.k.task && l.team == c.k.team && accs.any (fun a => a.off < l.off + l.len && l.off < a.off + a.len)
    | none => false)

/-- The demand of an owner's access: harvest is revoked, and the access waits for the return of the range. The state, and
whether the access goes on. -/
def State.demandRange (s : State) (c : Ctx) (sp : Space) (accs : List Acc) : State × Bool :=
  if !s.touchesLent c sp accs then (s, true)
  else
    let s := if s.harvestRuns c.core then s.revoke c.core false 0 else s
    (s, !s.rangeBusy c.core)

/-! ## Issue into the queue -/

/-- The destinations of an access that take a line at issue (02 R53): those that become W, and those of a uniform result that
a partial mask may make W. -/
def Ctx.lineDests (c : Ctx) (sh : Shape) (dst : Option (Spec × Nat)) : List Dest :=
  match dst with
  | none => []
  | some (d, n) =>
    if sh == .w || wset c.wr c.w.exited != Mask.all then (List.range n).map (fun k => ⟨d, k, .w, Vector.replicate 32 0, 0⟩) else []

/-- What the registers of destinations hold that are not wide. -/
def Ctx.narrow (c : Ctx) (dests : List Dest) : List (Nat × Val) :=
  (dests.filterMap Dest.num).filterMap (fun n =>
    if h : n < 128 then (if c.rd.regs[n].val.shape == .w then none else some (n, c.rd.regs[n].val)) else none)

/-- A destination of a load takes its line at issue (02 R53): it becomes W with the values it has; one that is spilled, as
the instruction reads it. -/
def State.reserve (s : State) (c : Ctx) (taken : List (Nat × Nat)) (n : Nat) : State :=
  if h : n < 128 then
    s.onWarp c.k (fun w =>
      let r := w.regs[n]
      let old := if r.spl then (c.rd.regs[n].val, c.rd.regs[n].tags) else (r.val, r.tags)
      let line := match taken.find? (·.1 == n) with | some (_, l) => l | none => r.line
      w.setReg n { r with val := .wide old.1.line, tags := old.2, spl := false, line := line, dirty := true })
  else s

/-- A write or atomic to a peer waits in gathering while the partition's held effects are at their limit (04 R100). -/
def State.fxWaits (s : State) (c : Ctx) (e : Entry) : Bool :=
  !e.isLoad && e.space == .glob && e.accs.any (fun a => isPeer a.pa) && (match s.part c.w.part with | some p => p.fxTight | none => false)

/-- An instruction with accesses issues: its destinations that will be W take lines, its entry joins the queue, the path
goes on, and the faulting lanes park. `dst` names the destination that will be written. -/
def State.issueAccess (s : State) (c : Ctx) (i : Instr) (faults : List (Lane × Cause)) (dst : Option (Spec × Nat)) (e : Entry) :
    State :=
  let ok := c.ok faults
  let named := i.names
  let dests := c.lineDests e.shape dst
  if s.fxWaits c e then s
  else match s.demandRange c e.space e.accs with
  | (s, false) => s
  | (s, true) =>
    match s.gather c.k c.priv c.x named (s.needs c i.reads ok dests) [] with
    | (s, .error x) => s.faultAt c i (allLanes c.wr x)
    | (s, .ok taken) =>
      let s := if ok == 0 then s else dests.foldl (fun s d => match d.num with
        | some n => s.reserve c taken n
        | none => s) s
      let s := s.onWarp c.k (fun w => w.touch i.uses)
      let s := if e.accs.isEmpty && e.kind != .fence then s else s.enqueue c.k { e with dst := dst, held := c.narrow dests }
      s.faultAt c i faults

/-- LD and LDC. -/
def loadWith (i : Instr) (h : Hdr) (kind : EKind) (scope : Scope) (ord : Order) (bc : Bool) (t : Ty) (d : Spec) (m : MemArg)
    (disp : BitVec 24) (s : State) : Host.Outcome State Fault Refusal :=
  s.issue i h false none fun c s =>
    let once := s.uniform c m && (bc || m.space != .glob)
    let dst := if d == .z then none else some (d, Ty.regCount t)
    let sh : Shape := if m.space != .priv && once then .u else .w
    s.gathered c i (c.lineDests sh dst) fun _ =>
    if m.space == .priv then s.privLoad c i t d m disp.toInt
    else if c.w.full then s
    else
      let form := fun (s : State) l => s.laneAddr c m disp.toInt t.bytes t.bytes permR .read l
      let (s, faults, accs) := if once then s.formOnce form c.wr else s.formAll form c.wr
      s.issueAccess c i faults dst { c.entry s i kind m.space scope ord t accs with shape := sh }

/-- Accesses with the data of their lane. -/
def State.withData (s : State) (c : Ctx) (pos : Pos) (sp : Spec) (n : Nat) (accs : List Acc) : List Acc :=
  accs.map (fun a => { a with data := s.dataBytes c pos sp n (a.lns.lowest.getD 0) })

/-- ST and STC. -/
def storeWith (i : Instr) (h : Hdr) (kind : EKind) (scope : Scope) (ord : Order) (t : Ty) (d : Spec) (m : MemArg)
    (disp : BitVec 24) (s : State) : Host.Outcome State Fault Refusal :=
  s.issue i h false none fun c s =>
    s.gathered c i [] fun _ =>
    if m.space == .priv then s.privStore c i t d m disp.toInt
    else if c.w.full then s
    else
      let form := fun (s : State) l => s.laneAddr c m disp.toInt t.bytes t.bytes permW .write l
      let (s', faults, accs) := s.formAll form c.wr
      let accs := (s.withData c .d d t.bytes accs).map (fun a =>
        { a with tag := kind == .stc && s.quadTag c .d d (a.lns.lowest.getD 0) })
      s'.issueAccess c i faults none (c.entry s' i kind m.space scope ord t accs)

/-- LD -/
def execLd (h : Hdr) (scope : Scope) (ord : Order) (bc : Bool) (t : Ty) (d : Spec) (m : MemArg) (disp : BitVec 24) (s : State) :
    Host.Outcome State Fault Refusal := loadWith (.ld h scope ord bc t d m disp) h .ld scope ord bc t d m disp s
/-- LDC -/
def execLdc (h : Hdr) (scope : Scope) (ord : Order) (bc : Bool) (d : Spec) (m : MemArg) (disp : BitVec 24) (s : State) :
    Host.Outcome State Fault Refusal := loadWith (.ldc h scope ord bc d m disp) h .ldc scope ord bc .b128 d m disp s
/-- ST -/
def execSt (h : Hdr) (scope : Scope) (ord : Order) (t : Ty) (d : Spec) (m : MemArg) (disp : BitVec 24) (s : State) :
    Host.Outcome State Fault Refusal := storeWith (.st h scope ord t d m disp) h .st scope ord t d m disp s
/-- STC -/
def execStc (h : Hdr) (scope : Scope) (ord : Order) (d : Spec) (m : MemArg) (disp : BitVec 24) (s : State) :
    Host.Outcome State Fault Refusal := storeWith (.stc h scope ord d m disp) h .stc scope ord .b128 d m disp s

/-! ## Atomics and fences (R351-R354) -/

/-- The data and comparand of an ATOM in a lane. -/
def State.atomData (s : State) (c : Ctx) (op : AtomOp) (n : Nat) (e : Spec) (l : Lane) : List Byte × List Byte :=
  if op == .cas then
    let all := s.dataBytes c .c e (2 * n) l
    (all.drop n, all.take n)
  else (s.dataBytes c .c e n l, [])

/-- ATOM -/
def execAtom (h : Hdr) (scope : Scope) (ord : Order) (op : AtomOp) (t : Ty) (d : Spec) (m : MemArg) (disp : BitVec 16) (c : Spec)
    (s : State) : Host.Outcome State Fault Refusal :=
  let i : Instr := .atom h scope ord op t d m disp c
  let dst := if d == .z then none else some (d, Ty.regCount t)
  s.issue i h false none fun k s => s.gathered k i (k.lineDests .w dst) fun _ =>
    if k.w.full then s
    else
      let form := fun (s : State) l => s.laneAddr k m disp.toInt t.bytes t.bytes permAtom .write l
      let (s', faults, accs) := s.formAll form k.wr
      let accs := accs.map (fun a =>
        let (x, y) := s.atomData k op t.bytes c (a.lns.lowest.getD 0)
        { a with data := x, cmp := y })
      s'.issueAccess k i faults dst (k.entry s' i (.atom op) m.space scope ord t accs)
/-- RED -/
def execRed (h : Hdr) (scope : Scope) (ord : Order) (op : AtomOp) (t : Ty) (d : Spec) (m : MemArg) (disp : BitVec 24) (s : State) :
    Host.Outcome State Fault Refusal :=
  let i : Instr := .red h scope ord op t d m disp
  s.issue i h false none fun c s => s.gathered c i [] fun _ =>
    if c.w.full then s
    else
      let form := fun (s : State) l => s.laneAddr c m disp.toInt t.bytes t.bytes permAtom .write l
      let (s', faults, accs) := s.formAll form c.wr
      s'.issueAccess c i faults none (c.entry s' i (.red op) m.space scope ord t (s.withData c .d d t.bytes accs))
/-- FENCE -/
def execFence (h : Hdr) (scope : Scope) (ord : Order) (s : State) : Host.Outcome State Fault Refusal :=
  s.issue (.fence h scope ord) h false none fun c s =>
    if c.w.full then s
    else s.issueAccess c (.fence h scope ord) [] none
      { c.entry s (.fence h scope ord) .fence .priv scope ord .b32 [] with lns := c.wr }

/-- WAITMEM -/
def execWaitmem (h : Hdr) (scope : Scope) (ord : Order) (cond : Cond) (t : Ty) (d : Spec) (m : MemArg) (disp : BitVec 24)
    (s : State) : Host.Outcome State Fault Refusal :=
  let i : Instr := .waitmem h scope ord cond t d m disp
  s.issue i h false none fun c s => s.gathered c i [] fun _ =>
    if c.w.full then s
    else
      let form := fun (s : State) l => s.laneAddr c m disp.toInt t.bytes t.bytes permAtom .read l
      let (s', faults, accs) := s.formAll form c.wr
      let accs := s.withData c .d d t.bytes accs
      match s'.demandRange c m.space accs with
      | (s', false) => s'
      | (s', true) =>
      match s'.gather c.k c.priv c.x i.names (s'.needs c i.reads 0 []) [] with
      | (s', .error x) => s'.faultAt c i (allLanes c.wr x)
      | (s', .ok _) =>
        let s' := s'.onWarp c.k (fun w => w.touch i.uses)
        if accs.isEmpty then s'.faultAt c i faults
        else
          let id := s'.fresh
          let s' := s'.enqueue c.k (c.entry s' i (.waitmem cond) m.space scope ord t accs)
          (s'.park c.k c.pid c.x (c.x.setWidth 64) faults false).block c (.waitmem id)

/-! ## PIN, UNPIN, PREF, ICINV (R356-R358) -/

/-- The line that a lane of PIN or UNPIN names: the capability is checked for one byte, and the address is translated
(16 R356, R363); none where it lies outside the partition's map, which pins nothing (DESIGN CHOICE [106]). -/
def State.lineAddr (s : State) (c : Ctx) (m : MemArg) (disp : Int) (l : Lane) : State × Except Cause (Option Nat) :=
  let q := s.quadAt c .a m.a l
  let off := effOffset q (s.word c .b m.b l) m.sh disp
  match capCheck (s.quadTag c .a m.a l) q true off 1 permAtom none false with
  | some d => (s, .error (c.causeAt 0x05 d off))
  | none =>
    match s.locate c.w.part (s.ctxOf c.w) off 4 .read true with
    | (s, .ok x) => (s, .ok (some (x.dev / 128)))
    | (s, .error (code, detail)) =>
      if code == 0x0A then (s, .ok none) else (s, .error (c.causeAt code (if code == 0x14 then 4 else detail) off))

/-- The lines of the written lanes, ascending, and the lanes that fault. -/
def State.lineAddrs (s : State) (c : Ctx) (m : MemArg) (disp : Int) : State × List (Lane × Cause) × List (Lane × Nat) :=
  (lanes.filter c.wr.has).foldl (fun (r : State × List (Lane × Cause) × List (Lane × Nat)) l =>
    match r.1.lineAddr c m disp l with
    | (s, .error e) => (s, r.2.1 ++ [(l, e)], r.2.2)
    | (s, .ok none) => (s, r.2.1, r.2.2)
    | (s, .ok (some n)) => (s, r.2.1, r.2.2 ++ [(l, n)])) (s, [], [])

/-- A line of an L2 is pinned by a context. -/
def L2Line.pinnedBy (l : L2Line) (ctx : BitVec 6) : Bool := l.pins.contains ctx

/-- The lines that a context of a partition has pinned. -/
def State.pinCount (s : State) (part : Nat) (ctx : BitVec 6) : Nat :=
  (s.l2.filter (fun l => l.part == part && l.pinnedBy ctx)).length

/-- PIN of a line (05 R126): whether the line is pinned. Of a line homed on a peer the ways are the peer's: only the quota
limits it here (DESIGN CHOICE [106]). -/
def State.pinLine (s : State) (part : Nat) (ctx : BitVec 6) (line : Nat) : State × Bool :=
  match s.part part with
  | none => (s, false)
  | some p =>
    let quota := match p.ctxs.find ctx with | some c => c.pinq | none => 0
    let peer := isPeer (128 * line)
    let ways := if peer then 0 else ((s.l2Lines p (p.l2Set line)).filter (fun l => !l.pins.isEmpty)).length
    match s.l2.find? (fun l => l.line == line) with
    | some l =>
      if l.pinnedBy ctx then (s, true)
      else if 14 ≤ ways || quota ≤ s.pinCount part ctx then (s, false)
      else ({ s with l2 := s.l2.map (fun x => if x.line == line then { x with pins := ctx :: x.pins } else x) }, true)
    | none =>
      if 14 ≤ ways || quota ≤ s.pinCount part ctx then (s, false)
      else
        let s := if peer then { s with l2 := ⟨line, part, ctx, false, [], false, 0⟩ :: s.l2 } else s.l2Touch part ctx line false 0
        ({ s with l2 := s.l2.map (fun x => if x.line == line then { x with pins := ctx :: x.pins } else x) }, true)

/-- The lines of lanes are pinned, one after another: the lanes whose line is pinned. -/
def State.pinAll (s : State) (part : Nat) (ctx : BitVec 6) (lines : List (Lane × Nat)) : State × Mask :=
  lines.foldl (fun (r : State × Mask) (l, n) =>
    let (s, ok) := r.1.pinLine part ctx n
    (s, if ok then r.2 ||| BitVec.twoPow 32 l.val else r.2)) (s, 0)

/-- UNPIN of a line. -/
def State.unpinLine (s : State) (ctx : BitVec 6) (line : Nat) : State :=
  { s with l2 := s.l2.map (fun x => if x.line == line then { x with pins := x.pins.filter (· != ctx) } else x) }

/-- PIN -/
def execPin (h : Hdr) (pd : BitVec 3) (m : MemArg) (disp : BitVec 24) (s : State) : Host.Outcome State Fault Refusal :=
  s.issue (.pin h pd m disp) h false none fun c s => s.gathered c (.pin h pd m disp) [] fun _ =>
    let (s, faults, lines) := s.lineAddrs c m disp.toInt
    s.commit c (.pin h pd m disp) faults [] [] 0 (fun s =>
      let (s, bits) := s.pinAll c.w.part (s.ctxOf c.w) lines
      s.onWarp c.k (fun w => w.setPred pd (wset (c.ok faults) w.exited) bits))
/-- UNPIN -/
def execUnpin (h : Hdr) (m : MemArg) (disp : BitVec 24) (s : State) : Host.Outcome State Fault Refusal :=
  s.issue (.unpin h m disp) h false none fun c s => s.gathered c (.unpin h m disp) [] fun _ =>
    let (s, faults, lines) := s.lineAddrs c m disp.toInt
    s.commit c (.unpin h m disp) faults [] [] 0 (fun s => lines.foldl (fun s (_, n) => s.unpinLine (s.ctxOf c.w) n) s)

/-- PREF of a line (R357): its home L2 holds it then, where a copy serves the prefetch too. -/
def State.prefetch (s : State) (c : Ctx) (a : Acc) : State :=
  match s.part c.w.part with
  | none => s
  | some p =>
    let line := a.pa / 128
    let ch := c.h.ch.toNat
    if isPeer a.pa then s
    else if a.view.isSome || (p.homeDie line == dieOf c.core.cluster && ch == 3) then
      s.touchLoc c.w.part (s.ctxOf c.w) ⟨a.pa, a.len, a.view⟩ false ch
    else
      let t := (s.serveLoad c.w.part (s.ctxOf c.w) c.core none a.pa 1 .thread ch).1
      if t.l2.any (fun l => l.line == line) then t else t.l2Access c.w.part (s.ctxOf c.w) line false ch
/-- PREF -/
def execPref (h : Hdr) (m : MemArg) (disp : BitVec 24) (s : State) : Host.Outcome State Fault Refusal :=
  s.issue (.pref h m disp) h false none fun c s => s.gathered c (.pref h m disp) [] fun _ =>
    let (s, _, accs) := s.formAll (fun s l => s.laneAddr c m disp.toInt 4 4 permR .read l) c.wr
    s.commit c (.pref h m disp) [] [] [] 0 (fun s => accs.foldl (fun s a => s.prefetch c a) s)

/-- The lines of a 64 KiB range leave every instruction cache of the partition. -/
def State.icDrop (s : State) (part : Nat) (ctx : BitVec 6) (va : Nat) : State :=
  { s with cores := s.cores.map (fun (k, c) =>
      (k, { c with icache := c.icache.filter (fun l => !(l.part == part && l.ctx == ctx && l.line / 512 == va / 65536)) })) }
/-- ICINV: it stays in gathering while a FENCE that its warp issued before it is not complete (DEDUCED [25]). -/
def execIcinv (h : Hdr) (m : MemArg) (disp : BitVec 24) (s : State) : Host.Outcome State Fault Refusal :=
  s.issue (.icinv h m disp) h false none fun c s => if c.w.fencing then s else
    let lane := fun (l : Lane) =>
      let q := s.quadAt c .a m.a l
      let off := effOffset q (s.word c .b m.b l) m.sh disp.toInt
      (off, capCheck (s.quadTag c .a m.a l) q true off 1 permR none false)
    let faults := (lanes.filter c.wr.has).filterMap (fun l => match lane l with
      | (off, some d) => some (l, c.causeAt 0x05 d off)
      | _ => none)
    let ok := c.ok faults
    s.commit c (.icinv h m disp) faults [] [] 0 (fun t =>
      (lanes.filter ok.has).foldl (fun t l => t.icDrop c.w.part (s.ctxOf c.w) (lane l).1) t)

end Sys2Proof.Machine
end

