-- ==== Sys2Proof/Machine/Caps.lean ====
section
/-! DEFINITION. Instructions over capabilities in registers (16 R359-R362) and CAPROOT (17 R393). -/

namespace Sys2Proof.Machine

/-- The four destinations of a quad, each with a shape of its own and the same tags. -/
def quadDests (d : Spec) (sh : Nat → Shape) (x : Lane → CapBits) (tags : Mask) : List Dest :=
  (List.range 4).map (fun k => ⟨d, k, sh k, Line.of (fun l => (x l).extractLsb' (32 * k) 32), tags⟩)

/-- The shapes of the sources of an instruction over a quad. -/
def State.quadShape (s : State) (c : Ctx) (a : Spec) (more : List Shape) : Shape := shapeOf false (s.shapes c .a a 4 ++ more)

/-- A 32-bit operand, or with `.l` a pair, as an unsigned number. -/
def State.extent (s : State) (c : Ctx) (wide : Bool) (pos : Pos) (sp : Spec) (l : Lane) : Nat :=
  if wide then (s.pairAt c pos sp l).toNat else (s.word c pos sp l).toNat

/-- CAPNAR in one lane (R359): the value and its tag. -/
def narrow (tag : Bool) (q : CapBits) (b n : Nat) (fmt : Option Fmt) (pitch : Option (BitVec 16)) : CapBits × Bool :=
  let store := match fmt with | some f => !capGlobal q && (capFmt q == 0xA || f.code.toNat == 0xA) | none => false
  if tag && !capSeal q && capDerive q && b + n ≤ capLen q && !store then
    (capMake (capBase q + b) (match fmt with | some f => f.code.toNat | none => capFmt q) (capZero q) n (capPerm q)
      (match pitch with | some p => p.toNat | none => capPitch q), true)
  else (q, false)

/-- CAPNAR -/
def execCapnar (h : Hdr) (fmt : Option Fmt) (pitch : Option (BitVec 16)) (l : Bool) (d : Spec) (pe : Option (BitVec 3))
    (a b c : Spec) (s : State) : Host.Outcome State Fault Refusal :=
  s.issue (.capnar h fmt pitch l d pe a b c) h false none fun k s =>
    let r := fun x => narrow (s.quadTag k .a a x) (s.quadAt k .a a x) (s.extent k l .b b x) (s.extent k l .c c x) fmt pitch
    let ok := Mask.of (fun x => (r x).2)
    let n := if l then 2 else 1
    let sh := s.quadShape k a (s.shapes k .b b n ++ s.shapes k .c c n)
    s.commit k (.capnar h fmt pitch l d pe a b c) [] (quadDests d (fun _ => sh) (fun x => (r x).1) ok)
      (match pe with | some p => [(p, ok)] | none => []) 0 id

/-- CAPPERM in one lane (R360). -/
def limit (tag : Bool) (q : CapBits) (mask : BitVec 8) : CapBits × Bool :=
  if tag && !capSeal q && capDerive q then
    (capMake (capBase q) (capFmt q) (capZero q) (capLen q)
      ((capPerm q &&& mask &&& 0x3F) ||| (capPerm q &&& 0x40) ||| (mask &&& 0x80)) (capPitch q), true)
  else (q, false)

/-- CAPPERM -/
def execCapperm (h : Hdr) (d a : Spec) (mask : BitVec 8) (s : State) : Host.Outcome State Fault Refusal :=
  s.issue (.capperm h d a mask) h false none fun k s =>
    let r := fun x => limit (s.quadTag k .a a x) (s.quadAt k .a a x) mask
    let sh := s.quadShape k a []
    s.commit k (.capperm h d a mask) [] (quadDests d (fun _ => sh) (fun x => (r x).1) (Mask.of (fun x => (r x).2))) [] 0 id

/-- The field of a capability that CAPGET selects (R361). -/
def capField (sel : BitVec 3) (tag : Bool) (q : CapBits) : Word :=
  match sel with
  | 0 => BitVec.ofNat 32 (capBase q)
  | 1 => BitVec.ofNat 32 (capBase q / 2 ^ 32)
  | 2 => BitVec.ofNat 32 (capLen q)
  | 3 => BitVec.ofNat 32 (capLen q / 2 ^ 32)
  | 4 => (capPerm q).setWidth 32
  | 5 => BitVec.ofNat 32 (capFmt q)
  | 6 => BitVec.ofNat 32 (capPitch q)
  | _ => if tag then 1 else 0

/-- CAPGET. Tags that are not one for all lanes make the tag a W value. -/
def execCapget (h : Hdr) (sel : BitVec 3) (d a : Spec) (s : State) : Host.Outcome State Fault Refusal :=
  s.issue (.capget h sel d a) h false none fun k s =>
    let t := Mask.of (fun l => s.quadTag k .a a l)
    let sh := if sel == 7 && t != 0 && t != Mask.all then .w else s.quadShape k a []
    s.result k (.capget h sel d a) d sh (Line.of (fun l => capField sel (s.quadTag k .a a l) (s.quadAt k .a a l)))

/-- What CAPTST finds in one lane (R362). -/
def capAllows (tag : Bool) (q : CapBits) (need : BitVec 6) (b n : Nat) : Bool :=
  tag && !capSeal q && capPerm q &&& need.setWidth 8 == need.setWidth 8 && b + n ≤ capLen q

/-- CAPTST -/
def execCaptst (h : Hdr) (need : BitVec 6) (pd : BitVec 3) (a b c : Spec) (s : State) : Host.Outcome State Fault Refusal :=
  s.issue (.captst h need pd a b c) h false none fun k s =>
    s.resultP k (.captst h need pd a b c) pd (fun l =>
      capAllows (s.quadTag k .a a l) (s.quadAt k .a a l) need (s.word k .b b l).toNat (s.word k .c c l).toNat)

/-- CAPROOT: the tag is set but in a lane whose value is no capability (R393). -/
def execCaproot (h : Hdr) (d a : Spec) (s : State) : Host.Outcome State Fault Refusal :=
  s.issue (.caproot h d a) h false none fun k s =>
    let q := fun l => s.quadAt k .a a l
    let good := Mask.of (fun l => capZero (q l) == 0 && decide (capFmt (q l) < 12))
    s.commit k (.caproot h d a) [] (quadDests d (fun j => (s.opnd k .a a j).1.shape) q good) [] 0 id

end Sys2Proof.Machine
end

