-- ==== Sys2Proof/Machine/Sync.lean ====
section
/-! DEFINITION. Barrier objects (06 R148, R149), stage rings (03 R69-R72) and the instructions that meet other agents,
at issue (17 R364-R368, R375-R383): barriers, rings, counters, the team barrier, events and TSPAWN. -/

namespace Sys2Proof.Machine

/-! ## Barrier objects -/

/-- PBYT -/
def barPbyt (o : Nat) : Nat := o % 2 ^ 32
/-- PARR -/
def barParr (o : Nat) : Nat := o / 2 ^ 32 % 2 ^ 16
/-- PHASE -/
def barPhase (o : Nat) : Bool := o.testBit 48
/-- IBYT -/
def barIbyt (o : Nat) : Nat := o / 2 ^ 64 % 2 ^ 32
/-- IARR -/
def barIarr (o : Nat) : Nat := o / 2 ^ 96 % 2 ^ 16

/-- The object with PBYT, PARR and PHASE set. -/
def barPut (o pbyt parr : Nat) (phase : Bool) : Nat :=
  pbyt + parr * 2 ^ 32 + (if phase then 2 ^ 48 else 0) + o / 2 ^ 49 * 2 ^ 49

/-- The end of an update: with nothing pending the phase flips and the counts are loaded again (R149). -/
def barFlip (o : Nat) : Nat :=
  if barPbyt o == 0 && barParr o == 0 then barPut o (barIbyt o) (barIarr o) (!barPhase o) else o

/-- BARARR's update (17 R376), or the DETAIL of its barrier-count fault (23 R436). -/
def barArrive (o count : Nat) : Except Nat Nat :=
  if 2 ^ 32 ≤ barPbyt o + count then .error 2
  else if barParr o == 0 then .error 1
  else .ok (barFlip (barPut o (barPbyt o + count) (barParr o - 1) (barPhase o)))

/-- An engine's update: bytes are subtracted from PBYT; none where that would take it below zero (23 R436). -/
def barDeliver (o bytes : Nat) : Option Nat :=
  if barPbyt o < bytes then none else some (barFlip (barPut o (barPbyt o - bytes) (barParr o) (barPhase o)))

/-- The object BARINIT writes (17 R375). -/
def barNew (arr byt : Nat) : Nat := byt + arr * 2 ^ 32 + byt * 2 ^ 64 + arr * 2 ^ 96

/-! ## Stage rings -/

/-- Slots of a ring. -/
def ringSlots (g : Nat) : Nat := g % 32 + 1
/-- PROL -/
def ringProl (g : Nat) : Nat := g / 2 ^ 5 % 4
/-- CROL -/
def ringCrol (g : Nat) : Nat := g / 2 ^ 7 % 4
/-- CLSD -/
def ringClosed (g : Nat) : Bool := g.testBit 9
/-- PIDX -/
def ringPidx (g : Nat) : Nat := g / 2 ^ 11 % 32
/-- CIDX -/
def ringCidx (g : Nat) : Nat := g / 2 ^ 16 % 32
/-- PH of a slot -/
def ringFull (g i : Nat) : Bool := g.testBit (32 + i)
/-- HELD of a slot -/
def ringHeld (g i : Nat) : Bool := g.testBit (64 + i)
/-- A number with a bit set or cleared. -/
def putBit (g i : Nat) (b : Bool) : Nat := if g.testBit i == b then g else if b then g + 2 ^ i else g - 2 ^ i

/-- What a ring operation does at the home (R70). -/
inductive RingOut where
  /-- the descriptor after it, and the slot and predicate of RNGGET -/
  | done (g : Nat) (slot : Option Nat) (ok : Bool)
  | wait
  | fault (code detail : Nat)
deriving DecidableEq, Repr

/-- RNGGET. `live`: a warp of role PROL in the crew is live. -/
def ringGet (g : Nat) (full : Bool) (role : Nat) (live : Bool) : RingOut :=
  let n := ringSlots g
  if full then
    let i := ringCidx g
    if role != ringCrol g then .fault 0x04 (ringCrol g)
    else if ringFull g i && !ringHeld g i then
      .done (putBit g (64 + i) true - i * 2 ^ 16 + (i + 1) % n * 2 ^ 16) (some i) true
    else if ringClosed g && !(!ringFull g i && ringHeld g i) then .done g none false
    else if !live then .fault 0x11 0
    else .wait
  else
    let i := ringPidx g
    if role != ringProl g then .fault 0x04 (ringProl g)
    else if ringClosed g then .done g none false
    else if !ringFull g i && !ringHeld g i then
      .done (putBit g (64 + i) true - i * 2 ^ 11 + (i + 1) % n * 2 ^ 11) (some i) true
    else .wait

/-- RNGPUT of a slot. -/
def ringPut (g : Nat) (full : Bool) (role i : Nat) : RingOut :=
  let need := if full then ringProl g else ringCrol g
  if role != need then .fault 0x04 need
  else if i < ringSlots g && ringHeld g i && ringFull g i == !full then
    .done (putBit (putBit g (32 + i) full) (64 + i) false) none true
  else .fault 0x10 0

/-- RNGCLOSE. -/
def ringClose (g role : Nat) : RingOut :=
  if role != ringProl g then .fault 0x04 (ringProl g) else .done (putBit g 9 true) none true

/-! ## Operands of what acts once (17 R364-R366) -/

/-- A position's number in the DETAIL of an operand-range fault (21 R413). -/
def posDetail : Pos → Nat
  | .d => 1 | .a => 2 | .b => 3 | .c => 4 | .e => 5 | .f => 6

/-- The number of the first position whose operand, of so many registers, is not uniform. -/
def State.notUniform (s : State) (c : Ctx) : List (Pos × Spec × Nat) → Option Nat
  | [] => none
  | (pos, sp, n) :: r => if allU (s.shapes c pos sp n) then State.notUniform s c r else some (posDetail pos)

/-- A fault of every written lane. -/
def State.faultAll (s : State) (c : Ctx) (i : Instr) (e : Cause) : State := s.faultAt c i (allLanes c.wr e)

/-- The operand-range fault at a position. -/
def State.outOfRange (s : State) (c : Ctx) (i : Instr) (detail : Nat) : State := s.faultAll c i (c.cause 0x0D detail)

/-- The value of an operand that is one for the warp. -/
def State.scalar (s : State) (c : Ctx) (pos : Pos) (sp : Spec) : Nat := (s.word c pos sp c.low).toNat

/-- The memory operand of an ENG instruction, formed once (13 R265, 17 R366): its offset, or a fault of every written
lane. The address is that of the lowest written lane. -/
def State.engAddr (s : State) (c : Ctx) (m : EngArg) (glob : Bool) (n align : Nat) (perm : BitVec 8) : Except Cause Nat :=
  let q := s.quadAt c .a m.a c.low
  let off := effOffset q (s.word c .b m.b c.low) m.sh (16 * m.disp.toInt)
  match capCheck (s.quadTag c .a m.a c.low) q glob off n perm none false with
  | some d => .error (c.causeAt 0x05 d off)
  | none => if off % align != 0 then .error (c.causeAt 0x06 0 off) else .ok off

/-- The memory operand of an ENG instruction that gathers first (22 R419). -/
def State.engThen (s : State) (c : Ctx) (i : Instr) (dests : List Dest) (m : EngArg) (glob : Bool) (n align : Nat) (perm : BitVec 8)
    (body : Nat → State) : State :=
  s.gathered c i dests fun t =>
    match s.engAddr c m glob n align perm with
    | .error x => t.faultAll c i x
    | .ok off => body off

/-- One access of 16 bytes for the warp. -/
def onceAcc (c : Ctx) (off : Nat) (data : List Byte) : Acc :=
  { lns := c.wr, off := off, pa := off, len := 16, view := none, data := data, cmp := [], tag := false, seen := false
    served := false, res := [], g := 0 }

/-- An instruction that acts once joins the access queue (R367), its destinations with the lines they take (02 R53): `k` goes
on with the number of its entry. -/
def State.enterWith (s : State) (c : Ctx) (i : Instr) (dests : List Dest) (e : Entry) (k : State → Nat → State) : State :=
  if c.w.full then s
  else match s.demandRange c e.space e.accs with
  | (s, false) => s
  | (s, true) =>
    match s.gather c.k c.priv c.x i.names (s.needs c i.reads c.wr dests) [] with
    | (s, .error x) => s.faultAll c i x
    | (s, .ok taken) =>
      let s := dests.foldl (fun s d => match d.num with
        | some n => s.reserve c taken n
        | none => s) s
      let s := s.onWarp c.k (fun w => w.touch i.uses)
      let id := s.fresh
      k (s.enqueue c.k { e with held := c.narrow dests }) id

/-- An instruction that acts once joins the access queue. -/
def State.enterOnce (s : State) (c : Ctx) (i : Instr) (e : Entry) (k : State → Nat → State) : State :=
  s.enterWith c i (c.lineDests e.shape e.dst) e k

/-- The word waits for the home within its run (23 R436). -/
def State.atHome (s : State) (c : Ctx) (id : Nat) : State := s.onPath c.k c.pid (fun p => { p with wait := .home id })

/-- The window an SP bit names. -/
def spSpace (sp : Bool) : Space := if sp then .scr else .shr

/-! ## Barriers (R375-R377) -/

/-- The object of a BARINIT has nothing pending: its home refuses it (23 R436). -/
def barNone (o : List Byte) : Bool := o.all (· == 0)

/-- BARINIT; one that its home refuses waits for the home. -/
def execBarinit (h : Hdr) (sp : Bool) (m : EngArg) (e f : Spec) (s : State) : Host.Outcome State Fault Refusal :=
  s.issue (.barinit h sp m e f) h false none fun c s =>
    let i : Instr := .barinit h sp m e f
    let arr := s.scalar c .e e
    let byt := s.scalar c .f f
    match s.notUniform c [(.e, e, 1), (.f, f, 1)] with
    | some d => s.outOfRange c i d
    | none =>
      if 65535 < arr then s.outOfRange c i 5
      else s.engThen c i [] m false 16 16 (permW ||| permAtom) fun off =>
        s.enterOnce c i (c.entry s i .barinit (spSpace sp) .thread .rlx .b128 [onceAcc c off (leBytes 16 (barNew arr byt))])
          (fun s id => if arr == 0 && byt == 0 then s.atHome c id else s.advance c i)

/-- BARARR -/
def execBararr (h : Hdr) (scope : Scope) (sp : Bool) (n : BarCount) (m : EngArg) (s : State) : Host.Outcome State Fault Refusal :=
  s.issue (.bararr h scope sp n m) h false none fun c s =>
    let i : Instr := .bararr h scope sp n m
    let go := fun (count : Nat) =>
      s.engThen c i [] m false 16 16 permAtom fun off =>
        s.enterOnce c i (c.entry s i .bararr (spSpace sp) scope .rel .b128 [onceAcc c off (leBytes 4 count)]) (fun s id => s.atHome c id)
    match n with
    | .imm k => go k.toNat
    | .reg e =>
      match s.notUniform c [(.e, e, 1)] with
      | some d => s.outOfRange c i d
      | none => go (s.scalar c .e e)

/-- BARWAIT -/
def execBarwait (h : Hdr) (sp : Bool) (m : EngArg) (e : Spec) (s : State) : Host.Outcome State Fault Refusal :=
  s.issue (.barwait h sp m e) h false none fun c s =>
    let i : Instr := .barwait h sp m e
    match s.notUniform c [(.e, e, 1)] with
    | some d => s.outOfRange c i d
    | none =>
      match c.report with
      | some x => s.reportImp c i x
      | none =>
        s.engThen c i [] m false 16 16 permR fun off =>
          let phase := (s.word c .e e c.low).getLsbD 0
          let inside := s.windowIn c.w (spSpace sp) off 16
          s.enterOnce c i (c.entry s i .barwait (spSpace sp) .cluster .acq .b128 [onceAcc c off []]) (fun s _ =>
            let s := if inside then s else s.guardAccess c.k (spSpace sp) off
            s.block c (.barwait sp off phase))

/-- BARTST -/
def execBartst (h : Hdr) (sp : Bool) (d : Spec) (m : EngArg) (s : State) : Host.Outcome State Fault Refusal :=
  s.issue (.bartst h sp d m) h false none fun c s =>
    let i : Instr := .bartst h sp d m
    let dst := if d == .z then none else some (d, 1)
    s.engThen c i (c.lineDests .u dst) m false 16 16 permR fun off =>
      let e := { c.entry s i .bartst (spSpace sp) .cluster .acq .b128 [onceAcc c off []] with shape := .u, dst := dst }
      s.enterOnce c i e (fun s _ => s.advance c i)

/-! ## Rings (R378) -/

/-- A ring instruction joins the queue, with the register it takes a slot into or the slot it puts. A slot is written as the
home gives it: the register has no pending write (02 R24). -/
def State.ringEntry (s : State) (c : Ctx) (i : Instr) (m : EngArg) (dst : Option (Spec × Nat)) (ord : Order) (data : List Byte)
    (k : State → Nat → Nat → State) : State :=
  let dests := c.lineDests .u dst
  s.engThen c i dests m false 16 16 (permR ||| permW ||| permAtom) fun off =>
    s.enterWith c i dests (c.entry s i .ring .shr .cluster ord .b128 [onceAcc c off data]) (fun s id => k s id off)

/-- RNGGET -/
def execRngget (h : Hdr) (full : Bool) (d : Spec) (pe : BitVec 3) (m : EngArg) (s : State) : Host.Outcome State Fault Refusal :=
  s.issue (.rngget h full d pe m) h false none fun c s =>
    s.ringEntry c (.rngget h full d pe m) m (if d == .z then none else some (d, 1)) .acq [] (fun s _ off => s.block c (.ring full d pe off c.wr))

/-- RNGPUT -/
def execRngput (h : Hdr) (full : Bool) (m : EngArg) (e : Spec) (s : State) : Host.Outcome State Fault Refusal :=
  s.issue (.rngput h full m e) h false none fun c s =>
    match s.notUniform c [(.e, e, 1)] with
    | some d => s.outOfRange c (.rngput h full m e) d
    | none =>
      let slot := s.scalar c .e e
      s.ringEntry c (.rngput h full m e) m none .rel (leBytes 4 slot) (fun s id _ => s.atHome c id)

/-- RNGCLOSE -/
def execRngclose (h : Hdr) (m : EngArg) (s : State) : Host.Outcome State Fault Refusal :=
  s.issue (.rngclose h m) h false none fun c s =>
    s.ringEntry c (.rngclose h m) m none .rel [] (fun s id _ => s.atHome c id)

/-! ## Counters, the team barrier (R379, R380) -/

/-- The counter of a class. -/
def Warp.cnt (w : Warp) : CntClass → Nat
  | .copy => w.cntCopy | .gather => w.cntGather | .mma => w.cntMma | .coll => w.cntColl
/-- The warp with the counter of a class set. -/
def Warp.setCnt (w : Warp) (cls : CntClass) (n : Nat) : Warp :=
  match cls with
  | .copy => { w with cntCopy := n } | .gather => { w with cntGather := n } | .mma => { w with cntMma := n } | .coll => { w with cntColl := n }

/-- WAITCNT -/
def execWaitcnt (h : Hdr) (cls : CntClass) (n : BitVec 6) (s : State) : Host.Outcome State Fault Refusal :=
  s.issue (.waitcnt h cls n) h false none fun c s =>
    if c.w.cnt cls ≤ n.toNat then s.advance c (.waitcnt h cls n) else s.block c (.waitcnt cls n)

/-- A path released at a WAITCNT (06 R147). -/
def execWaitcntRelease (k : WarpKey) (pid : Nat) (s : State) : Host.Outcome State Fault Refusal :=
  .next (match s.warp k with
    | none => s
    | some w =>
      match (w.path pid).map Path.wait with
      | some (.waitcnt cls n) => if w.cnt cls ≤ n.toNat then s.release k pid else s
      | _ => s)

/-- A warp has reached TBAR, or has ended (03 R63, 17 R380). -/
def Warp.atTbar (w : Warp) : Bool :=
  w.ended || (w.defers.isEmpty && !w.paths.isEmpty && w.paths.all (fun p => p.wait == .tbar))

/-- The warps of a team. -/
def State.team (s : State) (task team : Nat) : List Warp := s.warps.vals.filter (fun w => w.key.task == task && w.key.team == team)

/-- The team's barrier is complete: every warp stands at a TBAR, with its accesses performed and acknowledged, for TBAR
orders them (R63). -/
def State.tbarDue (s : State) (task team : Nat) : Bool :=
  let ws := s.team task team
  ws.all Warp.atTbar && ws.any (fun w => !w.ended) && ws.all (fun w => w.queue.isEmpty)

/-- TBAR_COMPLETE -/
def execTbarComplete (task team : Nat) (s : State) : Host.Outcome State Fault Refusal :=
  .next (if s.tbarDue task team then
    (s.team task team).foldl (fun s w => w.paths.foldl (fun s p => s.release w.key p.pid) s) s else s)

/-- TBAR -/
def execTbar (h : Hdr) (s : State) : Host.Outcome State Fault Refusal :=
  s.issue (.tbar h) h true none fun c s =>
    match c.report with
    | some e => s.reportImp c (.tbar h) e
    | none => s.block c .tbar

/-! ## Events and TSPAWN (R381-R383) -/

/-- The count of an event (03 R74). -/
def Part.event (p : Part) (name : BitVec 16) : Word := (p.events.find name).getD 0

/-- EVSIG: its record is posted when its entry is performed. -/
def execEvsig (h : Hdr) (a : Spec) (name : BitVec 16) (s : State) : Host.Outcome State Fault Refusal :=
  s.issue (.evsig h a name) h false none fun c s =>
    let i : Instr := .evsig h a name
    match s.notUniform c [(.a, a, 1)] with
    | some d => s.outOfRange c i d
    | none =>
      let acc := { onceAcc c 0 (leBytes 4 (s.scalar c .a a)) with len := 0 }
      s.enterOnce c i (c.entry s i .evsig .priv .device .rel .b32 [acc]) (fun s _ => s.advance c i)

/-- EVWAIT -/
def execEvwait (h : Hdr) (a : Spec) (name : BitVec 16) (s : State) : Host.Outcome State Fault Refusal :=
  s.issue (.evwait h a name) h false none fun c s =>
    let i : Instr := .evwait h a name
    match s.notUniform c [(.a, a, 1)] with
    | some d => s.outOfRange c i d
    | none =>
      let target := s.word c .a a c.low
      s.commitThen c c.wr i [] [] 0 fun s =>
        let count := match s.part c.w.part with | some p => p.event name | none => 0
        if target.toNat ≤ count.toNat then s.advance c i else s.block c (.evwait name target)

/-- A path released at an EVWAIT (17 R383). -/
def execEvwaitRelease (k : WarpKey) (pid : Nat) (s : State) : Host.Outcome State Fault Refusal :=
  .next (match s.warp k with
    | none => s
    | some w =>
      match (w.path pid).map Path.wait, s.part w.part with
      | some (.evwait name target), some p => if target.toNat ≤ (p.event name).toNat then s.release k pid else s
      | _, _ => s)

/-- The translation of the records a TSPAWN names, in ascending order: none fails. A record that is translated but may not be
read is one that cannot be read as its tasks are queued, and ends the crew then (22 R428, 23 R441). -/
def State.spawnFault (s : State) (c : Ctx) (va : Nat) : Nat → State × Option Cause
  | 0 => (s, none)
  | n + 1 =>
    match s.locate c.w.part (s.ctxOf c.w) va 64 .read c.priv with
    | (s, .error (code, detail)) =>
      if code == 0x0A then State.spawnFault s c (va + 64) n
      else (s, some (c.causeAt code (if code == 0x14 then 4 else detail) va))
    | (s, .ok _) => State.spawnFault s c (va + 64) n

/-- TSPAWN: the records are read when its entry is performed. -/
def execTspawn (h : Hdr) (a b : Spec) (s : State) : Host.Outcome State Fault Refusal :=
  s.issue (.tspawn h a b) h false none fun c s =>
    let i : Instr := .tspawn h a b
    let va := (s.pairAt c .a a c.low).toNat
    let n := s.scalar c .b b
    match s.notUniform c [(.a, a, 2), (.b, b, 1)] with
    | some d => s.outOfRange c i d
    | none =>
      if n < 1 || 64 < n then s.outOfRange c i 3
      else s.gathered c i [] fun t =>
      if va % 64 != 0 then t.faultAll c i (c.causeAt 0x06 0 va)
      else if c.w.full then s
      else match s.spawnFault c va n with
      | (s, some e) => s.faultAll c i e
      | (s, none) =>
        let acc := { onceAcc c va (leBytes 4 n) with pa := 0, len := 0 }
        s.enterOnce c i (c.entry s i .tspawn .glob .device .rel .b64 [acc]) (fun s _ => s.advance c i)

end Sys2Proof.Machine
end

