-- ==== Sys2Proof/Machine/System.lean ====
section
/-! DEFINITION. Reading state, lending scratchpad (17 R384-R388) and the system instructions (17 R389-R395). -/

namespace Sys2Proof.Machine

/-! ## Reading state (R384-R386, R388) -/

/-- A uniform result of one register. -/
def State.resultU (s : State) (c : Ctx) (i : Instr) (d : Spec) (v : Word) (more : State → State) : State :=
  s.commit c i [] [⟨d, 0, .u, Vector.replicate 32 v, 0⟩] [] 0 more

/-- A uniform result of a pair. -/
def State.resultU64 (s : State) (c : Ctx) (i : Instr) (d : Spec) (v : DWord) : State := s.result64 c i d .u (fun _ => v)

/-- RDTIME -/
def execRdtime (h : Hdr) (d : Spec) (s : State) : Host.Outcome State Fault Refusal :=
  s.issue (.rdtime h d) h false none fun c s => s.resultU64 c (.rdtime h d) d (BitVec.ofNat 64 (s.nowAt c.w))

/-- The value RDID selects (R385). -/
def State.identity (s : State) (w : Warp) (sel : BitVec 4) : Nat :=
  let pl := w.place.getD ⟨⟨0, 0⟩, 0⟩
  let adm := match s.task w.key.task with | some t => if w.harvest then 0 else t.admseq.toNat | none => 0
  match sel with
  | 0 => pl.core.core
  | 1 => pl.core.cluster
  | 2 => w.key.wid
  | 3 => if w.harvest then 0 else w.key.team
  | 4 => pl.slot
  | 5 => w.role.toNat
  | 6 => match s.task w.key.task with | some t => t.trec.taskid.toNat | none => 0
  | 7 => adm % 2 ^ 32
  | 8 => adm / 2 ^ 32
  | 9 => match s.task w.key.task with | some t => (t.trec.teams - 1) + (t.trec.warps - 1) * 2 ^ 8 | none => 0
  | 10 => (s.ctxOf w).toNat
  | _ => if w.inHarvest then 1 else 0

/-- RDID -/
def execRdid (h : Hdr) (sel : BitVec 4) (d : Spec) (s : State) : Host.Outcome State Fault Refusal :=
  s.issue (.rdid h sel d) h false none fun c s =>
    s.resultU c (.rdid h sel d) d (BitVec.ofNat 32 (s.identity c.w sel)) id

/-- The count RDCNT selects, of one register (R386). -/
def Warp.count (w : Warp) (sel : BitVec 3) : Word :=
  match sel with
  | 0 => w.wspill
  | 1 | 2 => w.xflags.setWidth 32
  | 3 => BitVec.ofNat 32 (w.cntCopy + w.cntGather * 2 ^ 8 + w.cntMma * 2 ^ 16 + w.cntColl * 2 ^ 24)
  | _ => BitVec.ofNat 32 (w.wres % 2 ^ 8 + w.wuse % 2 ^ 8 * 2 ^ 16)

/-- RDCNT: of XFLAGS it sees the flags of results that have been written, and clears those (15 R327). -/
def execRdcnt (h : Hdr) (sel : BitVec 3) (d : Spec) (s : State) : Host.Outcome State Fault Refusal :=
  s.issue (.rdcnt h sel d) h false none fun c s =>
    if sel == 4 then s.resultU64 c (.rdcnt h sel d) d c.rd.hzn
    else
      let pos := s.posOf c.w c.p
      let old := (c.rd.land (pos - 1)).xflags
      let now := (c.rd.flying.filter (fun f => f.ready == pos)).foldl (fun g f => g ||| f.flags) 0
      s.resultU c (.rdcnt h sel d) d ((c.rd.land pos).count sel)
        (fun s => if sel == 2 then s.onWarp c.k (fun w => { w with xflags := (w.xflags &&& ~~~old) ||| now }) else s)

/-- The team of a warp lends a range (R387). -/
def Core.lentBy (x : Core) (k : WarpKey) : Bool := x.lent.any (fun l => l.task == k.task && l.team == k.team)

/-- The word HVSTAT gives (R388). -/
def State.harvestStatus (s : State) (w : Warp) : Word :=
  let x := match w.place with | some pl => s.core pl.core | none => Core.fresh
  let mapped := if w.inHarvest then w.lentMap else x.lentBy w.key
  BitVec.ofNat 32 ((if w.inHarvest then w.revs.toNat else 0) + (if mapped then 2 ^ 16 else 0) + (if w.inHarvest then 2 ^ 17 else 0))

/-- HVSTAT -/
def execHvstat (h : Hdr) (d : Spec) (s : State) : Host.Outcome State Fault Refusal :=
  s.issue (.hvstat h d) h false none fun c s => s.resultU c (.hvstat h d) d (s.harvestStatus c.w) id

/-! ## Lending scratchpad (R387, 20 R405) -/

/-- The core's lent range is set. -/
def State.setLent (s : State) (c : CoreKey) (l : Option Lent) : State := s.setCore c { s.core c with lent := l }

/-- HVLEND -/
def execHvlend (h : Hdr) (pd : BitVec 3) (m : EngArg) (e : Spec) (s : State) : Host.Outcome State Fault Refusal :=
  s.issue (.hvlend h pd m e) h false none fun c s =>
    let i : Instr := .hvlend h pd m e
    let n := s.scalar c .e e
    let finish := fun (s : State) (ok : Bool) (f : State → State) => s.commit c i [] [] [(pd, if ok then Mask.all else 0)] 0 f
    match s.notUniform c [(.e, e, 1)] with
    | some d => s.outOfRange c i d
    | none =>
      let off := effOffset (s.quadAt c .a m.a c.low) (s.word c .b m.b c.low) m.sh (16 * m.disp.toInt)
      if off % 64 != 0 then s.outOfRange c i 2
      else if n % 64 != 0 || 196608 < n then s.outOfRange c i 5
      else s.engThen c i [] m false n 1 (permR ||| permW) fun off =>
        let range : Option Lent := if n == 0 then none else some ⟨c.k.task, c.k.team, off, n⟩
        let x := s.core c.core
        match x.lent with
        | none => finish s true (fun s => if n == 0 then s else s.setLent c.core range)
        | some _ =>
          if !x.lentBy c.k then finish s (n == 0) id
          else
            let s := if s.harvestRuns c.core then s.revoke c.core false 0 else s
            if s.rangeBusy c.core then s else finish s true (fun s => s.setLent c.core range)

/-! ## System registers (R390, R391) -/

/-- The value of a system register as the issuing path reads it. -/
def State.sysRead (s : State) (c : Ctx) (r : BitVec 12) : Nat :=
  let f := c.p.frame.getD (Frame.enter 0 0 ⟨0, 0, 0, 0, false⟩ 0)
  let cl := s.cluster c.core.cluster
  let n := r.toNat
  match s.part c.w.part with
  | none => 0
  | some p =>
    if n == 0x000 then f.xpc.toNat else if n == 0x001 then f.xcause.toNat else if n == 0x002 then f.xstat.toNat
    else if n == 0x003 then f.xaddr.toNat else if n == 0x004 then f.xmask.toNat
    else if n == 0x010 then (s.core c.core).lfsr.toNat else if n == 0x011 then cl.genCopy0.toNat
    else if n == 0x020 then p.lloc.toNat else if n == 0x021 then p.lrem.toNat else if n == 0x022 then p.flease.toNat
    else if n == 0x023 then p.fskew.toNat
    else if n == 0x030 then (p.window c.core.cluster).rows.toNat else if n == 0x031 then (p.window c.core.cluster).idx.toNat
    else if n == 0x032 then (match p.ctxs.find (s.ctxOf c.w) with | some x => x.pinq | none => 0)
    else
      let a := p.apertures.toList.getD (n % 16) Aperture.off
      if n < 0x50 then a.va.toNat else if n < 0x60 then a.sz.toNat else a.pa.toNat

/-- MFX -/
def execMfx (h : Hdr) (reg : BitVec 12) (d : Spec) (s : State) : Host.Outcome State Fault Refusal :=
  s.issue (.mfx h reg d) h false none fun c s =>
    let v := s.sysRead c reg
    if sysReg64 reg then s.resultU64 c (.mfx h reg d) d (BitVec.ofNat 64 v)
    else s.resultU c (.mfx h reg d) d (BitVec.ofNat 32 v) id

/-- The bits of an aperture's registers that hold fields (09 R214). -/
def Aperture.put (a : Aperture) (which : Nat) (v : DWord) : Aperture :=
  match which with
  | 4 => { a with va := v &&& 0x01FFFFFFFFFF000F }
  | 5 => { a with sz := v &&& 0x000000FFFFFFFFFF }
  | _ => { a with pa := v &&& 0x0000FFFFFFFFFF80 }

/-- Drops the translations of every context of a partition in a range. -/
def Part.dropRange (p : Part) (base len : Nat) : Part :=
  { p with tlb := p.tlb.filter (fun e => !(decide (e.base < base + len) && decide (base < e.base + e.size))) }

/-- A write of an aperture register (R391): translations in the old and in the new range go. -/
def State.setAperture (s : State) (part n which : Nat) (v : DWord) : State :=
  s.onPart part (fun p =>
    let old := p.apertures.toList.getD n Aperture.off
    let new := old.put which v
    let p := { p with apertures := Vector.ofFn (fun (i : Fin 16) => if i.val == n then new else p.apertures[i.val]) }
    (p.dropRange old.base (old.sz.toNat % 2 ^ 40)).dropRange new.base (new.sz.toNat % 2 ^ 40))

/-- A write of a system register by a handler path. -/
def State.sysWrite (s : State) (c : Ctx) (r : BitVec 12) (v : DWord) : State :=
  let n := r.toNat
  let w : Word := v.setWidth 32
  if n == 0x000 then s.onWarp c.k (fun x => x.onFrame (fun f => { f with xpc := v }))
  else if n == 0x002 then s.onWarp c.k (fun x => x.onFrame (fun f => { f with xstat := w }))
  else if n == 0x010 then s.setLfsr c.core (lfsrSeed w)
  else if n == 0x011 then
    let k := c.core.cluster
    s.setCluster k { s.cluster k with genCopy0 := lfsrSeed w, genCopy1 := lfsrSeed w, genMma := lfsrSeed w }
  else if 0x40 ≤ n then s.setAperture c.w.part (n % 16) (n / 16) v
  else s

/-- MTX -/
def execMtx (h : Hdr) (reg : BitVec 12) (a : Spec) (s : State) : Host.Outcome State Fault Refusal :=
  s.issue (.mtx h reg a) h false none fun c s =>
    let i : Instr := .mtx h reg a
    match s.notUniform c [(.a, a, if sysReg64 reg then 2 else 1)] with
    | some d => s.outOfRange c i d
    | none =>
      let v : DWord := if sysReg64 reg then s.pairAt c .a a c.low else (s.word c .a a c.low).setWidth 64
      s.commit c i [] [] [] 0 (fun s => s.sysWrite c reg v)

/-! ## TLBINV (R392) -/

/-- The ranges of addresses whose translations a shootdown drops: that given, and the whole of each page that reaches into
it. None is all addresses. -/
def State.dropped (s : State) (part : Nat) (ctx : BitVec 6) (range : Option (Nat × Nat)) : Option (List (Nat × Nat)) :=
  range.map (fun (lo, len) => (lo, len) :: (match s.part part with
    | some p => (p.tlb.filter (fun e => e.ctx == ctx && decide (e.base < lo + len) && decide (lo < e.base + e.size))).map (fun e => (e.base, e.size))
    | none => []))

/-- An access is translated in one of some ranges, all addresses where none is given, and is not performed. -/
def Acc.under (a : Acc) (ranges : Option (List (Nat × Nat))) : Bool :=
  !a.served && (match ranges with
    | none => true
    | some l => l.any (fun (lo, len) => decide (a.off < lo + len) && decide (lo < a.off + max 1 a.len)))

/-- The entry stands for words that it watches. -/
def Entry.watches (e : Entry) : Bool := match e.kind with | .waitmem _ => true | _ => false

/-- Accesses of a context translated in a range and not yet performed (05 R123). -/
def State.translating (s : State) (part : Nat) (ctx : BitVec 6) (range : Option (Nat × Nat)) : Bool :=
  let ranges := s.dropped part ctx range
  s.warps.vals.any (fun w => w.part == part && s.ctxOf w == ctx && w.queue.any (fun e =>
    e.space == .glob && !e.watches && e.accs.any (·.under ranges)))

/-- A lane that watches a word watches it where a new translation leads, and takes what the translation finds. -/
def State.rewatch (s : State) (w : Warp) (e : Entry) (a : Acc) : State :=
  match s.locate w.part (s.ctxOf w) a.off e.ty.bytes .read e.priv with
  | (s, .ok x) => s.setAcc w.key e.id a { a with pa := x.dev, len := x.len, view := x.view, seen := false, tag := false }
  | (s, .error (code, detail)) => s.findAll w.key e [a] code (if code == 0x14 then e.space.code.toNat else detail)

/-- No access of a context uses an old translation (05 R123): a wait that stands is not performed before its condition
holds, and goes on under the new one (DEDUCED [107]). -/
def State.retranslate (s : State) (part : Nat) (ctx : BitVec 6) (ranges : Option (List (Nat × Nat))) : State :=
  (s.warps.vals.filter (fun w => w.part == part && s.ctxOf w == ctx)).foldl (fun s w =>
    (w.queue.filter (fun e => e.space == .glob && e.watches)).foldl (fun s e =>
      (e.accs.filter (·.under ranges)).foldl (fun s a => s.rewatch w e a) s) s) s

/-- TLBINV: it stays in gathering while an access translated under what it drops is not performed, and while a FENCE that
its warp issued before it is not complete (DEDUCED [25]: the entry it was issued for is visible by then). -/
def execTlbinv (h : Hdr) (ctx : Bool) (a b d : Spec) (s : State) : Host.Outcome State Fault Refusal :=
  s.issue (.tlbinv h ctx a b d) h false none fun c s =>
    let i : Instr := .tlbinv h ctx a b d
    let ranged := if ctx then [] else [((.a : Pos), a, 2), (.b, b, 2)]
    match s.notUniform c (ranged ++ [(.c, d, 1)]) with
    | some p => s.outOfRange c i p
    | none =>
      let x := s.scalar c .c d
      let known := match s.part c.w.part with | some p => (p.ctxs.find (BitVec.ofNat 6 x)).isSome | none => false
      if 63 < x || !known then s.outOfRange c i 4
      else
        let range := if ctx then none else some ((s.pairAt c .a a c.low).toNat, (s.pairAt c .b b c.low).toNat)
        if c.w.fencing || s.translating c.w.part (BitVec.ofNat 6 x) range then s
        else s.commit c i [] [] [] 0 (fun s =>
          (s.shootdown c.w.part (BitVec.ofNat 6 x) range).retranslate c.w.part (BitVec.ofNat 6 x) (s.dropped c.w.part (BitVec.ofNat 6 x) range))

/-! ## CKPT, HALT (R394, R395) -/

/-- CKPT: the interval counts as ended, where no checkpoint is in progress. -/
def execCkpt (h : Hdr) (s : State) : Host.Outcome State Fault Refusal :=
  s.issue (.ckpt h) h false none fun c s =>
    s.commit c (.ckpt h) [] [] [] 0 (fun s => s.onPart c.w.part (fun p =>
      if p.arg.sliced && p.ckBegan.isNone then { p with ckNext := s.gtime } else p))

/-- HALT: the crew of the handler ends (26 R452). -/
def execHalt (h : Hdr) (s : State) : Host.Outcome State Fault Refusal :=
  s.issue (.halt h) h false none fun c s =>
    let f := c.p.frame.getD (Frame.enter 0 0 ⟨0, 0, 0, 0, false⟩ 0)
    s.endCrew c.k 0x49 (f.xcause.toNat % 256) f.xpc

end Sys2Proof.Machine
end

