-- ==== Sys2Proof/Machine/Tasks.lean ====
section
/-! DEFINITION. Task records (03 R73), kernel descriptors (11 R242), the checks made as a task is queued (23 R441, 11 R243),
named events (03 R74, R75) and the queueing of tasks. -/

namespace Sys2Proof.Machine

/-! ## Records and descriptors -/

/-- Bits [lo+n-1:lo] of a number. -/
def field (x lo n : Nat) : Nat := x / 2 ^ lo % 2 ^ n

/-- A task record from the number its 64 bytes are. -/
def TaskRec.of (x : Nat) : TaskRec where
  dinc := BitVec.ofNat 16 (field x 368 16)
  devt := BitVec.ofNat 16 (field x 352 16)
  waits := (List.range 4).filterMap (fun i =>
    if field x (224 + 32 * i) 16 == 0 then none
    else some (BitVec.ofNat 16 (field x (224 + 32 * i) 16), BitVec.ofNat 16 (field x (240 + 32 * i) 16)))
  taskid := BitVec.ofNat 16 (field x 208 16)
  harv := field x 200 1 == 1
  tslot := field x 192 6
  shr := field x 176 16
  scr := field x 168 8
  prio := field x 155 3
  warps := field x 151 4 + 1
  teams := field x 144 7 + 1
  arglen := BitVec.ofNat 16 (field x 128 16)
  args := BitVec.ofNat 57 (field x 64 57)
  kdesc := BitVec.ofNat 57 (field x 0 57)

/-- The reserved bits of a record are zero. -/
def recordClear (x : Nat) : Bool :=
  field x 384 128 == 0 && field x 201 7 == 0 && field x 198 2 == 0 && field x 158 10 == 0 && field x 121 7 == 0 && field x 57 7 == 0

/-- A kernel descriptor from the number its 64 bytes are. -/
def KDesc.of (x : Nat) : KDesc where
  entry := BitVec.ofNat 57 (field x 384 57)
  roles := BitVec.ofNat 32 (field x 352 32)
  plim := field x 336 16
  nback := field x 328 8
  wres := field x 320 8
  regs := field x 312 8
  minscr := field x 304 8
  minshr := field x 288 16
  mint := field x 282 6
  warps := field x 278 4 + 1
  namefp := BitVec.ofNat 64 (field x 0 64)

/-- The role of a warp of a team (03 R66). -/
def KDesc.role (k : KDesc) (wid : Nat) : BitVec 2 := k.roles.extractLsb' (2 * wid) 2

/-- The compact footprint of a warp (02 R51). -/
def KDesc.footprint (k : KDesc) : Nat := (256 + 8 * k.regs + 63) / 64 * 64

/-- A descriptor keeps the loader's rules (R243, R240). -/
def KDesc.sound (k : KDesc) (x : Nat) : Bool :=
  field x 224 16 == 0x4B44 && field x 248 8 == 3 && field x 240 8 == 0 && field x 441 71 == 0 && field x 256 22 == 0
    && field x 64 160 == 0 && field x (352 + 2 * k.warps) (32 - 2 * k.warps) == 0
    && (List.range k.warps).all (fun w => k.role w != 3) && 12 ≤ k.regs && k.wres ≤ k.regs && k.nback ≤ k.regs

/-- A task meets its descriptor (R243). -/
def KDesc.admits (k : KDesc) (r : TaskRec) : Bool :=
  r.warps == k.warps && k.minscr ≤ r.scr && k.minshr ≤ r.shr && k.mint ≤ r.tslot
    && (if r.harv then (List.range k.warps).all (fun w => k.role w == 0) && k.regs ≤ 32
        else k.warps * k.wres ≤ 768)
    && k.warps * k.footprint ≤ 16384

/-- Check 3 of R441. -/
def TaskRec.sized (r : TaskRec) : Bool :=
  r.shr % 128 == 0 && r.shr ≤ 24576 && r.scr ≤ 192 && r.scr + r.shr / 128 ≤ 192 && r.tslot ≤ 32 && r.args.toNat % 16 == 0

/-- Check 4 of R441: what R68 asks of the record. -/
def TaskRec.harvestOk (r : TaskRec) : Bool :=
  !r.harv || (r.teams == 1 && r.warps ≤ 2 && r.scr == 0 && r.shr == 0 && r.tslot == 0)

/-! ## Reading device memory for the dispatcher -/

/-- n bytes from a virtual address, within each line at one instant, as a load at scope .device; or, where they cannot be
read, whether a translation failed. -/
def State.readVirtual (s : State) (part : Nat) (ctx : BitVec 6) (priv : Bool) (va n : Nat) : State × Except Bool (List Byte) :=
  if 2 ^ 57 < va + n then (s, .error true)
  else (blocks 128 va n).foldl (fun r l =>
    match r with
    | (s, .error e) => (s, .error e)
    | (s, .ok bs) =>
      let lo := max va (128 * l)
      let hi := min (va + n) (128 * l + 128)
      match s.locate part ctx lo (hi - lo) .read priv with
      | (s, .error (code, _)) => (s, .error (code != 0x14))
      | (s, .ok x) =>
        match s.locRead part lo (hi - lo) 0 x with
        | .error _ => (s, .error false)
        | .ok (more, _) => (s.touchLoc part ctx x false 0, .ok (bs ++ more))) (s, .ok [])

/-- The largest GWCT of n bytes from a virtual address, as far as they can be read: TSPAWN loads its records (17 R367). -/
def State.virtualStamp (s : State) (part : Nat) (ctx : BitVec 6) (priv : Bool) (va n : Nat) : Nat :=
  (blocks 128 va n).foldl (fun g l =>
    let lo := max va (128 * l)
    let hi := min (va + n) (128 * l + 128)
    match (s.locate part ctx lo (hi - lo) .read priv).2 with
    | .error _ => g
    | .ok x => (match s.locRead part lo (hi - lo) 0 x with
      | .error _ => g
      | .ok (_, g') => max g g')) 0

/-- Why a record is refused: the check of R441, and whether an address could not be translated. -/
structure Refused where
  check : Nat
  untranslated : Bool
deriving DecidableEq, Repr

/-- THE CHECKS OF A TASK RECORD (R441), in their order. -/
def State.checkRecord (s : State) (part : Nat) (ctx : BitVec 6) (priv : Bool) (va : Nat) :
    State × Except Refused (TaskRec × KDesc) :=
  if va % 64 != 0 then (s, .error ⟨1, false⟩)
  else match s.readVirtual part ctx priv va 64 with
  | (s, .error e) => (s, .error ⟨1, e⟩)
  | (s, .ok bs) =>
    let x := leNat bs
    let r := TaskRec.of x
    if !recordClear x then (s, .error ⟨2, false⟩)
    else if !r.sized then (s, .error ⟨3, false⟩)
    else if !r.harvestOk then (s, .error ⟨4, false⟩)
    else match s.readVirtual part ctx priv r.kdesc.toNat 64 with
    | (s, .error e) => (s, .error ⟨5, e⟩)
    | (s, .ok ks) =>
      let k := KDesc.of (leNat ks)
      if k.sound (leNat ks) && k.admits r then (s, .ok (r, if r.harv then { k with wres := 0 } else k))
      else (s, .error ⟨5, false⟩)

/-- The checks of n records, ascending: the first refused with its address, or all. -/
def State.checkRecords (s : State) (part : Nat) (ctx : BitVec 6) (priv : Bool) : Nat → Nat →
    State × Except (Refused × Nat) (List (TaskRec × KDesc))
  | _, 0 => (s, .ok [])
  | va, n + 1 =>
    match s.checkRecord part ctx priv va with
    | (s, .error e) => (s, .error (e, va))
    | (s, .ok r) =>
      match State.checkRecords s part ctx priv (va + 64) n with
      | (s, .error e) => (s, .error e)
      | (s, .ok rs) => (s, .ok (r :: rs))

/-! ## Events and queueing -/

/-- The count of an event meets a target (03 R75). -/
def Part.meets (p : Part) (name : BitVec 16) (target : Word) : Bool := decide (target.toNat ≤ (p.event name).toNat)

/-- Wait cells of a partition in use (04 R92). -/
def State.cellsUsed (s : State) (part : Nat) : Nat :=
  (s.tasks.vals.filter (·.part == part)).foldl (fun n t => n + (t.cells.filter (·.2.2)).length) 0

/-- The waits given take wait cells while cells are free; the others stand on the overflow list (04 R92). -/
def State.takeCells (s : State) (part : Nat) (ws : List (BitVec 16 × Word)) : List (BitVec 16 × Word × Bool) :=
  let used := s.cellsUsed part
  (ws.zip (List.range ws.length)).map (fun ((n, t), i) => (n, t, decide (used + i < 4096)))

/-- A scheduling round is due in a partition (04 R81). Rounds called for before one has run are one (DESIGN CHOICE [122]). -/
def State.callRound (s : State) (part : Nat) : State := s.onPart part (fun p => { p with roundsDue := max 1 p.roundsDue })

/-- A task becomes runnable: READY, or for a harvest task in its partition's harvest queue (03 R68, 04 R81). -/
def State.makeReady (s : State) (tid : Nat) : State :=
  match s.task tid with
  | none => s
  | some t =>
    let (n, s) := s.name
    let s := s.setTask { t with cells := [], readySeq := n, rounds := 0, eprio := t.trec.prio
                                phase := if t.trec.harv then .queued else .ready }
    (if t.trec.harv then s.onPart t.part (fun p => { p with harvestQ := p.harvestQ ++ [tid] }) else s).callRound t.part

/-- A task that has not started. -/
def Task.queued (id part job : Nat) (ctx : BitVec 6) (r : TaskRec) (k : KDesc) : Task :=
  { id := id, part := part, job := job, ctx := ctx, trec := r, kd := k, phase := .waiting, admseq := 0, eprio := r.prio
    rounds := 0, readySeq := 0, cluster := 0, cores := [], shr := .empty, shrLen := 0, scr := [], scrLen := 0, tile := .empty
    tslot := 0, tables := none, blockedAt := 0, cells := [], succs := [], err := none, hzn := 0, woken := false }

/-- The waits of a record that are not yet satisfied. -/
def State.unmet (s : State) (part : Nat) (r : TaskRec) : List (BitVec 16 × Word) :=
  match s.part part with
  | none => []
  | some p => (r.waits.map (fun (n, t) => (n, t.setWidth 32))).filter (fun (n, t) => !p.meets n t)

/-- A task is queued (03 R73, R75). -/
def State.queueTask (s : State) (part job : Nat) (ctx : BitVec 6) (r : TaskRec) (k : KDesc) : State :=
  let (id, s) := s.name
  let cells := s.takeCells part (s.unmet part r)
  let s := s.setTask { Task.queued id part job ctx r k with cells := cells }
  if cells.isEmpty then s.makeReady id else s

end Sys2Proof.Machine
end

