-- ==== Sys2Proof/Machine/Queue.lean ====
section
/-! DEFINITION. The access queue at work (16 R345-R355, 06 R132-R145, 17 R367): loads served and returned, stores, atomics
and what acts as one performed at their homes and acknowledged, release waits, watched words, barriers and rings, and
what is found at a home after issue (23 R434, R436, R437). -/

namespace Sys2Proof.Machine

/-! ## Where and what -/

/-- The core from which a warp's accesses come; of a warp without a place, the first of its task's cluster. -/
def State.homeCore (s : State) (w : Warp) : CoreKey :=
  match w.place with
  | some pl => pl.core
  | none => ⟨match s.task w.key.task with | some t => t.cluster | none => 0, 0⟩

/-- Adds the unserved accesses that touch a byte of those chosen. -/
def growAccs (e : Entry) (sel : List Acc) : List Acc :=
  e.accs.filter (fun a => !a.served && sel.any (fun b => a == b || overlaps e.space e.space a b))

/-- The unserved accesses of the lanes named, with those that touch a common byte (R345), ascending. -/
def Entry.chosen (e : Entry) (lns : Mask) : List Acc :=
  (List.range e.accs.length).foldl (fun sel _ => growAccs e sel) (e.accs.filter (fun a => !a.served && a.lns &&& lns != 0))

/-- Every one of the accesses may be performed now. -/
def Warp.allMayGo (w : Warp) (e : Entry) (sel : List Acc) : Bool := !sel.isEmpty && sel.all (w.mayGo e)

/-- An access goes to a home on a peer that answers gated or cannot be reached. -/
def State.unreachable (s : State) (e : Entry) (a : Acc) : Bool := e.space == .glob && s.homeGated a.pa

/-- An access of the entry is still to be made at such a home. -/
def State.stuck (s : State) (e : Entry) : Bool := e.accs.any (fun a => !a.served && s.unreachable e a)

/-- The access with its answer. -/
def Acc.answered (a : Acc) (res : List Byte) (tag : Bool) (g : Nat) : Acc :=
  { a with served := true, res := res, tag := tag, g := BitVec.ofNat 64 g }

/-! ## What is found after issue (23 R434, R436, R437) -/

/-- Kinds whose accesses of many lanes trap together (21 R407). -/
def EKind.together : EKind → Bool
  | .ld | .ldc | .st | .stc | .atom _ | .red _ => true
  | _ => false

/-- Accesses of an entry, other than one, that are neither made nor found. -/
def Entry.others (e : Entry) (a : Acc) : List Acc :=
  if e.kind.together then e.accs.filter (fun b => b != a && !b.served && !b.seen) else []

/-- Uncorrectable data at an access (R434): reported with those of the entry's other lanes, once all have been made
(DEDUCED [26]). -/
def State.findPoison (s : State) (k : WarpKey) (e : Entry) (a : Acc) (detail : Nat) : State :=
  if !(e.others a).isEmpty then s.setAcc k e.id a { a with seen := true }
  else s.findAll k e (a :: (if e.kind.together then e.accs.filter (fun b => b != a && !b.served && b.seen) else [])) 0x14 detail

/-- The DETAIL that names the space of an entry. -/
def Entry.spaceCode (e : Entry) : Nat := e.space.code.toNat

/-! ## Windows -/

/-- An access of a window at its home: what it reads, and whether it lies inside; one outside is recorded (05 R111). -/
def State.windowRead (s : State) (w : Warp) (sp : Space) (off n : Nat) : ReadVal :=
  let (a, base, len) := s.window w sp
  let st := s.area a
  let inside := min n (len - off)
  { bytes := s.windowBytes w sp off n, tag := off + n ≤ len && st.tag (base + off)
    poison := st.poisoned (base + off) inside, g := if inside == 0 then 0 else st.stampOf (base + off) inside }

/-- Records a window access that does not lie inside. -/
def State.checkGuard (s : State) (w : Warp) (sp : Space) (off n : Nat) : State :=
  if s.windowIn w sp off n then s else s.guardAccess w.key sp off

/-- Sets the tag of a granule of a window, where it is to be set: a write has cleared it. -/
def State.windowTag (s : State) (w : Warp) (sp : Space) (off : Nat) (t : Bool) : State :=
  let (a, base, len) := s.window w sp
  if t && off + 16 ≤ len then s.setArea a ((s.area a).setTag (base + off) true) else s

/-! ## Loads (R349, 06 R132, R133) -/

/-- A warp has read lines as their homes show them (06 R137). -/
def State.noteLines (s : State) (p : Part) (w : Warp) (lines : List Nat) : State :=
  lines.foldl (fun s l => s.noteRead p (s.homeCore w) (some w.key) l (s.homeView l (s.homeTime p l)).seq) s

/-- What a load's access reads where it is served, and the DETAIL of uncorrectable data. -/
def State.readAcc (s : State) (w : Warp) (e : Entry) (a : Acc) : State × ReadVal × Option Nat :=
  if e.space == .glob then
    match a.view, s.part w.part with
    | some v, some p =>
      let n := a.len / v.bufElem * v.elem
      let (bs, g, bad) := s.viewRead p (some w.key) v a.off n (s.homeTime p)
      let s := s.noteLines p w (s.viewLines p v a.off n (s.homeTime p))
      (s.touchLoc w.part (s.ctxOf w) ⟨a.pa, a.len, a.view⟩ false e.ch.toNat,
        ⟨bs, false, false, g⟩, bad)
    | _, _ =>
      let (s, v) := s.serveLoad w.part (s.ctxOf w) (s.homeCore w) (some w.key) a.pa a.len e.effScope e.ch.toNat
      (s, v, if v.poison then some 4 else none)
  else
    let v := s.windowRead w e.space a.off a.len
    (s, v, if v.poison then some e.spaceCode else none)

/-- A load's access is served, or finds that it cannot be. -/
def State.serveAcc (s : State) (k : WarpKey) (id : Nat) (a : Acc) : State :=
  match s.warp k with
  | none => s
  | some w =>
    match w.entry id with
    | none => s
    | some e =>
      let (s, v, bad) := s.readAcc w e a
      match bad with
      | some d => s.findPoison k e a d
      | none =>
        let s := s.setAcc k id a (a.answered v.bytes v.tag v.g)
        if e.space == .glob then s else s.checkGuard w e.space a.off a.len

/-- The first answer that a target is gated (23 R437). -/
def State.gate (s : State) (k : WarpKey) (id : Nat) : State :=
  s.onEntry k id (fun e => { e with gated := some (e.gated.getD s.gtime) })

/-- An access at .sc is next in the order of those of its scope (06 R141): none whose release wait ended before is still to
be performed. A fence has no performance of its own. -/
def State.scTurn (s : State) (e : Entry) : Bool :=
  e.ord != .sc || e.kind == .fence || s.warps.vals.all (fun w => w.queue.all (fun f =>
    !(f.ord == .sc && f.kind != .fence && f.relDone && f.effScope == e.effScope && decide (f.relSeq < e.relSeq)
      && f.accs.any (fun a => !a.served && !a.seen))))

/-- Accesses of the named lanes of an entry are made at their homes, one after another, where all may go. -/
def State.perform' (s : State) (k : WarpKey) (id : Nat) (lns : Mask) (kinds : EKind → Bool) (f : State → Acc → State) : State :=
  match s.warp k with
  | none => s
  | some w =>
    match w.entry id with
    | none => s
    | some e =>
      let sel := e.chosen lns
      if !kinds e.kind || !w.allMayGo e sel || !s.scTurn e then s
      else if sel.any (s.unreachable e) then s.gate k id
      else sel.foldl f (if e.gated.isSome then s.onEntry k id (fun e => { e with gated := none }) else s)

/-- Kinds served as loads. -/
def EKind.loads : EKind → Bool
  | .ld | .ldc | .bartst => true
  | _ => false

/-- LOAD_SERVED -/
def execLoadServed (k : WarpKey) (entry : Nat) (lns : Mask) (s : State) : Host.Outcome State Fault Refusal :=
  .next (s.perform' k entry lns EKind.loads (fun s a => s.serveAcc k entry a))

/-- The context in which an entry's result is written: that of its warp, the lanes the entry still serves. -/
def Entry.ctx (e : Entry) (w : Warp) : Ctx :=
  { k := w.key, pid := e.pid, w := w, rd := w
    p := Path.new e.pid e.lns e.x 0
    x := e.x, h := ⟨⟨false, 7⟩, ⟨false, 7⟩, 0, false, false, 0, 0⟩, act := e.lns
    wr := e.accs.foldl (fun m a => m ||| a.lns) 0 &&& ~~~w.exited, priv := e.priv }

/-- The access of a lane. -/
def Entry.accOf (e : Entry) (l : Lane) : Option Acc := e.accs.find? (fun a => a.lns.has l)

/-- The word a lane receives in register j: BARTST's is PHASE and PARR (17 R377). -/
def Entry.lane (e : Entry) (j : Nat) (l : Lane) : Word :=
  match e.accOf l with
  | none => 0
  | some a =>
    match e.kind with
    | .bartst => let o := leNat a.res; BitVec.ofNat 32 (barParr o + if barPhase o then 2 ^ 16 else 0)
    | _ => loadedWord e.ty a.res j

/-- The destinations of an entry, with the tags LDC reads. -/
def Entry.dests (e : Entry) : List Dest :=
  match e.dst with
  | none => []
  | some (d, n) => (List.range n).map (fun j => (⟨d, j, e.shape, Line.of (e.lane j),
      if e.kind == .ldc then Mask.of (fun l => (e.accOf l).any (·.tag)) else 0⟩ : Dest))

/-- The largest GWCT that came with the answers. -/
def Entry.stamp (e : Entry) : Nat := e.accs.foldl (fun g a => max g a.g.toNat) 0

/-- The destinations that still stand: the k registers are those of the frame in which the entry was issued, and are gone
with it (21 R411). -/
def Entry.standing (e : Entry) (w : Warp) : List Dest :=
  e.dests.filter (fun d => match d.spec with
    | .k _ => e.frame.isSome && w.frameId == e.frame
    | _ => true)

/-- Registers that took their lines at issue hold again what they held, and the lines they took (02 R53): the result is merged
with that (02 R48). A register written since stays as it is. -/
def Warp.unhold (w : Warp) (held : List (Nat × Val)) : Warp × List (Nat × Nat) :=
  held.foldl (fun (r : Warp × List (Nat × Nat)) (n, v) =>
    if h : n < 128 then
      let x := r.1.regs[n]
      if !x.spl && x.val == .wide v.line then (r.1.setReg n { x with val := v, line := 0 }, (n, x.line) :: r.2) else r
    else r) (w, [])

/-- The entry is complete: its registers are written, which counts as a use of them (02 R54), and HZN takes what came (06
R138). Each register that becomes W has had its line since issue; one that has not, having been written meanwhile, takes one,
and the entry waits while none can be had. -/
def State.complete (s : State) (w : Warp) (e : Entry) : State :=
  let (v, kept) := w.unhold e.held
  let c := e.ctx v
  let dests := e.standing w
  let s' := s
  let s := s.putWarp w.key v
  match s.gather w.key e.priv e.x [] ((s.needs c [] c.wr dests).filter (fun n => !kept.any (·.1 == n.1))) kept with
  | (_, .error _) => s'
  | (s, .ok taken) =>
    let s := dests.foldl (fun s d => s.writeDest w.key c.wr taken d) s
    ((s.onWarp w.key (fun w => if c.wr == 0 then w else w.touch (dests.filterMap Dest.num))).join w.key e.stamp).dropEntry w.key e.id

/-- LOAD_RETURN -/
def execLoadReturn (k : WarpKey) (entry : Nat) (s : State) : Host.Outcome State Fault Refusal :=
  .next (match s.warp k with
    | none => s
    | some w =>
      match w.entry entry with
      | none => s
      | some e => if e.kind.loads && e.done then s.complete w e else s)

/-! ## Watched words (R355) -/

/-- The value of a watched word as its home shows it, with its GWCT, or that it is poisoned. -/
def State.watched (s : State) (w : Warp) (e : Entry) (a : Acc) : Option (List Byte × Nat) :=
  if e.space == .glob then
    match s.part w.part with
    | none => none
    | some p =>
      match a.view with
      | some v =>
        let (bs, g, bad) := s.viewRead p none v a.off (a.len / v.bufElem * v.elem) (s.homeTime p)
        if bad.isSome then none else some (bs, g)
      | none =>
        let line := a.pa / 128
        let v := (s.homeView line (s.homeTime p line)).read (s.lineInfo line).own (some w.key) a.pa a.len
        if v.poison then none else some (v.bytes, v.g)
  else
    let v := s.windowRead w e.space a.off a.len
    if v.poison then none else some (v.bytes, v.g)

/-- The lines that a watched lane reads. -/
def State.watchedLines (s : State) (w : Warp) (e : Entry) (a : Acc) : List Nat :=
  if e.space != .glob then []
  else match a.view, s.part w.part with
  | some v, some p => s.viewLines p v a.off (a.len / v.bufElem * v.elem) (s.homeTime p)
  | _, _ => [a.pa / 128]

/-- A lane's condition is evaluated at the home; the value that satisfies it is read. -/
def State.evaluate (s : State) (k : WarpKey) (id : Nat) (a : Acc) : State :=
  match s.warp k with
  | none => s
  | some w =>
    match w.entry id with
    | none => s
    | some e =>
      match e.kind with
      | .waitmem cond =>
        match s.watched w e a with
        | none => s.findPoison k e a e.spaceCode
        | some (bs, g) =>
          if icmpHolds cond e.ty (BitVec.ofNat 64 (leNat bs)) (BitVec.ofNat 64 (leNat a.data)) then
            let s := s.setAcc k id a { a with served := true, g := BitVec.ofNat 64 g }
            match s.part w.part with
            | some p => s.noteLines p w (s.watchedLines w e a)
            | none => s
          else s
      | _ => s

/-- The watch entries a word takes: those of the die's L2 its line is homed on, or of the core slice that holds it. -/
inductive WatchSet where
  | die (d : Bool)
  | slice (cluster core : Nat)
  | fabric
deriving DecidableEq, Repr

/-- The set of watch entries for a word. -/
def State.watchSet (s : State) (w : Warp) (e : Entry) (a : Acc) : WatchSet :=
  let c := s.homeCore w
  match e.space with
  | .glob => if isPeer a.pa then .fabric else .die (match s.part w.part with | some p => p.homeDie (a.pa / 128) | none => false)
  | .shr => .slice c.cluster (a.off / 256 % 128)
  | .chip =>
    match s.part w.part with
    | some p => .die (p.chipDie a.off)
    | none => .die false
  | _ => .slice c.cluster c.core

/-- Watch entries in use of a set. -/
def State.watchUse (s : State) (set : WatchSet) : Nat :=
  s.warps.vals.foldl (fun n w => n + (w.queue.map (fun e => match e.kind with
    | .waitmem _ => (e.accs.filter (fun a => a.seen && a.tag && !a.served && s.watchSet w e a == set)).length
    | _ => 0)).sum) 0

/-- A watch entry of a set is free. -/
def State.watchFree (s : State) (set : WatchSet) : Bool :=
  match set with
  | .die _ => s.watchUse set < 2048
  | .slice _ _ => s.watchUse set < 64
  | .fabric => true

/-- A request of a WAITMEM reaches the home: it takes a watch entry where one is free, and its condition is evaluated. -/
def State.arrive (s : State) (k : WarpKey) (id : Nat) (a : Acc) : State :=
  match s.warp k with
  | none => s
  | some w =>
    match w.entry id with
    | none => s
    | some e =>
      let a' := { a with seen := true, tag := s.watchFree (s.watchSet w e a), g := s.gtime }
      let s := s.setAcc k id a a'
      let s := if e.space == .glob then s.touchLoc w.part (s.ctxOf w) ⟨a.pa, a.len, a.view⟩ false e.ch.toNat
        else s.checkGuard w e.space a.off a.len
      s.evaluate k id a'

/-- The lanes of a WAITMEM that hold a watch entry and are not satisfied. -/
def Entry.watching (e : Entry) : List Acc :=
  match e.kind with
  | .waitmem _ => e.accs.filter (fun a => a.seen && a.tag && !a.served)
  | _ => []

/-- Every watched lane of the module is evaluated: a write has been performed, or a line has switched. -/
def State.watch (s : State) : State :=
  s.warps.foldl (fun s x =>
    x.2.queue.foldl (fun s e => e.watching.foldl (fun s a => s.evaluate x.1 e.id a) s) s) s

/-- The lanes whose request has not reached the home and may. -/
def Warp.arriving (w : Warp) (e : Entry) : List Acc :=
  match e.kind with
  | .waitmem _ => e.accs.filter (fun a => !a.seen && w.mayGo e a)
  | _ => []

/-- WAITMEM_SATISFIED: arrivals, and the release once every lane is satisfied. -/
def execWaitmemSatisfied (k : WarpKey) (entry : Nat) (s : State) : Host.Outcome State Fault Refusal :=
  .next (match s.warp k with
    | none => s
    | some w =>
      match w.entry entry with
      | none => s
      | some e =>
        let arr := w.arriving e
        let s := if arr.any (s.unreachable e) then s.gate k entry else arr.foldl (fun s a => s.arrive k entry a) s
        match (s.warp k).bind (·.entry entry) with
        | none => s
        | some e =>
          match e.kind with
          | .waitmem _ =>
            if !e.done || w.place.isNone then s
            else
              let s := (s.join k e.stamp).dropEntry k entry
              match ((s.warp k).bind (fun w => w.paths.find? (fun p => p.wait == .waitmem entry))) with
              | some p => s.release k p.pid
              | none => s
          | _ => s)

/-- A lane without a watch entry is due for its evaluation: one has come free, or 2 us have passed since the last. -/
def State.pollDue (s : State) (w : Warp) (e : Entry) (a : Acc) : Bool :=
  (match e.kind with | .waitmem _ => true | _ => false) && a.seen && !a.tag && !a.served
    && (s.watchFree (s.watchSet w e a) || decide (a.g.toNat + 2000 ≤ s.gtime.toNat))

/-- WAITMEM_POLL -/
def execWaitmemPoll (k : WarpKey) (entry : Nat) (s : State) : Host.Outcome State Fault Refusal :=
  .next (match (s.warp k).bind (fun w => (w.entry entry).map (fun e => (w, e))) with
    | none => s
    | some (w, e) => (e.accs.filter (s.pollDue w e)).foldl (fun s a => s.arrive k entry a) s)

/-! ## What fails at the home (23 R436) -/

/-- The issuing path of a word that waits for the home goes on. -/
def State.homeDone (s : State) (k : WarpKey) (e : Entry) : State :=
  match ((s.warp k).bind (fun w => w.paths.find? (fun p => p.wait == .home e.id))) with
  | none => s
  | some p =>
    let s := s.onPath k p.pid (fun p => { p with wait := .none })
    match State.issuing { s with cur := some (k, p.pid) } e.instr.hdr true with
    | some c => s.advance c e.instr
    | none => s

/-- The word that waited for the home is over: its turn may end. -/
def State.homeTurn (s : State) (k : WarpKey) (e : Entry) : State :=
  let pl := s.placeOf k
  if (s.core pl.core).turn.any (fun t => t.w == k && (t.prim == e.pid || t.sec == some e.pid))
  then s.afterWord pl.core pl.slot e.instr.hdr.yld else s

/-- What failed at the home faults every written lane at X (23 R436): the entry is gone, and the path's other lanes go
on. -/
def State.homeTrap (s : State) (k : WarpKey) (e : Entry) (m : Mask) (c : Cause) : State :=
  match (s.warp k).bind (fun w => w.paths.find? (fun p => p.wait == .home e.id || (p.pid == e.pid && p.pc == e.x && p.wait != .none))) with
  | none => s.dropEntry k e.id
  | some p =>
    let s := if p.wait == .home e.id then s.homeDone k e else s.onPath k p.pid (fun p => p.stand (e.x + 12) .none s.gtime)
    (((s.dropEntry k e.id).onWarp k (fun w => (w.unhold e.held).1)).park k p.pid e.x (e.x.setWidth 64) (allLanes (m &&& p.lns) c) false).homeTurn k e

/-- A failure whose XADDR is the object's offset. -/
def State.homeFault (s : State) (k : WarpKey) (e : Entry) (a : Acc) (code detail : Nat) : State :=
  s.homeTrap k e a.lns { code := BitVec.ofNat 8 code, detail := BitVec.ofNat 8 detail
                         xaddr := if code == 0x04 then e.x.setWidth 64 else BitVec.ofNat 64 a.off, xstat := 0, imp := false }

/-! ## Stores (R350, 06 R134, R135, R144) -/

/-- Bytes written to a device address by a warp: at their home, or held where they leave a time-sliced partition
(04 R100). Gives the GWCT. -/
def State.globalStore (s : State) (w : Warp) (id dev : Nat) (bs : List Byte) (tag : Bool) (ch : Nat) : State × Nat :=
  match s.part w.part with
  | none => (s, 0)
  | some p =>
    if isPeer dev && p.arg.sliced then
      (s.putPart w.part { p with heldFx := p.heldFx ++ [.peerWrite id dev bs tag] }, s.gtime.toNat)
    else
      let s := s.l2Access w.part (s.ctxOf w) (dev / 128) true ch
      let (s, g) := s.homeStore w.part dev bs (some w.key) (s.homeTime p (dev / 128)) tag
      ((if tag then s.setHbmTag dev true else s).dropL1 (s.homeCore w) (dev / 128), g)

/-- What the bytes at an access's location are at its home, before it. -/
def State.locationBytes (s : State) (w : Warp) (e : Entry) (a : Acc) : List Byte :=
  if e.space == .glob then
    let bs := s.hbm.mem.bytes a.pa a.len
    match s.part w.part with
    | some p => if isPeer a.pa then p.heldOver a.pa bs else bs
    | none => bs
  else s.windowBytes w e.space a.off a.len

/-- The location of an access is poisoned (R434). -/
def State.locationBad (s : State) (w : Warp) (e : Entry) (a : Acc) : Bool :=
  if e.space == .glob then s.hbm.poisoned a.pa a.len else (s.windowRead w e.space a.off a.len).poison

/-- The tag a STC leaves on a granule: the AND over its lanes that wrote the granule (05 R117). -/
def Entry.stcTag (e : Entry) (a : Acc) : Bool :=
  e.kind == .stc && a.view.isNone && (e.accs.filter (fun b => b.pa / 16 == a.pa / 16)).all (·.tag)

/-- The cache hint of an entry: on an atomic, next-line has no effect (13 R275). -/
def Entry.hint (e : Entry) : Nat :=
  match e.kind with
  | .atom _ | .red _ => if e.ch == 5 then 0 else e.ch.toNat
  | _ => e.ch.toNat

/-- Writes an access's location at its home: bytes as they stand there. -/
def State.writeLocation (s : State) (w : Warp) (e : Entry) (a : Acc) (bs : List Byte) (tag : Bool) : State × Nat :=
  if e.space == .glob then s.globalStore w e.id a.pa bs tag e.hint
  else ((s.windowWrite w e.space a.off bs).windowTag w e.space a.off tag, s.windowNow w e.space a.off)

/-- A view access converts its bytes to those of the buffer (09 R215). -/
def Acc.stored (a : Acc) : List Byte :=
  match a.view with
  | some v => convertBytes v.formats.1 v.formats.2 a.data
  | none => a.data

/-- A store to the location of an access meets poison: a unit that it does not cover is poisoned (R434). -/
def State.storeBad (s : State) (w : Warp) (e : Entry) (a : Acc) : Bool :=
  s.locationBad w e a && !(e.space == .glob && (blocks 32 a.pa a.len).all (fun u =>
    !s.hbm.poison.contains u || (a.pa ≤ 32 * u && 32 * u + 32 ≤ a.pa + a.len)))

/-- A store's access is performed. -/
def State.storeAcc (s : State) (k : WarpKey) (id : Nat) (a : Acc) : State :=
  match s.warp k with
  | none => s
  | some w =>
    match w.entry id with
    | none => s
    | some e =>
      if s.storeBad w e a then s.findPoison k e a e.spaceCode
      else if e.kind == .barinit && barNone a.data then s.homeFault k e a 0x12 1
      else
        let (s, g) := s.writeLocation w e a a.stored (e.stcTag a)
        let s := if e.space == .glob then s else s.checkGuard w e.space a.off a.len
        s.setAcc k id a (a.answered [] a.tag g)

/-- EVSIG's record goes to the cluster's event queue, where a place is free (04 R91). -/
def State.postEvent (s : State) (cluster : Nat) (r : EvRec) : Option State :=
  let cl := s.cluster cluster
  if 256 ≤ cl.events.length then none else some (s.setCluster cluster { cl with events := cl.events ++ [r] })

/-- TSPAWN reads its records, and queues their tasks or ends the crew with error 0x48 (17 R381, 23 R441). -/
def State.spawn (s : State) (w : Warp) (e : Entry) (a : Acc) : State :=
  let ctx := s.ctxOf w
  match s.task w.key.task with
  | none => s
  | some t =>
    match s.checkRecords w.part ctx e.priv a.off (leNat a.data) with
    | (s, .error (r, va)) => s.endCrew w.key 0x48 r.check (BitVec.ofNat 64 va)
    | (s, .ok rs) => rs.foldl (fun s (r, k) => s.queueTask w.part t.job ctx r k) s

/-- What acts as a store is performed: its record posted, its tasks queued. -/
def State.signalAcc (s : State) (k : WarpKey) (id : Nat) (a : Acc) : State :=
  match s.warp k with
  | none => s
  | some w =>
    match w.entry id with
    | none => s
    | some e =>
      match e.instr with
      | .evsig _ _ name =>
        match s.postEvent (s.homeCore w).cluster ⟨w.part, name, BitVec.ofNat 32 (leNat a.data), none⟩ with
        | some s => s.setAcc k id a (a.answered [] false 0)
        | none => s
      | _ => (s.setAcc k id a (a.answered [] false
          (s.virtualStamp w.part (s.ctxOf w) e.priv a.off (64 * leNat a.data)))).spawn w e a

/-- The kind of an entry. -/
def State.kindOf (s : State) (k : WarpKey) (id : Nat) : Option EKind := ((s.warp k).bind (fun w => w.entry id)).map Entry.kind

/-- Kinds performed as stores. -/
def EKind.stores : EKind → Bool
  | .st | .stc | .barinit | .evsig | .tspawn => true
  | _ => false

/-- STORE_PERFORM -/
def execStorePerform (k : WarpKey) (entry : Nat) (lns : Mask) (s : State) : Host.Outcome State Fault Refusal :=
  .next (s.perform' k entry lns EKind.stores (fun s a =>
    (match s.kindOf k entry with
    | some EKind.evsig | some EKind.tspawn => s.signalAcc k entry a
    | _ => s.storeAcc k entry a).watch))

/-! ## Atomics, barriers and rings at the home (R351-R353, R376-R378, 23 R436) -/

/-- A warp of a role in the crew is live (03 R70). -/
def State.roleLive (s : State) (task role : Nat) : Bool :=
  s.warps.vals.any (fun w => w.key.task == task && w.role.toNat == role && !w.ended
    && w.paths.any (fun p => p.frame.isNone && p.lns &&& ~~~w.exited != 0))

/-- The role of a warp as a number. -/
def Warp.roleNo (w : Warp) : Nat := w.role.toNat

/-- What a ring instruction does to the descriptor. -/
def State.ringOut (s : State) (w : Warp) (e : Entry) (a : Acc) (g : Nat) : RingOut :=
  match e.instr with
  | .rngget _ full _ _ _ => ringGet g full w.roleNo (s.roleLive w.key.task (ringProl g))
  | .rngput _ full _ _ => ringPut g full w.roleNo (leNat a.data)
  | _ => ringClose g w.roleNo

/-- RNGGET's slot and predicate, where the lines its destination needs can be had; the storage fault otherwise. -/
def State.ringResult (s : State) (w : Warp) (e : Entry) (slot : Option Nat) (ok : Bool) : State × Except Cause Unit :=
  match e.instr with
  | .rngget _ _ d pe _ =>
    let (v, kept) := w.unhold e.held
    let c := e.ctx v
    let dests : List Dest := match slot with
      | some i => [⟨d, 0, .u, Vector.replicate 32 (BitVec.ofNat 32 i), 0⟩]
      | none => []
    let s := s.putWarp w.key v
    match s.gather w.key e.priv e.x e.instr.names ((s.needs c [] c.wr dests).filter (fun n => !kept.any (·.1 == n.1))) kept with
    | (s, .error x) => (s, .error x)
    | (s, .ok taken) =>
      let s := dests.foldl (fun s d => s.writeDest w.key c.wr taken d) s
      (s.onWarp w.key (fun w => (w.setPred pe (wset c.wr w.exited) (if ok then Mask.all else 0)).touch e.instr.writes), .ok ())
  | _ => (s, .ok ())

/-- A ring instruction is performed at the core slice that owns its descriptor, or goes on waiting (03 R70). -/
def State.ringAcc (s : State) (k : WarpKey) (id : Nat) (a : Acc) : State :=
  match s.warp k with
  | none => s
  | some w =>
    match w.entry id with
    | none => s
    | some e =>
      if s.locationBad w e a then s.homeFault k e a 0x14 e.spaceCode
      else
        let g := leNat (s.locationBytes w e a)
        match s.ringOut w e a g with
        | .fault code detail => s.homeFault k e a code detail
        | .wait => if a.seen then s else (s.setAcc k id a { a with seen := true }).checkGuard w e.space a.off a.len
        | .done g' slot ok =>
          match s.ringResult w e slot ok with
          | (s, .error c) => s.homeTrap k e a.lns c
          | (s, .ok ()) =>
            let (s, t) := s.writeLocation w e a (leBytes 16 g') false
            let s := if a.seen then s else s.checkGuard w e.space a.off a.len
            let s := s.setAcc k id a (a.answered [] false t)
            match e.instr with
            | .rngget .. => s.release k e.pid
            | _ => (s.homeDone k e).homeTurn k e

/-- BARARR's update (17 R376). -/
def State.bararrAcc (s : State) (k : WarpKey) (id : Nat) (a : Acc) : State :=
  match s.warp k with
  | none => s
  | some w =>
    match w.entry id with
    | none => s
    | some e =>
      if s.locationBad w e a then s.homeFault k e a 0x14 e.spaceCode
      else
        match barArrive (leNat (s.locationBytes w e a)) (leNat a.data) with
        | .error d => s.homeFault k e a 0x12 d
        | .ok o =>
          let (s, t) := s.writeLocation w e a (leBytes 16 o) false
          let s := s.checkGuard w e.space a.off a.len
          ((s.setAcc k id a (a.answered [] false t)).homeDone k e).homeTurn k e

/-- The operation of an ATOM or RED. -/
def EKind.op : EKind → Option AtomOp
  | .atom op | .red op => some op
  | _ => none

/-- The value an atomic meets and the bytes it leaves: through a view, in the view's format (09 R215). -/
def Entry.atomic (e : Entry) (op : AtomOp) (a : Acc) (old : List Byte) : List Byte × List Byte :=
  match a.view with
  | some v =>
    let m := convertBytes v.formats.2 v.formats.1 old
    (m, convertBytes v.formats.1 v.formats.2 (atomValue op e.ty m a.data a.cmp))
  | none => (old, atomValue op e.ty old a.data a.cmp)

/-- An ATOM's or RED's access is performed. -/
def State.atomAcc (s : State) (k : WarpKey) (id : Nat) (op : AtomOp) (a : Acc) : State :=
  match s.warp k with
  | none => s
  | some w =>
    match w.entry id with
    | none => s
    | some e =>
      if s.locationBad w e a then s.findPoison k e a e.spaceCode
      else
        let (m, new) := e.atomic op a (s.locationBytes w e a)
        let s := match s.part w.part with
          | some p => if e.space == Space.glob then s.noteRead p (s.homeCore w) (some k) (a.pa / 128) (s.lineInfo (a.pa / 128)).seq else s
          | none => s
        let (s, g) := s.writeLocation w e a new false
        let s := if e.space == .glob then s else s.checkGuard w e.space a.off a.len
        s.setAcc k id a (a.answered m false g)

/-- Kinds performed as atomics. -/
def EKind.atomics : EKind → Bool
  | .atom _ | .red _ | .bararr | .ring => true
  | _ => false

/-- ATOMIC_PERFORM -/
def execAtomicPerform (k : WarpKey) (entry : Nat) (lns : Mask) (s : State) : Host.Outcome State Fault Refusal :=
  .next (s.perform' k entry lns EKind.atomics (fun s a =>
    (match s.kindOf k entry with
    | some EKind.bararr => s.bararrAcc k entry a
    | some EKind.ring => s.ringAcc k entry a
    | some (EKind.atom op) | some (EKind.red op) => s.atomAcc k entry op a
    | _ => s).watch))

/-- RNGGET_WAKE: the descriptor has changed, or the producers' liveness has (03 R70, 23 R436). -/
def execRnggetWake (k : WarpKey) (pid : Nat) (s : State) : Host.Outcome State Fault Refusal :=
  .next ((match s.warp k with
    | none => s
    | some w =>
      match (w.path pid).map Path.wait with
      | some (.ring ..) =>
        match w.queue.find? (fun (e : Entry) => e.kind == EKind.ring && e.pid == pid) with
        | some e => (e.accs.filter (fun (a : Acc) => a.seen && w.mayGo e a)).foldl (fun (s : State) a => s.ringAcc k e.id a) s
        | none => s
      | _ => s).watch)

/-- Stores of an entry that a checkpoint still holds (06 R144). -/
def State.heldOf (s : State) (w : Warp) (id : Nat) : Bool :=
  match s.part w.part with
  | some p => p.heldFx.any (fun h => match h with | .peerWrite n _ _ _ => n == id | _ => false)
  | none => false

/-- STORE_ACKNOWLEDGE: HZN takes the GWCT; ATOM's result is written. -/
def execStoreAcknowledge (k : WarpKey) (entry : Nat) (s : State) : Host.Outcome State Fault Refusal :=
  .next (match s.warp k with
    | none => s
    | some w =>
      match w.entry entry with
      | none => s
      | some e => if (e.kind.stores || e.kind.atomics) && e.done && !s.heldOf w entry then s.complete w e else s)

/-- A BARWAIT's condition holds for its path, at an access that may go: the phase differs, or the object cannot be read. -/
def State.barwaitMet (s : State) (w : Warp) (p : Path) (go : Entry → Acc → Bool) : Bool :=
  match p.wait with
  | .barwait _ _ phase =>
    match w.queue.find? (fun (e : Entry) => e.kind == EKind.barwait && e.pid == p.pid) with
    | some e => e.accs.any (fun a =>
        let v := s.windowRead w e.space a.off 16
        go e a && (v.poison || barPhase (leNat v.bytes) != phase))
    | none => false
  | _ => false

/-- A BARWAIT's release may take place. -/
def State.barwaitDue (s : State) (w : Warp) (p : Path) : Bool := s.barwaitMet w p w.mayGo

/-- The condition of a ring instruction that its path waits at holds, at an access that may go. -/
def State.ringMet (s : State) (w : Warp) (p : Path) (go : Entry → Acc → Bool) : Bool :=
  match w.queue.find? (fun (e : Entry) => e.kind == EKind.ring && e.pid == p.pid) with
  | some e => e.accs.any (fun a => go e a && (s.locationBad w e a
      || (match s.ringOut w e a (leNat (s.locationBytes w e a)) with | .wait => false | _ => true)))
  | none => false

/-- A ring instruction that its path waits at can be performed. -/
def State.ringDue (s : State) (w : Warp) (p : Path) : Bool := s.ringMet w p (fun e a => a.seen && w.mayGo e a)

/-- BARWAIT_RELEASE: the phase differs from the one waited on (17 R377). -/
def execBarwaitRelease (k : WarpKey) (pid : Nat) (s : State) : Host.Outcome State Fault Refusal :=
  .next (match s.warp k with
    | none => s
    | some w =>
      match (w.path pid).map Path.wait with
      | some (.barwait _ _ phase) =>
        match w.queue.find? (fun (e : Entry) => e.kind == EKind.barwait && e.pid == pid) with
        | none => s
        | some e =>
          match e.accs with
          | a :: _ =>
            let v := s.windowRead w e.space a.off 16
            if !w.mayGo e a then s
            else if v.poison then s.homeFault k e a 0x14 e.spaceCode
            else if barPhase (leNat v.bytes) == phase then s
            else ((s.join k v.g).dropEntry k e.id).release k pid
          | [] => s
      | _ => s)

/-! ## Release waits, gated targets, remote loads, walks -/

/-- A fence's conditions hold (06 R141): its release wait is over, and the loads it must follow have returned. -/
def Warp.fenceOver (w : Warp) (e : Entry) : Bool :=
  (!e.isRel || e.relDone) && (!e.isAcq || (w.before e).all (fun f => match f.kind with
    | .ld | .ldc | .bartst | .atom _ | .waitmem _ | .barwait => false
    | .ring => !(match f.instr with | .rngget .. => true | _ => false)
    | _ => true))

/-- RELEASE_WAIT_ELAPSED: the wait before an ordered access, or a fence, ends. -/
def execReleaseWaitElapsed (k : WarpKey) (entry : Nat) (s : State) : Host.Outcome State Fault Refusal :=
  .next (match s.warp k with
    | none => s
    | some w =>
      match w.entry entry with
      | none => s
      | some e =>
        let due := e.waits && !e.relDone && s.releaseOver w e
        let e' := if due then { e with relDone := true } else e
        let (n, s) := if due then s.name else (0, s)
        let s := if due then s.onEntry k entry (fun e => { e with relDone := true, relSeq := n }) else s
        if e.kind == .fence && w.fenceOver e' then s.dropEntry k entry else s)

/-- TARGET_GATED_RETRY (23 R437). -/
def execTargetGatedRetry (k : WarpKey) (entry : Nat) (s : State) : Host.Outcome State Fault Refusal :=
  .next (match s.warp k with
    | none => s
    | some w =>
      match w.entry entry with
      | none => s
      | some e =>
        match e.gated with
        | none => s
        | some t0 =>
          if !s.stuck e then s.onEntry k entry (fun e => { e with gated := none })
          else if s.gtime.toNat < t0.toNat + 10000 then s
          else (s.onEntry k entry (fun e => { e with gated := none })).findAll k { e with gated := none }
            (e.accs.filter (fun a => !a.served && s.unreachable e a)) 0x13 0)

/-- An access of an entry is to a line homed on the other die or on a peer (04 R87), of global memory or of the chip
scratchpad (05 R110). -/
def State.remoteAcc (s : State) (w : Warp) (e : Entry) (a : Acc) : Bool :=
  let die := dieOf (s.homeCore w).cluster
  match e.space, s.part w.part with
  | .glob, some p => isPeer a.pa || p.homeDie (a.pa / 128) != die
  | .chip, some p => p.chipDie a.off != die
  | _, _ => false

/-- The entry is a remote load that has not returned. -/
def State.remoteLoad (s : State) (w : Warp) (e : Entry) : Bool :=
  (match e.kind with | .ld | .ldc => true | _ => false) && e.accs.any (s.remoteAcc w e)

/-- The path waits for remote loads alone, one of them for 1 us (04 R87). -/
def State.remoteDue (s : State) (w : Warp) (p : Path) : Bool :=
  let es := w.holdsBack p
  p.wait == .none && !p.run.isEmpty && !p.begun && !es.isEmpty && es.all (s.remoteLoad w)
    && es.any (fun e => e.issued.toNat + 1000 ≤ s.gtime.toNat)

/-- An access that lanes of the path issued goes to a target that cannot be reached, though its queue still hold it back: the
path issues nothing before the retries are over, for the trap of an unavailable target is precise (21 R408, 23 R437). -/
def State.gatedPath (s : State) (w : Warp) (p : Path) : Bool :=
  w.queue.any (fun e => e.frame == p.frameId && e.accs.any (fun a => a.lns &&& p.lns != 0 && !a.served && s.unreachable e a))

/-- REMOTE_LOAD_BLOCK -/
def execRemoteLoadBlock (k : WarpKey) (pid : Nat) (s : State) : Host.Outcome State Fault Refusal :=
  .next (match (s.warp k).bind (fun w => (w.path pid).map (fun p => (w, p))) with
    | none => s
    | some (w, p) => if s.remoteDue w p then s.onPath k pid (fun p => { p with remote := true }) else s)

/-- PAGE_WALK: the walk is made, whatever a TLB holds. -/
def execPageWalk (part : Nat) (ctx : BitVec 6) (va : VA) (write : Bool) (s : State) : Host.Outcome State Fault Refusal :=
  .next (match s.walk part ctx va.toNat with
    | (s, some _) => (s.translate part ctx va.toNat (if write then .write else .read) true).1
    | (s, none) => s)

end Sys2Proof.Machine
end

