-- ==== Sys2Proof/Machine/Engine.lean ====
section
/-! DEFINITION. What the copy, gather and collective engines do with an operation (09 R195-R213): how an engine reads and
writes memory, the job card, its stages and its result. -/

namespace Sys2Proof.Machine

/-! ## Engine accesses (06 R146, 05 R111, 23 R434, R437) -/

/-- A failure after issue: a crew error with its detail and address (23 R439), and the largest GWCT among what the operation
had read and written before it (06 R146). -/
structure Fail where
  code : Nat
  detail : Nat
  addr : Nat
  g : Nat
deriving DecidableEq, Repr

/-- A failure after reads and writes with a GWCT. -/
def Fail.after (e : Fail) (g : Nat) : Fail := { e with g := max g e.g }

/-- Where an engine's piece of global memory is, under the operation's cache hint: a view access covers whole, aligned
elements (09 R216). -/
def State.engLoc (s : State) (op : EngOp) (w : Warp) (va n : Nat) (use : Use) : State × Except Fail Loc :=
  match s.locate op.part (s.ctxOf w) va n use false with
  | (s, .error (code, _)) => (s, .error (if code == 0x14 then ⟨0x44, 4, va, 0⟩ else ⟨0x43, code, va, 0⟩))
  | (s, .ok x) =>
    if x.view.any (fun a => (va - a.base) % a.elem != 0) then (s, .error ⟨0x43, 0x06, va, 0⟩)
    else if s.homeGated x.dev then (s, .error ⟨0x43, 0x13, va, 0⟩)
    else (s.touchLoc op.part (s.ctxOf w) x (use == .write) op.instr.hdr.ch.toNat, .ok x)

/-- Reads a piece within one line of global memory, and its GWCT. -/
def State.engPiece (s : State) (op : EngOp) (w : Warp) (va n : Nat) : State × Except Fail (List Byte × Nat) :=
  match s.engLoc op w va n .read with
  | (s, .error e) => (s, .error e)
  | (s, .ok x) =>
    match s.locRead op.part va n 4 x, s.part op.part with
    | .error _, _ => (s, .error ⟨0x44, 4, va, 0⟩)
    | .ok (bs, g), some p => (s, .ok (if isPeer x.dev then p.heldOver x.dev bs else bs, g))
    | .ok (bs, g), none => (s, .ok (bs, g))

/-- Writes a piece within one line of global memory, and gives its GWCT: through a view, in the buffer's format, line by
line (09 R215). -/
def State.engPut (s : State) (op : EngOp) (w : Warp) (va : Nat) (bs : List Byte) : State × Except Fail Nat :=
  match s.engLoc op w va bs.length .write with
  | (s, .error e) => (s, .error e)
  | (s, .ok x) =>
    match s.part op.part with
    | none => (s, .ok 0)
    | some p =>
      if isPeer x.dev && p.arg.sliced then
        (s.onPart op.part (fun p => { p with heldFx := p.heldFx ++ [.peerWrite op.id x.dev bs false] }), .ok s.gtime.toNat)
      else
        let bs := match x.view with | some a => convertBytes a.formats.1 a.formats.2 bs | none => bs
        (blocks 128 x.dev bs.length).foldl (fun r l =>
          match r with
          | (s, .error e) => (s, .error e)
          | (s, .ok g) =>
            let lo := max x.dev (128 * l)
            let (s, g') := s.homeStore op.part lo ((bs.drop (lo - x.dev)).take (128 * l + 128 - lo)) none (s.homeTime p l)
            (s, .ok (max g g'))) (s, .ok 0)

/-- An engine reads n bytes of a space: the bytes and the largest GWCT they carry. -/
def State.engRead (s : State) (op : EngOp) (w : Warp) (sp : Space) (off n : Nat) : State × Except Fail (List Byte × Nat) :=
  if sp == .glob then
    (blocks 128 off n).foldl (fun r l =>
      match r with
      | (s, .error e) => (s, .error e)
      | (s, .ok (bs, g)) =>
        let lo := max off (128 * l)
        match s.engPiece op w lo (min (off + n) (128 * l + 128) - lo) with
        | (s, .error e) => (s, .error (e.after g))
        | (s, .ok (b, g')) => (s, .ok (bs ++ b, max g g'))) (s, .ok ([], 0))
  else
    let v := s.windowRead w sp off n
    if v.poison then (s, .error ⟨0x44, 4, off, 0⟩) else (s.checkGuard w sp off n, .ok (v.bytes, v.g))

/-- An engine writes bytes of a space, and gives the largest GWCT. -/
def State.engWrite (s : State) (op : EngOp) (w : Warp) (sp : Space) (off : Nat) (bs : List Byte) : State × Except Fail Nat :=
  if sp == .glob then
    (blocks 128 off bs.length).foldl (fun r l =>
      match r with
      | (s, .error e) => (s, .error e)
      | (s, .ok g) =>
        let lo := max off (128 * l)
        match s.engPut op w lo ((bs.drop (lo - off)).take (min (off + bs.length) (128 * l + 128) - lo)) with
        | (s, .error e) => (s, .error (e.after g))
        | (s, .ok g') => (s, .ok (max g g'))) (s, .ok 0)
  else ((s.windowWrite w sp off bs).checkGuard w sp off bs.length, .ok (s.windowNow w sp off))

/-! ## The job card (R196) -/

/-- A job card. -/
structure Card where
  scap : CapBits
  stag : Bool
  dcap : CapBits
  dtag : Bool
  soff : Nat
  doff : Nat
  cols : Nat
  rows : Nat
  tbl : Nat
  exp : Nat
  boff : Nat
  ben : Bool
  bspc : Bool
  sat : Bool
  mode : Nat
  stg : List Nat
  /-- its reserved bits are zero -/
  clear : Bool
deriving DecidableEq, Repr

/-- A card from its 64 bytes and the tags of its first two granules. -/
def Card.of (bs : List Byte) (stag dtag : Bool) : Card :=
  let x := leNat bs
  { scap := BitVec.ofNat 128 (field x 0 128), stag := stag, dcap := BitVec.ofNat 128 (field x 128 128), dtag := dtag
    soff := field x 256 32, doff := field x 288 32, cols := field x 320 16, rows := field x 336 16, tbl := field x 352 3
    exp := field x 358 2, boff := field x 360 24, ben := field x 386 1 == 1, bspc := field x 387 1 == 1
    sat := field x 388 1 == 1, mode := field x 389 3, stg := (List.range 6).map (fun i => field x (392 + 4 * i) 4)
    clear := field x 355 3 == 0 && field x 384 2 == 0 && field x 421 25 == 0 }

/-- The stages of the card, up to the first code 0. -/
def Card.stages (c : Card) : List Nat := c.stg.takeWhile (· != 0)

/-- The barrier object it names: whether it lies in .scr, and its offset. -/
def Card.barrier (c : Card) : Option (Bool × Nat) := if c.ben then some (!c.bspc, 16 * c.boff) else none

/-- The rounding mode. -/
def Card.rnd (c : Card) : Rnd := match c.mode with | 0 => .rn | 1 => .rz | 2 => .ru | 3 => .rd | _ => .rs

/-- Bytes of an element of a format (05 R115); an S9 scale is stored in 16 bits (07 R152). -/
def elemBytes (fmt : Nat) : Nat :=
  match fmt with
  | 1 | 7 => 4 | 2 | 3 | 11 => 2 | 8 | 9 => 8 | _ => 1

/-- A numeric format. -/
def numeric (fmt : Nat) : Bool := 1 ≤ fmt && fmt ≤ 9

/-- A stage may directly follow another (R207). -/
def mayFollow (prev next : Nat) : Bool :=
  match next with
  | 1 => prev == 2 || prev == 5 || prev == 6
  | 2 => prev == 1 || prev == 5 || prev == 6
  | 3 => prev == 2 || prev == 5 || prev == 6
  | 4 => prev == 2
  | 5 => prev == 6
  | 6 => prev == 1 || prev == 2 || prev == 3 || prev == 5
  | 7 => prev == 1 || prev == 2 || prev == 3 || prev == 5
  | _ => false

/-- A stage accepts a stream format (R199). -/
def accepts (st fmt : Nat) : Bool :=
  match st with
  | 1 | 3 => numeric fmt
  | 2 => fmt == 0 || numeric fmt
  | 4 => 1 ≤ fmt && fmt ≤ 4
  | 5 => fmt == 10
  | 6 | 7 => true
  | _ => false

/-- The stream format after a stage; none where the stage is refused. -/
def formatAfter (dfmt st fmt : Nat) : Option Nat :=
  if !accepts st fmt then none
  else match st with
    | 1 => if numeric dfmt then some dfmt else none
    | 3 | 5 => some 4
    | 4 => some 10
    | _ => some fmt

/-- The final stream format of a stage list; none where the list is not legal (R199, R207). -/
def finalFormat (dfmt : Nat) : Option Nat → List Nat → Nat → Option Nat
  | _, [], fmt => some fmt
  | prev, st :: rest, fmt =>
    if (match prev with | some p => !mayFollow p st | none => false) then none
    else match formatAfter dfmt st fmt with
      | none => none
      | some f => finalFormat dfmt (some st) rest f

/-- The card's stage list is legal, with the final format it gives; `ws` where the destination is the weight store, which
alone accepts a BF16 stream under FMT 0xA (R199). -/
def Card.final (c : Card) (ws : Bool) : Option Nat :=
  let st := c.stages
  if (c.stg.drop st.length).any (· != 0) || st.eraseDups != st then none
  else match finalFormat (capFmt c.dcap) none st (capFmt c.scap) with
    | none => none
    | some f =>
      if capFmt c.dcap == 0 || st.getLast? == some 7 || f == capFmt c.dcap || (ws && capFmt c.dcap == 10 && f == 3) then some f else none

/-- The card's mode is one its stages accept (07 R154). -/
def Card.modeOk (c : Card) : Bool :=
  c.mode < 4 || (c.mode == 4 && (c.stages.contains 3 || c.stages.contains 4
    || (c.stages.contains 1 && (capFmt c.dcap == 3 || capFmt c.dcap == 4 || capFmt c.dcap == 5))))

/-- A window that a source code names. -/
def srcWindow : SrcWin → Space
  | .sscr => .scr | .sshr => .shr | .schip => .chip
/-- The space of a source capability. -/
def srcSpace (q : CapBits) (v : SrcWin) : Space := if capGlobal q then .glob else srcWindow v
/-- The space of a destination capability; none for the weight store. -/
def dstSpace (q : CapBits) (v : DstWin) : Option Space :=
  if capGlobal q then some .glob else match v with | .dshr => some .shr | .dscr => some .scr | .dchip => some .chip | .dws => none

/-- A card capability fails a step other than bounds. -/
def capBad (tag : Bool) (q : CapBits) (perm : BitVec 8) : Bool :=
  (capCheck tag q (capGlobal q) (capBase q) 0 perm none false).isSome

/-! ## Streams and stages (R198-R206) -/

/-- A stream: its format and its rows; of coded tiles, its images and the offset of the first. -/
structure Stream where
  fmt : Nat
  rows : List (List Byte)
  start : Nat
deriving DecidableEq, Repr

/-- Where the image after one of so many bytes begins: the next 16-byte boundary (R198, R203). -/
def imageNext (a len : Nat) : Nat := (a + len + 15) / 16 * 16

/-- Images back to back from an offset, with gap bytes of zero. -/
def joinImages (a : Nat) : List (List Byte) → List Byte
  | [] => []
  | [b] => b
  | b :: bs => b ++ List.replicate (imageNext a b.length - (a + b.length)) 0 ++ joinImages (imageNext a b.length) bs

/-- The stream's bytes in stream order. -/
def Stream.bytes (x : Stream) : List Byte := if x.fmt == 10 then joinImages x.start x.rows else x.rows.flatten

/-- A source of draws: a generator of the hardware, or open values of the spec. -/
inductive Gen where
  | lfsr (st : Word)
  | free (n : Nat)
deriving DecidableEq, Repr

/-- One draw. -/
def Gen.next : Gen → Word × Gen
  | .lfsr st => (lfsrNext st, .lfsr (lfsrNext st))
  | .free n => (lfsrSeed ((Config.freeValue n).setWidth 32), .free (n + 1))

/-- What the stages carry: draws, and the flags raised. -/
structure StageEnv where
  gen : Gen
  flags : XFlags
deriving DecidableEq, Repr

/-- One draw under .rs. -/
def StageEnv.draw (e : StageEnv) (r : Rnd) : Word × StageEnv :=
  if r == .rs then let (d, g) := e.gen.next; (d, { e with gen := g }) else (0, e)
/-- Raises flags. -/
def StageEnv.raise (e : StageEnv) (f : XFlags) : StageEnv := { e with flags := e.flags ||| f }

/-- The floating-point format of a code. -/
def fpFormat (fmt : Nat) : Option FFmt :=
  match fmt with
  | 1 => some .f32 | 2 => some .f16 | 3 => some .bf16 | 4 => some .e4 | 5 => some .e5 | 9 => some .f64 | _ => none

/-- The integer value of an element. -/
def intElem (fmt : Nat) (x : Nat) : Int :=
  let n := 8 * elemBytes fmt
  if x.testBit (n - 1) then (x : Int) - 2 ^ n else x

/-- An element taken to FP32 under a mode (07 R162), with the draw that .rs takes. -/
def toF32 (fmt : Nat) (r : Rnd) (x : Nat) (draw : Word := 0) : Nat × XFlags :=
  match fpFormat fmt with
  | some f => Fp.convert .f32 r false draw (f.read x)
  | none => intToFp .f32 r draw (intElem fmt x)

/-- The elements of a row. -/
def elements (fmt : Nat) (row : List Byte) : List Nat :=
  let n := elemBytes fmt
  (List.range (row.length / n)).map (fun i => leNat ((row.drop (n * i)).take n))

/-- CONV of an element (R200, 07 R160-R162). Under .rs, which a card with a QSCL or an ENC may hold beside it, its last
rounding takes the element's draw, to FP32 and to an integer too (DEDUCED [108]). -/
def convElem (src dst : Nat) (r : Rnd) (sat : Bool) (e : StageEnv) (x : Nat) : List Byte × StageEnv :=
  if dst == 1 then
    let (d, e) := e.draw r
    let (y, f) := toF32 src r x d
    (leBytes 4 y, e.raise f)
  else
    let (y, f) := toF32 src .rn x
    let (d, e) := (e.raise f).draw r
    match fpFormat dst with
    | some t =>
      let (z, g) := Fp.convert t r (sat && (dst == 4 || dst == 5)) d (FFmt.f32.read y)
      (leBytes (elemBytes dst) z, e.raise g)
    | none =>
      let n := 8 * elemBytes dst
      let (z, g) := Fp.toInt r (-(2 ^ (n - 1) : Int)) (2 ^ (n - 1) - 1) (FFmt.f32.read y) d
      (leBytes (elemBytes dst) (BitVec.ofInt n z).toNat, e.raise g)

/-- Maps the elements of a list in order. -/
def stageMap {α : Type} (f : StageEnv → α → List Byte × StageEnv) (e : StageEnv) (xs : List α) : List Byte × StageEnv :=
  xs.foldl (fun (bs, e) x => let (b, e) := f e x; (bs ++ b, e)) ([], e)

/-- Maps the rows of a list in order. -/
def rowsMap (f : StageEnv → List Byte → List Byte × StageEnv) (e : StageEnv) (rows : List (List Byte)) :
    List (List Byte) × StageEnv :=
  rows.foldl (fun (rs, e) r => let (b, e) := f e r; (rs ++ [b], e)) ([], e)

/-- XPOS (R201). -/
def transposeRows (n : Nat) (rows : List (List Byte)) : List (List Byte) :=
  match rows with
  | [] => []
  | r :: _ => (List.range (r.length / n)).map (fun c => (rows.map (fun x => (x.drop (n * c)).take n)).flatten)

/-- The larger magnitude of a finite value and one found before. -/
def maxMag (a : Fp) (x : Fp) : Fp :=
  match x with
  | .fin _ m e => if Fp.cmp a (.fin false m e) == .lt then .fin false m e else a
  | _ => a

/-- The exact quotient of two finite magnitudes, with 64 bits below the leading one. -/
def quotient (neg : Bool) (mx : Nat) (ex : Int) (my : Nat) (ey : Int) : Exact :=
  let sh := 96 + Nat.log2 (my + 1)
  ⟨neg, mx * 2 ^ sh / my, ex - ey - sh, mx * 2 ^ sh % my != 0⟩

/-- The scale of a vector (08 R193). -/
def vectorScale (xs : List Fp) : Nat :=
  match xs.foldl maxMag (.fin false 0 0) with
  | .fin _ m e => if m == 0 then 0x3F800000 else (FFmt.f32.round .ru false 0 (quotient false m e 448 0)).1
  | _ => 0x3F800000

/-- One element of a vector over its scale, as E4M3 (08 R193). A NaN and an infinity are not rounded there and take no draw
(DEDUCED [66]). -/
def quantElem (scale : Fp) (r : Rnd) (e : StageEnv) (x : Fp) : List Byte × StageEnv :=
  match x, scale with
  | .nan _, _ => ([0x7F], e)
  | .inf n, _ => ([if n then 0xFE else 0x7E], e)
  | .fin n m ex, .fin _ ms es =>
    let (d, e) := e.draw r
    let (q, f) := FFmt.e4.round r false d (if m == 0 then ⟨n, 0, 0, false⟩ else quotient n m ex ms es)
    ([BitVec.ofNat 8 q], e.raise f)
  | .fin _ _ _, _ => ([0x7F], e)

/-- A vector of values: its E4M3 bytes and its scale. -/
def quantVector (r : Rnd) (e : StageEnv) (xs : List Fp) : List Byte × Nat × StageEnv :=
  let s := vectorScale xs
  let (bs, e) := stageMap (quantElem (FFmt.f32.read s) r) e xs
  (bs, s, e)

/-- A row's elements taken to FP32, with the flags raised. -/
def rowF32 (fmt : Nat) (e : StageEnv) (row : List Byte) : List Fp × StageEnv :=
  (elements fmt row).foldl (fun (xs, e) x => let (y, f) := toF32 fmt .rn x; (xs ++ [FFmt.f32.read y], e.raise f)) ([], e)

/-- QSCL of a row (R202). -/
def qsclRow (fmt : Nat) (r : Rnd) (e : StageEnv) (row : List Byte) : List Byte × StageEnv :=
  let (xs, e) := rowF32 fmt e row
  let (bs, ss, e) := (List.range (xs.length / 128)).foldl (fun (bs, ss, e) v =>
    let (b, s, e) := quantVector r e ((xs.drop (128 * v)).take 128)
    (bs ++ b, ss ++ leBytes 4 s, e)) (([] : List Byte), ([] : List Byte), e)
  (bs ++ ss, e)

/-- The value of an S9 scale (07 R152). -/
def s9Value (x : Nat) : Fp :=
  let e := x / 2 % 256
  if e == 0 then .fin false 0 0 else if e == 255 then .nan false else .fin false (2 + x % 2) ((e : Int) - 128)

/-- ENC's scale of a block: the smallest S9 value not below amax / 448 (R203). -/
def blockScale (xs : List Fp) : Nat :=
  match xs.foldl maxMag (.fin false 0 0) with
  | .fin _ m e =>
    if m == 0 then 254
    else ((List.range 508).map (· + 2)).find? (fun x => match s9Value x with
      | .fin _ ms es => Fp.cmp (.fin false m e) (.fin false (448 * ms) es) != .gt
      | _ => false) |>.getD 509
  | _ => 254

/-- A band of 128 rows quantised for ENC: the scale of each of its blocks, its bytes in stream order, the flags
raised (R203, R208). -/
def encBand (fmt : Nat) (c : Card) (e : StageEnv) (band : List (List Byte)) : List Nat × List (List Byte) × StageEnv :=
  let (fs, e) := band.foldl (fun ((fs : List (List Fp)), e) r => let (x, e) := rowF32 fmt e r; (fs ++ [x], e)) ([], e)
  let nb := (match fs with | r :: _ => r.length | [] => 0) / 128
  let scales := (List.range nb).map (fun j => blockScale (fs.map (fun r => (r.drop (128 * j)).take 128)).flatten)
  let (qs, e) := fs.foldl (fun ((qs : List (List Byte)), e) r =>
    let (b, e) := stageMap (fun e (x, j) => quantElem (s9Value (scales.getD (j / 128) 254)) c.rnd e x) e
      (r.zip (List.range r.length))
    (qs ++ [b], e)) ([], e)
  (scales, qs, e)

/-- The images of a band's blocks, the first of them at `at`; or a failure, with the offset of its image (R203, 23 R439). -/
def encBlocks (c : Card) (tbl : List Byte) (qs : List (List Byte)) : Nat → Nat → List Nat → Except (Nat × Nat × Nat) (List (List Byte))
  | _, _, [] => .ok []
  | a, j, sc :: more =>
    match encodeTile tbl c.tbl c.exp sc (transposeRows 1 (qs.map (fun r => (r.drop (128 * j)).take 128))) with
    | .error (code, d) => .error (code, d, a)
    | .ok img =>
      match encBlocks c tbl qs (imageNext a img.length) (j + 1) more with
      | .error e => .error e
      | .ok r => .ok (img :: r)

/-- ENC: a stream of 128 x 128 blocks as images, band by band (R203), or its failure. -/
def encStage (fmt : Nat) (c : Card) (tbl : List Byte) : Nat → Nat → List (List Byte) → StageEnv →
    Except (Nat × Nat × Nat) (List (List Byte)) × StageEnv
  | 0, _, _, e => (.ok [], e)
  | n + 1, a, rows, e =>
    let (scales, qs, e) := encBand fmt c e (rows.take 128)
    match encBlocks c tbl qs a 0 scales with
    | .error x => (.error x, e)
    | .ok imgs =>
      match encStage fmt c tbl n (imgs.foldl (fun a b => imageNext a b.length) a) (rows.drop 128) e with
      | (.error x, e) => (.error x, e)
      | (.ok more, e) => (.ok (imgs ++ more), e)

/-- DEC of an image with the crew's tables (R204): 128 rows, or the EDET of 23 R440. -/
def decStage (tables : Vector (List Byte) 8) (img : List Byte) : Except Nat (List (List Byte)) :=
  let hd := TileHdr.of (img.take 208)
  if !hd.ok none then .error 5
  else match decodeTile (imageSubs hd.slen (img.drop 208)) (tables.toList.getD hd.tbl []) with
    | .error d => .error d
    | .ok cols => .ok (transposeRows 1 cols)

/-- CRC-64/XZ (R205). -/
def crc64 (bs : List Byte) : DWord :=
  (bs.foldl (fun (crc : DWord) b =>
    (List.range 8).foldl (fun (c : DWord) _ => if c.getLsbD 0 then (c >>> 1) ^^^ 0xC96C5795D7870F42 else c >>> 1)
      (crc ^^^ b.setWidth 64)) (BitVec.allOnes 64)) ^^^ BitVec.allOnes 64

/-- What the stages leave: the stream, FPRT's fingerprint, whether the list ends in CMPV. -/
structure StageOut where
  stream : Stream
  fprt : Option DWord
  cmpv : Bool
deriving DecidableEq, Repr

/-- The images of a stream decoded in turn: their rows, or the EDET of the first that fails with its offset. -/
def decImages (tables : Vector (List Byte) 8) : Nat → List (List Byte) → Except (Nat × Nat) (List (List Byte))
  | _, [] => .ok []
  | a, img :: more =>
    match decStage tables img with
    | .error d => .error (d, a)
    | .ok rows =>
      match decImages tables (imageNext a img.length) more with
      | .error e => .error e
      | .ok r => .ok (rows ++ r)

/-- The extents of a card do not suit its stages (R202, R203, 23 R439): rows of n elements reach a QSCL or an ENC. -/
def extentBad (dpitch : Nat) : List Nat → Nat → Nat → Bool
  | [], _, _ => false
  | st :: rest, r, n =>
    match st with
    | 2 => extentBad dpitch rest n r
    | 3 => n % 128 != 0 || (dpitch != 0 && dpitch < n + n / 32) || extentBad dpitch rest r (n + n / 32)
    | 4 => n % 128 != 0 || r % 128 != 0
    | 5 => extentBad dpitch rest (128 * r) 128
    | _ => extentBad dpitch rest r n

/-- RUNS THE STAGES of a card in their order (R199). `src` is the offset of the first source image and `dst` that of the
first image ENC makes, the addresses that an image's failure reports. -/
def runStages (c : Card) (tables : Option (Vector (List Byte) 8)) (src dst : Nat) : List Nat → StageOut → StageEnv →
    Except Fail StageOut × StageEnv
  | [], o, e => (.ok o, e)
  | st :: rest, o, e =>
    let x := o.stream
    match st with
    | 1 =>
      let f := capFmt c.dcap
      let (rows, e) := rowsMap (fun e r => stageMap (convElem x.fmt f c.rnd c.sat) e (elements x.fmt r)) e x.rows
      runStages c tables src dst rest { o with stream := ⟨f, rows, 0⟩ } e
    | 2 => runStages c tables src dst rest { o with stream := ⟨x.fmt, transposeRows (elemBytes x.fmt) x.rows, 0⟩ } e
    | 3 =>
      let (rows, e) := rowsMap (qsclRow x.fmt c.rnd) e x.rows
      runStages c tables src dst rest { o with stream := ⟨4, rows, 0⟩ } e
    | 4 =>
      match tables with
      | none => (.error ⟨0x42, 1, dst, 0⟩, e)
      | some t =>
        let tbl := t.toList.getD c.tbl []
        if !(DecTable.of tbl).ok then (.error ⟨0x41, 6, dst, 0⟩, e)
        else match encStage x.fmt c tbl (x.rows.length / 128) dst x.rows e with
          | (.error (code, d, a), e) => (.error ⟨code, d, mod57 a, 0⟩, e)
          | (.ok imgs, e) => runStages c tables src dst rest { o with stream := ⟨10, imgs, dst⟩ } e
    | 5 =>
      match tables with
      | none => (.error ⟨0x42, 1, src, 0⟩, e)
      | some t =>
        match decImages t src x.rows with
        | .error (d, a) => (.error ⟨0x41, d, mod57 a, 0⟩, e)
        | .ok rs => runStages c tables src dst rest { o with stream := ⟨4, rs, 0⟩ } e
    | 6 => runStages c tables src dst rest { o with fprt := some (crc64 x.bytes) } e
    | _ => runStages c tables src dst rest { o with cmpv := true } e

/-! ## The bytes an operation is to deliver (17 R368) -/

/-- Rows and bytes of a row after the stages; none where the card does not tell. -/
def deliverShape (dfmt : Nat) : List Nat → Nat → Nat → Nat → Option (Nat × Nat)
  | [], fmt, r, n => if fmt == 10 then none else some (r, n * elemBytes fmt)
  | st :: rest, fmt, r, n =>
    match st with
    | 1 => deliverShape dfmt rest dfmt r n
    | 2 => deliverShape dfmt rest fmt n r
    | 3 => deliverShape dfmt rest 0 r (n + n / 32)
    | 4 => none
    | 5 => deliverShape dfmt rest 4 (128 * r) 128
    | _ => deliverShape dfmt rest fmt r n

/-- The bytes of a card's stream at its end, for so many source rows. -/
def Card.delivers (c : Card) (ws : Bool) (rows : Nat) : Option Nat :=
  if (c.final ws).isNone then none
  else if rows == 0 || c.cols == 0 then some 0
  else (deliverShape (capFmt c.dcap) c.stages (capFmt c.scap) rows c.cols).map (fun (r, n) => r * n)

end Sys2Proof.Machine
end

