-- ==== Sys2Proof/Machine/Copy.lean ====
section
/-! DEFINITION. The copy, gather and collective engines: CPY, CPYG and COLL at issue (17 R370), an engine that takes and
works an operation (06 R146, 09 R195-R213), and the completion of every engine operation (06 R146, R147). -/

namespace Sys2Proof.Machine

/-! ## Issue (17 R364-R370) -/

/-- An engine operation issues: it takes a number, adds one to its counter and stands in its engine's queue; the faulting
lanes park (06 R147). -/
def State.issueOp (s : State) (c : Ctx) (i : Instr) (faults : List (Lane × Cause)) (op : EngOp) : State :=
  s.commit c i faults [] [] 0 (fun s =>
    let (id, s) := s.name
    let s := { s with ops := s.ops ++ [{ op with id := id }] }
    match op.cls with
    | some cls => s.onWarp c.k (fun w => w.setCnt cls (w.cnt cls + 1))
    | none => s)

/-- An operation as its issue fixes it. -/
def Ctx.op (c : Ctx) (i : Instr) (cls : Option CntClass) (scope : Scope) : EngOp :=
  { id := 0, part := c.w.part, instr := i, w := c.k, core := c.core, slot := match c.w.place with | some pl => pl.slot | none => 0
    cls := cls, scope := scope, hzn := c.w.hzn, x := c.x, lns := c.wr, caps := [], off := 0, rows := Vector.replicate 32 0
    scales := [], b := 0, bar := none, earlier := c.w.queue.map (·.id), phase := .queued, bytes := none, k := 0, gated := none }

/-- The counter of a class stands at 63: the instruction waits in gathering (06 R147). -/
def Ctx.counterFull (c : Ctx) (cls : CntClass) : Bool := 63 ≤ c.w.cnt cls

/-- The issue of an operation with a job card: its card is checked once. -/
def State.issueCard (s : State) (c : Ctx) (i : Instr) (m : EngArg) (cls : CntClass) (scope : Scope)
    (fill : State → EngOp → State × EngOp) : State :=
  match s.notUniform c [(.a, m.a, 4), (.b, m.b, 1)] with
  | some d => s.outOfRange c i d
  | none =>
    if c.counterFull cls then s
    else s.engThen c i [] m false 64 64 (permR ||| permW ||| permAsync) fun off =>
      let (s, op) := fill s { c.op i (some cls) scope with off := off }
      s.issueOp c i [] op

/-- CPY -/
def execCpy (h : Hdr) (scope : Scope) (src : SrcWin) (dst : DstWin) (m : EngArg) (s : State) : Host.Outcome State Fault Refusal :=
  s.issue (.cpy h scope src dst m) h false (some 1) fun c s =>
    s.issueCard c (.cpy h scope src dst m) m .copy scope (fun s op => (s, op))

/-- CPYG -/
def execCpyg (h : Hdr) (scope : Scope) (src : SrcWin) (dst : DstWin) (m : EngArg) (e : Spec) (s : State) :
    Host.Outcome State Fault Refusal :=
  s.issue (.cpyg h scope src dst m e) h false (some 1) fun c s =>
    s.issueCard c (.cpyg h scope src dst m e) m .gather scope (fun s op => (s, { op with rows := Line.of (s.word c .e e) }))

/-- The quad of COLL is a sealed peer set with GLOBAL set. -/
def peerSetBad (tag : Bool) (q : CapBits) : Option Nat :=
  if tag && !capSeal q then some 2 else capCheck tag q true (capBase q) (capLen q) 0 none true

/-- COLL -/
def execColl (h : Hdr) (scope : Scope) (src : SrcWin) (dst : DstWin) (m : EngArg) (e : Spec) (s : State) :
    Host.Outcome State Fault Refusal :=
  s.issue (.coll h scope src dst m e) h false (some 1) fun c s =>
    let i : Instr := .coll h scope src dst m e
    match s.notUniform c [(.a, m.a, 4), (.b, m.b, 1), (.e, e, 4)] with
    | some d => s.outOfRange c i d
    | none =>
      let q := s.quadAt c .e e c.low
      s.gathered c i [] fun t =>
      match peerSetBad (s.quadTag c .e e c.low) q with
      | some d => t.faultAll c i (c.causeAt 0x05 d (capBase q))
      | none =>
        let set := BitVec.ofNat 8 (capPitch q % 256)
        if (match s.part c.w.part with | some p => p.fxTight | none => false) then s
        else s.issueCard c i m .coll scope (fun s op =>
          let k := match s.part c.w.part with | some p => (p.colls.find set).getD 0 | none => 0
          (s.onPart c.w.part (fun p => { p with colls := p.colls.set set (k + 1) }), { op with caps := [q], k := k }))

/-! ## The choice of an operation (R195, 08 R177) -/

/-- A die is over its junction limit: its engines begin nothing (26 R456). -/
def State.hot (s : State) : Bool := s.hot0.isSome || s.hot1.isSome

/-- The operation may start its accesses (06 R146): the earlier accesses of its warp are performed, and its horizon does not
stand ahead. -/
def State.mayStart (s : State) (op : EngOp) : Bool :=
  !s.hot && (match s.warp op.w with | some w => w.queue.all (fun e => !op.earlier.contains e.id) | none => true)
    && (op.scope.code.toNat < Scope.die.code.toNat || decide (op.hzn.toNat ≤ s.now (dieOf op.core.cluster)))

/-- An operation waits for its engine. -/
def EngOp.waiting (op : EngOp) : Bool := op.phase == .queued

/-- The oldest waiting operation of each warp of a cluster, of those an engine takes, that may start. A warp whose oldest may
not start (06 R146) is passed over in the round-robin, as if its queue were empty (DESIGN CHOICE [126]). -/
def State.heads (s : State) (cluster : Nat) (mine : EngOp → Bool) : List EngOp :=
  let ops := s.ops.filter (fun op => op.core.cluster == cluster && mine op && op.waiting)
  (ops.filter (fun op => (ops.find? (fun o => o.w == op.w)).any (fun o => o.id == op.id))).filter s.mayStart

/-- The place of an operation in the round. -/
def EngOp.at (op : EngOp) : Nat := op.core.core * 32 + op.slot

/-- The next in round-robin order of (core, slot), ascending, after the one taken last. -/
def nextInRound (last : Option (Nat × Nat)) (heads : List EngOp) : Option EngOp :=
  let hs := sortBy (fun a b => a.at ≤ b.at) heads
  match last with
  | some (c, n) => match hs.find? (fun o => c * 32 + n < o.at) with | some o => some o | none => hs.head?
  | none => hs.head?

/-- CPY and COLL go to the copy engines, CPYG to the gather engine. -/
def EngOp.copies (op : EngOp) : Bool := match op.instr with | .cpy .. | .coll .. => true | _ => false
/-- CPYG -/
def EngOp.gathers (op : EngOp) : Bool := match op.instr with | .cpyg .. => true | _ => false
/-- The operations of the matrix engine's queue. -/
def EngOp.matrix (op : EngOp) : Bool := match op.instr with | .mma .. | .mdrain .. | .mzero .. | .wtload .. => true | _ => false

/-- The operation of a number. -/
def State.op (s : State) (id : Nat) : Option EngOp := s.ops.find? (·.id == id)
/-- The state with an operation set. -/
def State.setOp (s : State) (op : EngOp) : State := { s with ops := s.ops.map (fun o => if o.id == op.id then op else o) }

/-! ## Working a card (R196-R209) -/

/-- What the work of an operation came to: the largest GWCT of its reads and writes, its failure, the bytes its barrier
update subtracts, its barrier object, the draws it left. -/
structure Done where
  ehzn : Nat
  err : Option Fail
  bytes : Option Nat
  bar : Option (Bool × Nat)
  gen : Gen
deriving DecidableEq, Repr

/-- Reads a card with the tags of its capabilities. -/
def State.readCard (s : State) (op : EngOp) (w : Warp) : State × Except Fail (Card × Nat) :=
  match s.engRead op w .scr op.off 64 with
  | (s, .error e) => (s, .error e)
  | (s, .ok (bs, g)) =>
    (s, .ok (Card.of bs (s.windowRead w .scr op.off 16).tag (s.windowRead w .scr (op.off + 16) 16).tag, g))

/-- Writes a card's results in one update (R197), where the card can be written, and gives the instant, which is among those
of EHZN (06 R146). -/
def State.writeResult (s : State) (op : EngOp) (w : Warp) (flags : XFlags) (mism : Bool) (res : DWord) : State × Nat :=
  let v := flags.toNat * 2 ^ 0 + (if mism then 2 ^ 30 else 0) + 2 ^ 31 + res.toNat * 2 ^ 32
  if (s.windowRead w .scr (op.off + 52) 12).poison then (s, 0)
  else ((s.windowWrite w .scr (op.off + 52) (leBytes 12 v)).checkGuard w .scr (op.off + 52) 12, s.windowNow w .scr (op.off + 52))

/-- The barrier object of a card that cannot be read whole: its second half names it, where that can be read. -/
def State.cardBarrier (s : State) (op : EngOp) (w : Warp) : Option (Bool × Nat) :=
  let v := s.windowRead w .scr (op.off + 32) 32
  if v.poison then none else (Card.of (List.replicate 32 0 ++ v.bytes) false false).barrier

/-- The source rows an operation reads: for CPYG those its lanes name. -/
def EngOp.sourceRows (op : EngOp) (c : Card) : List Nat :=
  if op.gathers then (lanes.filter op.lns.has).map (fun l => (op.rows[l.val]).toNat) else List.range c.rows

/-- The destination rows. -/
def EngOp.destRows (op : EngOp) (n : Nat) : List Nat :=
  if op.gathers then (lanes.filter op.lns.has).map (·.val) else List.range n

/-- A row of a capability: its offset, checked. -/
def rowAt (q : CapBits) (tag : Bool) (off pitch r len : Nat) (perm : BitVec 8) : Except Fail Nat :=
  let a := mod57 (capBase q + off + r * pitch)
  match capCheck tag q (capGlobal q) a len perm none false with
  | some _ => .error ⟨0x43, 0x05, a, 0⟩
  | none => .ok a

/-- The pitch of a capability's rows (R198). -/
def pitchOf (q : CapBits) (len : Nat) : Nat := if capPitch q == 0 then len else 16 * capPitch q

/-- Reads rows of a capability. -/
def State.readRows (s : State) (op : EngOp) (w : Warp) (q : CapBits) (tag : Bool) (sp : Space) (off pitch len : Nat)
    (perm : BitVec 8) (rows : List Nat) : State × Except Fail (List (List Byte) × Nat) :=
  rows.foldl (fun acc r =>
    match acc with
    | (s, .error e) => (s, .error e)
    | (s, .ok (rs, g)) =>
      match rowAt q tag off pitch r len perm with
      | .error e => (s, .error (e.after g))
      | .ok a =>
        match s.engRead op w sp a len with
        | (s, .error e) => (s, .error (e.after g))
        | (s, .ok (bs, g')) => (s, .ok (rs ++ [bs], max g g'))) (s, .ok ([], 0))

/-- Reads coded images, each at the next 16-byte boundary (R198). -/
def State.readImages (s : State) (op : EngOp) (w : Warp) (c : Card) (sp : Space) : Nat → Nat → List (List Byte) → Nat →
    State × Except Fail (List (List Byte) × Nat)
  | 0, _, imgs, g => (s, .ok (imgs, g))
  | n + 1, off, imgs, g =>
    match rowAt c.scap c.stag off 0 0 208 (permR ||| permAsync) with
    | .error e => (s, .error (e.after g))
    | .ok a =>
      match s.engRead op w sp a 208 with
      | (s, .error e) => (s, .error (e.after g))
      | (s, .ok (h, g0)) =>
        let g := max g g0
        let len := (TileHdr.of h).totlen
        match rowAt c.scap c.stag off 0 0 len (permR ||| permAsync) with
        | .error e => (s, .error (e.after g))
        | .ok a =>
          match s.engRead op w sp a len with
          | (s, .error e) => (s, .error (e.after g))
          | (s, .ok (img, g')) => State.readImages s op w c sp n (imageNext (capBase c.scap + off) len - capBase c.scap) (imgs ++ [img]) (max g g')

/-- Writes rows to the destination of a card: how far it came, and the largest GWCT. What watches a word sees each row (16
R355). -/
def State.writeRows (s : State) (op : EngOp) (w : Warp) (c : Card) (sp : Space) (rows : List (Nat × List Byte)) (pitch : Nat) :
    State × Except Fail Nat :=
  rows.foldl (fun acc (r, bs) =>
    match acc with
    | (s, .error e) => (s, .error e)
    | (s, .ok g) =>
      match rowAt c.dcap c.dtag c.doff pitch r bs.length (permW ||| permAsync) with
      | .error e => (s, .error (e.after g))
      | .ok a =>
        match s.engWrite op w sp a bs with
        | (s, .error e) => (s, .error (e.after g))
        | (s, .ok g') => (s.watch, .ok (max g g'))) (s, .ok 0)

/-! ## The weight store (08 R179-R181) -/

/-- A window as its register gives it, as far as the storage reaches: how many there are, and the first (DESIGN CHOICE [113]:
what the register names beyond it is not there). -/
def windowIn (x : Word) (size : Nat) : Nat × Nat :=
  let base := (x.extractLsb' 0 15).toNat
  (min (x.extractLsb' 15 15).toNat (size - base), base)

/-- Rows of the window, and its first row: a cluster has 24,576 (01 R10, 08 R179). -/
def WsWindow.wsRows (x : WsWindow) : Nat × Nat := windowIn x.rows 24576
/-- Entries of the index window, and its first entry: a cluster has 16,384. -/
def WsWindow.idxRows (x : WsWindow) : Nat × Nat := windowIn x.idx 16384

/-- Byte address in the store of a word: window row, slice. -/
def WsWindow.word (x : WsWindow) (row slice : Nat) : Nat := (x.wsRows.2 + row) * 2048 + 4 * slice

/-- The window of a partition in a cluster's weight store (08 R180). -/
def State.wsWindow (s : State) (part cluster : Nat) : WsWindow :=
  match s.part part with
  | some p => p.window cluster
  | none => ⟨0, 0⟩

/-- The words of a tile as they are placed: window row, slice, four bytes (R181). -/
def placeWords (o : Nat) (x : Stream) : List (Nat × Nat × List Byte) :=
  let row := o / 2048
  let g := o / 512 % 4
  match x.rows with
  | [img] =>
    if x.fmt == 10 then
      let hd := TileHdr.of (img.take 208)
      let subs := (imageSubs (hd.slen.map (fun n => (n + 3) / 4 * 4)) (img.drop 208))
      (List.range 52).map (fun w => (row, 128 * g + w, (img.drop (4 * w)).take 4))
        ++ ((subs.zip (List.range 128)).map (fun (b, c) =>
          (List.range ((b.length + 3) / 4)).map (fun j => (row + 1 + j, 128 * g + c, (b.drop (4 * j)).take 4)))).flatten
    else []
  | rows =>
    ((List.range 64).map (fun m => (List.range 128).map (fun c =>
      (row + m, 128 * g + c, ((rows.getD (2 * m) []).drop (2 * c)).take 2 ++ ((rows.getD (2 * m + 1) []).drop (2 * c)).take 2)))).flatten

/-- The rows a placement occupies. -/
def placeRows (x : Stream) : Nat :=
  match x.rows with
  | [img] => if x.fmt == 10 then 1 + ((TileHdr.of (img.take 208)).slen.map (fun n => (n + 3) / 4)).foldl max 0 else 64
  | _ => 64

/-- Places a tile in the weight store, or the failure of its placement. -/
def State.placeTile (s : State) (op : EngOp) (c : Card) (x : Stream) : State × Except Fail Nat :=
  let win := s.wsWindow op.part op.core.cluster
  let o := mod57 (capBase c.dcap + c.doff)
  let n := placeRows x
  let ok := (x.fmt == 10 && x.rows.length == 1) || (x.fmt == 3 && x.rows.length == 128 && x.rows.all (·.length == 256))
  if !ok || o % 512 != 0 || win.wsRows.1 < o / 2048 + n
      || (capCheck c.dtag c.dcap false o (n * 2048) (permW ||| permAsync) none false).isSome then (s, .error ⟨0x40, 5, op.off, 0⟩)
  else
    let words := placeWords o x
    let done := words.map (fun (r, sl, _) => win.word r sl)
    ((words.foldl (fun s (r, sl, bs) => s.writeArea op.part (.ws op.core.cluster) (win.word r sl) bs) s).renew
        (.ws op.core.cluster) done.contains,
      .ok (s.now (dieOf op.core.cluster)))

/-! ## The whole of a CPY or CPYG -/

/-- The failure a card shows when it is read (23 R439). CPYG of coded tiles, to which no rule gives a meaning, is refused
like a list no rule allows (DESIGN CHOICE [129]). -/
def EngOp.cardFault (op : EngOp) (c : Card) (_src : SrcWin) (dst : DstWin) : Option Fail :=
  let bad := fun d => some (⟨0x40, d, op.off, 0⟩ : Fail)
  let ws := (dstSpace c.dcap dst).isNone
  if !c.clear || !c.modeOk then bad 2
  else if ws && c.stages.getLast? == some 7 then bad 5
  else match c.final ws with
  | none => bad 1
  | some f =>
    if op.gathers && (c.stages.any (· != 1) || capFmt c.scap == 10) then bad 1
    else if capBad c.stag c.scap (permR ||| permAsync) || capBad c.dtag c.dcap (permW ||| permAsync) then bad 3
    else if ws && (op.gathers || capFmt c.dcap != 10 || (f != 10 && f != 3)) then bad 5
    else if !op.gathers && (c.rows == 0 || c.cols == 0) then none
    else if capFmt c.scap == 10 && c.cols != 128 then bad 4
    else if extentBad (16 * capPitch c.dcap) c.stages c.rows c.cols then bad 4
    else none

/-- The whole source of a card as a stream. -/
def State.readSource (s : State) (op : EngOp) (w : Warp) (c : Card) (src : SrcWin) : State × Except Fail (Stream × Nat) :=
  let fmt := capFmt c.scap
  let sp := srcSpace c.scap src
  if c.cols == 0 then (s, .ok (⟨fmt, [], 0⟩, 0))
  else if fmt == 10 then
    match s.readImages op w c sp c.rows c.soff [] 0 with
    | (s, .error e) => (s, .error e)
    | (s, .ok (imgs, g)) => (s, .ok (⟨fmt, imgs, mod57 (capBase c.scap + c.soff)⟩, g))
  else
    let len := c.cols * elemBytes fmt
    match s.readRows op w c.scap c.stag sp c.soff (pitchOf c.scap len) len (permR ||| permAsync) (op.sourceRows c) with
    | (s, .error e) => (s, .error e)
    | (s, .ok (rows, g)) => (s, .ok (⟨fmt, rows, 0⟩, g))

/-- The first place where two byte strings differ. -/
def firstDiff : List Byte → List Byte → Nat → Option Nat
  | a :: as, b :: bs, n => if a == b then firstDiff as bs (n + 1) else some n
  | _, _, _ => none

/-- What leaves the stages as rows of the destination: coded tiles are one row. -/
def Stream.out (x : Stream) : List (List Byte) := if x.fmt == 10 then (if x.rows.isEmpty then [] else [joinImages x.start x.rows]) else x.rows

/-- The results of a card: MISM and RES. -/
structure Result where
  mism : Bool
  res : DWord
  bytes : Nat
  g : Nat
deriving DecidableEq, Repr

/-- Writes or compares what the stages left. RES holds the index where CMPV ends the list, else the fingerprint where there is
one, else ENC's count (DESIGN CHOICE [128]). -/
def State.deliver (s : State) (op : EngOp) (w : Warp) (c : Card) (dst : DstWin) (o : StageOut) : State × Except Fail Result :=
  let rows := o.stream.out
  let bytes := rows.flatten
  let pitch := pitchOf c.dcap (match rows with | r :: _ => r.length | [] => 0)
  let named := (op.destRows rows.length).zip rows
  let res := o.fprt.getD (if c.stages.contains 4 then BitVec.ofNat 64 bytes.length else 0)
  match dstSpace c.dcap dst with
  | none =>
    if rows.isEmpty then (s, .ok ⟨false, res, 0, 0⟩)
    else match s.placeTile op c o.stream with
    | (s, .error e) => (s, .error e)
    | (s, .ok g) => (s, .ok ⟨false, res, bytes.length, g⟩)
  | some sp =>
    if o.cmpv then
      match s.readRows op w c.dcap c.dtag sp c.doff pitch (match rows with | r :: _ => r.length | [] => 0)
          (permW ||| permAsync) (op.destRows rows.length) with
      | (s, .error e) => (s, .error e)
      | (s, .ok (there, g)) =>
        match firstDiff bytes there.flatten 0 with
        | some n => (s, .ok ⟨true, BitVec.ofNat 64 n, bytes.length, g⟩)
        | none => (s, .ok ⟨false, BitVec.allOnes 64, bytes.length, g⟩)
    else
      match s.writeRows op w c sp named pitch with
      | (s, .error e) => (s, .error e)
      | (s, .ok g) => (s, .ok ⟨false, res, bytes.length, g⟩)

/-- The row that a lane of CPYG names (R209): it is read, passes through the stages and is written as the lane's row; the
largest GWCT, and the bytes written. -/
def State.gatherRow (s : State) (op : EngOp) (w : Warp) (c : Card) (src : SrcWin) (dst : DstWin) (env : StageEnv) (l : Lane) :
    State × StageEnv × Except Fail (Nat × Nat) :=
  let fmt := capFmt c.scap
  let len := c.cols * elemBytes fmt
  match s.readRows op w c.scap c.stag (srcSpace c.scap src) c.soff (pitchOf c.scap len) len (permR ||| permAsync)
      [(op.rows[l.val]).toNat] with
  | (s, .error e) => (s, env, .error e)
  | (s, .ok (rows, g)) =>
    match runStages c none 0 0 c.stages ⟨⟨fmt, rows, 0⟩, none, false⟩ env with
    | (.error e, env) => (s, env, .error (e.after g))
    | (.ok o, env) =>
      let row := o.stream.rows.flatten
      match s.writeRows op w c ((dstSpace c.dcap dst).getD .shr) [(l.val, row)] (pitchOf c.dcap row.length) with
      | (s, .error e) => (s, env, .error (e.after g))
      | (s, .ok g') => (s, env, .ok (max g g', row.length))

/-- CPYG's rows, lane by lane ascending (R209). -/
def State.gatherRows (s : State) (op : EngOp) (w : Warp) (c : Card) (src : SrcWin) (dst : DstWin) (env : StageEnv) :
    State × StageEnv × Except Fail Result :=
  if c.cols == 0 then (s, env, .ok ⟨false, 0, 0, 0⟩)
  else (lanes.filter op.lns.has).foldl (fun (r : State × StageEnv × Except Fail Result) l =>
    match r with
    | (s, env, .error e) => (s, env, .error e)
    | (s, env, .ok x) =>
      match s.gatherRow op w c src dst env l with
      | (s, env, .error e) => (s, env, .error (e.after x.g))
      | (s, env, .ok (g, n)) => (s, env, .ok { x with bytes := x.bytes + n, g := max x.g g })) (s, env, .ok ⟨false, 0, 0, 0⟩)

/-- CPY's stream: read, passed through the stages, and written or compared. -/
def State.copyStream (s : State) (op : EngOp) (w : Warp) (c : Card) (src : SrcWin) (dst : DstWin) (env : StageEnv) :
    State × StageEnv × Except Fail Result :=
  match s.readSource op w c src with
  | (s, .error e) => (s, env, .error e)
  | (s, .ok (x, g)) =>
    match runStages c ((s.task op.w.task).bind (·.tables)) (mod57 (capBase c.scap + c.soff))
        (mod57 (capBase c.dcap + c.doff)) c.stages ⟨x, none, false⟩ env with
    | (.error e, env) => (s, env, .error (e.after g))
    | (.ok o, env) =>
      match s.deliver op w c dst o with
      | (s, .error e) => (s, env, .error (e.after g))
      | (s, .ok r) => (s, env, .ok { r with g := max g r.g })

/-- WORKS A CPY OR CPYG whole (06 R146 step 2). -/
def State.workCard (s : State) (op : EngOp) (w : Warp) (src : SrcWin) (dst : DstWin) (gen : Gen) : State × Done :=
  match s.readCard op w with
  | (s, .error e) =>
    let bar := s.cardBarrier op w
    let (s, g) := s.writeResult op w 0 false 0
    (s, ⟨max e.g g, some e, none, bar, gen⟩)
  | (s, .ok (c, g0)) =>
    let env : StageEnv := ⟨gen, 0⟩
    let (s, env, r) := match op.cardFault c src dst with
      | some e => (s, env, Except.error e)
      | none => if op.gathers then s.gatherRows op w c src dst env else s.copyStream op w c src dst env
    match r with
    | .error e =>
      let (s, g) := s.writeResult op w env.flags false 0
      let bytes := if e.code == 0x40 && e.detail == 1 then none else c.delivers (dstSpace c.dcap dst).isNone (op.sourceRows c).length
      (s, ⟨max g (max g0 e.g), some e, bytes, c.barrier, env.gen⟩)
    | .ok r =>
      let (s, g) := s.writeResult op w env.flags r.mism r.res
      (s, ⟨max g (max g0 r.g), none, some r.bytes, c.barrier, env.gen⟩)

/-- The failure of a request as a crew error. -/
def Fail.crew (e : Fail) : CrewErr := ⟨BitVec.ofNat 8 e.code, BitVec.ofNat 8 e.detail, 0, BitVec.ofNat 64 e.addr⟩

/-! ## Collectives (R210-R212) -/

/-- The operation of a COLL on two elements. -/
def collOp (f : FFmt) (code : Nat) (x y : Nat) : Nat :=
  let a := f.read x
  let b := f.read y
  if code == 1 then (f.deliver .rn false 0 (Fp.add .rn a b)).1
  else if a.isNan || b.isNan then f.nan
  else
    let neg := fun (v : Nat) => v / 2 ^ (f.width - 1) % 2 == 1
    let less := match Fp.cmp a b with | .lt => true | .eq => neg x && !neg y | .gt => false
    if code == 2 then (if less then y else x) else (if less then x else y)

/-- The member table of a peer set is one (R210): entry p names this device, and all differ. -/
def memberTableOk (q : CapBits) (bs : List Byte) : Bool :=
  let n := capLen q / 4
  let es := (List.range n).map (fun i => leNat ((bs.drop (4 * i)).take 4))
  capLen q % 4 == 0 && 2 ≤ n && n ≤ 256 && es.all (· < 65536) && es.eraseDups == es
    && es[capPitch q / 256]? == some Config.deviceNumber.toNat

/-- What COLL's card must be (R211, R370). -/
def EngOp.collFault (op : EngOp) (c : Card) : Option Fail :=
  let bad := fun d => some (⟨0x40, d, op.off, 0⟩ : Fail)
  let f := capFmt c.scap
  let code := c.stg.getD 0 0
  if !c.clear || 4 ≤ c.mode then bad 2
  else if f != capFmt c.dcap || (f != 1 && f != 3) || c.rows != 1 || code < 1 || 3 < code || (c.stg.drop 1).any (· != 0) then bad 6
  else if capBad c.stag c.scap (permR ||| permAsync) || capBad c.dtag c.dcap (permW ||| permAsync) then bad 3
  else none

/-- A COLL starts: it reads its card, its table and its source, and sends its data. -/
def State.startColl (s : State) (op : EngOp) (w : Warp) (src : SrcWin) : State × EngOp :=
  match s.readCard op w with
  | (s, .error e) =>
    let bar := s.cardBarrier op w
    let (s, g) := s.writeResult op w 0 false 0
    (s, { op with bar := bar, bytes := none, phase := .worked (BitVec.ofNat 64 (max e.g g)) (some e.crew) })
  | (s, .ok (c, g0)) =>
    let op : EngOp := { op with bar := c.barrier, bytes := some (if c.ben then c.cols * elemBytes (capFmt c.scap) else 0) }
    let fail := fun (s : State) (e : Fail) =>
      let (s, g) := s.writeResult op w 0 false 0
      (s, { op with phase := .worked (BitVec.ofNat 64 (max g (max g0 e.g))) (some e.crew) })
    let q := op.caps.getD 0 0
    match op.collFault c with
    | some e => fail s e
    | none =>
      match s.engRead op w .glob (capBase q) (capLen q) with
      | (s, .error e) => fail s e
      | (s, .ok (tb, g1)) =>
        if !memberTableOk q tb then fail s ⟨0x40, 6, op.off, g1⟩
        else if s.portsOut then fail s ⟨0x43, 0x13, capBase q, g1⟩
        else
          let len := c.cols * elemBytes (capFmt c.scap)
          match s.readRows op w c.scap c.stag (srcSpace c.scap src) c.soff 0 len (permR ||| permAsync) [0] with
          | (s, .error e) => fail s (e.after g1)
          | (s, .ok (rows, g2)) =>
            let data := (elements (capFmt c.scap) rows.flatten).map (BitVec.ofNat 32)
            let mine : Contribution := ⟨op.part, BitVec.ofNat 8 (capPitch q % 256), op.k, capPitch q / 256, BitVec.ofNat 16 c.cols, data⟩
            let s : State := { s with contribs := s.contribs ++ [mine] }
            let s := s.onPart op.part (fun p => if p.arg.sliced then { p with heldFx := p.heldFx ++ [Held.send op.id] } else p)
            match s.engRead op w .scr op.off 64 with
            | (s, .error e) => fail s e
            | (s, .ok (bs, _)) => (s, { op with phase := .collecting (BitVec.ofNat 64 (max g0 (max g1 g2))) bs (capLen q / 4), gated := none })

/-- The contributions that have arrived for a COLL. -/
def State.arrived (s : State) (op : EngOp) : List Contribution :=
  let q := op.caps.getD 0 0
  s.contribs.filter (fun x => x.part == op.part && x.set.toNat == capPitch q % 256 && x.k == op.k)

/-- A COLL whose members have all sent writes its destination (R211): what it comes to. -/
def State.writeColl (s : State) (op : EngOp) : State :=
  match op.phase, op.instr, s.warp op.w with
  | .collecting ehzn card n, .coll _ _ _ dst _ _, some w =>
    let xs := sortBy (fun a b => a.pos ≤ b.pos) (s.arrived op)
    if !(List.range n).all (fun i => xs.any (·.pos == i)) then s
    else
      let c := Card.of card true true
      let f := capFmt c.scap
      let s := { s with contribs := s.contribs.filter (fun x => !(s.arrived op).contains x) }
      let done := fun (s : State) (g : Nat) (e : Option Fail) =>
        let (s, g') := s.writeResult op w 0 false 0
        s.setOp { op with phase := .worked (joinHzn ehzn (max g g')) (e.map Fail.crew) }
      if xs.any (fun x => x.cols.toNat != c.cols) then done s 0 (some ⟨0x40, 6, op.off, 0⟩)
      else
        let ff : FFmt := if f == 1 then .f32 else .bf16
        let code := c.stg.getD 0 0
        let vals := (List.range c.cols).map (fun e =>
          match xs with
          | [] => 0
          | x :: r => r.foldl (fun a y => collOp ff code a ((y.data.getD e 0).toNat)) (x.data.getD e 0).toNat)
        let bs := (vals.map (leBytes (elemBytes f))).flatten
        match s.writeRows op w c ((dstSpace c.dcap dst).getD .shr) [(0, bs)] 0 with
        | (s, .error e) => done s e.g (some e)
        | (s, .ok g) => done s g none
  | _, _, _ => s

/-! ## ENGINE_OP_START -/

/-- The operation has met a gated target, and 10 us have not yet passed since its first answer (23 R437). -/
def State.retryGated (s : State) (op : EngOp) (e : Option (BitVec 8 × BitVec 8)) : Bool :=
  e == some (0x43, 0x13) && (match op.gated with
    | none => true
    | some t => decide (s.gtime.toNat < t.toNat + 10000))

/-- The failure an operation's phase reports. -/
def OpPhase.failure : OpPhase → Option (BitVec 8 × BitVec 8)
  | .worked _ (some e) => some (e.ecode, e.edet)
  | _ => none

/-- A COLL whose members have all sent writes its destination; where that is gated it is tried again (23 R437). -/
def State.finishColl (s : State) (op : EngOp) : State :=
  match op.phase with
  | .collecting .. =>
    let t := s.writeColl op
    if s.retryGated op ((t.op op.id).bind (·.phase.failure)) then s.setOp { op with gated := some (op.gated.getD s.gtime) } else t
  | _ => s

/-- Every COLL whose data is complete. -/
def State.collect (s : State) : State := s.ops.foldl (fun s op => match s.op op.id with | some o => s.finishColl o | none => s) s

/-- COLLECTIVE_CONTRIBUTION -/
def execCollectiveContribution (part : Nat) (set : BitVec 8) (k : Nat) (pos : BitVec 8) (cols : BitVec 16) (data : List Word)
    (s : State) : Host.Outcome State Fault Refusal :=
  let x : Contribution := ⟨part, set, k, pos.toNat, cols, data⟩
  .next ((State.collect { s with contribs := s.contribs ++ [x] }).watch)

/-- An operation is worked whole by an engine: the state and the operation after it. -/
def State.workOp (s : State) (op : EngOp) (w : Warp) (eng : Bool) : State × EngOp :=
  let cl := s.cluster op.core.cluster
  let finish := fun (s : State) (d : Done) =>
    (s, { op with phase := .worked (BitVec.ofNat 64 d.ehzn) (d.err.map Fail.crew), bytes := if d.bar.isNone then some 0 else d.bytes, bar := d.bar })
  match op.instr with
  | .cpy _ _ src dst _ =>
    let (s, d) := s.workCard op w src dst (.lfsr (if eng then cl.genCopy1 else cl.genCopy0))
    let x := s.cluster op.core.cluster
    let st := match d.gen with | .lfsr st => st | .free _ => x.genCopy0
    finish (s.setCluster op.core.cluster (if eng then { x with genCopy1 := st } else { x with genCopy0 := st })) d
  | .cpyg _ _ src dst _ _ =>
    let (s, d) := s.workCard op w src dst (.free s.draws)
    finish (match d.gen with | .free n => { s with draws := n } | .lfsr _ => s) d
  | .coll _ _ src _ _ _ => s.startColl op w src
  | _ => (s, op)

/-- Notes which warp an engine took work from last. -/
def State.tookFrom (s : State) (op : EngOp) (eng : Bool) : State :=
  let k := op.core.cluster
  let x := s.cluster k
  let l := some (op.core.core, op.slot)
  s.setCluster k (if op.gathers then { x with lastGather := l } else if eng then { x with lastCopy1 := l } else { x with lastCopy0 := l })

/-- The operation an engine takes next. -/
def State.nextCopy (s : State) (cluster : Nat) (gather eng : Bool) : Option EngOp :=
  let x := s.cluster cluster
  if gather then nextInRound x.lastGather (s.heads cluster EngOp.gathers)
  else nextInRound (if eng then x.lastCopy1 else x.lastCopy0) (s.heads cluster EngOp.copies)

/-- ENGINE_OP_START: an operation is taken from its queue, or a COLL's destination is tried again. -/
def execEngineOpStart (op : Nat) (eng : Bool) (s : State) : Host.Outcome State Fault Refusal :=
  .next (match s.op op with
    | none => s
    | some o =>
      if (match o.phase with | .collecting .. => true | _ => false) then (s.finishColl o).watch
      else if !(o.copies || (o.gathers && !eng)) || (s.nextCopy o.core.cluster o.gathers eng).map (·.id) != some op then s
      else match s.warp o.w with
      | none => s
      | some w =>
        let (t, o') := s.workOp o w eng
        if s.retryGated o o'.phase.failure then s.setOp { o with gated := some (o.gated.getD s.gtime) }
        else (((t.tookFrom o eng).setOp o').collect).watch)

/-! ## ENGINE_OP_COMPLETE (06 R146 steps 3 to 5) -/

/-- A checkpoint still holds a write or a send of the operation (06 R144, 09 R212). -/
def Part.holdsOp (p : Part) (id : Nat) : Bool :=
  p.heldFx.any (fun h => match h with | .peerWrite n _ _ _ => n == id | .send n => n == id | _ => false)

/-- The release wait of an operation is over (06 R146 step 3). -/
def State.opReleased (s : State) (op : EngOp) (ehzn : DWord) : Bool :=
  match s.part op.part with
  | none => true
  | some p =>
    (match releaseTime op.scope false ehzn.toNat (s.fskew p) with
      | some t => decide (t ≤ s.now (dieOf op.core.cluster))
      | none => true) && !(outward op.scope && p.holdsWrite) && !p.holdsOp op.id

/-- The barrier update of an operation (08 R178, R208, 17 R368): the bytes subtracted, and the failure it meets. An
object outside its window is not there to be updated (05 R111). -/
def State.barrierUpdate (s : State) (op : EngOp) (w : Warp) (failed : Bool) (scr : Bool) (off : Nat) : State × Nat × Option Fail :=
  let sp : Space := spSpace scr
  let v := s.windowRead w sp off 16
  if !s.windowIn w sp off 16 then (s.guardAccess w.key sp off, 0, none)
  else if v.poison then (s, 0, some ⟨0x44, 4, off, 0⟩)
  else
    let o := leNat v.bytes
    let n := match op.bytes with
      | some n => if failed then min n (barPbyt o) else n
      | none => barPbyt o
    match barDeliver o n with
    | none => (s, 0, some ⟨0x45, 0, off, 0⟩)
    | some o' => (s.windowWrite w sp off (leBytes 16 o'), n, none)

/-- The class an engine completion's trace record names (10 R239). -/
def EngOp.traceClass (op : EngOp) : Nat := match op.cls with | some .copy => 0 | some .gather => 1 | some .coll => 3 | _ => 2

/-- The older operations of its class of the warp are complete (06 R147). -/
def State.oldest (s : State) (op : EngOp) : Bool :=
  op.cls.isNone || ((s.ops.find? (fun o => o.w == op.w && o.cls == op.cls)).any (fun o => o.id == op.id))

/-- Step 5: the counter falls, the operation is gone, and its failure ends the crew (23 R438). -/
def State.retireOp (s : State) (op : EngOp) (err : Option CrewErr) : State :=
  let task := match s.task op.w.task with | some t => t.trec.taskid.toNat | none => 0
  let opc := match op.instr.form with | some f => f.opc.toNat % 256 | none => 0
  let s := { s with ops := s.ops.filter (·.id != op.id) }
  let s := match op.cls with
    | some cls => s.onWarp op.w (fun w => w.setCnt cls (w.cnt cls - 1))
    | none => s
  let s := s.trace op.part 6 op.core.cluster op.core.core op.slot
    (op.traceClass + opc * 2 ^ 8 + task * 2 ^ 16 + (op.bytes.getD 0) % 2 ^ 32 * 2 ^ 32)
  match err with
  | some e => s.endCrew op.w e.ecode.toNat e.edet.toNat e.eaddr
  | none => s

/-- ENGINE_OP_COMPLETE: the barrier update once the release wait is over, and step 5 in the order of issue. -/
def execEngineOpComplete (op : Nat) (s : State) : Host.Outcome State Fault Refusal :=
  .next (match s.op op with
    | none => s
    | some o =>
      match o.phase, s.warp o.w with
      | .worked ehzn err, some w =>
        if !s.opReleased o ehzn then s
        else
          let (s, o, err) := match o.bar with
            | none => (s, o, err)
            | some (scr, off) =>
              let (s, n, e) := s.barrierUpdate o w err.isSome scr off
              let err := if err.isSome then err else e.map Fail.crew
              (s, { o with bar := none, bytes := some n, phase := .worked ehzn err }, err)
          let s := s.setOp o
          (if s.oldest o then s.retireOp o err else s).watch
      | _, _ => s)

end Sys2Proof.Machine
end

