-- ==== Sys2Proof/Machine/Lanes.lean ====
section
/-! DEFINITION. Predicates, shapes and the cross-lane instructions (14 R298-R313): arrival with the sources as read then,
and completion once every member stands there. -/

namespace Sys2Proof.Machine

/-! ## PSET, PMOV -/

/-- Bit l of a word. -/
def bitAt (x : Word) (l : Lane) : Bool := x.getLsbD l.val

/-- The operation of PSET. -/
def psetW (op : PsetOp) (a b : Word) : Word :=
  match op with
  | .and => a &&& b | .or => a ||| b | .xor => a ^^^ b | .andn => a &&& ~~~b

/-- PSET -/
def execPset (h : Hdr) (op : PsetOp) (pd : BitVec 3) (a b : Spec) (s : State) : Host.Outcome State Fault Refusal :=
  s.issue (.pset h op pd a b) h false none fun c s =>
    s.resultP c (.pset h op pd a b) pd fun l => bitAt (psetW op (s.word c .a a l) (s.word c .b b l)) l
/-- PMOV -/
def execPmov (h : Hdr) (bit : Bool) (pd : BitVec 3) (a : Spec) (s : State) : Host.Outcome State Fault Refusal :=
  s.issue (.pmov h bit pd a) h false none fun c s =>
    s.resultP c (.pmov h bit pd a) pd fun l => if bit then bitAt (s.word c .a a l) l else s.word c .a a l != 0

/-! ## SHQ, SHA, SHF, SHRSV -/

/-- The code of a shape (02 R38). -/
def Shape.code : Shape → Nat
  | .u => 0 | .a => 1 | .w => 2
/-- The shape of a code. -/
def Shape.ofCode (x : BitVec 2) : Shape := if x == 0 then .u else if x == 1 then .a else .w

/-- Shape, SPL and tags of a specifier's descriptor (14 R310). -/
def Ctx.descr (c : Ctx) (sp : Spec) : Shape × Bool × Mask :=
  match sp with
  | .v n => if h : n.toNat < 128 then let r := c.rd.regs[n.toNat]; (r.val.shape, r.spl, r.tags) else (.u, false, 0)
  | .lid => (.a, false, 0)
  | _ => (.u, false, 0)

/-- SHQ -/
def execShq (h : Hdr) (d a : Spec) (s : State) : Host.Outcome State Fault Refusal :=
  s.issue (.shq h d a) h false none fun c s =>
    let (sh, spl, tags) := c.descr a
    let v : Word := BitVec.ofNat 32 ((if tags != 0 then 16 else 0) + (if tags == Mask.all then 8 else 0)
      + (if spl then 4 else 0) + sh.code)
    s.result c (.shq h d a) d .u (Line.of fun _ => v)
/-- SHA -/
def execSha (h : Hdr) (a : Spec) (shape : BitVec 2) (s : State) : Host.Outcome State Fault Refusal :=
  s.issue (.sha h a shape) h false none fun c s =>
    let (sh, _, _) := c.descr a
    if shape.toNat < sh.code then
      let e := { c.cause 0x0C (shape.toNat * 4 + sh.code) with xstat := a.bits.setWidth 32 }
      s.faultAt c (.sha h a shape) (allLanes c.wr e)
    else s.advance c (.sha h a shape)

/-- The value SHF forces (14 R312), from the lowest written lanes. -/
def shfVal (sh : Shape) (v : Val) (wr : Mask) : Val :=
  let l0 := wr.lowest.getD 0
  let x0 := v.at l0
  match sh with
  | .w => .wide v.line
  | .u => .uni x0
  | .a =>
    match (wr &&& ~~~(BitVec.twoPow 32 l0.val)).lowest with
    | none => .uni x0
    | some l1 =>
      let st := BitVec.ofInt 32 (((v.at l1) - x0).toInt.tdiv (l1.val - l0.val : Int))
      if st == 0 then .uni x0 else .aff (x0 - BitVec.ofNat 32 l0.val * st) st

/-- SHF -/
def execShf (h : Hdr) (d a : Spec) (shape : BitVec 2) (s : State) : Host.Outcome State Fault Refusal :=
  s.issue (.shf h d a shape) h false none fun c s =>
    let (v, tags) := s.opnd c .a a 0
    let n := shfVal (Shape.ofCode shape) v c.wr
    let keep := tags == Mask.all && n.line == v.line
    let wr := match d with | .v _ => Mask.all | _ => c.wr
    s.commitTo c wr (.shf h d a shape) [] [⟨d, 0, n.shape, n.line, if shape == 2 then tags else if keep then Mask.all else 0⟩]
      [] 0 id

/-- SHRSV -/
def execShrsv (h : Hdr) (pd : BitVec 3) (n : BitVec 8) (s : State) : Host.Outcome State Fault Refusal :=
  s.issue (.shrsv h pd n) h false none fun c s =>
    let u := c.w.wuse
    let need : Int := (max n.toNat u : Nat) - (max c.w.wres u : Nat)
    let ok := !(c.w.inHarvest && n != 0) && decide (need ≤ s.sharedFree c.core c.k 0)
    s.commit c (.shrsv h pd n) [] [] [(pd, if ok then Mask.all else 0)] 0
      (fun s => if ok then s.onWarp c.k (fun w => { w with wres := n.toNat }) else s)

/-! ## Arrival at a cross-lane instruction (R300) -/

/-- The words of one register of an operand, as read. -/
def State.lineAt (s : State) (c : Ctx) (p : Pos) (sp : Spec) (k : Nat) : Line := (s.opnd c p sp k).1.line

/-- A path arrives: its members wait at X with their sources, the other lanes go on. -/
def State.arriveCross (s : State) (c : Ctx) (i : Instr) (a : Spec) (srcs : List (Pos × Spec × Nat)) : State :=
  match s.gather c.k c.priv c.x i.names (s.needs c i.reads 0 []) [] with
  | (s, .error e) => s.faultAt c i (allLanes c.wr e)
  | (t, .ok _) =>
    let masks := s.lineAt c .a a 0
    let vals := srcs.map (fun (p, sp, k) => s.lineAt c p sp k)
    let mem := Mask.of (fun l => c.act.has l && bitAt masks[l.val] l)
    let rest := c.act &&& ~~~mem
    let s := t.onWarp c.k (fun w => w.touch i.reads)
    let slot := s.nextSlot c
    if mem == 0 then s.advance c i
    else
      let s := s.onPath c.k c.pid (fun p => { p with
        lns := mem, run := [], begun := false, holds := [], wait := .cross i masks c.wr vals, since := s.gtime, retry := none
        stall := slot })
      if rest == 0 then s
      else
        let (pid, s) := s.name
        s.onWarp c.k (fun w => { w with paths := w.paths ++ [{ c.p with
          pid := pid, lns := rest, pc := c.x + 12, run := [], begun := false, holds := [], since := s.gtime, retry := none
          stall := slot }] })

/-- The issue of a cross-lane instruction: its guard does not keep a member from arriving. -/
def State.cross (s : State) (i : Instr) (h : Hdr) (a : Spec) (srcs : List (Pos × Spec × Nat)) : Host.Outcome State Fault Refusal :=
  s.issueWith i h false none (fun c s => s.arriveCross c i a srcs) (fun c s => s.arriveCross c i a srcs)

/-- B as one register or as a pair, by TYPE. -/
def bRegs (t : Ty) (b : Spec) : List (Pos × Spec × Nat) := (.b, b, 0) :: (if t.bytes == 8 then [(.b, b, 1)] else [])

/-- VOTE -/
def execVote (h : Hdr) (var : VoteVar) (d : Spec) (pe : Option (BitVec 3)) (a : Spec) (p : BitVec 3) (s : State) :
    Host.Outcome State Fault Refusal := s.cross (.vote h var d pe a p) h a [(.b, .p p, 0)]
/-- SHFL -/
def execShfl (h : Hdr) (t : Ty) (var : ShflVar) (d : Spec) (pe : Option (BitVec 3)) (a b c : Spec) (s : State) :
    Host.Outcome State Fault Refusal := s.cross (.shfl h t var d pe a b c) h a ((.c, c, 0) :: bRegs t b)
/-- BCAST -/
def execBcast (h : Hdr) (t : Ty) (d : Spec) (pe : Option (BitVec 3)) (a b c : Spec) (s : State) :
    Host.Outcome State Fault Refusal := s.cross (.bcast h t d pe a b c) h a ((.c, c, 0) :: bRegs t b)
/-- REDX -/
def execRedx (h : Hdr) (t : Ty) (op : RedOp) (d : Spec) (pe : Option (BitVec 3)) (a b : Spec) (s : State) :
    Host.Outcome State Fault Refusal := s.cross (.redx h t op d pe a b) h a [(.b, b, 0)]
/-- SCANX -/
def execScanx (h : Hdr) (t : Ty) (excl : Bool) (op : RedOp) (d : Spec) (pe : Option (BitVec 3)) (a b : Spec) (s : State) :
    Host.Outcome State Fault Refusal := s.cross (.scanx h t excl op d pe a b) h a [(.b, b, 0)]
/-- MATCH -/
def execMatchx (h : Hdr) (t : Ty) (d : Spec) (pe : Option (BitVec 3)) (a b : Spec) (s : State) :
    Host.Outcome State Fault Refusal := s.cross (.matchx h t d pe a b) h a (bRegs t b)

/-! ## Completion (R301-R309) -/

/-- What the members of a meeting bring: the member mask, the exited lanes, the lanes that arrived, and the words of
each source register, zero in an exited lane. -/
structure Meeting where
  mem : Mask
  exited : Mask
  arrived : Mask
  srcs : List Line
deriving DecidableEq, Repr

/-- Word of source register j that lane l supplied. -/
def Meeting.get (m : Meeting) (j : Nat) (l : Lane) : Word :=
  match m.srcs[j]? with
  | some x => x[l.val]
  | none => 0

/-- The result of a meeting: shape, destination registers, result predicate, flags by lane. -/
structure CrossOut where
  shape : Shape
  regs : List Line
  pred : Mask
  flags : Lane → XFlags

/-- The members, ascending. -/
def Meeting.lanes (m : Meeting) : List Lane := Sys2Proof.lanes.filter m.mem.has

/-- A result predicate that is 0 everywhere once a member has exited (R302). -/
def Meeting.whole (m : Meeting) : Mask := if m.mem &&& m.exited == 0 then Mask.all else 0

/-- VOTE (R304). -/
def voteWord (v : VoteVar) (m : Meeting) : Word :=
  let yes := Mask.of (fun l => m.mem.has l && !m.exited.has l && bitAt (m.get 0 l) l)
  match v with
  | .every => if yes == m.mem then 1 else 0
  | .some => if yes != 0 then 1 else 0
  | .mask => yes
  | .same => if yes == 0 || yes == m.mem then 1 else 0
  | .count => BitVec.ofNat 32 yes.count

/-- The source lane of SHFL (R305). -/
def shflLane (v : ShflVar) (l : Lane) (c : Word) : Option Lane :=
  let k := c.toNat
  let at? : Nat → Option Lane := fun n => if h : n < 32 then some ⟨n, h⟩ else none
  match v with
  | .lane => at? (k % 32)
  | .back => if l.val < k then none else at? (l.val - k)
  | .fwd => at? (l.val + k)
  | .swap => at? (Nat.xor l.val (k % 32))

/-- A lane that takes part and has not exited. -/
def Meeting.live (m : Meeting) (l : Lane) : Bool := m.mem.has l && !m.exited.has l

/-- An integer step of REDX and SCANX (R307). -/
def redInt (t : Ty) (op : RedOp) (x y : Word) : Word :=
  match op with
  | .add => x + y
  | .min => if intOf t x ≤ intOf t y then x else y
  | .max => if intOf t x ≤ intOf t y then y else x
  | .and => x &&& y
  | .or => x ||| y
  | .xor => x ^^^ y

/-- A floating-point step of REDX and SCANX. -/
def redFloat (op : RedOp) (x y : Nat) : FRes :=
  match op with
  | .min => fmnxV .f32 false false x y
  | .max => fmnxV .f32 true false x y
  | _ => faddV .f32 .rn x y

/-- One level of the tree of 07 R167, R169. -/
def treeLevel : List (Option Nat) → List (Option Nat) × XFlags
  | x :: y :: rest =>
    let (l, g) := treeLevel rest
    match x, y with
    | some a, some b => let (r, k) := faddV .f32 .rn a b; (some r :: l, g ||| k)
    | some a, none => (some a :: l, g)
    | none, b => (b :: l, g)
  | l => (l, 0)

/-- The root of the tree over 32 positions. -/
def treeSum (l : List (Option Nat)) : Option Nat × XFlags :=
  (List.range 5).foldl (fun (a : List (Option Nat) × XFlags) _ => let (l, g) := treeLevel a.1; (l, a.2 ||| g)) (l, 0)
    |> fun (l, g) => (l.headD none, g)

/-- A NaN made canonical (07 R158). -/
def canon32 (x : Nat) : Nat := if (FFmt.f32.read x).isNan then FFmt.f32.nan else x

/-- INVALID where a member's operand is a signalling NaN. -/
def Meeting.snan (m : Meeting) : XFlags :=
  if m.lanes.any (fun l => (FFmt.f32.read (m.get 0 l).toNat).snan) then XFlags.invalid else 0

/-- The left fold of a nonempty list of values. -/
def foldFrom (f : Nat → Nat → FRes) : List Nat → Option FRes
  | [] => none
  | x :: xs => some (xs.foldl (fun (a : FRes) y => let (r, g) := f a.1 y; (r, a.2 ||| g)) (x, 0))

/-- The identity of an operation (R308). -/
def redUnit (t : Ty) (op : RedOp) : Nat :=
  match op with
  | .and => 0xFFFFFFFF
  | .min => if t == .f32 then 0x7F800000 else if t.signed then 0x7FFFFFFF else 0xFFFFFFFF
  | .max => if t == .f32 then 0xFF800000 else if t.signed then 0x80000000 else 0
  | _ => 0

/-- The fold of members' values under a type. -/
def redFold (t : Ty) (op : RedOp) (l : List Nat) : FRes :=
  if t == .f32 then
    match foldFrom (redFloat op) l with
    | some (x, g) => (canon32 x, g)
    | none => (redUnit t op, 0)
  else
    match foldFrom (fun x y => ((redInt t op (BitVec.ofNat 32 x) (BitVec.ofNat 32 y)).toNat, 0)) l with
    | some r => r
    | none => (redUnit t op, 0)

/-- REDX (R307). -/
def redxOut (t : Ty) (op : RedOp) (m : Meeting) : FRes :=
  if t == .f32 && op == .add then
    let (x, g) := treeSum (Sys2Proof.lanes.map (fun l => if m.mem.has l then some (m.get 0 l).toNat else none))
    (canon32 (x.getD 0), g ||| m.snan)
  else
    let (x, g) := redFold t op (m.lanes.map (fun l => (m.get 0 l).toNat))
    (x, if t == .f32 then g ||| m.snan else g)

/-- The result of a cross-lane instruction. -/
def crossOut (i : Instr) (m : Meeting) : Option CrossOut :=
  match i with
  | .vote _ v _ _ _ _ => some ⟨.u, [Vector.replicate 32 (voteWord v m)], m.whole, fun _ => 0⟩
  | .shfl _ t v _ _ _ _ _ =>
    let src : Lane → Option Lane := fun l => (shflLane v l (m.get 0 l)).filter m.live
    let reg : Nat → Line := fun j => Line.of (fun l => match src l with | some k => m.get j k | none => 0)
    some ⟨.w, if t.bytes == 8 then [reg 1, reg 2] else [reg 1], Mask.of (fun l => (src l).isSome), fun _ => 0⟩
  | .bcast _ t _ _ _ _ _ =>
    let l0 := m.arrived.lowest.getD 0
    let k : Lane := ⟨(m.get 0 l0).toNat % 32, Nat.mod_lt _ (by decide)⟩
    let reg : Nat → Line := fun j => Vector.replicate 32 (if m.live k then m.get j k else 0)
    some ⟨.u, if t.bytes == 8 then [reg 1, reg 2] else [reg 1], if m.live k then Mask.all else 0, fun _ => 0⟩
  | .redx _ t op _ _ _ _ =>
    let (x, g) := redxOut t op m
    some ⟨.u, [Vector.replicate 32 (BitVec.ofNat 32 x)], m.whole, fun _ => g⟩
  | .scanx _ t excl op _ _ _ _ =>
    let v : Vector FRes 32 := Vector.ofFn (fun (l : Lane) =>
      redFold t op ((m.lanes.filter (fun k => if excl then k < l else k ≤ l)).map (fun k => (m.get 0 k).toNat)))
    some ⟨.w, [Line.of (fun l => BitVec.ofNat 32 v[l.val].1)], m.whole,
      fun l => v[l.val].2 ||| (if t == .f32 then m.snan else 0)⟩
  | .matchx _ t _ _ _ _ =>
    let eq : Lane → Lane → Bool := fun k l => m.get 0 k == m.get 0 l && (t.bytes != 8 || m.get 1 k == m.get 1 l)
    some ⟨.w, [Line.of (fun l => Mask.of (fun k => m.live k && eq k l))], m.whole, fun _ => 0⟩
  | _ => none

/-- Destination and result predicate of a cross-lane instruction. -/
def crossDest : Instr → Option (Spec × Option (BitVec 3))
  | .vote _ _ d pe _ _ => some (d, pe)
  | .shfl _ _ _ d pe _ _ _ => some (d, pe)
  | .bcast _ _ d pe _ _ _ => some (d, pe)
  | .redx _ _ _ d pe _ _ => some (d, pe)
  | .scanx _ _ _ _ d pe _ _ => some (d, pe)
  | .matchx _ _ d pe _ _ => some (d, pe)
  | _ => none

/-- The paths of a warp that wait at a cross-lane instruction at X: those of its handler, or those outside it, for which a
parked lane has not arrived (21 R407). -/
def Warp.meeting (w : Warp) (x : VA) (hand : Bool) : List (Path × Instr × Line × Mask × List Line) :=
  w.paths.filterMap (fun p => match p.wait with
    | .cross i masks g srcs => if p.pc == x && p.frame.isSome == hand then some (p, i, masks, g, srcs) else none
    | _ => none)

/-- The lane's entry of a meeting. -/
def meetingAt {α : Type} (ps : List (Path × Instr × Line × Mask × List Line)) (dflt : α)
    (f : Instr → Line → Mask → List Line → Lane → α) (l : Lane) : α :=
  match ps.find? (fun (p, _) => p.lns.has l) with
  | some (_, i, masks, g, srcs) => f i masks g srcs l
  | none => dflt

/-- The members at X have arrived, or two of them disagree about the mask (R300, R301). -/
def Warp.meetingDue (w : Warp) (x : VA) (hand : Bool) : Bool :=
  let ps := w.meeting x hand
  let arrived := ps.foldl (fun m (p, _) => m ||| p.lns) 0 &&& ~~~w.exited
  match arrived.lowest with
  | none => false
  | some l0 =>
    let maskAt := meetingAt ps (0 : Mask) (fun _ masks _ _ l => masks[l.val])
    lanes.any (fun l => arrived.has l && maskAt l != maskAt l0) || maskAt l0 &&& ~~~w.exited &&& ~~~arrived == 0

/-- The cross-lane instruction at X completes. Its sources were read as its lanes arrived (14 R300). -/
def State.meet (s : State) (k : WarpKey) (x : VA) (hand : Bool) : State :=
  match s.warp k with
  | none => s
  | some w =>
    if !w.meetingDue x hand then s
    else
    match w.meeting x hand with
    | [] => s
    | (p0, i, _, _, _) :: rest =>
      let ps := w.meeting x hand
      let arrived := ps.foldl (fun m (p, _) => m ||| p.lns) 0 &&& ~~~w.exited
      let l0 := arrived.lowest.getD 0
      let maskAt := meetingAt ps (0 : Mask) (fun _ masks _ _ l => masks[l.val])
      if lanes.any (fun l => arrived.has l && maskAt l != maskAt l0) then
        -- the member-mask fault in every arrived lane (21 R407)
        let c : Cause := { code := 0x0B, detail := 0, xaddr := x.setWidth 64, xstat := 0, imp := false }
        if hand then s.endCrew k 0x4A 0x0B (x.setWidth 64)
        else
          let s := ps.foldl (fun s (p, _) => s.offPath k p.pid arrived) s
          s.takeTrap k arrived x (x.setWidth 64) c false
      else
        let guard := meetingAt ps false (fun _ _ g _ l => g.has l)
        let wr := Mask.of (fun l => arrived.has l && guard l)
        let n := (match ps with | (_, _, _, _, srcs) :: _ => srcs.length | [] => 0)
        let m : Meeting := { mem := maskAt l0, exited := w.exited, arrived := arrived
                             srcs := (List.range n).map (fun j => Line.of (fun l =>
                               if arrived.has l then meetingAt ps 0 (fun _ _ _ srcs l => (srcs.getD j (Vector.replicate 32 0))[l.val]) l
                               else 0)) }
        let w := rest.foldl (fun (w : Warp) (p, _) => w.dropPath p.pid) w
        let slot := rest.foldl (fun n (q, _) => max n q.stall) p0.stall
        let p := { p0 with lns := arrived, wait := .none, run := [], begun := false, holds := [], stall := slot }
        let w := w.setPath p
        let s := s.putWarp k w
        match i.form, crossOut i m, crossDest i with
        | some f, some o, some (d, pe) =>
          let c : Ctx := { k := k, pid := p.pid, w := w, rd := w, p := p, x := x, h := f.hdr, act := arrived, wr := wr
                           priv := p.privileged }
          if wr == 0 then s.advance c i
          else
            let dests := (o.regs.zip (List.range o.regs.length)).map (fun (r, j) => (⟨d, j, o.shape, r, 0⟩ : Dest))
            let flags := lanes.foldl (fun g l => if wr.has l then g ||| o.flags l else g) (0 : XFlags)
            s.putThen c wr i [] i.writes dests (match pe with | some q => [(q, o.pred)] | none => []) flags (·.advance c i)
        | _, _, _ => s

/-- The completion of a cross-lane instruction -/
def execCrossLaneComplete (w : WarpKey) (x : VA) (s : State) : Host.Outcome State Fault Refusal :=
  .next ((s.meet w x false).meet w x true)

end Sys2Proof.Machine
end

