-- ==== Sys2Proof/Machine/Sched.lean ====
section
/-! DEFINITION. From the dispatcher to the issue slot (04 R80-R93, 02 R20-R25, 22 R420-R422): what a warp that starts holds,
blocking, placement, admission, eviction and resumption, the completion of a crew and its successor (03 R76-R79), the
completion entries of front ends (10 R225), event records, the fetch of runs and the choice of turns. -/

namespace Sys2Proof.Machine

/-! ## Completion entries and interrupts (10 R220-R225, 04 R100) -/

/-- The function whose MSI-X table a partition's front ends use: its first VF, else the PF of HA (DESIGN CHOICE [19]). -/
def State.fnOf (s : State) (p : Part) : Fn :=
  match p.arg.vfs with
  | v :: _ => .vf (s.vfLink.getLsbD v.toNat) v
  | [] => .pf false

/-- Raises the MSI-X vector of a front end for a partition, held where the partition is time-sliced. -/
def State.raiseMsix (s : State) (part fe : Nat) : State :=
  match s.part part with
  | none => s
  | some p =>
    if p.arg.sliced then s.putPart part { p with heldFx := p.heldFx ++ [.msix fe] } else { s with irqs := s.irqs ++ [(s.fnOf p, fe)] }

/-- A front end, by its number. -/
def State.fe (s : State) (n : Nat) : FrontEnd := s.fes.toList.getD n FrontEnd.fresh
/-- The state with a front end set. -/
def State.setFe (s : State) (n : Nat) (f : FrontEnd) : State :=
  { s with fes := Vector.ofFn (fun (i : Fin 16) => if i.val == n then f else s.fes[i.val]) }

/-- Writes bytes of host memory for a partition, held where it is time-sliced. -/
def State.hostWrite (s : State) (part a : Nat) (bs : List Byte) : State :=
  match s.part part with
  | none => s
  | some p =>
    if p.arg.sliced then s.putPart part { p with heldFx := p.heldFx ++ [.hostWrite a bs] }
    else { s with hostMem := s.hostMem.putAll a bs }

/-- A front end's write is held, where its partition is time-sliced (04 R100). -/
def State.owe (s : State) (fe : Nat) : State :=
  let f := s.fe fe
  match f.part.bind s.part with
  | some p => if p.arg.sliced then s.setFe fe { f with owes := true } else s
  | none => s

/-- The completion ring of a front end is full (R225). -/
def FrontEnd.ringFull (f : FrontEnd) : Bool := f.cidx - f.chead == BitVec.ofNat 32 (2 ^ (f.csize.toNat + 4))

/-- A front end may write an entry now. -/
def State.mayPost (s : State) (fe : Nat) (irq : Bool) : Bool :=
  let f := s.fe fe
  !f.ringFull && (match f.part.bind s.part with | some p => !p.failed && !(irq && p.fxTight) | none => false)

/-- Writes a completion entry (R225) and raises the vector where asked. -/
def State.postEntry (s : State) (fe : Nat) (seq : Word) (status : Nat) (irq : Bool) : State :=
  let f := s.fe fe
  match f.part with
  | none => s
  | some part =>
    let a := f.cbase.toNat / 16 * 16 + 16 * (f.cidx.toNat % 2 ^ (f.csize.toNat + 4))
    let s := ((s.setFe fe { f with cidx := f.cidx + 1 }).owe fe).hostWrite part a
      (leBytes 16 (seq.toNat + status * 2 ^ 32 + s.gtime.toNat * 2 ^ 64))
    if irq then s.raiseMsix part fe else s

/-! ## Jobs (03 R79) -/

/-- The data of the record of a job's end (10 R239, 23 R438). -/
def Job.endData (j : Job) : Nat :=
  match j.err with
  | some e => e.ecode.toNat + e.edet.toNat * 2 ^ 8 + e.etask.toNat * 2 ^ 16 + j.seq.toNat * 2 ^ 32 + e.eaddr.toNat * 2 ^ 64
  | none => j.seq.toNat * 2 ^ 32

/-- None of a job's tasks is queued, waiting, running or held. -/
def State.jobOver (s : State) (j : Job) : Bool := s.tasks.vals.all (fun t => t.job != j.id)

/-- The entry of a job may be written: the job is over, its release at .host waits no more, the ring has a slot. -/
def State.jobDue (s : State) (j : Job) : Bool := s.jobOver j && j.hzn.toNat ≤ s.gtime.toNat && s.mayPost j.fe j.irq

/-- A job ends: its trace record, its entry. -/
def State.endJob (s : State) (j : Job) : State :=
  let s := s.trace j.part 2 0xFF j.fe 0 j.endData
  { s.postEntry j.fe j.seq j.status.toNat j.irq with jobs := s.jobs.del j.id }

/-- The entries of the jobs that are over. -/
def State.endJobs (s : State) : State :=
  (s.jobs.vals.filter s.jobDue).foldl (fun s j => if s.jobDue j then s.endJob j else s) s

/-! ## The state of a warp at its start (02 R40, 03 R65) -/

/-- The registers of a quad at launch: uniform, the tag set in every lane; zero with its tag clear where LEN is zero. -/
def launchQuad (base len : Nat) (perm : BitVec 8) : List Reg :=
  let q := capMake base 0 0 len perm 0
  (List.range 4).map (fun k =>
    if len == 0 then Reg.zero
    else { Reg.zero with val := .uni (q.extractLsb' (32 * k) 32), tags := Mask.all })

/-- PERM of c0, c1 and c2. -/
def permC0 : BitVec 8 := permR ||| 32 ||| 64
/-- PERM of c1. -/
def permC1 : BitVec 8 := permR ||| permW ||| permAtom ||| permAsync ||| 32
/-- PERM of c2. -/
def permC2 : BitVec 8 := permC1 ||| permMma

/-- The registers of an owner warp at its start. -/
def TaskRec.startRegs (r : TaskRec) : Vector Reg 128 :=
  let qs := launchQuad r.args.toNat r.arglen.toNat permC0
    ++ (if r.harv then List.replicate 8 Reg.zero
        else launchQuad 0 (r.scr * 1024) permC1 ++ launchQuad 0 (r.shr * 1024) permC2)
  Vector.ofFn (fun (i : Fin 128) => qs.getD i.val Reg.zero)

/-- A warp as it starts, its one path at ENTRY. -/
def Task.startWarp (t : Task) (team wid : Nat) (pl : Place) (pbase pid : Nat) (now : DWord) : Warp :=
  { key := ⟨t.id, team, wid⟩, part := t.part, place := some pl, role := t.kd.role wid, nregs := t.kd.regs, wres := t.kd.wres
    plim := t.kd.plim, nback := t.kd.nback, pbase := BitVec.ofNat 57 pbase, regs := t.trec.startRegs
    preds := Vector.replicate 7 0, xflags := 0, flying := [], wspill := 0, cntCopy := 0, cntGather := 0, cntMma := 0, cntColl := 0
    hzn := 0, seen := [], exited := 0, paths := [Path.new pid Mask.all t.kd.entry now]
    defers := [], imp := none, queue := [], clock := 1, ended := false, harvest := t.trec.harv, parked := false, revs := 0
    lentMap := false }

/-- Bytes of a warp's private region (05 R104). -/
def KDesc.privBytes (k : KDesc) : Nat := (k.plim + k.nback) * 128

/-- The regions of the private pool that warps of a partition have: base and length. -/
def State.poolUsed (s : State) (part : Nat) : List (Nat × Nat) :=
  (s.warps.vals.filter (fun w => w.part == part)).map (fun w => (w.pbase.toNat, (w.plim + w.nback) * 128))

/-- The first line of a partition's private pool. -/
def Part.poolBase (p : Part) : Nat := (p.arg.pool.toNat + 127) / 128 * 128

/-- How many regions of n bytes the free parts of the pool hold. -/
def Part.poolRoom (p : Part) (used : List (Nat × Nat)) (n : Nat) : Nat :=
  let (from', k) := (sortBy (fun a b => a.1 ≤ b.1) used).foldl
    (fun (x : Nat × Nat) (a, l) => (max x.1 (a + l), x.2 + (a - x.1) / n)) (p.poolBase, 0)
  k + (p.arg.pool.toNat + p.arg.poolLen - from') / n

/-- The partition's private pool has a region for each warp of a task (05 R104). What happens where it has none the spec does
not say: the task is not placed (DESIGN CHOICE [124]). -/
def State.poolHas (s : State) (p : Part) (t : Task) : Bool :=
  t.kd.privBytes == 0 || t.trec.teams * t.trec.warps ≤ p.poolRoom (s.poolUsed p.id) t.kd.privBytes

/-- A region of n bytes of the private pool that no warp of the partition has: the lowest (DESIGN CHOICE [20]). -/
def State.poolPlace (s : State) (p : Part) (n : Nat) : Option Nat :=
  let used := s.poolUsed p.id
  let base := p.poolBase
  let cands := base :: used.map (fun (a, l) => a + l)
  let ok := fun a => base ≤ a && a + n ≤ p.arg.pool.toNat + p.arg.poolLen && used.all (fun (b, l) => b + l ≤ a || a + n ≤ b)
  (sortBy (· ≤ ·) (cands.filter ok)).head?

/-- The lowest free slot of a core, of those from lo to hi. -/
def State.freeSlotOf (s : State) (c : CoreKey) (lo hi : Nat) : Option Nat :=
  (List.range hi).find? (fun n => lo ≤ n && (s.onCore c).all (fun w => w.place.all (fun pl => pl.slot != n)))

/-- Places the warps of a starting task: team t on the t-th core, each in the lowest free slot, each with its region, of which
no other core's L1 holds a line then (05 R106). -/
def State.placeWarps (s : State) (t : Task) (lo hi : Nat) : State :=
  ((t.cores.zip (List.range t.cores.length)).map (fun (c, team) =>
    (List.range t.trec.warps).map (fun wid => (c, team, wid)))).flatten.foldl (fun s (c, team, wid) =>
      let key : CoreKey := ⟨t.cluster, c⟩
      match s.part t.part, s.freeSlotOf key lo hi with
      | some p, some slot =>
        let base := (s.poolPlace p t.kd.privBytes).getD p.arg.pool.toNat
        let (pid, s) := s.name
        let w := t.startWarp team wid ⟨key, slot⟩ base pid s.gtime
        (s.writeBack (fun x => w.hasPrivate x && x.core != key)).setWarp w
      | _, _ => s) s

/-! ## Blocking (R87, R88) -/

/-- The path stands at a blocking point whose condition does not hold. -/
def State.blockedPath (s : State) (w : Warp) (p : Path) : Bool :=
  match p.wait with
  | .join _ => !w.joinDue p.pc p.frame.isSome
  | .cross .. => !w.meetingDue p.pc p.frame.isSome
  | .sleep t => decide (s.nowAt w < t.toNat)
  | .waitmem e => (match w.entry e with | some e => !e.done | none => false)
  | .barwait .. => !s.barwaitMet w p (fun _ _ => true)
  | .ring .. => !s.ringMet w p (fun _ _ => true)
  | .tbar => !s.tbarDue w.key.task w.key.team
  | .waitcnt cls n => decide (n.toNat < w.cnt cls)
  | .evwait name target => (match s.part w.part with | some q => !q.meets name target | none => true)
  | .none => p.remote && !(w.holdsBack p).isEmpty
  | _ => false

/-- The warp is blocked: every live path is, and no lane is in a trap handler. Lanes that stand deferred while other warps
hold every frame of the core are in none (21 R415). -/
def State.blockedWarp (s : State) (w : Warp) : Bool := w.paths.all (fun p => p.frame.isNone && s.blockedPath w p)

/-- The warps of a task. -/
def State.crew (s : State) (task : Nat) : List Warp := s.warps.vals.filter (·.key.task == task)

/-- Every live warp of a crew is blocked. -/
def State.blockedCrew (s : State) (task : Nat) : Bool :=
  let ws := (s.crew task).filter (fun w => !w.ended)
  !ws.isEmpty && ws.all s.blockedWarp

/-- The path's wait is external (R87). -/
def Warp.external (w : Warp) (p : Path) : Bool :=
  match p.wait with
  | .evwait .. | .sleep _ => true
  | .waitmem e => (w.entry e).any (fun e => e.space == .glob || e.space == .chip)
  | .none => p.remote
  | _ => false

/-- An external wait whose condition holds: one of those in the wake condition (R88). -/
def State.externalMet (s : State) (w : Warp) (p : Path) : Bool :=
  w.external p && (match p.wait with
    | .evwait name target => (match s.part w.part with | some q => q.meets name target | none => false)
    | .sleep t => decide (t.toNat ≤ s.gtime.toNat)
    | .waitmem e => (w.entry e).any Entry.done
    | .none => (w.holdsBack p).isEmpty
    | _ => false)

/-- The wake condition of a crew holds. -/
def State.wakes (s : State) (task : Nat) : Bool := (s.crew task).any (fun w => w.paths.any (s.externalMet w))
/-- The crew has an external wait. -/
def State.hasExternal (s : State) (task : Nat) : Bool := (s.crew task).any (fun w => w.paths.any w.external)

/-- The changes of state of R82 that follow from the paths alone: a crew is blocked or no longer so, an eviction is
abandoned, a saved crew is resumable. -/
def State.settleTask (s : State) (t : Task) : State :=
  match t.phase with
  | .running => if s.blockedCrew t.id then s.setTask { t with phase := .blocked, blockedAt := s.gtime } else s
  | .blocked | .saving false => if s.blockedCrew t.id then s else s.setTask { t with phase := .running }
  | .evicted =>
    if t.woken || s.wakes t.id then
      let (n, s) := s.name
      (s.setTask { t with phase := .resumable, cells := [], readySeq := n, eprio := t.trec.prio, rounds := 0, woken := false }).callRound t.part
    else s
  | _ => s

/-- The tasks of the module are settled. -/
def State.settle (s : State) : State :=
  s.tasks.vals.foldl (fun s t => s.settleTask t) s

/-! ## Placement (R80, R84) -/

/-- The partition's rounds take place (R81): it is not failed, and where it is time-sliced its slice is on. -/
def Part.open (p : Part) : Bool := !p.failed && (!p.arg.sliced || p.active)

/-- The partition's turns take place: its rounds do, and no checkpoint is in progress (R98). -/
def Part.live (p : Part) : Bool := p.open && (!p.arg.sliced || p.ckBegan.isNone)

/-- The task stands on its cluster. -/
def Task.resident (t : Task) : Bool :=
  !t.trec.harv && (match t.phase with | .running | .blocked | .saving _ | .held => true | _ => false)

/-- The kernel has a matrix role. -/
def KDesc.matrix (k : KDesc) : Bool := (List.range k.warps).any (fun w => k.role w == 2)

/-- The clusters of a front end's range that its partition owns and that are present, from the one after that on which the
partition last placed a crew. -/
def State.range (s : State) (p : Part) (fe : Nat) : List Nat :=
  let f := s.fe fe
  ((List.range 32).map (fun i => (p.lastPlaced + 1 + i) % 32)).filter (fun k =>
    f.clbase.toNat ≤ k && k ≤ f.cllimit.toNat && p.clusters.getLsbD k && p.clpres.getLsbD k)

/-- What a placement needs of one of its cores: slots, SRAM, compact pool, lines. -/
structure Need where
  warps : Nat
  scr : Nat
  shr : Nat
  compact : Nat
  lines : Nat
deriving DecidableEq, Repr

/-- The needs of each team of a task: at a resumption each warp needs max(WRES, WUSE) lines. -/
def State.needOf (s : State) (t : Task) (team : Nat) : Need :=
  let lines := if t.phase == .resumable
    then (s.crew t.id).foldl (fun n w => if w.key.team == team then n + max w.wres w.wuse else n) 0
    else t.trec.warps * t.kd.wres
  { warps := t.trec.warps, scr := t.trec.scr, shr := t.trec.shr / 128, compact := t.trec.warps * t.kd.footprint, lines := lines }

/-- Bytes of the compact pool that a warp takes. -/
def Warp.compact (w : Warp) : Nat := (256 + 8 * w.nregs + 63) / 64 * 64

/-- Free owner slots of a core, with the crews of `gone` away. -/
def State.slotsFree (s : State) (gone : List Nat) (c : CoreKey) : Nat :=
  16 - ((s.onCore c).filter (fun w => !w.inHarvest && !gone.contains w.key.task)).length

/-- KiB of SRAM of a core that resident crews have. -/
def sramUsed (res : List Task) (c : CoreKey) : Nat :=
  res.foldl (fun n t => n + t.trec.shr / 128 + (if t.cores.contains c.core then t.trec.scr else 0)) 0

/-- The lines of a core that no owner warp holds, with the crews of `gone` away: what a team's lines come from (R84). Those
that harvest warps hold are freed by revocation. At a first admission too they are the 768 less max(WRES, WUSE) of each
owner warp, for these are the lines R52 says a warp holds (DEDUCED [104]). -/
def State.ownerLines (s : State) (gone : List Nat) (c : CoreKey) : Nat :=
  768 - (((s.onCore c).filter (fun w => !w.inHarvest && !gone.contains w.key.task)).map Warp.holds).sum

/-- A core has what every team of a task needs, but for its lines (R84). The compact pool of a harvest warp stays its own
when it is revoked (02 R58). -/
def State.coreFits (s : State) (gone : List Nat) (res : List Task) (n : Need) (c : CoreKey) : Bool :=
  let ws := (s.onCore c).filter (fun w => !gone.contains w.key.task)
  n.warps ≤ s.slotsFree gone c && sramUsed res c + n.shr + n.scr ≤ 192
    && (ws.map Warp.compact).sum + n.compact ≤ 16384

/-- Team t can stand on the t-th of some of the cores given, ascending, among them all the `chosen`: how many teams can
stand on those up to each core. `cores` are numbers with the lines they have, `lines` what each team needs. -/
def teamsOn (lines : List Nat) (chosen : List Nat) (cores : List (Nat × Nat)) : List Nat :=
  cores.foldl (fun (ns : List Nat) (c, free) =>
    let put := (ns.filter (fun n => match lines[n]? with | some l => l ≤ free | none => false)).map (· + 1)
    if chosen.contains c then put else ns ++ put.filter (fun n => !ns.contains n)) [0]

/-- The cores of a task's teams (R84), from cores in the order of preference: each is taken with which, and those taken
before, all the teams can stand, team t on the t-th core (DEDUCED [91]). -/
def chooseCores (lines : List Nat) (pref : List (Nat × Nat)) : Option (List Nat) :=
  let asc := sortBy (fun a b => a.1 ≤ b.1) pref
  let cs := pref.foldl (fun cs (c, _) =>
    if cs.length < lines.length && (teamsOn lines (c :: cs) asc).contains lines.length then c :: cs else cs) []
  if cs.length == lines.length then some (sortBy (· ≤ ·) cs) else none

/-- The cores a task would take on a cluster under R84, with the crews of `gone` away; none where it does not fit. -/
def State.clusterFits (s : State) (p : Part) (gone : List Nat) (t : Task) (k : Nat) : Option (List Nat) :=
  let res := s.tasks.vals.filter (fun x => x.part == p.id && x.cluster == k && x.resident && !gone.contains x.id)
  let tiles := (res.map (fun x => x.trec.tslot)).sum
  let sets := (res.filter (fun x => x.tables.isSome)).length
  let lines := (List.range t.trec.teams).map (fun n => (s.needOf t n).lines)
  let need := s.needOf t 0
  let shrOk := (List.range 128).all (fun c => sramUsed res ⟨k, c⟩ + need.shr ≤ 192)
  let cores := sortBy (fun a b => let x := s.slotsFree gone ⟨k, a⟩; let y := s.slotsFree gone ⟨k, b⟩; y < x || (x == y && a ≤ b))
    ((List.range 128).filter (fun c => s.coreFits gone res need ⟨k, c⟩))
  if tiles + t.trec.tslot ≤ 32 && (!t.kd.matrix || sets < 8) && shrOk
  then chooseCores lines (cores.map (fun c => (c, s.ownerLines gone ⟨k, c⟩))) else none

/-- The cores a task would take on a cluster: it fits there, and its warps have their private regions or find them (DESIGN
CHOICE [124]). -/
def State.fitOn (s : State) (p : Part) (gone : List Nat) (t : Task) (k : Nat) : Option (List Nat) :=
  if t.phase == .resumable || s.poolHas p t then s.clusterFits p gone t k else none

/-- The front end of a task's job. -/
def State.feOf (s : State) (t : Task) : Nat := match s.job t.job with | some j => j.fe | none => 0

/-- The clusters on which a piece of work may be placed (R80): those of the range; of a saved crew, its own (R90) where it
is one of them. -/
def State.clustersFor (s : State) (p : Part) (t : Task) : List Nat :=
  (s.range p (s.feOf t)).filter (fun k => t.phase != .resumable || k == t.cluster)

/-- The first cluster on which the work fits, of those not kept for other work, with its cores. -/
def State.findFit (s : State) (p : Part) (gone kept : List Nat) (t : Task) : Option (Nat × List Nat) :=
  ((s.clustersFor p t).filter (fun k => !kept.contains k)).findSome? (fun k => (s.fitOn p gone t k).map (fun cs => (k, cs)))

/-! ## Admission and resumption (R83, R84, R90, R96) -/

/-- A demand of an admission: harvest warps of a core are revoked where it needs the lines they hold. -/
def State.demandLines (s : State) (t : Task) (k : Nat) (cores : List Nat) : State :=
  (cores.zip (List.range cores.length)).foldl (fun s (c, team) =>
    let key : CoreKey := ⟨k, c⟩
    let free := 768 - ((s.onCore key).map Warp.holds).sum
    let need := (s.needOf t team).lines
    if s.harvestHolds key && free < need then s.revoke key false (min (need - free) (s.harvestLines key)) else s) s

/-- Work is placed on a cluster: what completed crews left there stands no longer (05 R112). -/
def State.forgetPast (s : State) (k : Nat) : State := { s with past := s.past.filter (fun p => p.task.cluster != k) }

/-- The trace record of an admission, an eviction or a resumption (10 R239). -/
def State.traceCrew (s : State) (t : Task) (kind extra : Nat) : State :=
  let slot := match (s.warp ⟨t.id, 0, 0⟩).bind (·.place) with | some pl => pl.slot | none => 0
  s.trace t.part kind t.cluster (t.cores.getD 0 0) slot
    (t.trec.taskid.toNat * 2 ^ 16 + t.admseq.toNat * 2 ^ 32 + extra * 2 ^ 96)

/-- The next admission sequence number of a partition. -/
def State.takeAdm (s : State) (part : Nat) : DWord × State :=
  match s.part part with
  | some p => (p.admNext, s.putPart part { p with admNext := p.admNext + 1 })
  | none => (0, s)

/-- The windows and slots of a task as a first admission grants them. -/
def Task.freshWindows (t : Task) : Task :=
  { t with shr := .empty, shrLen := t.trec.shr * 1024, scr := List.replicate t.trec.teams .empty, scrLen := t.trec.scr * 1024
           tile := .empty, tslot := t.trec.tslot
           tables := if t.kd.matrix then some (Vector.replicate 8 (List.replicate 272 0)) else none }

/-- A READY task is admitted on a cluster. -/
def State.admitTask (s : State) (t : Task) (k : Nat) (cores : List Nat) : State :=
  let s := (s.demandLines t k cores).forgetPast k
  let (adm, s) := s.takeAdm t.part
  let t := { t.freshWindows with phase := .running, admseq := adm, cluster := k, cores := cores, eprio := t.trec.prio, rounds := 0 }
  let s := (s.setTask t).setCluster k { s.cluster k with gated := false }
  ((s.placeWarps t 0 16).onPart t.part (fun p => { p with lastPlaced := k })).traceCrew t 3 0

/-- A warp's wide registers take lines again (R90). -/
def State.takeLines (s : State) (k : WarpKey) : State :=
  (List.range 128).foldl (fun s n =>
    match s.warp k with
    | none => s
    | some w =>
      if h : n < 128 then
        let r := w.regs[n]
        if r.val.shape == .w && !r.spl then
          let pl := w.place.getD ⟨⟨0, 0⟩, 0⟩
          let used := ((List.range n).filterMap (fun m => if h : m < 128 then
            (if w.regs[m].val.shape == .w && !w.regs[m].spl then some w.regs[m].line else none) else none))
            ++ (s.onCore pl.core |>.filter (fun x => x.key != k && !x.parked) |>.map (fun x =>
              (x.regs.toList.filter (fun r => r.val.shape == .w && !r.spl)).map (·.line))).flatten
          s.setWarp (w.setReg n { r with line := freeLine used (homeBank n pl.slot) })
        else s
      else s) s

/-- The path restarts at the blocking instruction it stood at. -/
def Path.restart (p : Path) (now : DWord) : Path := { p.stand p.pc .none now with remote := false, stall := 0 }

/-- A saved warp is placed again, its private lines written back from every other core before (05 R106). -/
def State.replace (s : State) (w : Warp) (pl : Place) : State :=
  let s := s.writeBack (fun x => w.hasPrivate x && x.core != pl.core)
  let w := { w with place := some pl, paths := w.paths.map (·.restart s.gtime)
                    queue := w.queue.filter (fun e => match e.kind with | .waitmem _ | .barwait | .ring => false | _ => true) }
  (s.setWarp w).takeLines w.key

/-- A RESUMABLE crew resumes on its cluster: each path at its PC, one whose remote load is still to return too, whose pending
write then holds back what needs it as it did (04 R90; DESIGN CHOICE [125]). -/
def State.resume (s : State) (t : Task) (cores : List Nat) : State :=
  let s := (s.demandLines t t.cluster cores).forgetPast t.cluster
  let t := { t with phase := .running, cores := cores, eprio := t.trec.prio, rounds := 0, cells := [], woken := false }
  let s := (s.setTask t).setCluster t.cluster { s.cluster t.cluster with gated := false }
  let ws := sortBy (fun (a b : Warp) => a.key.team * 16 + a.key.wid ≤ b.key.team * 16 + b.key.wid) ((s.crew t.id).filter (fun w => !w.ended))
  let s := ws.foldl (fun s w =>
    let key : CoreKey := ⟨t.cluster, cores.getD w.key.team 0⟩
    match s.freeSlotOf key 0 16 with
    | some slot => s.replace w ⟨key, slot⟩
    | none => s) s
  let s := (cores.map (fun c => (⟨t.cluster, c⟩ : CoreKey))).foldl (fun s c => if s.framesHeld c < 8 then s.frameFreed c else s) s
  (s.onPart t.part (fun p => { p with lastPlaced := t.cluster })).traceCrew t 5 0

/-! ## Successors in place (03 R77, R78, 04 R83) -/

/-- The cores of a held successor have slots, compact pool and lines for its warps, and the partition's pool their private
regions: an ended warp that has left its slot may have been followed by another crew's (DESIGN CHOICE [102]). -/
def State.roomFor (s : State) (n : Task) : Bool :=
  let need : Need := { warps := n.trec.warps, scr := 0, shr := 0, compact := n.trec.warps * n.kd.footprint, lines := 0 }
  n.cores.all (fun c =>
      s.coreFits [] [] need ⟨n.cluster, c⟩ && n.trec.warps * n.kd.wres ≤ s.ownerLines [] ⟨n.cluster, c⟩)
    && (match s.part n.part with | some p => s.poolHas p n | none => false)

/-- A held successor's warps stand in their slots, where there is room. -/
def State.takePlace (s : State) (n : Task) : State :=
  if (s.crew n.id).isEmpty && s.roomFor n then (s.demandLines n n.cluster n.cores).placeWarps n 0 16 else s

/-- A held successor starts (03 R77, 04 R83), where its warps stand in their slots. -/
def State.startHeld (s : State) (tid : Nat) : State :=
  match s.task tid with
  | none => s
  | some t =>
    let s := s.takePlace t
    if t.phase != .held || (s.crew tid).isEmpty then s
    else
      let (adm, s) := s.takeAdm t.part
      let t := { t with phase := .running, admseq := adm, cells := [] }
      (s.setTask t).traceCrew t 3 0

/-- The held successors that are runnable and had no room start where they have it now. -/
def State.startAll (s : State) (part : Nat) : State :=
  (s.tasks.vals.filter (fun t => t.part == part && t.phase == .held && t.cells.isEmpty)).foldl (fun s t => s.startHeld t.id) s

/-! ## The round (R81, R86, R89) -/

/-- The order of R86. -/
def workBefore (a b : Task) : Bool :=
  let res := fun (t : Task) => t.phase == .resumable
  if a.eprio != b.eprio then b.eprio < a.eprio
  else if res a != res b then res a
  else if res a then a.admseq.toNat ≤ b.admseq.toNat else a.readySeq ≤ b.readySeq

/-- The runnable work of a partition in its order. -/
def State.work (s : State) (part : Nat) : List Task :=
  sortBy workBefore (s.tasks.vals.filter (fun t => t.part == part && !t.trec.harv && (t.phase == .ready || t.phase == .resumable)))

/-- A saved crew of the job waits to resume. -/
def State.jobResumes (s : State) (t : Task) : Bool :=
  t.phase == .ready && s.tasks.vals.any (fun x => x.job == t.job && x.phase == .resumable)

/-- The clusters kept for work at EPRIO 8 that was not placed: those that hold it under R84 with every crew of lower EPRIO
away, those of harvest among them. -/
def State.keptFor (s : State) (p : Part) (t : Task) : List Nat :=
  let lower := (s.tasks.vals.filter (fun x => x.part == p.id && x.eprio < 8)).map (·.id)
  if t.eprio < 8 then [] else (s.clustersFor p t).filter (fun k => (s.clusterFits p lower t k).isSome)

/-- Work considered and not placed. -/
def Task.passedOver (t : Task) : Task :=
  if t.rounds + 1 == 8 then { t with rounds := 0, eprio := min 8 (t.eprio + 1) } else { t with rounds := t.rounds + 1 }

/-- One piece of work is considered: it is placed, or passed over. Gives the clusters kept and the work not placed. -/
def State.consider (r : State × List (Nat × Nat) × List Nat) (tid : Nat) : State × List (Nat × Nat) × List Nat :=
  let (s, kept, left) := r
  match s.task tid with
  | none => r
  | some t =>
    match s.part t.part with
    | none => r
    | some p =>
      let ks := (kept.filter (fun (e, _) => t.eprio < e)).map (·.2)
      let fit := if s.jobResumes t then none else s.findFit p [] ks t
      match fit with
      | some (k, cores) => (if t.phase == .resumable then s.resume t cores else s.admitTask t k cores, kept, left)
      | none => (s.setTask t.passedOver, kept ++ (s.keptFor p t).map (fun k => (t.eprio, k)), left ++ [tid])

/-- The crews that may be evicted for work on a cluster (R89), in the order in which they are. -/
def State.evictable (s : State) (p : Part) (t : Task) (k : Nat) : List Task :=
  sortBy (fun a b => a.eprio < b.eprio || (a.eprio == b.eprio && b.admseq.toNat ≤ a.admseq.toNat))
    (s.tasks.vals.filter (fun x => x.part == p.id && x.cluster == k && x.phase == .blocked && !x.trec.harv && x.err.isNone
      && x.eprio ≤ t.eprio && decide (x.blockedAt.toNat + 5000 ≤ s.gtime.toNat) && s.hasExternal x.id && !s.wakes x.id))

/-- The crews whose eviction makes room on a cluster: the fewest from the front of the order, less those not needed. -/
def State.victimsOn (s : State) (p : Part) (t : Task) (gone : List Nat) (k : Nat) : Option (List Nat) :=
  let cs := (s.evictable p t k).map (·.id)
  match (List.range (cs.length + 1)).find? (fun n => (s.fitOn p (gone ++ cs.take n) t k).isSome) with
  | none => none
  | some n =>
    some ((cs.take n).reverse.foldl (fun v x =>
      let v' := v.filter (· != x)
      if (s.fitOn p (gone ++ v') t k).isSome then v' else v) (cs.take n))

/-- A crew is chosen for eviction: its trace record carries this round (10 R239, 19 R403). -/
def State.choose (s : State) (tid : Nat) : State :=
  match s.task tid with
  | none => s
  | some t => (s.setTask { t with phase := .saving false }).traceCrew t 4 (if s.hasExternal tid then 1 else 0)

/-- Evictions begin for work that was not placed, where no crew already leaving makes room for it. -/
def State.evictFor (s : State) (tid : Nat) : State :=
  match s.task tid with
  | none => s
  | some t =>
    match s.part t.part with
    | none => s
    | some p =>
      let gone := (s.tasks.vals.filter (fun x => match x.phase with | .saving _ => true | _ => false)).map (·.id)
      if s.jobResumes t || (s.findFit p gone [] t).isSome then s
      else match (s.clustersFor p t).findSome? (s.victimsOn p t gone) with
      | some v => v.foldl (fun s x => s.choose x) s
      | none => s

/-- SCHEDULING_ROUND -/
def execSchedulingRound (part : Nat) (s : State) : Host.Outcome State Fault Refusal :=
  .next (match s.part part with
    | none => s
    | some p =>
      if !p.open || p.roundsDue == 0 then s
      else
        let s := (s.putPart part { p with roundsDue := p.roundsDue - 1 }).settle.startAll part
        let (s, _, left) := (s.work part).foldl (fun r t => State.consider r t.id) (s, [], [])
        left.foldl (fun s t => s.evictFor t) s)

/-! ## Eviction (R89) -/

/-- A core without an owner warp forgets which issued last (R93). -/
def State.forgetOwner (s : State) (c : CoreKey) : State :=
  if (s.onCore c).any (fun w => !w.inHarvest) then s
  else s.setCore c { s.core c with last := none, lastYld := false, consec := 0 }

/-- The range that a crew lends on its cores goes: a demand (R96). -/
def State.withdraw (s : State) (t : Task) (cores : List CoreKey) : State :=
  cores.foldl (fun s c =>
    if (s.core c).lent.any (fun l => l.task == t.id) then s.revoke c true 0 else s) s

/-- The range a crew lends has returned: no harvest access to it is outstanding. -/
def State.rangesBack (s : State) (t : Task) (cores : List CoreKey) : Bool :=
  cores.all (fun c => !((s.core c).lent.any (fun l => l.task == t.id) && s.rangeBusy c))

/-- Step 3 of a save may begin: the crew's engine operations are complete, and of its accesses only remote loads and the
words it watches are outstanding. -/
def State.saveReady (s : State) (t : Task) : Bool :=
  let ws := s.crew t.id
  s.ops.all (fun o => o.w.task != t.id)
    && ws.all (fun w => w.cntCopy + w.cntGather + w.cntMma + w.cntColl == 0 && w.queue.all (fun e => s.remoteLoad w e
      || (match e.kind with | .waitmem _ | .barwait | .ring => true | _ => false)))
    && s.rangesBack t (t.cores.map (fun c => ⟨t.cluster, c⟩))

/-- The larger of two horizons. -/
def maxHzn (a b : DWord) : DWord := if a.toNat < b.toNat then b else a

/-- The save is complete: the crew's private lines are written back (05 R106), it gives up what it holds of the cluster, and is
EVICTED; where a path was released while
it was saved, it is RESUMABLE at once (R89). What its ended warps still held they leave (03 R76). -/
def State.evict (s : State) (t : Task) : State :=
  let cores : List CoreKey := t.cores.map (fun c => ⟨t.cluster, c⟩)
  let woke := !s.blockedCrew t.id
  let hzn := ((s.crew t.id).filter (fun w => w.ended && w.place.isSome)).foldl (fun h w => maxHzn h w.hzn) t.hzn
  let s := s.withdraw t cores
  let s := s.writeBack (fun x => (s.crew t.id).any (·.hasPrivate x))
  let waits := ((s.crew t.id).map (fun w => w.paths.filterMap (fun p => match p.wait with
    | .evwait n target => some (n, target)
    | _ => none))).flatten
  let cells := s.takeCells t.part waits
  let s := { s with warps := s.warps.map (fun (x : WarpKey × Warp) => if x.1.task == t.id then (x.1, { x.2.landAll with place := none }) else x) }
  let s := cores.foldl (fun s c => s.forgetOwner c) s
  let t := { t with phase := .evicted, cells := cells, eprio := t.trec.prio, rounds := 0, hzn := hzn, woken := woke }
  ((s.setTask t).settleTask t).callRound t.part

/-- EVICTION_SAVE_COMPLETE: the first time step 3 begins, or the eviction is abandoned; the second the save is complete. -/
def execEvictionSaveComplete (task : Nat) (s : State) : Host.Outcome State Fault Refusal :=
  .next (match s.task task with
    | none => s
    | some t =>
      match t.phase with
      | .saving true => s.evict t
      | .saving false =>
        if !s.blockedCrew task then s.setTask { t with phase := .running }
        else if s.saveReady t then s.setTask { t with phase := .saving true }
        else s
      | _ => s)

/-! ## Completion of a crew (03 R76-R79, 26 R451) -/

/-- A task is gone with its warps. What its memory and registers held stands until work is placed on its cluster (05
R112, 18 R398). -/
def State.dropTask (s : State) (t : Task) : State :=
  { s with tasks := s.tasks.del t.id, warps := s.warps.filter (fun x => x.1.task != t.id)
           past := { task := t, warps := s.crew t.id } :: s.past }

/-- The record a crew names for its successor: that of the first warp to end, and whether another was named (03 R78, 23 R439). -/
def Task.successor (t : Task) : Option (DWord × Bool) :=
  match t.succs with
  | [] => none
  | a :: rest => some (a.addr, rest.any (·.addr != a.addr))

/-- A successor takes its predecessor's place (03 R77, R78). -/
def TaskRec.inherits (r : TaskRec) (k : KDesc) (t : Task) : Bool :=
  r.teams ≤ t.trec.teams && r.scr ≤ t.trec.scr && r.shr ≤ t.trec.shr && r.tslot ≤ t.trec.tslot && !r.harv
    && r.warps ≤ t.trec.warps && r.warps * k.footprint ≤ t.trec.warps * t.kd.footprint
    && r.warps * k.wres ≤ t.trec.warps * t.kd.wres && (!k.matrix || t.tables.isSome)

/-- The successor of a crew that has completed: in place, or queued to the dispatcher. -/
def State.succeed (s : State) (t : Task) (r : TaskRec) (k : KDesc) : State :=
  if !r.inherits k t then (s.dropTask t).queueTask t.part t.job t.ctx r k
  else
    let (id, s) := s.name
    let clip := fun (st : Store) (len : Nat) => st.clear len (2 ^ 40)
    let n := { Task.queued id t.part t.job t.ctx r k with
      phase := .held, cluster := t.cluster, cores := t.cores.take r.teams, shr := clip t.shr (r.shr * 1024), shrLen := r.shr * 1024
      scr := (t.scr.take r.teams).map (fun st => clip st (r.scr * 1024)), scrLen := r.scr * 1024
      tile := clip t.tile (r.tslot * 2 ^ 18), tslot := r.tslot, tables := t.tables }
    let cells := s.takeCells t.part (s.unmet t.part r)
    let n := { n with cells := cells }
    let s := (({ s.dropTask t with past := s.past }).setTask n).takePlace n
    if cells.isEmpty then s.startHeld id else s

/-- A crew error found as a crew completes. -/
def State.refuse (s : State) (t : Task) (ecode edet : Nat) (eaddr : DWord) : State :=
  s.crewError t { ecode := BitVec.ofNat 8 ecode, edet := BitVec.ofNat 8 edet, etask := t.trec.taskid, eaddr := eaddr }

/-- The completion record goes to the cluster's event queue. -/
def State.signalEnd (s : State) (t : Task) : State :=
  (s.postEvent t.cluster ⟨t.part, t.trec.devt, t.trec.dinc.setWidth 32, some t.trec.taskid⟩).getD s

/-- Every warp of a crew has left its slot: it completes. -/
def State.completeCrew (s : State) (t : Task) : State :=
  let cores : List CoreKey := t.cores.map (fun c => ⟨t.cluster, c⟩)
  let s := s.withdraw t cores
  let s := s.onJob t.job (fun j => { j with hzn := maxHzn j.hzn t.hzn })
  let s :=
    if t.err.isSome then s.dropTask t
    else match t.successor with
    | none => (s.signalEnd t).dropTask t
    | some (a, conflict) =>
      if t.trec.harv then (s.refuse t 0x47 4 a).dropTask t
      else if conflict then (s.refuse t 0x46 0 a).dropTask t
      else match s.checkRecord t.part t.ctx false a.toNat with
      | (s, .error e) => (s.refuse t 0x47 e.check a).dropTask t
      | (s, .ok (r, k)) => (s.signalEnd t).succeed t r k
  (s.callRound t.part).endJobs

/-- The completion of a crew waits no more: its signal's release at .device is over and its record finds a place. -/
def State.mayComplete (s : State) (t : Task) (hzn : DWord) : Bool :=
  t.err.isSome || (hzn.toNat ≤ s.now (dieOf t.cluster) && (s.cluster t.cluster).events.length < 256)

/-- Every warp of a team has ended. -/
def State.teamOver (s : State) (task team : Nat) : Bool := (s.crew task).all (fun w => w.key.team != team || w.ended)

/-- A range is lent: its team has not completed, nor does it leave (17 R387). -/
def State.lending (s : State) (l : Lent) : Bool :=
  match s.task l.task with
  | some t => t.err.isNone && (match t.phase with | .saving true => false | _ => true) && !s.teamOver l.task l.team
  | none => false

/-- An ended warp may leave: its counters are zero, its accesses performed and acknowledged, and the range of a team that is
over is back (14 R318, 04 R96). -/
def State.mayLeave (s : State) (w : Warp) : Bool :=
  match s.task w.key.task with
  | none => true
  | some t =>
    let hzn := maxHzn t.hzn w.hzn
    let last := (s.crew t.id).all (fun x => x.key == w.key || x.place.isNone)
    w.ended && w.place.isSome && w.queue.all Entry.idle && s.ops.all (fun o => o.w != w.key)
      && w.cntCopy + w.cntGather + w.cntMma + w.cntColl == 0
      && (match w.place with
        | some pl => !((s.core pl.core).lentBy w.key && s.teamOver w.key.task w.key.team) || !s.rangeBusy pl.core
        | none => true)
      && (!last || s.mayComplete t hzn)

/-- WARP_LEAVE_SLOT -/
def execWarpLeaveSlot (k : WarpKey) (s : State) : Host.Outcome State Fault Refusal :=
  .next (match s.warp k with
    | none => s
    | some w =>
      if !s.mayLeave w then s
      else
        let pl := s.placeOf k
        let s := s.onTask k.task (fun t => { t with hzn := maxHzn t.hzn w.hzn })
        let s := (s.setWarp { w with place := none }).forgetOwner pl.core
        let s := if (s.core pl.core).lentBy k && s.teamOver k.task k.team then s.revoke pl.core true 0 else s
        match s.task k.task with
        | none => s
        | some t => if (s.crew t.id).all (fun w => w.ended && w.place.isNone) then s.completeCrew t else s)

/-! ## Event records (R91, R92) -/

/-- A count of a partition changes: the cells whose target is now met go, and what has none left is runnable. -/
def State.addEvent (s : State) (part : Nat) (name : BitVec 16) (amount : Nat) : State :=
  match s.part part with
  | none => s
  | some p =>
    if name == 0 then s
    else
      let n := min ((p.event name).toNat + amount) 0xFFFFFFFF
      let s := s.putPart part { p with events := p.events.set name (BitVec.ofNat 32 n) }
      (s.tasks.vals.filter (fun t => t.part == part)).foldl (fun s t =>
        let cells := t.cells.filter (fun (m, target, _) => !(m == name && target.toNat ≤ n))
        if cells == t.cells then s
        else
          let s := s.setTask { t with cells := cells }
          match t.phase with
          | .waiting => if cells.isEmpty then s.makeReady t.id else s
          | .held => if cells.isEmpty then (s.startHeld t.id).callRound part else s
          | .evicted => s.settleTask { t with cells := cells }
          | _ => s) s

/-- EVENT_RECORD_APPLY -/
def execEventRecordApply (cluster : BitVec 5) (s : State) : Host.Outcome State Fault Refusal :=
  .next (let x := s.cluster cluster.toNat
    match x.events with
    | [] => s
    | r :: rest => (s.setCluster cluster.toNat { x with events := rest }).addEvent r.part r.name r.amount.toNat)

/-! ## Run fetch (02 R22, R24, 05 R124, 22 R420-R422) -/

/-- A fault of a fetch: its cause, DETAIL and address. -/
structure FetchFault where
  code : Nat
  detail : Nat
  addr : Nat
deriving DecidableEq, Repr

/-- Keeps a line in an instruction cache of 128 lines, the oldest leaving first. -/
def Core.keepLine (c : Core) (l : ICLine) : Core := { c with icache := (l :: c.icache).take 128 }

/-- Reads bytes of an instruction line through the core's instruction cache. A line with uncorrectable data is not kept, and
what it has of good bytes is read. -/
def State.fetchPiece (s : State) (w : Warp) (priv : Bool) (va n : Nat) : State × Except (Nat × Nat) (List Byte) :=
  let core := s.homeCore w
  let ctx := s.ctxOf w
  let line := va / 128 * 128
  match s.locate w.part ctx line 128 .exec priv with
  | (s, .error e) => (s, .error (e.1, if e.1 == 0x14 then 4 else e.2))
  | (s, .ok x) =>
    match (s.core core).icache.find? (fun l => l.part == w.part && l.ctx == ctx && l.line == va / 128) with
    | some l => (s, .ok ((l.bytes.drop (va % 128)).take n))
    | none =>
      let s := s.touchLoc w.part ctx x false 0
      match s.locRead w.part line 128 4 x with
      | .ok (bytes, _) =>
        (s.setCore core ((s.core core).keepLine ⟨w.part, ctx, va / 128, bytes⟩), .ok ((bytes.drop (va % 128)).take n))
      | .error _ =>
        match s.locRead w.part va n 4 { x with dev := x.dev + va % 128 } with
        | .ok (bytes, _) => (s, .ok bytes)
        | .error _ => (s, .error (0x14, 4))

/-- Fetches the word at an address. -/
def State.fetchWord (s : State) (w : Warp) (priv : Bool) (va : Nat) : State × Except FetchFault Insn :=
  let n := min 12 (128 - va % 128)
  match s.fetchPiece w priv va n with
  | (s, .error (c, d)) => (s, .error ⟨c, d, va⟩)
  | (s, .ok bs) =>
    if n == 12 then (s, .ok (Insn.ofBytes bs))
    else match s.fetchPiece w priv ((va + n) % 2 ^ 57) (12 - n) with
    | (s, .error (c, d)) => (s, .error ⟨c, d, va⟩)
    | (s, .ok more) => (s, .ok (Insn.ofBytes (bs ++ more)))

/-- Fetches a run of at most n words. -/
def State.fetchRun (s : State) (w : Warp) (priv : Bool) : Nat → Nat → List Insn → State × Except FetchFault (List Insn)
  | 0, va, _ => (s, .error ⟨0x03, 0, (va + 2 ^ 57 - 12) % 2 ^ 57⟩)
  | n + 1, va, run =>
    match s.fetchWord w priv va with
    | (s, .error e) => (s, .error e)
    | (s, .ok x) => if endsRun x then (s, .ok (run ++ [x])) else State.fetchRun s w priv n ((va + 12) % 2 ^ 57) (run ++ [x])

/-- Two paths are one: they stand at one PC and neither is in the middle of a run (02 R21). One that still waits after YIELD
stays apart until its wait ends (DESIGN CHOICE [123]). -/
def Path.meets (p q : Path) : Bool :=
  p.pid != q.pid && p.pc == q.pc && p.wait == .none && q.wait == .none && p.frame.isSome == q.frame.isSome
    && p.retry.isNone && q.retry.isNone && !(p.begun && !p.run.isEmpty) && !(q.begun && !q.run.isEmpty)

/-- The one path of two: it keeps a run already fetched. -/
def Path.joined (p q : Path) : Path :=
  let r := if p.run.isEmpty then q else p
  { p with lns := p.lns ||| q.lns, run := r.run, begun := false, runId := r.runId, behind := (p.behind ++ q.behind).eraseDups
           holds := [], stall := max p.stall q.stall }

/-- Paths of a warp that share a PC become one. -/
def Warp.merge (w : Warp) : Warp :=
  { w with paths := w.paths.foldl (fun ps q =>
      match ps.find? (fun p => p.meets q) with
      | some p => ps.map (fun x => if x.pid == p.pid then p.joined q else x)
      | none => ps ++ [q]) [] }

/-- The core's turn is the warp's. -/
def State.hasTurn (s : State) (w : Warp) : Bool := w.place.any (fun pl => (s.core pl.core).turn.any (fun t => t.w == w.key))

/-- The path may fetch a run (21 R415): while released groups are still to execute again, only the first of them. -/
def Warp.mayFetch (w : Warp) (p : Path) : Bool :=
  match p.retry with
  | some n => w.paths.all (fun q => match q.retry with | some m => n ≤ m | none => true)
  | none => w.paths.all (fun q => q.retry.isNone)

/-- A run is to be fetched for the path. A PC whose bits [1:0] are not zero is never fetched (13 R263), which only the ENTRY of
a kernel descriptor can make: such a warp stays where it is (DESIGN CHOICE [110]). -/
def State.fetchDue (s : State) (w : Warp) (p : Path) : Bool :=
  w.place.isSome && !w.ended && !w.parked && p.wait == .none && p.run.isEmpty && p.pc.toNat % 4 == 0 && w.mayFetch p && !s.hasTurn w
    && (match s.task w.key.task with
      | some t => (match t.phase with | .running | .blocked | .saving false => true | _ => false)
      | none => false)
    && (match s.part w.part with | some q => q.live | none => false)

/-- RUN_FETCH -/
def execRunFetch (k : WarpKey) (pid : Nat) (s : State) : Host.Outcome State Fault Refusal :=
  .next (match s.warp k with
    | none => s
    | some w =>
      match w.path pid with
      | none => s
      | some p =>
        if !s.fetchDue w p then s
        else
          let w := w.merge
          let s := s.putWarp k w
          match w.paths.find? (fun q => q.pc == p.pc && q.lns &&& p.lns == p.lns) with
          | none => s
          | some p =>
            if !p.run.isEmpty then s
            else match s.fetchRun w p.privileged 24 p.pc.toNat [] with
            | (s, .error e) =>
              let c : Cause := { code := BitVec.ofNat 8 e.code, detail := BitVec.ofNat 8 e.detail, xaddr := BitVec.ofNat 64 e.addr
                                 xstat := 0, imp := false }
              s.park k p.pid p.pc (p.pc.setWidth 64) (allLanes (p.lns &&& ~~~w.exited) c) false
            | (s, .ok run) =>
              let (n, s) := s.name
              s.onPath k p.pid (fun p => { p with run := run, begun := false, runId := n, holds := [], since := s.gtime }))

/-! ## Turns (R93, R94, 02 R25, 21 R410, R415) -/

/-- The path is ready: it is not blocked, its run is fetched, the STALL of its last word has passed before cycle `limit`,
nothing that the run names is pending (02 R24), and it is not held by an access that is tried again. -/
def State.readyPath (s : State) (w : Warp) (limit : Nat) (p : Path) : Bool :=
  p.wait == .none && !p.run.isEmpty && decide (p.stall < limit) && (p.begun || (w.holdsBack p).isEmpty) && !s.gatedPath w p

/-- The order in which ready paths take a turn: a handler first, then the more populous, then the lower lane. -/
def Path.before (p q : Path) : Bool :=
  let low := fun (x : Path) => match x.lns.lowest with | some l => l.val | none => 32
  if p.frame.isSome != q.frame.isSome then p.frame.isSome
  else if p.lns.count != q.lns.count then q.lns.count < p.lns.count
  else low p ≤ low q

/-- The turn paths of a warp: a released deferred group alone, in its order, before any other path (21 R415). -/
def State.turnPaths (s : State) (w : Warp) (limit : Nat) : Option (Nat × Option Nat) :=
  let groups := sortBy (fun (a b : Path) => a.retry.getD 0 ≤ b.retry.getD 0) (w.paths.filter (fun p => p.retry.isSome))
  match groups with
  | g :: _ => if s.readyPath w limit g then some (g.pid, none) else none
  | [] =>
    match sortBy Path.before (w.paths.filter (s.readyPath w limit)) with
    | [] => none
    | p :: rest => some (p.pid, rest.head?.map (·.pid))

/-- Issue has stopped, in every partition: an emergency (26 R455), heat of a die (26 R456). -/
def State.issueOff (s : State) : Bool := s.emergency == .stopped || s.hot

/-- A warp has a ready path. -/
def State.readyWarp (s : State) (w : Warp) : Bool :=
  w.place.isSome && !w.ended && !w.parked
    && (match s.task w.key.task with
      | some t => (match t.phase with | .running | .blocked | .saving false => true | _ => false)
      | none => false)
    && (match s.part w.part with | some p => p.live | none => false)
    && (s.turnPaths w.merge (s.slotEnd w)).isSome

/-- A warp may take a turn of its core: it is ready, and issue goes on. Where issue has stopped, a warp stays ready: the
order of issue is what it was (01 R14). -/
def State.mayTurn (s : State) (w : Warp) : Bool :=
  !s.issueOff && s.readyWarp w

/-- The slot of a placed warp. -/
def Warp.slot (w : Warp) : Nat := match w.place with | some pl => pl.slot | none => 0

/-- The warp that takes the next turn of a core (R93). -/
def State.nextTurn (s : State) (c : CoreKey) : Option Warp :=
  let x := s.core c
  let ready := (s.onCore c).filter s.mayTurn
  let owners := sortBy (fun (a b : Warp) => a.slot ≤ b.slot) (ready.filter (fun w => w.slot < 16))
  let again := owners.find? (fun w => x.last == some (w.key, w.slot) && !x.lastYld && 0 < x.consec && x.consec < 4)
  let from' := match x.last with | some (_, n) => n + 1 | none => 0
  let round := owners.filter (fun w => from' ≤ w.slot) ++ owners.filter (fun w => w.slot < from')
  let yielded := fun (w : Warp) => x.lastYld && x.last.any (fun l => l.1 == w.key)
  let harvest := fun n => ready.find? (fun w => w.slot == n)
  match again with
  | some w => some w
  | none =>
    match round.filter (fun w => !yielded w) ++ round.filter yielded with
    | w :: _ => some w
    | [] => if x.lastHarv == some 16 then (harvest 17).or (harvest 16) else (harvest 16).or (harvest 17)

/-- An owner warp of a core is ready. -/
def State.ownerReady (s : State) (c : CoreKey) : Bool := (s.onCore c).any (fun w => w.slot < 16 && s.readyWarp w)

/-- A harvest warp's turn ends as an owner warp becomes ready (R94). -/
def State.cutHarvest (s : State) (c : CoreKey) : State :=
  let x := s.core c
  match x.turn with
  | none => s
  | some t =>
    match s.warp t.w with
    | none => s.setCore c { x with turn := none }
    | some w =>
      if w.inHarvest && s.ownerReady c then s.setCore c (x.endTurn t w.slot)
      else if t.over (some w) then (s.setCore c (x.endTurn t w.slot)).onWarp t.w (·.afterTurn t)
      else s

/-- A warp that takes a turn runs: an eviction of its crew that has not begun to save is abandoned (R89). -/
def Task.turned (t : Task) : Task := match t.phase with | .blocked | .saving false => { t with phase := .running } | _ => t

/-- TURN_ARBITRATION -/
def execTurnArbitration (cluster : BitVec 5) (core : BitVec 7) (s : State) : Host.Outcome State Fault Refusal :=
  .next (let c : CoreKey := ⟨cluster.toNat, core.toNat⟩
    let s := s.cutHarvest c
    let x := s.core c
    if x.turn.isSome then s
    else match s.nextTurn c with
    | none => s
    | some w =>
      let w := w.merge
      match s.turnPaths w (s.slotEnd w) with
      | none => s
      | some (prim, sec) =>
        let w := { w with paths := w.paths.map (fun p => if p.pid == prim || sec == some p.pid then { p with remote := false } else p) }
        ((s.setWarp w).onTask w.key.task Task.turned).setCore c { x with turn := some ⟨w.key, prim, sec, false⟩ })

end Sys2Proof.Machine
end

