-- ==== Sys2Proof/Machine/Harvest.lean ====
section
/-! DEFINITION. Harvest teams: placement, resumption and revocation by a core's Tiller (04 R95-R97, 03 R68). -/

namespace Sys2Proof.Machine

/-- The registers c1 of a harvest warp at a placement or resumption: the range lent on its core, or zero with its tag
clear. -/
def lentQuad (l : Option Lent) : List Reg :=
  match l with
  | some l => launchQuad 0 l.len (permR ||| permW ||| permAtom)
  | none => List.replicate 4 Reg.zero

/-- A harvest warp meets the range its core lends. -/
def Warp.mapLent (w : Warp) (l : Option Lent) : Warp :=
  let q := lentQuad l
  { w with lentMap := l.isSome
           regs := Vector.ofFn (fun (i : Fin 128) => if 4 ≤ i.val && i.val < 8 then q.getD (i.val - 4) Reg.zero else w.regs[i.val]) }

/-- No owner warp of the core has had a ready path for 64 consecutive cycles. -/
def State.idleLong (s : State) (c : CoreKey) : Bool :=
  let x := s.core c
  !s.ownerReady c && x.turn.all (fun t => match s.warp t.w with | some w => w.inHarvest | none => true)
    && decide (x.idleSince + cycles64 ≤ s.cyclesOf c.cluster)

/-- The harvest warps on a core. -/
def State.harvesters (s : State) (c : CoreKey) : List Warp := (s.onCore c).filter Warp.inHarvest

/-- Shared free lines of a core. -/
def State.linesFree (s : State) (c : CoreKey) : Nat := 768 - ((s.onCore c).map Warp.holds).sum

/-- A partition that holds a cluster has its turns. -/
def State.ownerLive (s : State) (cluster : Nat) : Bool := s.parts.vals.any (fun p => p.clusters.getLsbD cluster && p.live)

/-- A partition's turns take place on a cluster: its own do, and those of the cluster's owner (R97). -/
def State.liveOn (s : State) (part cluster : Nat) : Bool :=
  (match s.part part with | some p => p.live && (p.clusters.getLsbD cluster || s.ownerLive cluster) | none => false)

/-- Harvest work may issue on the core: the partition's turns take place. -/
def State.tillerOn (s : State) (part : Nat) (c : CoreKey) : Bool := s.liveOn part c.cluster && s.idleLong c

/-- The range that a core lends to a partition's harvest warps: one of the partition's own (R97). -/
def State.lentTo (s : State) (c : CoreKey) (part : Nat) : Option Lent :=
  (s.core c).lent.filter (fun l => s.lending l && (match s.task l.task with | some t => t.part == part | none => false))

/-- A partition's harvest teams may stand on a cluster: it lies in their front end's range; or the cluster is another
partition's and the hypervisor's cross-partition option is set (R97; that each team of the queue may then stand there is
DESIGN CHOICE [71]). -/
def State.harvestOn (s : State) (p : Part) (t : Task) (cluster : Nat) : Bool :=
  (s.range p (s.feOf t)).contains cluster
    || (s.crossHarvest && s.clPres.getLsbD cluster && !p.clusters.getLsbD cluster && s.ownerLive cluster)

/-- The parked team of a core may resume: the core has as many shared free lines as its registers hold. -/
def State.resumeDue (s : State) (c : CoreKey) : Bool :=
  let hs := s.harvesters c
  !hs.isEmpty && hs.all Warp.parked && hs.all (fun w => s.tillerOn w.part c) && (hs.map Warp.wuse).sum ≤ s.linesFree c

/-- The compact pool of a core can hold a team's footprints. -/
def State.compactFits (s : State) (c : CoreKey) (t : Task) : Bool :=
  ((s.onCore c).map Warp.compact).sum + t.trec.warps * t.kd.footprint ≤ 16384

/-- The harvest team to be placed on a core: of a partition the first queued that may stand on the cluster, where it fits and
its warps find their private regions (DESIGN CHOICE [124]). The partitions that hold the cluster come first. -/
def State.harvestNext (s : State) (c : CoreKey) : Option Task :=
  if !(s.harvesters c).isEmpty then none
  else
    let next := fun (p : Part) =>
      if !s.tillerOn p.id c then none
      else ((p.harvestQ.filterMap s.task).find? (fun t => s.harvestOn p t c.cluster)).filter (fun t =>
        s.compactFits c t && s.poolHas p t)
    let own := fun (p : Part) => p.clusters.getLsbD c.cluster
    (s.parts.vals.filter own ++ s.parts.vals.filter (fun p => !own p)).findSome? next

/-- HARVEST_PLACEMENT: the parked team resumes, or the first of the queue is placed. -/
def execHarvestPlacement (cluster : BitVec 5) (core : BitVec 7) (s : State) : Host.Outcome State Fault Refusal :=
  .next (let c : CoreKey := ⟨cluster.toNat, core.toNat⟩
    if s.resumeDue c then
      (s.harvesters c).foldl (fun s w => (s.setWarp { w.mapLent (s.lentTo c w.part) with parked := false }).takeLines w.key) s
    else match s.harvestNext c with
    | none => s
    | some t =>
      let t := { t with phase := .running, cluster := c.cluster, cores := [c.core], eprio := t.trec.prio, rounds := 0 }
      let s := (s.setTask t).onPart t.part (fun p => { p with harvestQ := p.harvestQ.filter (· != t.id) })
      let s := s.placeWarps t 16 18
      (s.crew t.id).foldl (fun s w => s.setWarp (w.mapLent (s.lentTo c t.part))) s)

/-- A demand on the harvest warps of a core stands (R96): the turns of their partition or of the cluster's have stopped (R97,
R98), or the team that lends has completed or leaves. -/
def State.demandDue (s : State) (c : CoreKey) : Bool :=
  s.harvestRuns c &&
    ((s.harvesters c).any (fun w => !s.liveOn w.part c.cluster)
      || (s.core c).lent.any (fun l => !s.lending l))

/-- HARVEST_REVOCATION -/
def execHarvestRevocation (cluster : BitVec 5) (core : BitVec 7) (s : State) : Host.Outcome State Fault Refusal :=
  .next (let c : CoreKey := ⟨cluster.toNat, core.toNat⟩
    if s.demandDue c then s.revoke c false 0 else s)

end Sys2Proof.Machine
end

