-- ==== Sys2Proof/Machine/Checkpoints.lean ====
section
/-! DEFINITION. Checkpoints, their failure, and rollback between tenants (04 R97-R101, 26 R453, R454). -/

namespace Sys2Proof.Machine

/-- The clusters a partition owns. -/
def Part.owns (p : Part) : List Nat := (List.range 32).filter p.clusters.getLsbD

/-- The front ends of a partition. -/
def State.fesOf (s : State) (part : Nat) : List Nat := (List.range 16).filter (fun n => (s.fe n).part == some part)

/-- What a checkpoint keeps (R98 step 3). -/
def State.snapshot (s : State) (p : Part) : Image where
  warps := s.warps.vals.filter (fun w => w.part == p.id)
  tasks := s.tasks.vals.filter (fun t => t.part == p.id)
  jobs := s.jobs.vals.filter (fun j => j.part == p.id)
  ops := s.ops.filter (fun o => o.part == p.id)
  contribs := s.contribs.filter (fun c => c.part == p.id)
  events := p.events
  admNext := p.admNext
  lastPlaced := p.lastPlaced
  harvestQ := p.harvestQ
  pins := (s.l2.filter (fun l => l.part == p.id)).flatMap (fun l => l.pins.map (fun c => (l.line, c)))
  clusterEvents := p.owns.map (fun k => (k, (s.cluster k).events.filter (fun r => r.part == p.id)))
  past := s.past.filter (fun x => x.task.part == p.id)
  colls := p.colls
  apertures := p.apertures
  xtables := p.xtables
  lents := s.cores.filterMap (fun (c, x) => match x.lent with
    | some l => if (match s.task l.task with | some t => t.part == p.id | none => false) then some (c, l) else none
    | none => none)
  heads := (s.fesOf p.id).map (fun n => (n, (s.fe n).head, (s.fe n).cidx))
  epoch := p.epoch

/-! ## Start (R98 step 1) -/

/-- A checkpoint is due: the interval has ended, or the buffer is three quarters full. -/
def State.checkpointDue (s : State) (p : Part) : Bool :=
  p.arg.sliced && p.active && !p.failed && p.ckBegan.isNone
    && (p.ckNext.toNat ≤ s.gtime.toNat || 3 * 2 ^ 18 ≤ 4 * p.heldBytes)

/-- CHECKPOINT_START: no further turn begins in the partition. -/
def execCheckpointStart (part : Nat) (s : State) : Host.Outcome State Fault Refusal :=
  .next (match s.part part with
    | some p => if s.checkpointDue p then s.putPart part { p with ckBegan := some s.gtime } else s
    | none => s)

/-! ## Commit (R98 steps 2 to 5, R100) -/

/-- An entry waits for the commit (06 R144), or for what a program of the partition has still to do. -/
def State.entryWaits (s : State) (p : Part) (w : Warp) (e : Entry) : Bool :=
  e.idle || (outward e.effScope && e.waits && !e.relDone && p.holdsWrite) || s.heldOf w e.id

/-- Stores of a warp are in flight: entries that are to be performed, none before them waiting. -/
def State.storesFlow (s : State) (p : Part) (w : Warp) : Bool :=
  (w.queue.takeWhile (fun e => !s.entryWaits p w e)).any (fun e => !e.isLoad)

/-- The operation goes on without the commit. -/
def State.opFlows (s : State) (p : Part) (o : EngOp) : Bool :=
  let waits := match s.warp o.w with | some w => w.queue.any (fun e => o.earlier.contains e.id) | none => false
  match o.phase with
  | .queued => !waits
  | .worked .. => !(p.holdsOp o.id || (outward o.scope && p.holdsWrite))
  | .collecting .. => false

/-- Steps 1 and 2 are over: no turn is in progress, no harvest warp runs, the engines and the stores are done. -/
def State.quiet (s : State) (p : Part) : Bool :=
  let ws := s.warps.vals.filter (fun w => w.part == p.id)
  ws.all (fun w => !s.hasTurn w && !(w.inHarvest && !w.parked) && !s.storesFlow p w)
    && s.warps.vals.all (fun w => w.part == p.id || !w.inHarvest || w.parked || !w.place.any (fun pl => p.owns.contains pl.core.cluster))
    && s.ops.all (fun o => o.part != p.id || !s.opFlows p o
      || s.ops.any (fun x => x.w == o.w && x.id < o.id && !s.opFlows p x))

/-- Step 3 meets an uncorrectable error in the state it reads (R453): in a line of a window or of tile memory that has changed
since the last checkpoint, or in what it reads beside them. -/
def State.checkpointBad (s : State) (p : Part) : Bool :=
  s.upsets.any (fun u => !u.correctable && u.area == .image p.id) || p.undo.any (fun u => match u.area with
    | .tile _ => s.upsets.any (fun x => !x.correctable && x.area == u.area && x.unit / 4 == u.line)
    | .shr _ | .scr .. => (s.area u.area).poisoned (128 * u.line) 128
    | _ => false)

/-- More than 30 us have passed since a checkpoint began. -/
def State.checkpointLate (s : State) (p : Part) : Bool :=
  match p.ckBegan with
  | some t => decide (t.toNat + 30000 < s.gtime.toNat)
  | none => false

/-- A held write to a peer is made: its acknowledgement carries its G (06 R144). -/
def State.peerRelease (s : State) (id a : Nat) (bs : List Byte) (tag : Bool) : State :=
  let (s, g) := s.homeAccept a bs none s.gtime.toNat
  let s := { s with hbm := s.hbm.write a bs }
  let s := if tag then s.setHbmTag a true else s
  let s := { s with warps := s.warps.map (fun (x : WarpKey × Warp) => (x.1, { x.2 with queue := x.2.queue.map (fun (e : Entry) =>
    if e.id == id then e.mapAcc (fun c => if c.pa == a then { c with g := joinHzn c.g g } else c) else e) })) }
  { s with ops := s.ops.map (fun o => if o.id == id then (match o.phase with
      | .worked h err => { o with phase := .worked (joinHzn h g) err }
      | .collecting h card n => { o with phase := .collecting (joinHzn h g) card n }
      | .queued => o) else o) }

/-- The front ends of a partition have no write among the held effects. -/
def State.feSettle (s : State) (part : Nat) : State :=
  (s.fesOf part).foldl (fun s n => s.setFe n { s.fe n with owes := false }) s

/-- The held effects are released, in the order in which they were made; what watches a word sees each value written. -/
def State.releaseHeld (s : State) (p : Part) : State :=
  (p.heldFx.foldl (fun s h => match h with
    | .hostWrite a bs => { s with hostMem := s.hostMem.putAll a bs }
    | .peerWrite id a bs tag => (s.peerRelease id a bs tag).watch
    | .send _ => s
    | .msix fe => { s with irqs := s.irqs ++ [(s.fnOf p, fe)] }) (s.setPart { p with heldFx := [] })).feSettle p.id

/-- The dirty bit of each register of a partition is clear (R99). -/
def State.cleanRegs (s : State) (part : Nat) : State :=
  { s with warps := s.warps.map (fun (x : WarpKey × Warp) =>
    if x.2.part == part then (x.1, { x.2 with regs := x.2.regs.map (fun r => { r with dirty := false }) }) else x) }

/-- A checkpoint may commit. -/
def State.commitDue (s : State) (p : Part) : Bool :=
  p.ckBegan.isSome && !p.failed && s.quiet p && !s.checkpointBad p && !s.checkpointLate p

/-- The interrupts that a partition's front ends could not post are posted: the commit makes room (R100). -/
def State.postIrqs (s : State) (part : Nat) : State :=
  (s.fesOf part).foldl (fun s n =>
    let f := s.fe n
    if f.irqDue then (s.setFe n { f with irqDue := false }).raiseMsix part n else s) s

/-- A checkpoint's steps do not count against the slice: it ends later by the time they took (R98). -/
def State.extendSlice (s : State) (q : Part) : Part :=
  match q.ckBegan with
  | some began => { q with sliceEnd := q.sliceEnd + (s.gtime - began) }
  | none => q

/-- The instant at which the next interval ends. -/
def State.nextInterval (s : State) (p : Part) : DWord := s.gtime + BitVec.ofNat 64 (p.arg.interval * 1000)

/-- CHECKPOINT_COMMIT: with step 2 the partition's private lines are written back (05 R106). -/
def execCheckpointCommit (part : Nat) (s : State) : Host.Outcome State Fault Refusal :=
  .next (match s.part part with
    | none => s
    | some p =>
      match p.ckBegan with
      | none => s
      | some began =>
        if !s.commitDue p then s
        else
          let s := s.writeBack (fun x => x.part == part)
          let p := (s.part part).getD p
          let s := ((s.trace part 8 0xFF 0 0 began.toNat).releaseHeld p).cleanRegs part
          let s := s.onPart part (fun q => { s.extendSlice q with
            undo := [], ckBegan := none, ckFails := 0, ckNext := s.nextInterval p })
          let s := s.onPart part (fun q => { q with image := some (s.snapshot q), epoch := q.epoch + 1 })
          (s.postIrqs part).endJobs.watch)

/-! ## Rollback (R101, 26 R453, R454) -/

/-- A logged entry of an index takes its old contents (08 R182). -/
def State.undoIndex (s : State) (k : Nat) (u : Undo) : State :=
  let x := s.cluster k
  s.setCluster k { x with widx := x.widx.set u.line (BitVec.ofNat 64 (leNat u.bytes)) }

/-- A logged line takes its old contents, with its GWCT set to the present; an entry that is lost poisons its line. -/
def State.undoBytes (s : State) (lost : List Nat) (u : Undo) : State :=
  let st := s.area u.area
  let a := 128 * u.line
  let st := { st with
    mem := st.mem.putAll a u.bytes
    tags := u.tags.foldl (fun t g => setAdd g t) (st.tags.filter (fun g => g / 8 != u.line))
    poison := u.poison.foldl (fun t g => setAdd g t) (st.poison.filter (fun g => g / 4 != u.line)) }
  let gone := (u.area == .hbm && lost.contains u.line) || u.bad
  let st := if gone then [0, 1, 2, 3].foldl (fun (st : Store) i => st.addPoison (a + 32 * i)) st else st
  let st := if u.area == .hbm then st else st.stamp a 128 s.gtime.toNat
  let s := (s.setArea u.area st).renew u.area (fun x => a ≤ x && x < a + 128)
  if u.area == .hbm then
    let li := s.lineInfo u.line
    { s with lines := s.lines.set u.line { li with gwct := s.gtime, sw := none, own := [], seq := li.seq + 1 }
             copies := s.copies.filter (fun c => c.line != u.line) }
  else s

/-- An entry of the undo log is applied. -/
def State.undoLine (s : State) (lost : List Nat) (u : Undo) : State :=
  match u.area with
  | .idx k => s.undoIndex k u
  | _ => s.undoBytes lost u

/-- A line that a checkpoint has pinned for a context is in its L2 again (05 R126). -/
def State.fetchPinned (s : State) (part : Nat) (pin : Nat × BitVec 6) : State :=
  if s.l2.any (fun l => l.line == pin.1) then s
  else
    let s := if isPeer (128 * pin.1) then { s with l2 := ⟨pin.1, part, pin.2, false, [], false, 0⟩ :: s.l2 }
      else s.l2Touch part pin.2 pin.1 false 0
    { s with l2 := s.l2.map (fun l => if l.line == pin.1 then { l with pins := [pin.2] } else l) }

/-- The pins of a partition are those of a checkpoint: of the lines in an L2 first, then of those that have left it. -/
def State.restorePins (s : State) (part : Nat) (pins : List (Nat × BitVec 6)) : State :=
  let held := fun (line : Nat) => (pins.filter (fun x => x.1 == line)).map (·.2)
  let s := { s with l2 := s.l2.map (fun (l : L2Line) => if l.part == part then { l with pins := held l.line } else l) }
  let s := pins.foldl (fun s x => s.fetchPinned part x) s
  { s with l2 := s.l2.map (fun (l : L2Line) => if l.part == part then { l with pins := held l.line } else l) }

/-- A crew of a partition ends at once with an error (26 R452, R453); one whose warps have all ended, but not left, completes
with it and has no successor. -/
def State.endWith (s : State) (t : Task) (ecode edet addr : Nat) : State :=
  let live := (s.crew t.id).filter (fun w => !w.ended)
  if t.trec.harv then live.foldl (fun s w => s.endCrew w.key ecode edet (BitVec.ofNat 64 addr)) s
  else match live with
  | w :: _ => s.endCrew w.key ecode edet (BitVec.ofNat 64 addr)
  | [] =>
    if t.resident then s.crewError t { ecode := BitVec.ofNat 8 ecode, edet := BitVec.ofNat 8 edet, etask := t.trec.taskid
                                       eaddr := BitVec.ofNat 64 addr }
    else s

/-- A crew ends with an error; one that is saved completes at once. -/
def State.endTask (s : State) (t : Task) (ecode edet addr : Nat) : State :=
  let s := s.endWith t ecode edet addr
  match s.task t.id with
  | none => s
  | some t => if t.err.isSome && (s.crew t.id).all (fun w => w.ended && w.place.isNone) then s.completeCrew t else s

/-- The crews of a partition that belong on a cluster that is no longer present end (26 R458): no work stands there (01
R17, R18). -/
def State.endAbsent (s : State) (part : Nat) : State :=
  (s.tasks.vals.filter (fun t => t.part == part && !s.clPres.getLsbD t.cluster && (match t.phase with
      | .waiting | .ready | .queued => false
      | _ => true))).foldl (fun s t => s.endTask t 0x4C 1 t.cluster) s

/-- The partition's crews, jobs and operations leave the module: what its checkpoint keeps is all there is of them. Of a
core's turns no record is kept: after a rollback, and as a slice begins, no owner warp has issued on it (DESIGN CHOICE
[111]). -/
def State.unload (s : State) (p : Part) : State :=
  let mine := fun (k : Nat) => s.tasks.vals.any (fun t => t.id == k && t.part == p.id)
  { s with
    warps := s.warps.filter (fun (x : WarpKey × Warp) => x.2.part != p.id)
    tasks := s.tasks.filter (fun (x : Nat × Task) => x.2.part != p.id)
    jobs := s.jobs.filter (fun (x : Nat × Job) => x.2.part != p.id)
    ops := s.ops.filter (fun o => o.part != p.id)
    contribs := s.contribs.filter (fun c => c.part != p.id)
    past := s.past.filter (fun x => x.task.part != p.id)
    cores := s.cores.map (fun (x : CoreKey × Core) =>
      if p.owns.contains x.1.cluster then (x.1, { x.2 with
        turn := none, last := none, lastYld := false, consec := 0
        lent := if x.2.lent.any (fun l => mine l.task) then none else x.2.lent })
      else x) }

/-- A warp as a checkpoint gives it back: its lanes at a JOIN or a cross-lane instruction have lost their arrival (14 R303). -/
def Warp.restored (w : Warp) (now : DWord) : Warp := { w with paths := w.paths.map (·.unarrive now) }

/-- Every register, record and queue of a partition takes its value from a checkpoint, and a scheduling round is called
(DESIGN CHOICE [122]). A front end that has stopped since
then stays stopped, with QEN and QERR as they are, though its interrupt is discarded (DESIGN CHOICE [112]). -/
def State.restoreImage (s : State) (p : Part) (i : Image) : State :=
  let s := s.unload p
  let s := { s with
    warps := s.warps ++ i.warps.map (fun (w : Warp) => (w.key, w.restored s.gtime))
    tasks := s.tasks ++ i.tasks.map (fun (t : Task) => (t.id, t))
    jobs := s.jobs ++ i.jobs.map (fun (j : Job) => (j.id, j))
    ops := s.ops ++ i.ops
    contribs := s.contribs ++ i.contribs
    past := s.past ++ i.past }
  let s := i.lents.foldl (fun s (c, l) => s.setLent c (some l)) s
  let s := p.owns.foldl (fun s k =>
    let x := s.cluster k
    let saved := match i.clusterEvents.find? (fun e => e.1 == k) with | some (_, l) => l | none => []
    s.setCluster k { x with events := x.events.filter (fun r => r.part != p.id) ++ saved }) s
  let s := i.heads.foldl (fun s (n, h, c) =>
    let f := s.fe n
    if f.part == some p.id then s.setFe n { f with head := h, cidx := c } else s) s
  let s := s.onPart p.id (fun p => { p with
    events := i.events, admNext := i.admNext, lastPlaced := i.lastPlaced, harvestQ := i.harvestQ, colls := i.colls
    apertures := i.apertures, xtables := i.xtables, roundsDue := max 1 p.roundsDue })
  (s.restorePins p.id i.pins).endAbsent p.id

/-- The windows and tile memory of a line restored are stamped with the present (R101 step 3); a line whose entry was lost is
poisoned (26 R454). -/
def State.stampUndone (s : State) (u : Undo) : State :=
  let a := 128 * u.line
  let lose := fun (st : Store) => if u.bad then [0, 1, 2, 3].foldl (fun (st : Store) i => st.addPoison (a + 32 * i)) st else st
  match u.area with
  | .shr _ | .scr _ _ | .tile _ => s.setArea u.area (lose ((s.area u.area).stamp a 128 s.gtime.toNat))
  | _ => s

/-- The tasks of a checkpoint as they now stand: their windows keep the GWCT that a rollback has given them. -/
def State.imageTasks (s : State) (i : Image) : Image := { i with tasks := i.tasks.map (fun t =>
  match s.task t.id with
  | some x => { t with shr := x.shr, scr := x.scr, tile := x.tile }
  | none => t) }

/-- ROLLBACK (R101 steps 1 to 5): the undo logs are applied, newest first; the rest comes from the last checkpoint; the held
effects of the epoch are discarded. -/
def State.rollback (s : State) (part : Nat) (lost : List Nat) : State :=
  match s.part part with
  | none => s
  | some p =>
    let s := p.undo.foldl (fun s u => s.undoLine lost u) { s with l1 := s.l1.filter (fun x => x.part != part) }
    let s := match p.image with | some i => s.restoreImage p i | none => s
    let s := p.undo.foldl (fun s u => s.stampUndone u) s
    let s := s.onPart part (fun q => { q with image := q.image.map s.imageTasks })
    let restored := match p.image with | some i => i.epoch | none => 0
    let s := s.trace part 9 0xFF 0 0 (p.epoch.toNat + restored.toNat * 2 ^ 32)
    ((s.onPart part (fun q => { q with undo := [], heldFx := [], ckBegan := none, epoch := q.epoch + 1 })).feSettle part).postIrqs part

/-- The partition is failed (R453, R454): every job ends with status 4, every running crew with ECODE 0x4B. -/
def State.failPart (s : State) (part edet : Nat) : State :=
  let s := (s.tasks.vals.filter (fun t => t.part == part)).foldl (fun s t => s.endWith t 0x4B edet 0) s
  let s := (s.jobs.vals.filter (fun j => j.part == part)).foldl (fun s j =>
    let j := { (s.job j.id).getD j with status := 4 }
    { (s.setJob j).trace part 2 0xFF j.fe 0 j.endData with jobs := s.jobs.del j.id }) s
  (s.onPart part (fun p => { p with failed := true, active := false, heldFx := [], ckBegan := none })).feSettle part

/-- A checkpoint fails: an uncorrectable error in what step 3 reads, or 30 us have passed. -/
def State.failureDue (s : State) (p : Part) : Bool :=
  p.ckBegan.isSome && !p.failed && (s.checkpointLate p || (s.quiet p && s.checkpointBad p))

/-- CHECKPOINT_FAILURE -/
def execCheckpointFailure (part : Nat) (s : State) : Host.Outcome State Fault Refusal :=
  .next (match s.part part with
    | none => s
    | some p =>
      if !s.failureDue p then s
      else
        let late := s.extendSlice p
        let s := (s.rollback part []).onPart part (fun q => { q with
          ckFails := p.ckFails + 1, ckNext := s.nextInterval p, sliceEnd := late.sliceEnd })
        let s := { s with upsets := s.upsets.filter (fun u => u.area != Area.image part) }
        (if p.undo.any Undo.bad then s.failPart part 2 else if p.ckFails + 1 < 3 then s else s.failPart part 1).watch)

/-! ## Slices (R101) -/

/-- A partition may receive a slice: it is time-sliced and not failed, and no partition with a slice holds a cluster of
its own. -/
def State.mayStartSlice (s : State) (q : Part) : Bool :=
  q.arg.sliced && !q.failed && !q.active
    && s.parts.vals.all (fun p => p.id == q.id || !p.arg.sliced || !p.active || p.clusters &&& q.clusters == 0)

/-- A partition's slice starts, with a scheduling round: what became runnable while it was away is considered (DESIGN CHOICE
[122]). -/
def State.startSlice (s : State) (part : Nat) : State :=
  match s.part part with
  | none => s
  | some q =>
    if !s.mayStartSlice q then s
    else
      let s := match q.image with | some i => s.restoreImage q i | none => s
      s.onPart part (fun q => { q with active := true, sliceEnd := s.gtime + BitVec.ofNat 64 (q.arg.slice * 1000), ckNext := s.nextInterval q
                                       roundsDue := max 1 q.roundsDue })

/-- The end of a slice is a demand on the harvest warps of the clusters it had (R96, R97). -/
def State.endHarvest (s : State) (p : Part) : State :=
  let cores := (s.warps.vals.filter (fun w => w.inHarvest && !w.parked)).filterMap (fun w => w.place.map (·.core))
  (cores.eraseDups.filter (fun c => p.owns.contains c.cluster)).foldl (fun s c => s.revoke c false 0) s

/-- The slice of a partition is over. A checkpoint in progress does not count against it (R98). -/
def State.sliceOver (s : State) (p : Part) : Bool :=
  p.arg.sliced && p.active && decide (p.sliceEnd.toNat ≤ (p.ckBegan.getD s.gtime).toNat)

/-- SLICE_END_ROLLBACK -/
def execSliceEndRollback (part : Nat) (nextPart : Option Nat) (lost : List Nat) (s : State) : Host.Outcome State Fault Refusal :=
  .next (match s.part part with
    | none => s
    | some p =>
      let lost := lost.filter (fun l => p.undo.any (fun u => u.area == .hbm && u.line == l))
      let s :=
        if !s.sliceOver p then s
        else
          let s := ((s.endHarvest p).rollback part lost).onPart part (fun q => { q with active := false })
          (if lost.isEmpty && p.undo.all (fun u => !u.bad) then s.unload p else s.failPart part 2).watch
      match nextPart with
      | some q => s.startSlice q
      | none => s)

end Sys2Proof.Machine
end

