-- ==== Sys2Proof/Machine/FrontEnds.lean ====
section
/-! DEFINITION. The front ends: their registers, the commands they read and the entries they write (10 R220-R225, 09 R217). -/

namespace Sys2Proof.Machine

/-! ## Reading a command (R221, R222) -/

/-- A command as its 64 bytes give it. -/
structure Cmd where
  op : Nat
  irq : Bool
  seq : Word
  arg0 : Nat
  arg1 : Nat
  capv : CapBits
  clear : Bool
deriving DecidableEq, Repr

/-- A command from the number its bytes are. -/
def Cmd.of (x : Nat) : Cmd where
  op := field x 0 8
  irq := field x 8 1 == 1
  seq := BitVec.ofNat 32 (field x 32 32)
  arg0 := field x 64 64
  arg1 := field x 128 64
  capv := BitVec.ofNat 128 (field x 256 128)
  clear := field x 9 23 == 0 && field x 384 128 == 0

/-- Commands in a queue. -/
def FrontEnd.size (f : FrontEnd) : Nat := 2 ^ (f.qsize.toNat + 4)

/-- Bytes of host memory as a partition sees them: its own held writes at once (04 R100). -/
def State.hostRead (s : State) (p : Part) (a n : Nat) : List Byte :=
  (((p.heldFx.foldl (fun m h => match h with | .hostWrite x bs => m.putAll x bs | _ => m) s.hostMem).bytes a n))

/-- The next command of a front end, where it may read one: the queue is on and not empty, what the last write to TAIL
acquired is visible, an entry could be written, and a time-sliced partition has its slice (DESIGN CHOICE [21]). -/
def State.nextCmd (s : State) (fe : Nat) : Option (Nat × Part × Cmd) :=
  let f := s.fe fe
  match f.part with
  | none => none
  | some part =>
    match s.part part with
    | none => none
    | some p =>
      if !f.qen || f.tail == f.head || f.size < (f.tail - f.head).toNat || !p.live || f.ringFull || s.gtime.toNat < f.after.toNat then none
      else
        let a := f.qbase.toNat / 64 * 64 + 64 * (f.head.toNat % f.size)
        let c := Cmd.of (leNat (s.hostRead p a 64))
        if s.mayPost fe c.irq then some (part, p, c) else none

/-- What came of a command: its entry with a status now, none yet, or it is not over and is read again. -/
inductive Did where
  | status (n : Nat)
  | later
  | again
deriving DecidableEq, Repr

/-- The command is read: HEAD moves on, and its entry is written. -/
def State.closeCmd (s : State) (fe : Nat) (c : Cmd) (d : Did) : State :=
  match d with
  | .again => s
  | .later => let f := s.fe fe; s.setFe fe { f with head := f.head + 1 }
  | .status n => let f := s.fe fe; (s.setFe fe { f with head := f.head + 1 }).postEntry fe c.seq n c.irq

/-- A front end reads its next command, where its code is one of `ops`; an illegal one completes with status 1. -/
def State.command (s : State) (fe : BitVec 4) (ops : Nat → Bool) (body : State → Part → Cmd → State × Did) :
    Host.Outcome State Fault Refusal :=
  .next (match s.nextCmd fe.toNat with
    | none => s
    | some (_, p, c) =>
      if !ops c.op then s
      else if !c.clear then s.closeCmd fe.toNat c (.status 1)
      else
        let (t, d) := body s p c
        (t.closeCmd fe.toNat c d).watch)

/-- FE_NOP; and a code that is no command, which completes with status 1. -/
def execFeNop (fe : BitVec 4) (s : State) : Host.Outcome State Fault Refusal :=
  s.command fe (fun n => n == 0 || 7 < n) (fun s _ c => (s, .status (if c.op == 0 then 0 else 1)))

/-- The context of a front end, by its values. -/
def State.feCtx (s : State) (fe : Nat) (p : Part) : Option Context := p.ctxs.find (s.fe fe).ctx

/-- LAUNCH (R222, 23 R441): every record is checked before any task is queued. -/
def execLaunch (fe : BitVec 4) (s : State) : Host.Outcome State Fault Refusal :=
  s.command fe (· == 1) (fun s p c =>
    let n := c.arg1 % 2 ^ 13
    let f := s.fe fe.toNat
    if n == 0 || 4096 < n || c.arg1 / 2 ^ 13 != 0 || c.arg0 % 64 != 0 then (s, .status 1)
    else if (s.feCtx fe.toNat p).all (fun x => x.root == 0) then (s, .status 3)
    else match s.checkRecords p.id f.ctx false c.arg0 n with
    | (s, .error (r, _)) => (s, .status (if r.untranslated then 3 else 1))
    | (s, .ok rs) =>
      let (id, s) := s.name
      let s := s.setJob { id := id, part := p.id, fe := fe.toNat, ctx := f.ctx, seq := c.seq, irq := c.irq, status := 0, err := none
                          hzn := 0 }
      let s := s.trace p.id 1 0xFF fe.toNat 0 c.seq.toNat
      (rs.foldl (fun s (r, k) => s.queueTask p.id id f.ctx r k) s, .later))

/-! ## GRANT (R223) -/

/-- The leaf that maps an address of a context: where it begins, its size, U and W. -/
def State.leafOf (s : State) (p : Part) (ctx : BitVec 6) (va : Nat) : Option (Nat × Nat × Bool × Bool) :=
  match p.ctxs.find ctx with
  | none => none
  | some c =>
    match s.walkFrom p va 4 c.root.toNat [] [] with
    | .found _ _ base size (.page _ _ u w _) _ => some (base, size, u, w)
    | _ => none

/-- Every page from va on, up to hi, is mapped with U, and with W where asked. -/
def State.mappedTo (s : State) (p : Part) (ctx : BitVec 6) (hi : Nat) (w : Bool) : Nat → Nat → Bool
  | 0, va => hi ≤ va
  | n + 1, va =>
    if hi ≤ va then true
    else match s.leafOf p ctx va with
    | some (base, size, u, wr) => u && (wr || !w) && State.mappedTo s p ctx hi w n (base + size)
    | none => false

/-- GRANT accepts a capability. -/
def State.grantable (s : State) (p : Part) (ctx : BitVec 6) (q : CapBits) : Bool :=
  let lo := capBase q
  let hi := lo + capLen q
  capGlobal q && !capSeal q && hi ≤ 2 ^ 57
    && s.mappedTo p ctx hi ((capPerm q &&& (permW ||| permAtom)) != 0) (capLen q / 2 ^ 16 + 2) lo

/-- GRANT: its target goes by the page tables, whatever aperture holds its address (DESIGN CHOICE [121]). -/
def execGrant (fe : BitVec 4) (s : State) : Host.Outcome State Fault Refusal :=
  s.command fe (· == 2) (fun s p c =>
    let ctx := (s.fe fe.toNat).ctx
    if c.arg0 % 16 != 0 then (s, .status 1)
    else if 2 ^ 57 ≤ c.arg0 then (s, .status 3)
    else match s.leafOf p ctx c.arg0 with
    | some (_, _, true, true) =>
      if !s.grantable p ctx c.capv then (s, .status 2)
      else match s.translate p.id ctx c.arg0 .write false with
      | (s, .error _) => (s, .status 3)
      | (s, .ok dev) =>
        if isPeer dev && p.arg.sliced then
          ((s.onPart p.id (fun p => { p with heldFx := p.heldFx ++ [.peerWrite 0 dev (leBytes 16 c.capv.toNat) true] })).owe fe.toNat, .status 0)
        else
          let s := s.l2Touch p.id ctx (dev / 128) true 0
          let (s, g) := s.homeStore p.id dev (leBytes 16 c.capv.toNat) none (s.homeTime p (dev / 128))
          let f := s.fe fe.toNat
          ((s.setFe fe.toNat { f with hzn := joinHzn f.hzn g }).setHbmTag dev true, .status 0)
    | _ => (s, .status 3))

/-! ## The other commands -/

/-- The release at .host of a front end is over (06 R139, R144): its own writes are visible, and none of them is held. -/
def State.feReleased (s : State) (fe : Nat) (p : Part) : Bool :=
  let f := s.fe fe
  !f.owes && (match releaseTime .host false f.hzn.toNat (s.fskew p) with
    | some t => decide (t ≤ s.gtime.toNat)
    | none => true)

/-- EVSIG of the host, as a release at .host: not over while an earlier write of the front end is not visible. -/
def execFeEvsig (fe : BitVec 4) (s : State) : Host.Outcome State Fault Refusal :=
  s.command fe (· == 3) (fun s p c =>
    if c.arg0 % 2 ^ 16 == 0 then (s, .status 1)
    else if !s.feReleased fe.toNat p then (s, .again)
    else (s.addEvent p.id (BitVec.ofNat 16 c.arg0) (c.arg1 % 2 ^ 32), .status 0))

/-- EVRESET (R224) -/
def execEvreset (fe : BitVec 4) (s : State) : Host.Outcome State Fault Refusal :=
  s.command fe (· == 4) (fun s p c =>
    (s.onPart p.id (fun p => { p with events := p.events.set (BitVec.ofNat 16 c.arg0) 0 }), .status 0))

/-- CNTREAD (05 R127) -/
def execCntread (fe : BitVec 4) (s : State) : Host.Outcome State Fault Refusal :=
  s.command fe (· == 5) (fun s p c =>
    let (f, w) := match s.feCtx fe.toNat p with | some x => (x.fills.toNat, x.wbacks.toNat) | none => (0, 0)
    ((s.owe fe.toNat).hostWrite p.id c.arg0 (leBytes 8 f ++ leBytes 8 w), .status 0))

/-- DRAIN: not over while a job launched on the front end is not. -/
def execDrain (fe : BitVec 4) (s : State) : Host.Outcome State Fault Refusal :=
  s.command fe (· == 6) (fun s _ _ =>
    (s, if s.jobs.vals.any (fun j => j.fe == fe.toNat) then .again else .status 0))

/-- XTLOAD -/
def execXtload (fe : BitVec 4) (s : State) : Host.Outcome State Fault Refusal :=
  s.command fe (· == 7) (fun s p c =>
    if c.arg1 / 8 != 0 || c.arg0 % 16 != 0 then (s, .status 1)
    else match s.readVirtual p.id (s.fe fe.toNat).ctx false c.arg0 272 with
    | (s, .error _) => (s, .status 3)
    | (s, .ok bs) => (s.onPart p.id (fun p => { p with xtables := p.xtables.set (BitVec.ofNat 3 c.arg1) bs }), .status 0))

/-! ## Registers with behaviour of their own (R218, R219, R221, R225) -/

/-- A function is there on its link: a VF only on the one on which it is enabled (R218). -/
def State.presents (s : State) : Fn → Bool
  | .pf _ => true
  | .vf l n => s.vfLink.getLsbD n.toNat == l

/-- A function's BAR0 holds the block of a front end (R219). -/
def State.ownsBlock (s : State) (fn : Fn) (fe : Nat) : Bool :=
  match fn with
  | .pf _ => true
  | .vf _ n => s.presents fn && (match (s.fe fe).part.bind s.part with | some p => p.arg.vfs.contains n | none => false)

/-- A write of a function to a front end's block: that to a block it does not own is ignored. -/
def State.inBlock (s : State) (fn : Fn) (fe : BitVec 4) (f : State → State) : Host.Outcome State Fault Refusal :=
  .next (if s.ownsBlock fn fe.toNat then f s else s)

/-- The front end stops: QEN clear, QERR set, its vector raised; among held effects that are at their limit, once the
commit has made room (04 R100). -/
def State.stopFe (s : State) (fe : Nat) : State :=
  let f := s.fe fe
  let s := s.setFe fe { f with qen := false, qerr := true }
  match f.part with
  | some part =>
    if (s.part part).any Part.fxTight then s.setFe fe { s.fe fe with irqDue := true } else s.raiseMsix part fe
  | none => { s with irqs := s.irqs ++ [(.pf false, fe)] }

/-- CFQT is written: an acquire of what the host has written to its partition's memory. -/
def State.writeTail (s : State) (fe : Nat) (v : Word) : State :=
  let f := s.fe fe
  let g := match f.part.bind s.part with | some p => p.hostG | none => 0
  let s := s.setFe fe { f with tail := v, after := g }
  if f.qen && f.size < (v - f.head).toNat then s.stopFe fe else s

/-- TAIL_WRITE -/
def execTailWrite (fe : FnBlock) (v : Word) (s : State) : Host.Outcome State Fault Refusal :=
  s.inBlock fe.fn fe.fe (fun s => s.writeTail fe.fe.toNat v)

/-- A checkpoint no longer keeps the place of a queue that begins afresh [21]. -/
def State.forgetHead (s : State) (fe : Nat) : State :=
  match (s.fe fe).part with
  | none => s
  | some p => s.onPart p (fun p => { p with image := p.image.map (fun i => { i with heads := i.heads.filter (fun h => h.1 != fe) }) })

/-- CFQS is written. -/
def State.writeQen (s : State) (fe : Nat) (v : Word) : State :=
  let f := s.fe fe
  let q := v.extractLsb' 12 4
  if v.getLsbD 0 && !f.qen then
    let s := (s.setFe fe { f with qsize := q, qen := true, qerr := false, head := 0, tail := 0 }).forgetHead fe
    if 12 ≤ q.toNat then s.stopFe fe else s
  else
    let s := s.setFe fe { f with qsize := q, qen := v.getLsbD 0 }
    if v.getLsbD 0 && 12 ≤ q.toNat then s.stopFe fe else s

/-- QEN_WRITE -/
def execQenWrite (fe : FnBlock) (v : Word) (s : State) : Host.Outcome State Fault Refusal :=
  s.inBlock fe.fn fe.fe (fun s => s.writeQen fe.fe.toNat v)

/-- CFCH is written: slots of the completion ring are free, and entries that waited are written. -/
def State.writeChead (s : State) (fe : Nat) (v : Word) : State := (s.setFe fe { s.fe fe with chead := v }).endJobs

/-- CHEAD_WRITE -/
def execCheadWrite (fe : FnBlock) (v : Word) (s : State) : Host.Outcome State Fault Refusal :=
  s.inBlock fe.fn fe.fe (fun s => s.writeChead fe.fe.toNat v)

end Sys2Proof.Machine
end

