-- ==== Sys2Proof/Machine/Ecdsa.lean ====
section
/-! DEFINITION. ECDSA with SHA-384 over brainpoolP384r1 (RFC 5639), as VERIFY checks it (10 R228)
and as the device identity signs a report (10 R229). -/

namespace Sys2Proof.Machine

/-- The prime of the curve's field. -/
def curveP : Nat := 0x8CB91E82A3386D280F5D6F7E50E641DF152F7109ED5456B412B1DA197FB71123ACD3A729901D1A71874700133107EC53
/-- The coefficient of x. -/
def curveA : Nat := 0x7BC382C63D8C150C3C72080ACE05AFA0C2BEA28E4FB22787139165EFBA91F90F8AA5814A503AD4EB04A8C7DD22CE2826
/-- The constant term. -/
def curveB : Nat := 0x04A8C7DD22CE28268B39B55416F0447C2FB77DE107DCD2A62E880EA53EEB62D57CB4390295DBC9943AB78696FA504C11
/-- The order of the base point, a prime. -/
def curveQ : Nat := 0x8CB91E82A3386D280F5D6F7E50E641DF152F7109ED5456B31F166E6CAC0425A7CF3AB6AF6B7FC3103B883202E9046565

/-- A point of the curve: none is the one at infinity. -/
abbrev Point := Option (Nat × Nat)

/-- The base point. -/
def curveG : Point := some
  (0x1D1C64F068CF45FFA2A63A81B7C13F6B8847A3E77EF14FE3DB7FCAFE0CBD10E8E826E03436D646AAEF87B2E247D4AF1E,
   0x8ABE1D7520F9C2A45CB1EB8E95CFD55262B70B29FEEC5864E19C054FF99129280E4646217791811142820341263C5315)

/-- b to the e-th modulo m, of e the lowest bits of the number given. -/
def powMod (m : Nat) : Nat → Nat → Nat → Nat
  | 0, _, _ => 1
  | n + 1, b, e =>
    let r := powMod m n (b * b % m) (e / 2)
    if e % 2 == 1 then b * r % m else r

/-- The inverse modulo a prime of 384 bits. -/
def invMod (m a : Nat) : Nat := powMod m 384 (a % m) (m - 2)

/-- The pair solves the equation of the curve. -/
def onCurve (x y : Nat) : Bool := x < curveP && y < curveP && y * y % curveP == (x * x * x + curveA * x + curveB) % curveP

/-- The sum of two points of the curve. -/
def Point.add : Point → Point → Point
  | none, q => q
  | p, none => p
  | some (x1, y1), some (x2, y2) =>
    if x1 == x2 && (y1 + y2) % curveP == 0 then none
    else
      let l := if x1 == x2 then (3 * x1 * x1 + curveA) * invMod curveP (2 * y1) % curveP
        else (y2 + curveP - y1) * invMod curveP (x2 + curveP - x1) % curveP
      let x := (l * l + 2 * curveP - x1 - x2) % curveP
      some (x, (l * (x1 + curveP - x) + curveP - y1) % curveP)

/-- A multiple of a point, by a number of which the lowest bits given count. -/
def Point.times : Nat → Nat → Point → Point
  | 0, _, _ => none
  | n + 1, k, p =>
    let r := Point.times n (k / 2) (p.add p)
    if k % 2 == 1 then p.add r else r

/-- The number that bytes give, the most significant first. -/
def bigEndian (bs : List Byte) : Nat := leNat bs.reverse

/-- ECDSA accepts r and s as a signature of a digest under a public key. -/
def ecdsaAccepts (key : Nat × Nat) (digest r s : Nat) : Bool :=
  if !onCurve key.1 key.2 || r == 0 || curveQ ≤ r || s == 0 || curveQ ≤ s then false
  else
    let w := invMod curveQ s
    match (Point.times 384 (digest * w % curveQ) curveG).add (Point.times 384 (r * w % curveQ) (some key)) with
    | some (x, _) => x % curveQ == r
    | none => false

/-- The numbers r and s by which a private key signs a digest, with the number drawn for the signature. -/
def ecdsaSign (d k digest : Nat) : Nat × Nat :=
  let r := match Point.times 384 k curveG with
    | some (x, _) => x % curveQ
    | none => 0
  (r, invMod curveQ k * (digest + r * d) % curveQ)

/-- A pair of numbers as it stands in memory: 48 bytes each, the lowest first (00 R4; DEDUCED [117]). -/
def pairBytes (p : Nat × Nat) : List Byte := leBytes 48 p.1 ++ leBytes 48 p.2
/-- The pair of numbers that 96 bytes hold. -/
def pairOf (bs : List Byte) : Nat × Nat := (leNat (bs.take 48), leNat ((bs.drop 48).take 48))

/-- The device identity key: a number below the order, not zero. -/
def identityPrivate : Nat := 1 + Config.identitySecret % (curveQ - 1)
/-- The identity public key x ‖ y (10 R227). -/
def identityKey : List Byte := pairBytes ((Point.times 384 identityPrivate curveG).getD (0, 0))
/-- The signature r ‖ s of a message by the device identity key, of the signatures the n-th (10 R229). -/
def identitySign (n : Nat) (msg : List Byte) : List Byte :=
  pairBytes (ecdsaSign identityPrivate (1 + Config.signingNonce n % (curveQ - 1)) (bigEndian (sha384 msg)))

/-- A signature r ‖ s is valid for a message under a public key x ‖ y whose digest is the given one. -/
def signatureValid (keyDigest : BitVec 384) (key msg sig : List Byte) : Bool :=
  bigEndian (sha384 key) == keyDigest.toNat
    && ecdsaAccepts (pairOf key) (bigEndian (sha384 msg)) (pairOf sig).1 (pairOf sig).2

end Sys2Proof.Machine
end

