-- ==== Sys2Proof/Machine/Hyper.lean ====
section
/-! DEFINITION. Start-up, the mailbox commands of ROM and of the firmware, partitions, memory units, contexts, the debug
agent, registers and BAR2 (10 R218-R233, R238, 04 R80, 21 R417, 22 R429, 06 R131, 08 R180). -/

namespace Sys2Proof.Machine

/-! ## States of the module (R226) -/

/-- The device's units of 1 GiB: the capacity scales with the channels present (01 R19); the first of them stay (DESIGN
CHOICE [13]). -/
def unitsOf (channels : BitVec 256) : Nat := 384 * ((List.range 256).filter channels.getLsbD).length / 256

/-- The module as a reset leaves it: no partition, no firmware; host memory, what is fused or retired and the memory's
contents stay, and the units that partitions held wait to be zeroed. -/
def State.toRom (s : State) (now : DWord) : State :=
  let held := ((s.parts.vals.map (fun p => p.units.vals.filter (· < 384))).flatten)
  let present := s.chPres &&& ~~~s.chRetired
  let stays := fun (u : Nat) => decide (u < unitsOf present)
  { State.reset with
    gtime := now, wall := s.wall, clPres := s.clPres, chPres := present, chRetired := s.chRetired, secFused := s.secFused
    skew0 := s.skew0, skew1 := s.skew1, hostMem := s.hostMem, irqs := s.irqs, reports := s.reports, vfLink := s.vfLink
    fresh := s.fresh, draws := s.draws, hbm := s.hbm, scrubbed := s.scrubbed, scrubQ := (s.scrubQ ++ held).filter stays
    cleanPool := s.cleanPool.filter stays, lines := s.lines, corrected := s.corrected, softErrors := s.softErrors, portsDown := s.portsDown
    gatedPeers := s.gatedPeers, regaining := s.regaining, timeSrc := s.timeSrc
    tLast := s.tLast, lastPtp := s.lastPtp, lastFabric := s.lastFabric, lastPtm := s.lastPtm, slew := s.slew
    offset := s.offset, hPeers := s.hPeers, hot0 := s.hot0, hot1 := s.hot1 }

/-- The module without power, and as power-up finds it: what is fused or retired stays. -/
def State.cold (s : State) (b : Boot) : State :=
  let present := s.chPres &&& ~~~s.chRetired
  { State.reset with
    boot := b, cleanPool := List.range (unitsOf present), clPres := s.clPres, chPres := present, chRetired := s.chRetired, secFused := s.secFused
    hostMem := s.hostMem, irqs := s.irqs, reports := s.reports, fresh := s.fresh, draws := s.draws }

/-- POWER_UP -/
def execPowerUp (s : State) : Host.Outcome State Fault Refusal := .next (if s.boot == .off then s.cold .rom else s)
/-- RESET -/
def execReset (s : State) : Host.Outcome State Fault Refusal := .next (if s.boot == .off then s else s.toRom s.gtime)
/-- POWER_REMOVED -/
def execPowerRemoved (s : State) : Host.Outcome State Fault Refusal := .next (s.cold .off)

/-! ## The ROM mailbox (R227-R229) -/

/-- A response: the status word, what follows it, and bytes whose place the spec does not give. -/
def response (status : Nat) (bs : List Byte) : List Byte :=
  let r := leBytes 4 status ++ bs
  (r ++ (List.range (256 - r.length)).map (fun i => Config.layoutFill (r.length + i))).take 256

/-- A mailbox command answers. -/
def State.answer (s : State) (status : Nat) (bs : List Byte) : State := { s with mbResp := response status bs }

/-- A mailbox command that runs in some of the states, else answers 1. -/
def State.mailbox (s : State) (ok : Boot → Bool) (f : State → State) : Host.Outcome State Fault Refusal :=
  .next (if s.boot == .off then s else if ok s.boot then f s else s.answer 1 [])

/-- The masks of fused clusters and channels, and the ISA version 3.0. -/
def State.fuses (s : State) : List Byte := leBytes 4 (~~~s.clPres).toNat ++ leBytes 32 (~~~s.chPres).toNat ++ leBytes 4 0x0300

/-- IDENT -/
def execIdent (s : State) : Host.Outcome State Fault Refusal :=
  s.mailbox (fun _ => true) (fun s => s.answer 0 (leBytes 4 Config.partNumber.toNat ++ s.fuses
    ++ identityKey))

/-- SETTIME -/
def execSettime (v : DWord) (s : State) : Host.Outcome State Fault Refusal :=
  s.mailbox (· == .rom) (fun s => if v.toNat < s.gtime.toNat then s.answer 2 [] else { s.answer 0 [] with gtime := v })

/-- LOADSEG; in VERIFIED it returns to ROM. -/
def execLoadseg (host : DWord) (off len : Nat) (s : State) : Host.Outcome State Fault Refusal :=
  s.mailbox (fun b => b == .rom || b == .verified) (fun s =>
    let s := { s with boot := .rom }
    if 2 ^ 26 < off + len then s.answer 2 []
    else { s.answer 0 [] with staging := s.staging.putAll off (s.hostMem.bytes host.toNat len) })

/-- A word of the image's header. -/
def imageWord (img : List Byte) (i : Nat) : Nat := leNat ((img.drop (4 * i)).take 4)

/-- What VERIFY digests: the header with its signature bytes zero, and the body. -/
def signedPart (img : List Byte) : List Byte := img.take 160 ++ List.replicate 96 0 ++ img.drop 256

/-- VERIFY -/
def execVerify (len : Nat) (s : State) : Host.Outcome State Fault Refusal :=
  s.mailbox (· == .rom) (fun s =>
    if len < 256 || 2 ^ 26 < len then s.answer 2 []
    else
      let img := s.staging.bytes 0 len
      let good := imageWord img 0 == 0x4B465731 && imageWord img 1 == len
        && signatureValid Config.romKeyDigest (Config.imageKey img) (signedPart img) ((img.drop 160).take 96) && s.secFused.toNat ≤ imageWord img 2
      if !good then s.answer 3 []
      else { s.answer 0 [] with boot := .verified, secVer := BitVec.ofNat 32 (imageWord img 2)
                                measurement := BitVec.ofNat 384 (leNat (sha384 (signedPart img))) })

/-- START -/
def execStart (s : State) : Host.Outcome State Fault Refusal :=
  s.mailbox (· == .verified) (fun s => { s.answer 0 [] with boot := .run })

/-- The 160 bytes of a report that are signed. -/
def State.reportBody (s : State) (nonce : BitVec 384) : List Byte :=
  let b := leBytes 48 nonce.toNat ++ leBytes 48 s.measurement.toNat ++ leBytes 4 s.secVer.toNat ++ s.fuses ++ leBytes 8 s.gtime.toNat
  b ++ (List.range (160 - b.length)).map (fun i => Config.layoutFill (256 + i))

/-- ATTEST: the report of 256 bytes, of which the response holds what its buffer can (DESIGN CHOICE [23]). Its signature
takes the next of the numbers drawn. -/
def execAttest (nonce : BitVec 384) (s : State) : Host.Outcome State Fault Refusal :=
  s.mailbox (fun _ => true) (fun s =>
    let b := s.reportBody nonce
    let r := b ++ identitySign s.draws b
    { s.answer 0 r with report := r, draws := s.draws + 1 })

/-! ## The hypervisor's commands (R230-R233) -/

/-- The firmware answers: no command runs. -/
def State.fwAnswer (s : State) (status : Nat) (bs : List Byte) : State := { s with fwResp := response status bs, fwBusy := false }

/-- A firmware command goes on running: it is taken again when it may end (R219). -/
def State.fwRuns (s : State) : State := { s with fwBusy := true }

/-- A firmware command: its effect and its answer, in RUN. -/
def State.firmware (s : State) (f : State → State) : Host.Outcome State Fault Refusal :=
  .next (if s.boot != .run then (if s.boot == .off then s else s.fwAnswer 1 []) else f s)

/-- A firmware command on a partition; one that is not there is a bad argument. -/
def State.firmwareOn (s : State) (part : Nat) (f : State → Part → State) : Host.Outcome State Fault Refusal :=
  s.firmware (fun s => match s.part part with | some p => f s p | none => s.fwAnswer 2 [])

/-- The channels of a quota. -/
def quota (c : BitVec 256) : List Nat := (List.range 256).filter c.getLsbD

/-- Resources that exist. -/
def State.present (s : State) (a : PartArg) : Bool :=
  a.clusters &&& ~~~s.clPres == 0 && a.channels &&& ~~~s.chPres == 0
    && (a.units.filter (· < 384)).length ≤ s.cleanPool.length + s.scrubQ.length + (s.parts.vals.map (fun p => (p.units.vals.filter (· < 384)).length)).sum

/-- A resource that another partition has, where only one may have it (R230, 05 R108, R218). -/
def argClash (a : PartArg) (p : Part) : Bool :=
  let b := p.arg
  let both := fun {n : Nat} (x y : BitVec n) => x &&& y != 0
  ((!a.sliced || !b.sliced) && (both a.clusters p.clusters || both a.ports b.ports))
    || both (a.l2col0 ||| a.chcol0) (b.l2col0 ||| b.chcol0) || both (a.l2col1 ||| a.chcol1) (b.l2col1 ||| b.chcol1)
    || a.fes.any (fun f => b.fes.any (fun g => f.fe == g.fe)) || a.vfs.any b.vfs.contains
    || a.units.any (fun u => 384 ≤ u && p.units.vals.contains u)

/-- The figures named are ones the spec admits. -/
def argSound (a : PartArg) : Bool :=
  a.l2col0 &&& a.chcol0 == 0 && a.l2col1 &&& a.chcol1 == 0
    && (a.fes.map (·.fe)).eraseDups.length == a.fes.length && a.fes.all (fun f => f.clbase.toNat ≤ f.cllimit.toNat)
    && (!a.sliced || (50 ≤ a.interval && a.interval ≤ 2000 && 100 ≤ a.slice && a.slice ≤ 100000 && 2 ^ 24 ≤ a.overflow))
    && (a.units.isEmpty || a.channels != 0)
    && (a.units.isEmpty || ((quota a.channels).all (fun c => if c < 128 then a.l2col0 != 0 else a.l2col1 != 0)))

/-- At most 16 colours of a die serve as chip scratchpad, those of every partition together (05 R108). -/
def State.coloursFit (s : State) (a : PartArg) : Bool :=
  let count := fun (c : BitVec 48) => ((List.range 48).filter c.getLsbD).length
  let all := fun (f : PartArg → BitVec 48) => count (f a) + (s.parts.vals.map (fun p => count (f p.arg))).sum
  all PartArg.chcol0 ≤ 16 && all PartArg.chcol1 ≤ 16

/-- The floors on every channel of the quota fit. -/
def State.floorsFit (s : State) (a : PartArg) : Bool :=
  (quota a.channels).all (fun c =>
    a.floor.toNat + (s.parts.vals.filter (fun p => p.chgrant.getLsbD c)).foldl (fun n p => n + p.arg.floor.toNat) 0 ≤ 64)

/-- A creation fails. -/
def State.createFails (s : State) (a : PartArg) : Bool :=
  !s.present a || !argSound a || !s.coloursFit a || !s.floorsFit a || s.parts.vals.any (argClash a)

/-- The partition map: clean units for the device's own, in order of release; peers' as named (R233). -/
def fillUnits : List Nat → List Nat → List Nat
  | [], _ => []
  | u :: us, pool =>
    if 384 ≤ u then u :: fillUnits us pool
    else match pool with
    | [] => []
    | x :: xs => x :: fillUnits us xs

/-- A partition as it is created (R230, R232, 06 R131, 04 R83, 03 R74). -/
def Part.create (id : Nat) (a : PartArg) (units : List Nat) (clpres : BitVec 32) (chpres : BitVec 256) : Part where
  id := id
  arg := a
  clusters := a.clusters
  clpres := clpres
  chgrant := a.channels
  chpres := chpres
  units := (List.range units.length).zip units
  lloc := (a.lloc.getD 256).setWidth 32
  lrem := (a.lrem.getD 2048).setWidth 32
  flease := (a.flease.getD 1024).setWidth 32
  fskew := (a.fskew.getD 200).setWidth 32
  windows := []
  hostG := 0
  ctxs := a.fes.foldl (fun t f => t.set f.ctx ⟨0, 0, 0, 0, 0⟩) []
  events := []
  admNext := 1
  lastPlaced := 31
  harvestQ := []
  apertures := Vector.replicate 16 Aperture.off
  xtables := []
  trace := none
  debug := false
  epoch := if a.sliced then 1 else 0
  chip := .empty
  tlb := []
  votes := []
  charge := 0
  roundsDue := 0
  colls := []
  active := false
  ckNext := 0
  sliceEnd := 0
  ckBegan := none
  heldFx := []
  undo := []
  image := none
  ckFails := 0
  failed := false

/-- PARTITION_CREATE: it waits while too few units are clean. -/
def execPartitionCreate (a : PartArg) (s : State) : Host.Outcome State Fault Refusal :=
  s.firmware (fun s =>
    let own := (a.units.filter (· < 384)).length
    if s.createFails a then s.fwAnswer 2 []
    else if s.cleanPool.length < own then s.fwRuns
    else
      let (id, s) := s.name
      let p := Part.create id a (fillUnits a.units s.cleanPool) s.clPres s.chPres
      let s := { s with cleanPool := s.cleanPool.drop own }
      let s := a.fes.foldl (fun s f => s.setFe f.fe.toNat { FrontEnd.fresh with
        part := some id, clbase := f.clbase, cllimit := f.cllimit, ctx := f.ctx }) (s.setPart p)
      let s := s.onPart id (fun p => if p.arg.sliced then { p with image := some { s.snapshot p with epoch := 0 } } else p)
      (if a.sliced then s.startSlice id else s).fwAnswer 0 (leBytes 4 id))

/-- The capability record of a partition, as a number of 1,024 bits (R232). -/
def Part.record (p : Part) : Nat :=
  let a := p.arg
  let mask := a.fes.foldl (fun (m : Nat) f => m + 2 ^ f.fe.toNat) 0
  (3 * 2 ^ 8) + (if a.sliced then 2 ^ 16 else 0) + p.clpres.toNat * 2 ^ 32 + p.clusters.toNat * 2 ^ 64 + mask * 2 ^ 96
    + a.ports.toNat * 2 ^ 128 + a.floor.toNat * 2 ^ 146 + a.l2col0.toNat * 2 ^ 192 + a.l2col1.toNat * 2 ^ 256
    + a.chcol0.toNat * 2 ^ 320 + a.chcol1.toNat * 2 ^ 384 + a.units.length * 2 ^ 30 * 2 ^ 448 + p.chpres.toNat * 2 ^ 512
    + p.chgrant.toNat * 2 ^ 768

/-- What the module holds of memory units outside the units themselves goes: copies, cached lines, the entries of undo logs,
which would bring released contents back (R233). -/
def State.forgetUnits (s : State) (units : List Nat) : State :=
  let gone := fun (line : Nat) => units.contains (line / 2 ^ 23)
  { s with
    parts := s.parts.map (fun (x : Nat × Part) => (x.1, { x.2 with undo := x.2.undo.filter (fun u => !(u.area == .hbm && gone u.line)) }))
    copies := s.copies.filter (fun c => !gone c.line), l2 := s.l2.filter (fun l => !gone l.line)
    l1 := s.l1.filter (fun l => !gone l.line) }

/-- PARTITION_DESTROY (R233) -/
def execPartitionDestroy (part : Nat) (s : State) : Host.Outcome State Fault Refusal :=
  s.firmwareOn part (fun s p =>
    let own := p.units.vals.filter (· < 384)
    let s := s.unload p
    let s := (s.fesOf part).foldl (fun s n => s.setFe n FrontEnd.fresh) s
    let s := p.owns.foldl (fun s k =>
      let x := s.cluster k
      s.setCluster k { x with events := x.events.filter (fun r => r.part != part) }) s
    let s := { s with parts := s.parts.del part, scrubQ := s.scrubQ ++ own
                      cores := s.cores.map (fun (x : CoreKey × Core) => (x.1, { x.2 with icache := x.2.icache.filter (fun l => l.part != part) })) }
    ((s.forgetUnits own).fwAnswer 0 []))

/-- An access of a partition translated to one of some units stands: it has yet to be served (R233). -/
def State.reaching (s : State) (part : Nat) (units : List Nat) : Bool :=
  s.warps.vals.any (fun w => w.part == part && w.queue.any (fun e => e.space == .glob && e.accs.any (fun c =>
    !c.served && units.contains (c.pa / 2 ^ 30))))

/-- MEMORY_RELEASE: the units leave the partition map and wait to be zeroed, once no access translated to them stands: a
released unit cannot be read before it is clean. -/
def execMemoryRelease (part : Nat) (units : List Nat) (s : State) : Host.Outcome State Fault Refusal :=
  s.firmwareOn part (fun s p =>
    if !units.all (fun u => p.units.vals.contains u) || units.eraseDups.length != units.length then s.fwAnswer 2 []
    else if s.reaching part units then s.fwRuns
    else
      let s := s.putPart part { p with units := p.units.filter (fun x => !units.contains x.2) }
      let own := units.filter (· < 384)
      ({ s with scrubQ := s.scrubQ ++ own }.forgetUnits own).fwAnswer 0 [])

/-- SCRUB_UNIT: the unit released first reads zero, with every tag clear, and is clean: the pool is in order of release. -/
def execScrubUnit (unit : Nat) (s : State) : Host.Outcome State Fault Refusal :=
  .next (if s.scrubQ.head? != some unit then s
    else { s with
      hbm := s.hbm.clear (unit * 2 ^ 30) ((unit + 1) * 2 ^ 30)
      lines := s.lines.filter (fun (x : Nat × LineInfo) => x.1 / 2 ^ 23 != unit)
      scrubbed := s.scrubbed.set unit s.gtime
      upsets := s.upsets.filter (fun u => !(u.area == .hbm && u.unit / 2 ^ 25 == unit))
      scrubQ := s.scrubQ.drop 1, cleanPool := s.cleanPool ++ [unit] })

/-- CTXSET (R231): it completes once no access stands translated under what it drops, and a wait that stands goes on under
the new root (05 R123). -/
def execCtxset (part ctx : Nat) (root : DWord) (pinq : Nat) (hentry : DWord) (s : State) : Host.Outcome State Fault Refusal :=
  s.firmwareOn part (fun s p =>
    if 63 < ctx || root.toNat % 8192 != 0 || 2 ^ 20 < pinq || hentry.toNat % 64 != 0 || 2 ^ 57 ≤ hentry.toNat then s.fwAnswer 2 []
    else
      let c := BitVec.ofNat 6 ctx
      if s.translating part c none then s.fwRuns
      else
        let old := (p.ctxs.find c).getD ⟨0, 0, 0, 0, 0⟩
        let s := s.putPart part { p with ctxs := p.ctxs.set c { old with root := root, pinq := pinq, hentry := hentry } }
        ((s.shootdown part c none).retranslate part c none).fwAnswer 0 [])

/-- CTXDEL -/
def execCtxdel (part ctx : Nat) (s : State) : Host.Outcome State Fault Refusal :=
  s.firmwareOn part (fun s p =>
    let c := BitVec.ofNat 6 ctx
    if 63 < ctx || (p.ctxs.find c).isNone || (s.fesOf part).any (fun n => (s.fe n).ctx == c) then s.fwAnswer 2 []
    else if s.translating part c none then s.fwRuns
    else
      let s := (s.shootdown part c none).retranslate part c none
      let s := { s with l2 := s.l2.map (fun (l : L2Line) => if l.part == part then { l with pins := l.pins.filter (· != c) } else l) }
      (s.onPart part (fun p => { p with ctxs := p.ctxs.del c })).fwAnswer 0 [])

/-- FRONT_END_RANGE_SET (04 R80) -/
def execFrontEndRangeSet (fe : BitVec 4) (lo hi : BitVec 5) (s : State) : Host.Outcome State Fault Refusal :=
  s.firmware (fun s =>
    let f := s.fe fe.toNat
    if f.part.isNone || hi.toNat < lo.toNat then s.fwAnswer 2 []
    else (s.setFe fe.toNat { f with clbase := lo, cllimit := hi }).fwAnswer 0 [])

/-- TRACE_BUFFER_SET (R238) -/
def execTraceBufferSet (part : Nat) (base : DWord) (size : Nat) (mask : BitVec 16) (s : State) : Host.Outcome State Fault Refusal :=
  s.firmwareOn part (fun s p => (s.putPart part { p with trace := some ⟨base.toNat, size, mask, 0⟩ }).fwAnswer 0 [])

/-! ## The debug agent (22 R429, 21 R417) -/

/-- DEBUG_MODE_SET -/
def execDebugModeSet (part : Nat) (on : Bool) (s : State) : Host.Outcome State Fault Refusal :=
  s.firmwareOn part (fun s p => (s.putPart part { p with debug := on }).fwAnswer 0 [])

/-- The frame as the agent leaves it. -/
def Frame.edit (f : Frame) (xpc : Option DWord) (xstat : Option Word) (ks : List (BitVec 3 × Word)) : Frame :=
  { f with xpc := xpc.getD f.xpc, xstat := xstat.getD f.xstat
           ks := Vector.ofFn (fun (i : Fin 8) => ks.foldl (fun v (n, x) => if n.toNat == i.val then x else v) f.ks[i.val]) }

/-- DEBUG_RELEASE: the first group that a warp holds leaves its frame as by XRET. -/
def execDebugRelease (w : WarpKey) (xpc : Option DWord) (xstat : Option Word) (ks : List (BitVec 3 × Word)) (s : State) :
    Host.Outcome State Fault Refusal :=
  .next (match (s.warp w).bind (fun x => x.paths.find? (fun p => p.wait == .debug)) with
    | some p =>
      match p.frame with
      | some f => s.leaveFrame w [p.pid] (f.edit xpc xstat ks) p.pc
      | none => s
    | none => s)

/-! ## Registers (R219, R220, 06 R131, 08 R180) -/

/-- Stores bytes in a buffer of 256. -/
def putBuffer (b : List Byte) (off : Nat) (bs : List Byte) : List Byte :=
  (List.range 256).map (fun i => if off ≤ i && i < off + bs.length then bs.getD (i - off) 0 else b.getD i 0)

/-- A write in a front end's block. -/
def FrontEnd.write (f : FrontEnd) (off : Nat) (w64 : Bool) (v : DWord) : FrontEnd :=
  let lo : Word := v.setWidth 32
  let qmask : DWord := 0xFFFFFFFFFFFFFFC0
  let cmask : DWord := 0xFFFFFFFFFFFFFFF0
  if off == 0x000 then (if w64 then { f with qbase := v &&& qmask } else { f with qbaseLow := lo })
  else if off == 0x004 && !w64 then { f with qbase := (lo ++ f.qbaseLow) &&& qmask }
  else if off == 0x018 then (if w64 then { f with cbase := v &&& cmask } else { f with cbaseLow := lo })
  else if off == 0x01C && !w64 then { f with cbase := (lo ++ f.cbaseLow) &&& cmask }
  else if off == 0x020 && !w64 then { f with csize := v.setWidth 4 }
  else f

/-- A write in a front end's block. -/
def State.blockWrite (s : State) (fe off : Nat) (w64 : Bool) (v : DWord) : State :=
  let w : Word := v.setWidth 32
  if w64 then s.setFe fe ((s.fe fe).write off true v)
  else if off == 0x008 then s.writeQen fe w
  else if off == 0x00C then s.writeTail fe w
  else if off == 0x024 then s.writeChead fe w
  else s.setFe fe ((s.fe fe).write off false v)

/-- PWRCAP is written (R235). -/
def State.writePwrcap (s : State) (v : Word) : State := { s with pwrcap := v &&& 0x07FF07FF }

/-- A write in BAR0. -/
def State.bar0Write (s : State) (fn : Fn) (off : Nat) (w64 : Bool) (v : DWord) : State :=
  let n := if w64 then 8 else 4
  if off % n != 0 then s
  else if 0x10000 ≤ off && off < 0x20000 then
    let fe := off / 0x1000 % 16
    if s.ownsBlock fn fe then s.blockWrite fe (off % 0x1000) w64 v else s
  else match fn with
  | .vf .. => s
  | .pf _ =>
    if off < 0x100 then { s with mbReq := putBuffer s.mbReq off (leBytes n v.toNat) }
    else if off == 0x1000 && !w64 then s.writePwrcap (v.setWidth 32)
    else if 0x2000 ≤ off && off < 0x2100 then { s with fwReq := putBuffer s.fwReq (off - 0x2000) (leBytes n v.toNat) }
    else s

/-- The doorbell of the ROM mailbox is rung: the command of the code runs, its request in the request buffer. What a request
holds lies there in the order in which 10 R227 names it, 8 bytes each, a nonce 48; a code that is no command is not
accepted (DESIGN CHOICE [118]). -/
def State.ringRom (s : State) (code : Nat) : Host.Outcome State Fault Refusal :=
  let arg := fun i => leNat ((s.mbReq.drop (8 * i)).take 8)
  match code with
  | 0x10 => execIdent s
  | 0x11 => execSettime (BitVec.ofNat 64 (arg 0)) s
  | 0x12 => execLoadseg (BitVec.ofNat 64 (arg 0)) (arg 1) (arg 2) s
  | 0x13 => execVerify (arg 0) s
  | 0x14 => execStart s
  | 0x15 => execAttest (BitVec.ofNat 384 (leNat (s.mbReq.take 48))) s
  | _ => s.mailbox (fun _ => false) id

/-- The registers of a front end's block: offset, bytes, value (R219, R220). -/
def FrontEnd.registers (f : FrontEnd) : List (Nat × Nat × Nat) :=
  [(0x000, 8, f.qbase.toNat), (0x008, 4, f.qsize.toNat * 2 ^ 12 + (if f.qerr then 2 else 0) + (if f.qen then 1 else 0)),
   (0x00C, 4, f.tail.toNat), (0x010, 4, f.head.toNat), (0x018, 8, f.cbase.toNat), (0x020, 4, f.csize.toNat), (0x024, 4, f.chead.toNat)]

/-- A byte of a front end's block as it reads: a register, or the capability record of its partition (R232). -/
def State.blockByte (s : State) (fe off : Nat) : Nat :=
  if 0x80 ≤ off && off < 0x100 then
    match (s.fe fe).part.bind s.part with
    | some p => p.record / 2 ^ (8 * (off - 0x80)) % 256
    | none => 0
  else match (s.fe fe).registers.find? (fun r => decide (r.1 ≤ off) && decide (off < r.1 + r.2.1)) with
    | some (at_, _, v) => v / 2 ^ (8 * (off - at_)) % 256
    | none => 0

/-- A byte of BAR0 as a function reads it (R219): zero where the table names nothing, and in a block not its own. -/
def State.bar0Byte (s : State) (fn : Fn) (off : Nat) : Nat :=
  if 0x10000 ≤ off && off < 0x20000 then
    if s.ownsBlock fn (off / 0x1000 % 16) then s.blockByte (off / 0x1000 % 16) (off % 0x1000) else 0
  else match fn with
  | .vf .. => 0
  | .pf _ =>
    let box := fun (req resp : List Byte) (busy : Bool) (o : Nat) =>
      if o < 0x100 then (req.getD o 0).toNat else if o < 0x200 then (resp.getD (o - 0x100) 0).toNat
      else if o == 0x204 && busy then 1 else 0
    if off < 0x1000 then box s.mbReq s.mbResp s.mbBusy off
    else if off < 0x1004 then s.pwrcap.toNat / 2 ^ (8 * (off - 0x1000)) % 256
    else if 0x2000 ≤ off && off < 0x3000 then box s.fwReq s.fwResp s.fwBusy (off - 0x2000)
    else 0

/-- What a read in BAR0 answers: 4 or 8 bytes at their own alignment. It changes nothing. -/
def State.bar0Read (s : State) (fn : Fn) (off : Nat) (w64 : Bool) : DWord :=
  let n := if w64 then 8 else 4
  if off % n != 0 then 0
  else BitVec.ofNat 64 (((List.range n).map (fun i => s.bar0Byte fn (off + i) * 2 ^ (8 * i))).sum)

/-- A window of a partition in a cluster's weight store or index is granted: what it names reads zero, and a rollback brings
nothing back of what was there. What a window names beyond the 24,576 rows or the 16,384 entries of a cluster are rows and entries
that are not there. Entries that an undo log holds of rows that leave a window stay in it, so that a rollback writes the
old contents back (DESIGN CHOICE [120]: 08 R182 speaks of the partition's rows). -/
def State.grantWindow (s : State) (part k : Nat) (idx : Bool) (v : Word) : State :=
  match s.part part with
  | none => s
  | some p =>
    let x := s.cluster k
    let v := v &&& 0x3FFFFFFF
    let old := p.window k
    let new : WsWindow := if idx then { old with idx := v } else { old with rows := v }
    let gone := fun (u : Undo) =>
      if idx then u.area == .idx k && new.idxRows.2 ≤ u.line && u.line < new.idxRows.2 + new.idxRows.1
      else u.area == .ws k && new.wsRows.2 * 16 ≤ u.line && u.line < (new.wsRows.2 + new.wsRows.1) * 16
    let s := s.putPart part { p with windows := p.windows.set k new, undo := p.undo.filter (fun u => !gone u) }
    if idx then
      let (n, base) := new.idxRows
      s.setCluster k { x with widx := x.widx.filter (fun e => e.1 < base || base + n ≤ e.1) }
    else
      let (n, base) := new.wsRows
      (s.setCluster k { x with ws := x.ws.clear (base * 2048) ((base + n) * 2048) }).renew (.ws k)
        (fun a => base * 2048 ≤ a && a < (base + n) * 2048)

/-- REGISTER_WRITE. A doorbell of the firmware runs nothing here: the spec gives its commands no codes, and each is a step of
its own [118]. -/
def execRegisterWrite (r : HostReg) (v : DWord) (s : State) : Host.Outcome State Fault Refusal :=
  let w : Word := v.setWidth 32
  match r with
  | .bar0 fn off w64 =>
    if off == 0x200 && !w64 && (match fn with | .pf _ => true | .vf .. => false) then s.ringRom w.toNat
    else .next (s.bar0Write fn off w64 v)
  | .wsrows p k => .next (s.grantWindow p k.toNat false w)
  | .wsidx p k => .next (s.grantWindow p k.toNat true w)
  | .lloc p => .next (s.onPart p (fun p => { p with lloc := w &&& 0x1FFF }))
  | .lrem p => .next (s.onPart p (fun p => { p with lrem := w &&& 0xFFFF }))
  | .flease p => .next (s.onPart p (fun p => { p with flease := w &&& 0xFFFFF }))
  | .fskew p => .next (s.onPart p (fun p => { p with fskew := w &&& 0xFFFFF }))
  | .vfLink n => .next { s with vfLink := if v.getLsbD 0 then s.vfLink ||| BitVec.twoPow 16 n.toNat else s.vfLink &&& ~~~BitVec.twoPow 16 n.toNat }
  | .crossHarvest => .next { s with crossHarvest := v.getLsbD 0 }

/-! ## BAR2 (R218) -/

/-- The partition whose global memory a function's BAR2 shows: that to which the VF is bound, where it is enabled; for a PF
the first to which none is (DESIGN CHOICE [19]). -/
def State.fnPart (s : State) (fn : Fn) : Option Part :=
  match fn with
  | .pf _ => s.parts.vals.find? (fun p => p.arg.vfs.isEmpty)
  | .vf _ n => if s.presents fn then s.parts.vals.find? (fun p => p.arg.vfs.contains n) else none

/-- A host write is performed, line by line; a line outside the partition's memory is not there. -/
def State.bar2Write (s : State) (p : Part) (pa : Nat) (bs : List Byte) : State :=
  (blocks 128 pa bs.length).foldl (fun s l =>
    let lo := max pa (128 * l)
    let hi := min (pa + bs.length) (128 * l + 128)
    match p.phys lo with
    | some dev =>
      let (s, g) := s.homeStore p.id dev ((bs.drop (lo - pa)).take (hi - lo)) none (s.homeTime p (dev / 128))
      s.onPart p.id (fun p => { p with hostG := joinHzn p.hostG g })
    | none => s) s

/-- The host reads bytes: those of the partition's memory as their homes show them; a byte that BAR2 does not map is a free
value (DESIGN CHOICE [119]: the spec states no answer). -/
def State.bar2Read (s : State) (p : Option Part) (pa n : Nat) : State :=
  (List.range n).foldl (fun s i =>
    match p.bind (fun p => (p.phys (pa + i)).map (fun dev => (s.homeView (dev / 128) (s.homeTime p (dev / 128))).read [] none dev 1)) with
    | some v => { s with hostData := s.hostData ++ v.bytes }
    | none => let (x, s) := s.draw; { s with hostData := s.hostData ++ [x.setWidth 8] }) { s with hostData := [] }

/-- HOST_BAR2_ACCESS -/
def execHostBar2Access (fn : Fn) (pa : Nat) (bytes : Option (List Byte)) (len : Nat) (s : State) :
    Host.Outcome State Fault Refusal :=
  .next (match bytes with
    | some bs => (match s.fnPart fn with | some p => (s.bar2Write p pa bs).watch | none => s)
    | none => s.bar2Read (s.fnPart fn) pa len)

end Sys2Proof.Machine
end

