-- ==== Sys2Proof/Machine/Matrix.lean ====
section
/-! DEFINITION. The matrix engine (08 R171-R194, 07 R165-R168): MMA, MDRAIN, MZERO, WTLOAD and WIDX at issue (17
R371-R374), and the grant of an operation. -/

namespace Sys2Proof.Machine

/-! ## Arithmetic -/

/-- An E4M3 byte as a signed integer in units of 2^-9; none for NaN. -/
def e4Int (b : Byte) : Option Int :=
  match FFmt.e4.read b.toNat with
  | .fin n m e => some (scaled n m e (-9))
  | _ => none

/-- A value rounded to the internal format (07 R165). -/
def toInternal (p : Pre) : Fp := FFmt.int.read (FFmt.int.deliver .rn false 0 p).1

/-- The chunk sum of one element of an E4M3 MMA (07 R166 steps 1 and 2). -/
def chunkE4 (a b : List Byte) : Fp :=
  match (a.zip b).foldl (fun (q : Option Int) (x, y) =>
      match q, e4Int x, e4Int y with
      | some q, some u, some v => some (q + u * v)
      | _, _, _ => none) (some 0) with
  | some q => toInternal (.num (Exact.ofInt q (-18) false))
  | none => .nan false

/-- One level of a tree of sums, each rounded to the internal format. -/
def chunkLevel : List Fp → List Fp
  | a :: b :: r => toInternal (Fp.add .rn a b) :: chunkLevel r
  | r => r

/-- The chunk sum of 32 products of a BF16 MMA (07 R167). -/
def chunkBf16 (a b : List Nat) : Fp :=
  let ps := (a.zip b).map (fun (x, y) => (Fp.mul (FFmt.bf16.read x) (FFmt.bf16.read y)).toFp)
  ((List.range 5).foldl (fun l _ => chunkLevel l) ps).headD (.fin false 0 0)

/-- An accumulator's format. -/
def accFp : AccFmt → FFmt
  | .f32 => .f32 | .bf16 => .bf16 | .f16 => .f16

/-- Step 5: the accumulator takes a term. -/
def accumulate (f : FFmt) (acc : Nat) (t : Fp) : Nat := (f.deliver .rn false 0 (Fp.add .rn (f.read acc) t)).1

/-- Steps 3 and 4. -/
def applyScales (c ascale wscale : Fp) : Fp := toInternal (Fp.mul c (toInternal (Fp.mul ascale wscale)))

/-! ## Tile memory (R176) -/

/-- Bytes of an accumulator element. -/
def accBytes : AccFmt → Nat
  | .f32 => 4 | _ => 2

/-- The byte of element (i, j) of a slot. -/
def tileAt (f : AccFmt) (slot i j : Nat) : Nat := slot * (65536 * (accBytes f)) + (i * 512 + j) * (accBytes f)

/-- A row of a slot: its 512 elements. -/
def State.tileRow (s : State) (task : Nat) (f : AccFmt) (slot i : Nat) : List Nat :=
  let bs := (s.area (.tile task)).mem.bytes (tileAt f slot i 0) (512 * (accBytes f))
  (List.range 512).map (fun j => leNat ((bs.drop (j * (accBytes f))).take (accBytes f)))

/-- Writes a row of a slot: units upset before are whole again. -/
def State.putTileRow (s : State) (op : EngOp) (f : AccFmt) (slot i : Nat) (xs : List Nat) : State :=
  ((s.writeArea op.part (.tile op.w.task) (tileAt f slot i 0) ((xs.map (leBytes (accBytes f))).flatten))).renew
    (.tile op.w.task) (fun a => tileAt f slot i 0 ≤ a && a < tileAt f slot (i + 1) 0)

/-- The rows of the lanes that take part, ascending. -/
def EngOp.rowsOf (op : EngOp) : List Nat := ((lanes.filter op.lns.has).map (fun l => (List.range 4).map (· + 4 * l.val))).flatten

/-- An uncorrectable error stands in the storage an operation uses (23 R433). -/
def State.struck (s : State) (a : Area) (lo hi : Nat) : Option Nat :=
  (s.upsets.find? (fun u => u.area == a && !u.correctable && decide (32 * u.unit < hi) && decide (lo < 32 * u.unit + 32))).map (32 * ·.unit)

/-! ## Weights (R174, R179-R187, 23 R440) -/

/-- What a partition sees of a cluster's weight store and index: its windows over them (08 R180). -/
structure WsPart where
  win : WsWindow
  ws : Store
  widx : Tab Nat DWord
deriving DecidableEq, Repr

/-- The weight store of a cluster as a partition sees it. -/
def State.wsPart (s : State) (part cluster : Nat) : WsPart :=
  ⟨s.wsWindow part cluster, (s.cluster cluster).ws, (s.cluster cluster).widx⟩

/-- An entry of the index window. -/
def WsPart.entry (c : WsPart) (b : Nat) : Nat := ((c.widx.find (c.win.idxRows.2 + b)).getD 0).toNat

/-- A word of the window; zero beyond it. -/
def WsPart.read (c : WsPart) (row slice : Nat) : List Byte :=
  if row < c.win.wsRows.1 then c.ws.mem.bytes (c.win.word row slice) 4 else [0, 0, 0, 0]

/-- The 208 bytes of a coded tile's header. -/
def WsPart.header (c : WsPart) (row g : Nat) : List Byte := ((List.range 52).map (fun w => c.read row (128 * g + w))).flatten

/-- Substream c of a coded tile. -/
def WsPart.substream (c : WsPart) (row g col len : Nat) : List Byte :=
  (((List.range ((len + 3) / 4)).map (fun j => c.read (row + 1 + j) (128 * g + col))).flatten).take len

/-- A raw tile: column c's 128 elements. -/
def WsPart.rawColumn (c : WsPart) (row g col : Nat) : List Nat :=
  ((List.range 64).map (fun m => let w := c.read (row + m) (128 * g + col); [leNat (w.take 2), leNat (w.drop 2)])).flatten

/-- The rows of the window that the tile of an entry takes, with its group of slices. -/
def WsPart.tileRows (c : WsPart) (b g : Nat) : List (Nat × Nat) :=
  let e := c.entry (b + g)
  let row := field e 0 40 / 2048
  let n := if field e 62 1 == 1 then 64
    else 1 + ((TileHdr.of (c.header row g)).slen.map (fun n => (n + 3) / 4)).foldl max 0
  (List.range n).map (fun j => (row + j, 128 * g))

/-- An uncorrectable error in a tile of the four that an MMA reads: where. -/
def State.struckTile (s : State) (part k b : Nat) : Option Nat :=
  let c := s.wsPart part k
  ((List.range 4).map (c.tileRows b)).flatten.findSome? (fun (row, sl) => s.struck (.ws k) (c.win.word row sl) (c.win.word row sl + 512))

/-- An uncorrectable error in the rows of a slot that an operation reads: where. -/
def State.struckRow (s : State) (op : EngOp) (f : AccFmt) (slot : Nat) : Option Nat :=
  op.rowsOf.findSome? (fun i => s.struck (.tile op.w.task) (tileAt f slot i 0) (tileAt f slot (i + 1) 0))

/-- The weights of a column group: of a coded tile its columns and scale, of a raw one its columns. -/
inductive Weights where
  | coded (cols : List (List Byte)) (scale : Nat)
  | raw (cols : List (List Nat))
deriving DecidableEq, Repr

/-- Reads the tile that entry b + g names (R440). -/
def WsPart.weights (c : WsPart) (tables : Vector (List Byte) 8) (bf : Bool) (b g : Nat) : Except Fail Weights :=
  let e := c.entry (b + g)
  let off := field e 0 40
  let raw := field e 62 1 == 1
  let row := off / 2048
  if field e 63 1 == 0 || raw != bf || (!raw && 8 ≤ field e 56 6) || off % 2048 != 512 * ((b + g) % 4)
      || (raw && field e 40 16 != 32768) then .error ⟨0x41, 7, off, 0⟩
  else if raw then .ok (.raw ((List.range 128).map (c.rawColumn row g)))
  else
    let hd := TileHdr.of (c.header row g)
    if hd.tbl != field e 56 6 then .error ⟨0x41, 4, off, 0⟩
    else if !hd.ok (some 3) || hd.totlen != field e 40 16 then .error ⟨0x41, 5, off, 0⟩
    else match decodeTile ((hd.slen.zip (List.range 128)).map (fun (n, col) => c.substream row g col n)) (tables.toList.getD hd.tbl []) with
      | .error d => .error ⟨0x41, d, off, 0⟩
      | .ok cols => .ok (.coded cols hd.scale)

/-- The four groups of an MMA. -/
def WsPart.allWeights (c : WsPart) (tables : Vector (List Byte) 8) (bf : Bool) (b : Nat) : Except Fail (List Weights) :=
  match c.weights tables bf b 0, c.weights tables bf b 1, c.weights tables bf b 2, c.weights tables bf b 3 with
  | .ok w0, .ok w1, .ok w2, .ok w3 => .ok [w0, w1, w2, w3]
  | .error e, _, _, _ => .error e
  | _, .error e, _, _ => .error e
  | _, _, .error e, _ => .error e
  | _, _, _, .error e => .error e

/-- A row of accumulators after an MMA with a row of A. -/
def mmaRow (f : FFmt) (a : List Byte) (ascale : Fp) (ws : List Weights) (acc : List Nat) : List Nat :=
  let terms : List (List Fp) := (ws.map (fun w => match w with
    | .coded cols sc => cols.map (fun col => [applyScales (chunkE4 a col) ascale (s9Value sc)])
    | .raw cols =>
      let xs := elements 3 a
      cols.map (fun col => (List.range 4).map (fun q => chunkBf16 ((xs.drop (32 * q)).take 32) ((col.drop (32 * q)).take 32))))).flatten
  (acc.zip terms).map (fun (x, ts) => ts.foldl (accumulate f) x)

/-! ## The grants (R177, R178) -/

/-- The pitch of A's rows (R172). -/
def mmaPitch (q : CapBits) (bf : Bool) : Nat := if capPitch q == 0 then (if bf then 256 else 128) else 16 * capPitch q

/-- What a grant came to: the largest GWCT, the failure. -/
abbrev Granted := State × Nat × Option Fail

/-- MMA at its grant. Entries, tables and weight bytes are read as they stand then (R175), by an MMA with the entries of the
one before it too: what R189 says it reuses is what it would read and decode again, and where the store or a table has
changed in between, R175 is taken to hold (DEDUCED [109]). -/
def State.grantMma (s : State) (op : EngOp) (w : Warp) (bf : Bool) (acc : AccFmt) (slot : Nat) : Granted :=
  let q := op.caps.getD 0 0
  let len := if bf then 256 else 128
  let cl := s.wsPart op.part op.core.cluster
  let tables := ((s.task op.w.task).bind (·.tables)).getD (Vector.replicate 8 [])
  if op.lns == 0 then (s, 0, none)
  else match op.rowsOf.foldl (fun (r : State × Except Fail (List (List Byte) × Nat)) i =>
      match r with
      | (s, .error e) => (s, .error e)
      | (s, .ok (rs, g)) =>
        match s.engRead op w .shr (mod57 (op.off + i * mmaPitch q bf : Nat)) len with
        | (s, .error e) => (s, .error (e.after g))
        | (s, .ok (b, g')) => (s, .ok (rs ++ [b], max g g'))) (s, .ok ([], 0)) with
  | (s, .error e) => (s, e.g, some e)
  | (s, .ok (rows, g)) =>
    match cl.allWeights tables bf op.b with
    | .error e => (s, g, some e)
    | .ok ws =>
      match s.struckRow op acc slot, s.struckTile op.part op.core.cluster op.b with
      | some o, _ => (s, g, some ⟨0x44, 1, o, 0⟩)
      | none, some o => (s, g, some ⟨0x44, 2, o, 0⟩)
      | none, none =>
        let scale := fun (i : Nat) => FFmt.f32.read (((op.scales.getD (i % 4) (Vector.replicate 32 0)).toList.getD (i / 4) 0).toNat)
        ((op.rowsOf.zip rows).foldl (fun s (i, a) =>
          s.putTileRow op acc slot i (mmaRow (accFp acc) a (scale i) ws (s.tileRow op.w.task acc slot i))) s, g, none)

/-- Bytes of an element of a drain's destination. -/
def drainElem : DrainFmt → Nat
  | .f32 => 4 | .bf16 | .f16 => 2 | .e4m3 => 1
/-- The format of a drain's destination. -/
def drainFp : DrainFmt → FFmt
  | .f32 => .f32 | .bf16 => .bf16 | .f16 => .f16 | .e4m3 => .e4

/-- The space of a drain's quad (17 R366). -/
def drainSpace (q : CapBits) : Space := if capGlobal q then .glob else .shr

/-- The pitch of a drain's rows. -/
def drainPitch (q : CapBits) (dflt : Nat) : Nat := if capPitch q == 0 then dflt else 16 * capPitch q

/-- One write of a drain: the quad's number, the offset from its BASE, the bytes. -/
structure DrainWrite where
  quad : Nat
  off : Nat
  bytes : List Byte
deriving DecidableEq, Repr

/-- A main row (R193). -/
def drainRow (fmt : DrainFmt) (r : Rnd) (e : StageEnv) (xs : List Fp) : List Byte × List Byte × StageEnv :=
  match fmt with
  | .e4m3 =>
    (List.range 4).foldl (fun (bs, ss, e) v =>
      let (b, sc, e) := quantVector r e ((xs.drop (128 * v)).take 128)
      (bs ++ b, ss ++ leBytes 4 sc, e)) (([] : List Byte), ([] : List Byte), e)
  | _ =>
    let (bs, e) := stageMap (fun e x =>
      let (d, e) := e.draw r
      (leBytes (drainElem fmt) (Fp.convert (drainFp fmt) r false d x).1, e)) e xs
    (bs, [], e)

/-- All the writes of a drain, in the order of its draws: main rows, then transposed rows. -/
def drainWrites (fmt : DrainFmt) (t : Bool) (r : Rnd) (quads : List CapBits) (e : StageEnv) (rows : List (Nat × List Fp)) :
    List DrainWrite × StageEnv :=
  let (ws, e) := rows.foldl (fun ((ws : List DrainWrite), e) (i, xs) =>
    let (bs, ss, e) := drainRow fmt r e xs
    let main : DrainWrite := ⟨0, i * drainPitch (quads.getD 0 0) (512 * (drainElem fmt)), bs⟩
    (ws ++ main :: (if ss.isEmpty then [] else [⟨1, 16 * i, ss⟩]), e)) ([], e)
  if !t then (ws, e)
  else
    (List.range 512).foldl (fun (ws, e) j =>
      let (bs, sc, e) := quantVector r e (rows.map (fun (_, xs) => xs.getD j (.fin false 0 0)))
      let base := j * drainPitch (quads.getD 2 0) 128
      (ws ++ ((rows.zip bs).map (fun ((i, _), b) => (⟨2, base + i, [b]⟩ : DrainWrite))) ++ [⟨3, 4 * j, leBytes 4 sc⟩], e)) (ws, e)

/-- MDRAIN at its grant. Where no lane takes part nothing is delivered: no scale is written and nothing is drained (DESIGN
CHOICE [127]). -/
def State.grantDrain (s : State) (op : EngOp) (w : Warp) (fmt : DrainFmt) (t : Bool) (r : Rnd) (acc : AccFmt) (slot : Nat) : Granted :=
  if op.lns == 0 then (s, 0, none)
  else match s.struckRow op acc slot with
  | some o => (s, 0, some ⟨0x44, 1, o, 0⟩)
  | none =>
    let k := op.core.cluster
    let rows := op.rowsOf.map (fun i => (i, (s.tileRow op.w.task acc slot i).map (accFp acc).read))
    let (ws, e) := drainWrites fmt t r op.caps ⟨.lfsr (s.cluster k).genMma, 0⟩ rows
    let s := s.setCluster k { s.cluster k with genMma := match e.gen with | .lfsr st => st | .free _ => (s.cluster k).genMma }
    ws.foldl (fun (r : Granted) d =>
      match r with
      | (s, g, some e) => (s, g, some e)
      | (s, g, none) =>
        let q := op.caps.getD d.quad 0
        match s.engWrite op w (drainSpace q) (mod57 (capBase q + d.off)) d.bytes with
        | (s, .error e) => (s, max g e.g, some e)
        | (s, .ok g') => (s.watch, max g g', none)) (s, 0, none)

/-- MZERO at its grant. -/
def State.grantZero (s : State) (op : EngOp) (fmt : AccFmt) (slot : Nat) : Granted :=
  (op.rowsOf.foldl (fun s i => s.putTileRow op fmt slot i (List.replicate 512 0)) s, 0, none)

/-- WTLOAD at its grant. -/
def State.grantTable (s : State) (op : EngOp) (w : Warp) (src : SrcWin) (tbl : Nat) : Granted :=
  match s.engRead op w (srcSpace (op.caps.getD 0 0) src) op.off 272 with
  | (s, .error e) => (s, e.g, some e)
  | (s, .ok (bs, g)) =>
    (s.onTask op.w.task (fun t => { t with tables := t.tables.map (fun v => Vector.ofFn (fun (i : Fin 8) =>
      if i.val == tbl then bs else v[i.val])) }), g, none)

/-- A granted operation is worked. -/
def State.workMatrix (s : State) (op : EngOp) (w : Warp) : Granted :=
  match op.instr with
  | .mma _ _ bf acc _ slot _ _ _ => s.grantMma op w bf acc slot.toNat
  | .mdrain _ _ fmt t _ slot _ r acc => s.grantDrain op w fmt t r acc slot.toNat
  | .mzero _ _ fmt _ slot => s.grantZero op fmt slot.toNat
  | .wtload _ _ src _ tbl _ => s.grantTable op w src tbl.toNat
  | _ => (s, 0, none)

/-- The operation the matrix engine grants next. -/
def State.nextGrant (s : State) (cluster : Nat) : Option EngOp :=
  nextInRound (s.cluster cluster).lastGrant (s.heads cluster EngOp.matrix)

/-- MATRIX_GRANT -/
def execMatrixGrant (cluster : BitVec 5) (s : State) : Host.Outcome State Fault Refusal :=
  .next (match s.nextGrant cluster.toNat with
    | none => s
    | some o =>
      match s.warp o.w with
      | none => s
      | some w =>
        let (t, g, err) := s.workMatrix o w
        let o' := { o with phase := .worked (BitVec.ofNat 64 g) (err.map Fail.crew) }
        if s.retryGated o o'.phase.failure then s.setOp { o with gated := some (o.gated.getD s.gtime) }
        else
          let k := cluster.toNat
          ((t.setCluster k { t.cluster k with lastGrant := some (o.core.core, o.slot) }).setOp o').watch)

/-! ## Issue (17 R371-R374) -/

/-- The barrier operand: uniform, a multiple of 16 and inside the crew's window; the outer none is a refusal. -/
def State.barOperand (s : State) (c : Ctx) (bar : Option Spec) : Option (Option (Bool × Nat)) :=
  match bar with
  | none => some none
  | some sp =>
    let off := s.scalar c .c sp
    if allU (s.shapes c .c sp 1) && off % 16 == 0 && s.windowIn c.w .shr off 16 then some (some (false, off)) else none

/-- The slot limit of a format (17 R371). -/
def State.slotOk (s : State) (c : Ctx) (f : AccFmt) (slot : Nat) : Bool :=
  match s.task c.k.task with
  | some t => slot < (if f == .f32 then t.tslot else 2 * t.tslot)
  | none => false

/-- The first failing row of a lane: its address and the step. -/
def laneRows (tag : Bool) (q : CapBits) (at' : Nat → Nat) (len : Nat) (glob : Bool) (perm : BitVec 8) (fmt : Option Nat) (l : Lane) :
    Option (Nat × Nat) :=
  ((List.range 4).map (fun r => at' (4 * l.val + r))).findSome? (fun a =>
    (capCheck tag q glob a len perm fmt false).map (fun d => (a, d)))

/-- A matrix instruction issues also without a written lane: it performs nothing and completes (R171). -/
def State.issueMatrix (s : State) (i : Instr) (h : Hdr) (body : Ctx → State → State) : Host.Outcome State Fault Refusal :=
  s.issueWith i h false (some 2)
    (fun c s => match i.form with
      | some f => if c.w.role == 2 && (f.beyond c.w.nregs).isNone then body c s else s.advance c i
      | none => s) body

/-- The capability faults of lanes. -/
def Ctx.rowFaults (c : Ctx) (f : Lane → Option (Nat × Nat)) : List (Lane × Cause) :=
  (lanes.filter c.wr.has).filterMap (fun l => (f l).map (fun (a, d) => (l, c.causeAt 0x05 d a)))

/-- MMA -/
def execMma (h : Hdr) (scope : Scope) (bf : Bool) (acc : AccFmt) (bar : Option Spec) (slot : BitVec 6) (m : EngArg) (e f : Spec)
    (s : State) : Host.Outcome State Fault Refusal :=
  let i : Instr := .mma h scope bf acc bar slot m e f
  s.issueMatrix i h fun c s =>
    match s.notUniform c [(.a, m.a, 4), (.b, m.b, 1), (.e, e, 1)] with
    | some d => s.outOfRange c i d
    | none =>
      let b := s.scalar c .e e
      if !s.slotOk c acc slot.toNat then s.outOfRange c i 1
      else if b % 4 != 0 || (s.wsWindow c.w.part c.core.cluster).idxRows.1 ≤ b + 3 then s.outOfRange c i 5
      else match s.barOperand c bar with
      | none => s.outOfRange c i 4
      | some br =>
        if c.counterFull .mma then s
        else
          let q := s.quadAt c .a m.a c.low
          let off := effOffset q (s.word c .b m.b c.low) m.sh (16 * m.disp.toInt)
          let len := if bf then 256 else 128
          let faults := c.rowFaults (laneRows (s.quadTag c .a m.a c.low) q (fun r => mod57 (off + r * mmaPitch q bf)) len false
            (permR ||| permAsync ||| permMma) (some (if bf then 3 else 4)))
          let lns := c.ok faults
          s.issueOp c i faults { c.op i (some .mma) scope with
            lns := lns, caps := [q], off := off, b := b, bar := br
            scales := if bf then [] else (List.range 4).map (fun k => (s.opnd c .f f k).1.line)
            bytes := some (if br.isSome then lns.count * (4 * len) else 0) }

/-- Quad j of a drain's destinations, in a lane, with its tag. -/
def State.drainQuad (s : State) (c : Ctx) (a : Spec) (j : Nat) : CapBits × Bool :=
  let r := fun k => s.opnd c .a a (4 * j + k)
  ((r 3).1.at c.low ++ (r 2).1.at c.low ++ (r 1).1.at c.low ++ (r 0).1.at c.low, (List.range 4).all (fun k => (r k).2.has c.low))

/-- The bytes a drain writes for n rows. -/
def drainBytes (fmt : DrainFmt) (t : Bool) (n : Nat) : Nat :=
  n * 512 * (drainElem fmt) + (if fmt == .e4m3 then 16 * n else 0) + (if t then 512 * n + 2048 else 0)

/-- MDRAIN -/
def execMdrain (h : Hdr) (scope : Scope) (fmt : DrainFmt) (t : Bool) (bar : Option Spec) (slot : BitVec 6) (a : Spec) (r : Rnd)
    (acc : AccFmt) (s : State) : Host.Outcome State Fault Refusal :=
  let i : Instr := .mdrain h scope fmt t bar slot a r acc
  s.issueMatrix i h fun c s =>
    let used := [0] ++ (if fmt == .e4m3 then [1] else []) ++ (if t then [2, 3] else [])
    let last := match a with | .v n => n.toNat + 4 * ((used.getLast?).getD 0) + 4 | _ => 0
    if !used.all (fun j => (List.range 4).all (fun k => (s.opnd c .a a (4 * j + k)).1.shape == .u)) || c.w.nregs < last then
      s.outOfRange c i 2
    else if !s.slotOk c acc slot.toNat then s.outOfRange c i 1
    else match s.barOperand c bar with
    | none => s.outOfRange c i 4
    | some br =>
      if c.counterFull .mma then s
      else
        let quads := (List.range 4).map (s.drainQuad c a)
        let quad := fun j => quads.getD j (0, false)
        let perm := permW ||| permAsync
        let rows := fun (j : Nat) (pitch len : Nat) (p : BitVec 8) (l : Lane) =>
          let (q, tag) := quad j
          laneRows tag q (fun r => mod57 (capBase q + r * pitch)) len (capGlobal q) p none l
        let (q0, _) := quad 0
        let faults := c.rowFaults (fun l =>
          match rows 0 (drainPitch q0 (512 * (drainElem fmt))) (512 * (drainElem fmt)) (perm ||| permMma) l with
          | some x => some x
          | none => if fmt == .e4m3 then rows 1 16 16 perm l else none)
        let once := fun (j n pitch len : Nat) (p : BitVec 8) =>
          let (q, tag) := quad j
          ((List.range n).map (fun (r : Nat) => mod57 (capBase q + (r * pitch : Nat)))).findSome? (fun a =>
            (capCheck tag q (capGlobal q) a len p none false).map (fun d => (a, d)))
        let bad := if !t then none else
          match once 2 512 (drainPitch (quad 2).1 128) 128 (perm ||| permMma) with
          | some x => some x
          | none => once 3 1 0 2048 perm
        s.gathered c i [] fun u =>
        match bad with
        | some (x, d) => u.faultAll c i (c.causeAt 0x05 d x)
        | none =>
          let lns := c.ok faults
          s.issueOp c i faults { c.op i (some .mma) scope with
            lns := lns, caps := quads.map (·.1), bar := br
            bytes := some (if br.isSome && lns != 0 then drainBytes fmt t (4 * lns.count) else 0) }

/-- MZERO -/
def execMzero (h : Hdr) (scope : Scope) (fmt : AccFmt) (bar : Option Spec) (slot : BitVec 6) (s : State) :
    Host.Outcome State Fault Refusal :=
  let i : Instr := .mzero h scope fmt bar slot
  s.issueMatrix i h fun c s =>
    if !s.slotOk c fmt slot.toNat then s.outOfRange c i 1
    else match s.barOperand c bar with
    | none => s.outOfRange c i 4
    | some br =>
      if c.counterFull .mma then s
      else s.issueOp c i [] { c.op i (some .mma) scope with bar := br, bytes := some 0 }

/-- WTLOAD -/
def execWtload (h : Hdr) (scope : Scope) (src : SrcWin) (bar : Option Spec) (tbl : BitVec 3) (m : EngArg) (s : State) :
    Host.Outcome State Fault Refusal :=
  s.issue (.wtload h scope src bar tbl m) h false (some 2) fun c s =>
    let i : Instr := .wtload h scope src bar tbl m
    match s.notUniform c [(.a, m.a, 4), (.b, m.b, 1)] with
    | some d => s.outOfRange c i d
    | none =>
      match s.barOperand c bar with
      | none => s.outOfRange c i 4
      | some br =>
        let q := s.quadAt c .a m.a c.low
        s.engThen c i [] m (capGlobal q) 272 1 (permR ||| permAsync) fun off =>
          s.issueOp c i [] { c.op i none scope with
            caps := [q], off := off, bar := br, bytes := some (if br.isSome then 272 else 0) }

/-- Writes an entry of a cluster's index for a partition, whose undo log takes its old contents (R182). -/
def State.putIndex (s : State) (part cluster n : Nat) (v : DWord) : State :=
  let s := s.logLine part (.idx cluster) n
  let cl := s.cluster cluster
  s.setCluster cluster { cl with widx := cl.widx.set n v }

/-- WIDX: it waits while an operation of the warp's engine queue is not granted (R374). -/
def execWidx (h : Hdr) (a b : Spec) (s : State) : Host.Outcome State Fault Refusal :=
  s.issue (.widx h a b) h false (some 2) fun c s =>
    let i : Instr := .widx h a b
    match s.notUniform c [(.a, a, 1), (.b, b, 2)] with
    | some d => s.outOfRange c i d
    | none =>
      let k := c.core.cluster
      let win := s.wsWindow c.w.part k
      let n := s.scalar c .a a
      if win.idxRows.1 ≤ n then s.outOfRange c i 2
      else if s.ops.any (fun o => o.w == c.k && o.matrix && o.waiting) then s
      else
        let v := s.pairAt c .b b c.low
        s.commit c i [] [] [] 0 (fun s => s.putIndex c.w.part k (win.idxRows.2 + n) v)

end Sys2Proof.Machine
end

