-- ==== Sys2Proof/Machine/Power.lean ====
section
/-! DEFINITION. Power, heat, the time discipline and retirement (01 R13-R19, 10 R235-R237, 23 R437, R442-R444, 26 R455-R460). -/

namespace Sys2Proof.Machine

/-! ## Power (R235, R236, 26 R455) -/

/-- PWRCAP_WRITE -/
def execPwrcapWrite (v : FnWord) (s : State) : Host.Outcome State Fault Refusal :=
  .next (match v.fn with | .pf _ => s.writePwrcap v.word | .vf .. => s)

/-- The cap in force: a value outside its limits is the nearer limit. -/
def State.capW (s : State) : Nat := max 600 (min 1800 (s.pwrcap.toNat % 2048))

/-- The averaging window in us: a value outside its limits is the nearer one (DESIGN CHOICE [24]). -/
def State.win (s : State) : Nat := max 100 (min 2000 (s.pwrcap.toNat / 2 ^ 16 % 2048))

/-- The average over the last window is above the cap: over those of its measurements that there are. -/
def State.averageHigh (s : State) : Bool :=
  let ws := s.watts.take s.win
  decide (s.capW * ws.length < ws.sum)

/-- The most idle lane-cycles the controller inserts (the spec gives no figure: DESIGN CHOICE [24]). -/
def idleLimit : Nat := 8

/-- A cap-throttling record in every partition's trace (10 R239). -/
def State.traceCap (s : State) (event : Nat) : State :=
  s.parts.vals.foldl (fun s p => s.trace p.id 0x0B 0xFF 0 0 (event + s.grants * 2 ^ 8 + s.capW * 2 ^ 16)) s

/-- The controller is at its limit. -/
def State.atLimit (s : State) : Bool := s.grants == 1 && s.idle == idleLimit

/-- The vote of a partition for a cluster: VLO where it has cast none. -/
def Part.vote (p : Part) (k : BitVec 5) : Rail := (p.votes.find k).getD .vlo

/-- A partition's charge rises. -/
def State.charge (s : State) (part n : Nat) : State := s.onPart part (fun p => { p with charge := p.charge + n })

/-- The energy of a partition on a cluster is charged (R236): to itself; where its vote was lower than the rail, what its work
would have drawn at that vote, and the excess to those that voted higher, by the time each ran there. The remainder of the
division goes to the first of them, and so does all where none ran (DESIGN CHOICE [24]). -/
def State.chargeMeter (s : State) (meters : List Meter) (m : Meter) : State :=
  let higher := s.parts.vals.filter (fun p => p.clusters.getLsbD m.cluster.toNat && p.vote m.cluster == .vhi)
  let low := (s.part m.part).any (fun p => p.vote m.cluster == .vlo) && (s.cluster m.cluster.toNat).rail == .vhi
  match higher with
  | first :: _ =>
    if !low then s.charge m.part m.drawn
    else
      let ran := fun (p : Part) => ((meters.filter (fun x => x.part == p.id && x.cluster == m.cluster)).map Meter.time).sum
      let all := (higher.map ran).sum
      let excess := m.drawn - m.own
      let shares := higher.map (fun p => (p.id, excess * ran p / max 1 all))
      let rest := excess - (shares.map (·.2)).sum
      ((shares.foldl (fun s (p, n) => s.charge p n) s).charge first.id rest).charge m.part (min m.own m.drawn)
  | [] => s.charge m.part m.drawn

/-- The controller takes one action more, or one back (DESIGN CHOICE [24]). -/
def State.ration (s : State) (hi : Bool) : State :=
  let was := s.grants < 8 || 0 < s.idle
  let s := if hi then { s with grants := max 1 (s.grants - 1), idle := if s.grants == 1 then min idleLimit (s.idle + 1) else s.idle }
    else { s with grants := if s.idle == 0 then min 8 (s.grants + 1) else s.grants, idle := s.idle - 1 }
  let is := decide (s.grants < 8) || decide (0 < s.idle)
  if is && !was then s.traceCap 0 else if was && !is then s.traceCap 1 else s

/-- POWER_MEASUREMENT: the power of the last 1 us, and what the clusters' meters give. The controller holds down the average
over the window; an emergency goes by the last 1 us (26 R455). -/
def execPowerMeasurement (watts : Nat) (meters : List Meter) (s : State) : Host.Outcome State Fault Refusal :=
  .next (let s := meters.foldl (fun s m => s.chargeMeter meters m) s
    let s := { s with watts := (watts :: s.watts).take 2000 }
    let hi := decide (s.capW < watts)
    match s.emergency with
    | .none => if hi && s.atLimit then { s with emergency := .moved s.gtime }.traceCap 2 else s.ration (hi || s.averageHigh)
    | .moved t =>
      if !hi then { s with emergency := .none }
      else if t.toNat + 2000 ≤ s.gtime.toNat then { s with emergency := .stopped }.traceCap 3 else s
    | .stopped => if watts < s.capW then { s with emergency := .none }.traceCap 4 else s)

/-- RAIL_VOTE: a partition that holds the cluster votes. -/
def execRailVote (part : Nat) (cluster : BitVec 5) (r : Rail) (s : State) : Host.Outcome State Fault Refusal :=
  s.firmwareOn part (fun s p =>
    if !p.clusters.getLsbD cluster.toNat then s.fwAnswer 2 []
    else (s.putPart part { p with votes := p.votes.set cluster r }).fwAnswer 0 [])

/-- The partitions whose votes set a cluster's rail: those that hold it, of time-sliced ones the one whose slice it is. -/
def State.voters (s : State) (k : Nat) : List Part :=
  s.parts.vals.filter (fun p => p.clusters.getLsbD k && (!p.arg.sliced || p.active))

/-- The rail the votes give; an emergency moves every cluster to VLO. -/
def State.outcome (s : State) (k : BitVec 5) : Rail :=
  if s.emergency == .none && (s.voters k.toNat).any (fun p => p.votes.find k == some .vhi) then .vhi else .vlo

/-- RAIL_CHANGE -/
def execRailChange (cluster : BitVec 5) (s : State) : Host.Outcome State Fault Refusal :=
  .next (let k := cluster.toNat
    let r := s.outcome cluster
    let x := s.cluster k
    if x.rail == r then s
    else
      let s := s.setCluster k { x with rail := r, cycles := s.cyclesOf k, railSince := s.wall }
      (s.parts.vals.filter (fun p => p.clusters.getLsbD k)).foldl (fun s p =>
        s.trace p.id 0x0A k 0 0 (if r == .vhi then 1 else 0)) s)

/-! ## Heat (26 R456) -/

/-- The state with a die's heat set. -/
def State.setHot (s : State) (die : Bool) (t : Option DWord) : State := if die then { s with hot1 := t } else { s with hot0 := t }
/-- Since when a die exceeds its junction limit. -/
def State.hotSince (s : State) (die : Bool) : Option DWord := if die then s.hot1 else s.hot0

/-- THERMAL_LIMIT -/
def execThermalLimit (die : Bool) (s : State) : Host.Outcome State Fault Refusal :=
  .next (if (s.hotSince die).isSome then s else s.setHot die (some s.gtime))

/-- A die has been over its limit for 100 ms. -/
def State.stopDue (s : State) (die : Bool) : Bool :=
  match s.hotSince die with
  | some t => decide (t.toNat + 100000000 ≤ s.gtime.toNat)
  | none => false

/-- A job all of whose crews have ended with an error ends: its record, and its entry where the ring has a slot. -/
def State.endFailed (s : State) (j : Job) : State :=
  if j.err.isNone then s
  else if s.mayPost j.fe j.irq then s.endJob j
  else { s.trace j.part 2 0xFF j.fe 0 j.endData with jobs := s.jobs.del j.id }

/-- THERMAL_STOP: every crew ends, its job with it, and the module is reset to ROM. -/
def execThermalStop (die : Bool) (s : State) : Host.Outcome State Fault Refusal :=
  .next (if !s.stopDue die then s
    else
      let s := s.tasks.vals.foldl (fun s t => s.endTask t 0x4D 0 0) s
      let s := s.jobs.vals.foldl (fun s j => s.endFailed j) s
      (s.toRom s.gtime).setHot die none)

/-- BELOW_JUNCTION_LIMIT -/
def execBelowJunctionLimit (die : Bool) (s : State) : Host.Outcome State Fault Refusal :=
  .next (if s.stopDue die then s else s.setHot die none)

/-! ## Retirement (26 R458-R460) -/

/-- Nanoseconds of an hour. -/
def hourNs : Nat := 3600 * 10 ^ 9

/-- Errors counted in the last hours. -/
def State.errorsIn (s : State) (hours : Nat) : List SoftError := s.softErrors.filter (fun x => decide (s.wall < x.wall + hours * hourNs))

/-- A cluster is to be retired (26 R458): two uncorrectable errors in its tile memory, weight store or register storage within
24 h, or more than 1,000 corrected ones in one hour. -/
def State.clusterWorn (s : State) (k : Nat) : Bool :=
  let own := fun (x : SoftError) => x.what == .cluster k
  2 ≤ ((s.errorsIn 24).filter (fun x => own x && !x.correctable && (match x.area with | .tile _ | .ws _ | .regs _ => true | _ => false))).length
    || 1000 < ((s.errorsIn 1).filter (fun x => own x && x.correctable)).length

/-- A channel is to be retired (26 R459): uncorrectable errors in more than 16 distinct 32-byte units within 24 h. -/
def State.channelWorn (s : State) (n : Nat) : Bool :=
  16 < ((((s.errorsIn 24).filter (fun x => x.what == .channel n && !x.correctable)).map (fun x => (x.area, x.unit))).eraseDups).length

/-- CLUSTER_RETIREMENT -/
def execClusterRetirement (cluster : BitVec 5) (s : State) : Host.Outcome State Fault Refusal :=
  .next (let k := cluster.toNat
    if !s.clPres.getLsbD k || !s.clusterWorn k then s
    else
      let bit : BitVec 32 := BitVec.twoPow 32 k
      let hit := s.tasks.vals.filter (fun t => t.cluster == k && (match t.phase with
        | .waiting | .ready | .queued => false
        | _ => true))
      let s := hit.foldl (fun s t => s.endTask t 0x4C 1 k) s
      { s with clPres := s.clPres &&& ~~~bit, reports := s.reports ++ [.cluster k]
               parts := s.parts.map (fun (x : Nat × Part) => (x.1, { x.2 with clpres := x.2.clpres &&& ~~~bit, clusters := x.2.clusters &&& ~~~bit })) })

/-- CHANNEL_RETIREMENT: it leaves at the next reset. -/
def execChannelRetirement (ch : BitVec 8) (s : State) : Host.Outcome State Fault Refusal :=
  .next (if s.chRetired.getLsbD ch.toNat || !s.channelWorn ch.toNat then s
    else { s with chRetired := s.chRetired ||| BitVec.twoPow 256 ch.toNat, reports := s.reports ++ [.channel ch.toNat] })

/-! ## Gated targets (23 R437) -/

/-- A cluster holds no live crew and no live .shr allocation. -/
def State.clusterIdle (s : State) (k : Nat) : Bool :=
  s.tasks.vals.all (fun t => !(t.cluster == k && t.resident)) && s.warps.vals.all (fun w => w.place.all (fun pl => pl.core.cluster != k))

/-- POWER_GATE -/
def execPowerGate (unit : Gateable) (gate : Bool) (s : State) : Host.Outcome State Fault Refusal :=
  .next (match unit with
    | .cluster k =>
      if gate && !s.clusterIdle k.toNat then s else s.setCluster k.toNat { s.cluster k.toNat with gated := gate }
    | .peer n =>
      let others := s.gatedPeers.filter (· != n)
      { s with gatedPeers := if gate then n :: others else others })

/-- FABRIC_PORT_DOWN -/
def execFabricPortDown (port : Nat) (down : Bool) (s : State) : Host.Outcome State Fault Refusal :=
  .next (let bit : BitVec 18 := BitVec.twoPow 18 port
    { s with portsDown := if down then s.portsDown ||| bit else s.portsDown &&& ~~~bit })

/-! ## Time (R237, 23 R442-R444) -/

/-- The place of a source in the order of R237. -/
def srcRank : TimeSrc → Nat
  | .ptp => 0 | .fabric => 1 | .ptm => 2

/-- The instant of a source's last correction. -/
def State.lastOf (s : State) : TimeSrc → Option DWord
  | .ptp => s.lastPtp | .fabric => s.lastFabric | .ptm => s.lastPtm

/-- The state with that instant set. -/
def State.setLast (s : State) (src : TimeSrc) (t : Option DWord) : State :=
  match src with
  | .ptp => { s with lastPtp := t } | .fabric => { s with lastFabric := t } | .ptm => { s with lastPtm := t }

/-- A correction comes from a source (23 R442): fabric time exchange is one only from a peer that is itself disciplined. -/
def isSource (src : TimeSrc) (x : TimeExchange) : Bool := src != .fabric || x.disciplined

/-- TIME_CORRECTION: that of the source in use, or of one before it in the order, is accepted. The holdover terms of the domain
come with any time exchange (23 R443). -/
def execTimeCorrection (src : TimeSrc) (offset : Int) (peers : TimeExchange) (s : State) : Host.Outcome State Fault Refusal :=
  .next (let s := { s with hPeers := peers.hs }
    if !isSource src peers then s
    else
      let s := s.setLast src (some s.gtime)
      let accepted := match s.timeSrc with | some x => decide (srcRank src ≤ srcRank x) | none => true
      if accepted then { s with
        timeSrc := some src, tLast := s.gtime, slew := offset, offset := offset.natAbs
        regaining := (s.regaining || s.timeSrc.isNone) && 50 ≤ offset.natAbs }
      else s)

/-- The firmware's time-status report (23 R442): the source in use and the holdover term. -/
def State.timeStatus (s : State) : Option TimeSrc × Nat := (s.timeSrc, s.holdover)

/-- The next source that is not lost. -/
def State.nextSrc (s : State) : Option TimeSrc := [TimeSrc.ptp, .fabric, .ptm].find? (fun x => (s.lastOf x).isSome)

/-- A source has given no correction for 4 s. -/
def State.srcLost (s : State) (src : TimeSrc) : Bool :=
  match s.lastOf src with
  | some t => decide (t.toNat + 4000000000 ≤ s.gtime.toNat)
  | none => false

/-- TIME_SOURCE_LOST -/
def execTimeSourceLost (src : TimeSrc) (s : State) : Host.Outcome State Fault Refusal :=
  .next (if !s.srcLost src then s
    else
      let s := s.setLast src none
      if s.timeSrc == some src then { s with timeSrc := s.nextSrc } else s)

end Sys2Proof.Machine
end

