-- ==== Sys2Proof/Machine/Dispatch.lean ====
section
/-! DEFINITION. The dispatch: one arm for every instruction, each a direct call of its meaning. -/

namespace Sys2Proof.Machine

def exec (i : Instr) (s : State) : Host.Outcome State Fault Refusal :=
  match i with
  | .iadd h t sat d a b => Sys2Proof.Machine.execIadd h t sat d a b s
  | .iaddImm h t sat d a imm => Sys2Proof.Machine.execIaddImm h t sat d a imm s
  | .isub h t sat d a b => Sys2Proof.Machine.execIsub h t sat d a b s
  | .isubImm h t sat d a imm => Sys2Proof.Machine.execIsubImm h t sat d a imm s
  | .imul h t sat d a b => Sys2Proof.Machine.execImul h t sat d a b s
  | .imulImm h t sat d a imm => Sys2Proof.Machine.execImulImm h t sat d a imm s
  | .imulh h t d a b => Sys2Proof.Machine.execImulh h t d a b s
  | .imulhImm h t d a imm => Sys2Proof.Machine.execImulhImm h t d a imm s
  | .imad h t sat d a b c => Sys2Proof.Machine.execImad h t sat d a b c s
  | .imadImm h t sat d a b imm => Sys2Proof.Machine.execImadImm h t sat d a b imm s
  | .imadw h t d a b c => Sys2Proof.Machine.execImadw h t d a b c s
  | .imadwImm h t d a b imm => Sys2Proof.Machine.execImadwImm h t d a b imm s
  | .iadd64 h t d a b => Sys2Proof.Machine.execIadd64 h t d a b s
  | .iadd64Imm h t d a imm => Sys2Proof.Machine.execIadd64Imm h t d a imm s
  | .imad64 h t d a b c => Sys2Proof.Machine.execImad64 h t d a b c s
  | .imin h t d a b => Sys2Proof.Machine.execImin h t d a b s
  | .iminImm h t d a imm => Sys2Proof.Machine.execIminImm h t d a imm s
  | .imax h t d a b => Sys2Proof.Machine.execImax h t d a b s
  | .imaxImm h t d a imm => Sys2Proof.Machine.execImaxImm h t d a imm s
  | .iabs h sat d a => Sys2Proof.Machine.execIabs h sat d a s
  | .ineg h t sat d a => Sys2Proof.Machine.execIneg h t sat d a s
  | .isad h t d a b c => Sys2Proof.Machine.execIsad h t d a b c s
  | .isadImm h t d a b imm => Sys2Proof.Machine.execIsadImm h t d a b imm s
  | .and h d a b => Sys2Proof.Machine.execAnd h d a b s
  | .andImm h d a imm => Sys2Proof.Machine.execAndImm h d a imm s
  | .or h d a b => Sys2Proof.Machine.execOr h d a b s
  | .orImm h d a imm => Sys2Proof.Machine.execOrImm h d a imm s
  | .xor h d a b => Sys2Proof.Machine.execXor h d a b s
  | .xorImm h d a imm => Sys2Proof.Machine.execXorImm h d a imm s
  | .andn h d a b => Sys2Proof.Machine.execAndn h d a b s
  | .andnImm h d a imm => Sys2Proof.Machine.execAndnImm h d a imm s
  | .not h d a => Sys2Proof.Machine.execNot h d a s
  | .shl h d a b => Sys2Proof.Machine.execShl h d a b s
  | .shlImm h d a imm => Sys2Proof.Machine.execShlImm h d a imm s
  | .shr h d a b => Sys2Proof.Machine.execShr h d a b s
  | .shrImm h d a imm => Sys2Proof.Machine.execShrImm h d a imm s
  | .sar h d a b => Sys2Proof.Machine.execSar h d a b s
  | .sarImm h d a imm => Sys2Proof.Machine.execSarImm h d a imm s
  | .rotl h d a b => Sys2Proof.Machine.execRotl h d a b s
  | .rotlImm h d a imm => Sys2Proof.Machine.execRotlImm h d a imm s
  | .popc h d a => Sys2Proof.Machine.execPopc h d a s
  | .clz h d a => Sys2Proof.Machine.execClz h d a s
  | .brev h d a => Sys2Proof.Machine.execBrev h d a s
  | .bfx h t d a b => Sys2Proof.Machine.execBfx h t d a b s
  | .bfxImm h t d a imm => Sys2Proof.Machine.execBfxImm h t d a imm s
  | .bfi h d a b c => Sys2Proof.Machine.execBfi h d a b c s
  | .bfiImm h d a b imm => Sys2Proof.Machine.execBfiImm h d a b imm s
  | .bsel h d a b c => Sys2Proof.Machine.execBsel h d a b c s
  | .bselImm h d a b sel => Sys2Proof.Machine.execBselImm h d a b sel s
  | .icmp h cond t pd a b => Sys2Proof.Machine.execIcmp h cond t pd a b s
  | .icmpImm h cond t pd a imm => Sys2Proof.Machine.execIcmpImm h cond t pd a imm s
  | .isel h d p b c => Sys2Proof.Machine.execIsel h d p b c s
  | .iselImm h d p b imm => Sys2Proof.Machine.execIselImm h d p b imm s
  | .mov h t d a => Sys2Proof.Machine.execMov h t d a s
  | .movi h t d imm => Sys2Proof.Machine.execMovi h t d imm s
  | .lea h sh d a b => Sys2Proof.Machine.execLea h sh d a b s
  | .leaImm h sh d a imm => Sys2Proof.Machine.execLeaImm h sh d a imm s
  | .fadd h r d a b => Sys2Proof.Machine.execFadd h r d a b s
  | .faddImm h r d a imm => Sys2Proof.Machine.execFaddImm h r d a imm s
  | .fsub h r d a b => Sys2Proof.Machine.execFsub h r d a b s
  | .fsubImm h r d a imm => Sys2Proof.Machine.execFsubImm h r d a imm s
  | .fmul h r d a b => Sys2Proof.Machine.execFmul h r d a b s
  | .fmulImm h r d a imm => Sys2Proof.Machine.execFmulImm h r d a imm s
  | .ffma h r d a b c => Sys2Proof.Machine.execFfma h r d a b c s
  | .ffmaImm h r d a b imm => Sys2Proof.Machine.execFfmaImm h r d a b imm s
  | .fscl h r d a b => Sys2Proof.Machine.execFscl h r d a b s
  | .fsclImm h r d a imm => Sys2Proof.Machine.execFsclImm h r d a imm s
  | .fmin h num d a b => Sys2Proof.Machine.execFmin h num d a b s
  | .fminImm h num d a imm => Sys2Proof.Machine.execFminImm h num d a imm s
  | .fmax h num d a b => Sys2Proof.Machine.execFmax h num d a b s
  | .fmaxImm h num d a imm => Sys2Proof.Machine.execFmaxImm h num d a imm s
  | .fcmp h cond pd a b => Sys2Proof.Machine.execFcmp h cond pd a b s
  | .fcmpImm h cond pd a imm => Sys2Proof.Machine.execFcmpImm h cond pd a imm s
  | .fclass h d a => Sys2Proof.Machine.execFclass h d a s
  | .hadd2 h sub r d a b => Sys2Proof.Machine.execHadd2 h sub r d a b s
  | .hadd2Imm h sub r d a imm => Sys2Proof.Machine.execHadd2Imm h sub r d a imm s
  | .hmul2 h r d a b => Sys2Proof.Machine.execHmul2 h r d a b s
  | .hmul2Imm h r d a imm => Sys2Proof.Machine.execHmul2Imm h r d a imm s
  | .hfma2 h r d a b c => Sys2Proof.Machine.execHfma2 h r d a b c s
  | .hfma2Imm h r d a b imm => Sys2Proof.Machine.execHfma2Imm h r d a b imm s
  | .badd2 h sub r d a b => Sys2Proof.Machine.execBadd2 h sub r d a b s
  | .badd2Imm h sub r d a imm => Sys2Proof.Machine.execBadd2Imm h sub r d a imm s
  | .bmul2 h r d a b => Sys2Proof.Machine.execBmul2 h r d a b s
  | .bmul2Imm h r d a imm => Sys2Proof.Machine.execBmul2Imm h r d a imm s
  | .bfma2 h r d a b c => Sys2Proof.Machine.execBfma2 h r d a b c s
  | .bfma2Imm h r d a b imm => Sys2Proof.Machine.execBfma2Imm h r d a b imm s
  | .hmnx2 h var d a b => Sys2Proof.Machine.execHmnx2 h var d a b s
  | .hmnx2Imm h var d a imm => Sys2Proof.Machine.execHmnx2Imm h var d a imm s
  | .f2i h t r d a => Sys2Proof.Machine.execF2i h t r d a s
  | .f2iFh h t r d a => Sys2Proof.Machine.execF2iFh h t r d a s
  | .f2iFb h t r d a => Sys2Proof.Machine.execF2iFb h t r d a s
  | .i2f h t r d a => Sys2Proof.Machine.execI2f h t r d a s
  | .i2fU h t r d a => Sys2Proof.Machine.execI2fU h t r d a s
  | .i2fL h t r d a => Sys2Proof.Machine.execI2fL h t r d a s
  | .i2fUl h t r d a => Sys2Proof.Machine.execI2fUl h t r d a s
  | .fcvt h t r d a => Sys2Proof.Machine.execFcvt h t r d a s
  | .fcvtFh h t r d a => Sys2Proof.Machine.execFcvtFh h t r d a s
  | .fcvtFb h t r d a => Sys2Proof.Machine.execFcvtFb h t r d a s
  | .f2f8E4m3 h sat r d a b c => Sys2Proof.Machine.execF2f8E4m3 h sat r d a b c s
  | .f2f8E5m2 h sat r d a b c => Sys2Proof.Machine.execF2f8E5m2 h sat r d a b c s
  | .f82fE4m3 h r d a b c => Sys2Proof.Machine.execF82fE4m3 h r d a b c s
  | .f82fE5m2 h r d a b c => Sys2Proof.Machine.execF82fE5m2 h r d a b c s
  | .frnd h r d a => Sys2Proof.Machine.execFrnd h r d a s
  | .frcp h d a => Sys2Proof.Machine.execFrcp h d a s
  | .frsq h d a => Sys2Proof.Machine.execFrsq h d a s
  | .fsqrt h d a => Sys2Proof.Machine.execFsqrt h d a s
  | .fexp2 h d a => Sys2Proof.Machine.execFexp2 h d a s
  | .flog2 h d a => Sys2Proof.Machine.execFlog2 h d a s
  | .fsin h d a => Sys2Proof.Machine.execFsin h d a s
  | .fcos h d a => Sys2Proof.Machine.execFcos h d a s
  | .ftanh h d a => Sys2Proof.Machine.execFtanh h d a s
  | .pset h op pd a b => Sys2Proof.Machine.execPset h op pd a b s
  | .pmov h bit pd a => Sys2Proof.Machine.execPmov h bit pd a s
  | .vote h var d pe a p => Sys2Proof.Machine.execVote h var d pe a p s
  | .shfl h t var d pe a b c => Sys2Proof.Machine.execShfl h t var d pe a b c s
  | .bcast h t d pe a b c => Sys2Proof.Machine.execBcast h t d pe a b c s
  | .redx h t op d pe a b => Sys2Proof.Machine.execRedx h t op d pe a b s
  | .scanx h t excl op d pe a b => Sys2Proof.Machine.execScanx h t excl op d pe a b s
  | .matchx h t d pe a b => Sys2Proof.Machine.execMatchx h t d pe a b s
  | .shq h d a => Sys2Proof.Machine.execShq h d a s
  | .sha h a shape => Sys2Proof.Machine.execSha h a shape s
  | .shf h d a shape => Sys2Proof.Machine.execShf h d a shape s
  | .shrsv h pd n => Sys2Proof.Machine.execShrsv h pd n s
  | .bra h off => Sys2Proof.Machine.execBra h off s
  | .brx h a => Sys2Proof.Machine.execBrx h a s
  | .call h d off => Sys2Proof.Machine.execCall h d off s
  | .callx h d a => Sys2Proof.Machine.execCallx h d a s
  | .ret h a => Sys2Proof.Machine.execRet h a s
  | .join h a => Sys2Proof.Machine.execJoin h a s
  | .joinImm h m => Sys2Proof.Machine.execJoinImm h m s
  | .exit h => Sys2Proof.Machine.execExit h s
  | .exitSucc h a => Sys2Proof.Machine.execExitSucc h a s
  | .yield h => Sys2Proof.Machine.execYield h s
  | .sleept h a => Sys2Proof.Machine.execSleept h a s
  | .nop h => Sys2Proof.Machine.execNop h s
  | .trap h code => Sys2Proof.Machine.execTrap h code s
  | .brkpt h code => Sys2Proof.Machine.execBrkpt h code s
  | .ld h scope ord bc t d m disp => Sys2Proof.Machine.execLd h scope ord bc t d m disp s
  | .st h scope ord t d m disp => Sys2Proof.Machine.execSt h scope ord t d m disp s
  | .ldc h scope ord bc d m disp => Sys2Proof.Machine.execLdc h scope ord bc d m disp s
  | .stc h scope ord d m disp => Sys2Proof.Machine.execStc h scope ord d m disp s
  | .atom h scope ord op t d m disp c => Sys2Proof.Machine.execAtom h scope ord op t d m disp c s
  | .red h scope ord op t d m disp => Sys2Proof.Machine.execRed h scope ord op t d m disp s
  | .fence h scope ord => Sys2Proof.Machine.execFence h scope ord s
  | .waitmem h scope ord cond t d m disp => Sys2Proof.Machine.execWaitmem h scope ord cond t d m disp s
  | .pin h pd m disp => Sys2Proof.Machine.execPin h pd m disp s
  | .unpin h m disp => Sys2Proof.Machine.execUnpin h m disp s
  | .pref h m disp => Sys2Proof.Machine.execPref h m disp s
  | .icinv h m disp => Sys2Proof.Machine.execIcinv h m disp s
  | .capnar h fmt pitch l d pe a b c => Sys2Proof.Machine.execCapnar h fmt pitch l d pe a b c s
  | .capperm h d a mask => Sys2Proof.Machine.execCapperm h d a mask s
  | .capget h sel d a => Sys2Proof.Machine.execCapget h sel d a s
  | .captst h need pd a b c => Sys2Proof.Machine.execCaptst h need pd a b c s
  | .cpy h scope src dst m => Sys2Proof.Machine.execCpy h scope src dst m s
  | .cpyg h scope src dst m e => Sys2Proof.Machine.execCpyg h scope src dst m e s
  | .coll h scope src dst m e => Sys2Proof.Machine.execColl h scope src dst m e s
  | .mma h scope bf acc bar slot m e f => Sys2Proof.Machine.execMma h scope bf acc bar slot m e f s
  | .mdrain h scope fmt t bar slot a r acc => Sys2Proof.Machine.execMdrain h scope fmt t bar slot a r acc s
  | .mzero h scope fmt bar slot => Sys2Proof.Machine.execMzero h scope fmt bar slot s
  | .wtload h scope src bar tbl m => Sys2Proof.Machine.execWtload h scope src bar tbl m s
  | .widx h a b => Sys2Proof.Machine.execWidx h a b s
  | .barinit h sp m e f => Sys2Proof.Machine.execBarinit h sp m e f s
  | .bararr h scope sp n m => Sys2Proof.Machine.execBararr h scope sp n m s
  | .barwait h sp m e => Sys2Proof.Machine.execBarwait h sp m e s
  | .bartst h sp d m => Sys2Proof.Machine.execBartst h sp d m s
  | .rngget h full d pe m => Sys2Proof.Machine.execRngget h full d pe m s
  | .rngput h full m e => Sys2Proof.Machine.execRngput h full m e s
  | .rngclose h m => Sys2Proof.Machine.execRngclose h m s
  | .waitcnt h cls n => Sys2Proof.Machine.execWaitcnt h cls n s
  | .tbar h => Sys2Proof.Machine.execTbar h s
  | .tspawn h a b => Sys2Proof.Machine.execTspawn h a b s
  | .evsig h a name => Sys2Proof.Machine.execEvsig h a name s
  | .evwait h a name => Sys2Proof.Machine.execEvwait h a name s
  | .rdtime h d => Sys2Proof.Machine.execRdtime h d s
  | .rdid h sel d => Sys2Proof.Machine.execRdid h sel d s
  | .rdcnt h sel d => Sys2Proof.Machine.execRdcnt h sel d s
  | .hvlend h pd m e => Sys2Proof.Machine.execHvlend h pd m e s
  | .hvstat h d => Sys2Proof.Machine.execHvstat h d s
  | .xret h => Sys2Proof.Machine.execXret h s
  | .mfx h reg d => Sys2Proof.Machine.execMfx h reg d s
  | .mtx h reg a => Sys2Proof.Machine.execMtx h reg a s
  | .tlbinv h ctx a b c => Sys2Proof.Machine.execTlbinv h ctx a b c s
  | .caproot h d a => Sys2Proof.Machine.execCaproot h d a s
  | .ckpt h => Sys2Proof.Machine.execCkpt h s
  | .halt h => Sys2Proof.Machine.execHalt h s
  | .crossLaneComplete w x => Sys2Proof.Machine.execCrossLaneComplete w x s
  | .joinRelease w x => Sys2Proof.Machine.execJoinRelease w x s
  | .yieldExpiry w pid => Sys2Proof.Machine.execYieldExpiry w pid s
  | .sleeptRelease w pid => Sys2Proof.Machine.execSleeptRelease w pid s
  | .waitmemSatisfied w entry => Sys2Proof.Machine.execWaitmemSatisfied w entry s
  | .waitmemPoll w entry => Sys2Proof.Machine.execWaitmemPoll w entry s
  | .storePerform w entry lns => Sys2Proof.Machine.execStorePerform w entry lns s
  | .atomicPerform w entry lns => Sys2Proof.Machine.execAtomicPerform w entry lns s
  | .loadReturn w entry => Sys2Proof.Machine.execLoadReturn w entry s
  | .storeAcknowledge w entry => Sys2Proof.Machine.execStoreAcknowledge w entry s
  | .remoteLoadBlock w pid => Sys2Proof.Machine.execRemoteLoadBlock w pid s
  | .pageWalk part ctx va write => Sys2Proof.Machine.execPageWalk part ctx va write s
  | .targetGatedRetry w entry => Sys2Proof.Machine.execTargetGatedRetry w entry s
  | .engineOpStart op eng => Sys2Proof.Machine.execEngineOpStart op eng s
  | .matrixGrant cluster => Sys2Proof.Machine.execMatrixGrant cluster s
  | .collectiveContribution part set k pos cols data => Sys2Proof.Machine.execCollectiveContribution part set k pos cols data s
  | .engineOpComplete op => Sys2Proof.Machine.execEngineOpComplete op s
  | .barwaitRelease w pid => Sys2Proof.Machine.execBarwaitRelease w pid s
  | .rnggetWake w pid => Sys2Proof.Machine.execRnggetWake w pid s
  | .waitcntRelease w pid => Sys2Proof.Machine.execWaitcntRelease w pid s
  | .tbarComplete task team => Sys2Proof.Machine.execTbarComplete task team s
  | .evwaitRelease w pid => Sys2Proof.Machine.execEvwaitRelease w pid s
  | .runFetch w pid => Sys2Proof.Machine.execRunFetch w pid s
  | .turnArbitration cluster core => Sys2Proof.Machine.execTurnArbitration cluster core s
  | .warpLeaveSlot w => Sys2Proof.Machine.execWarpLeaveSlot w s
  | .eventRecordApply cluster => Sys2Proof.Machine.execEventRecordApply cluster s
  | .schedulingRound part => Sys2Proof.Machine.execSchedulingRound part s
  | .evictionSaveComplete task => Sys2Proof.Machine.execEvictionSaveComplete task s
  | .harvestPlacement cluster core => Sys2Proof.Machine.execHarvestPlacement cluster core s
  | .harvestRevocation cluster core => Sys2Proof.Machine.execHarvestRevocation cluster core s
  | .checkpointStart part => Sys2Proof.Machine.execCheckpointStart part s
  | .checkpointCommit part => Sys2Proof.Machine.execCheckpointCommit part s
  | .checkpointFailure part => Sys2Proof.Machine.execCheckpointFailure part s
  | .sliceEndRollback part nextPart lost => Sys2Proof.Machine.execSliceEndRollback part nextPart lost s
  | .powerMeasurement watts meters => Sys2Proof.Machine.execPowerMeasurement watts meters s
  | .railChange cluster => Sys2Proof.Machine.execRailChange cluster s
  | .thermalLimit die => Sys2Proof.Machine.execThermalLimit die s
  | .thermalStop die => Sys2Proof.Machine.execThermalStop die s
  | .clusterRetirement cluster => Sys2Proof.Machine.execClusterRetirement cluster s
  | .channelRetirement ch => Sys2Proof.Machine.execChannelRetirement ch s
  | .timeCorrection src offset peers => Sys2Proof.Machine.execTimeCorrection src offset peers s
  | .timeSourceLost src => Sys2Proof.Machine.execTimeSourceLost src s
  | .scrubUnit unit => Sys2Proof.Machine.execScrubUnit unit s
  | .powerUp => Sys2Proof.Machine.execPowerUp s
  | .reset => Sys2Proof.Machine.execReset s
  | .ident => Sys2Proof.Machine.execIdent s
  | .settime v => Sys2Proof.Machine.execSettime v s
  | .loadseg host off len => Sys2Proof.Machine.execLoadseg host off len s
  | .verify len => Sys2Proof.Machine.execVerify len s
  | .start => Sys2Proof.Machine.execStart s
  | .attest nonce => Sys2Proof.Machine.execAttest nonce s
  | .partitionCreate a => Sys2Proof.Machine.execPartitionCreate a s
  | .partitionDestroy part => Sys2Proof.Machine.execPartitionDestroy part s
  | .memoryRelease part units => Sys2Proof.Machine.execMemoryRelease part units s
  | .ctxset part ctx root pinq hentry => Sys2Proof.Machine.execCtxset part ctx root pinq hentry s
  | .ctxdel part ctx => Sys2Proof.Machine.execCtxdel part ctx s
  | .frontEndRangeSet fe lo hi => Sys2Proof.Machine.execFrontEndRangeSet fe lo hi s
  | .traceBufferSet part base size mask => Sys2Proof.Machine.execTraceBufferSet part base size mask s
  | .debugModeSet part on => Sys2Proof.Machine.execDebugModeSet part on s
  | .debugRelease w xpc xstat ks => Sys2Proof.Machine.execDebugRelease w xpc xstat ks s
  | .railVote part cluster r => Sys2Proof.Machine.execRailVote part cluster r s
  | .feNop fe => Sys2Proof.Machine.execFeNop fe s
  | .launch fe => Sys2Proof.Machine.execLaunch fe s
  | .grant fe => Sys2Proof.Machine.execGrant fe s
  | .feEvsig fe => Sys2Proof.Machine.execFeEvsig fe s
  | .evreset fe => Sys2Proof.Machine.execEvreset fe s
  | .cntread fe => Sys2Proof.Machine.execCntread fe s
  | .drain fe => Sys2Proof.Machine.execDrain fe s
  | .xtload fe => Sys2Proof.Machine.execXtload fe s
  | .tailWrite fe v => Sys2Proof.Machine.execTailWrite fe v s
  | .qenWrite fe v => Sys2Proof.Machine.execQenWrite fe v s
  | .cheadWrite fe v => Sys2Proof.Machine.execCheadWrite fe v s
  | .pwrcapWrite v => Sys2Proof.Machine.execPwrcapWrite v s
  | .registerWrite r v => Sys2Proof.Machine.execRegisterWrite r v s
  | .hostBar2Access fn pa bytes len => Sys2Proof.Machine.execHostBar2Access fn pa bytes len s
  | .loadServed w entry lns => Sys2Proof.Machine.execLoadServed w entry lns s
  | .releaseWaitElapsed w entry => Sys2Proof.Machine.execReleaseWaitElapsed w entry s
  | .powerGate unit gate => Sys2Proof.Machine.execPowerGate unit gate s
  | .fabricPortDown port down => Sys2Proof.Machine.execFabricPortDown port down s
  | .belowJunctionLimit die => Sys2Proof.Machine.execBelowJunctionLimit die s
  | .powerRemoved => Sys2Proof.Machine.execPowerRemoved s

end Sys2Proof.Machine
end

