-- ==== Sys2Proof/Machine/Issue.lean ====
section
/-! DEFINITION. The issue of words (02 R25-R29): the word at the head of a turn path's run issues once its path's STALL has
passed, and two words issue together. A harvest warp's word does not issue while an owner warp of its core is ready (04
R94). -/

namespace Sys2Proof.Machine

/-- A word is decoded and performed for a path. -/
def State.perform (exec : Instr → State → Host.Outcome State Fault Refusal) (s : State) (k : WarpKey) (pid : Nat) (w : Insn) :
    Host.Outcome State Fault Refusal :=
  match decode w with
  | .ok i => exec i { s with cur := some (k, pid) }
  | .error e => .next (s.illegalWord k pid e)

/-- The cycle in which the path's next word may issue begins before the nanosecond is over (02 R29), and no access of it is
tried again at a target that cannot be reached (23 R437). -/
def State.slotDue (s : State) (k : WarpKey) (pid : Nat) : Bool :=
  match s.warp k with
  | none => false
  | some w =>
    match w.path pid with
    | some p => decide (p.stall < s.slotEnd w) && !s.gatedPath w p
    | none => false

/-- A harvest warp's turn is cut (04 R94): an owner warp of its core is ready. -/
def State.cut (s : State) (k : WarpKey) : Bool :=
  match s.warp k with
  | none => false
  | some w => w.inHarvest && w.place.any (fun pl => s.ownerReady pl.core)

/-- A word of the path may issue: the turn is its warp's, and its cycle has come. -/
def State.mayIssue (s : State) (k : WarpKey) (pid : Nat) : Bool := s.inTurn k pid && s.slotDue k pid && !s.cut k

/-- Two paths whose words issue together do so in one cycle. -/
def State.abreast (s : State) (k : WarpKey) (prim sec : Nat) : State :=
  let slot := match s.warp k with
    | some w => max ((w.path prim).elim 0 (·.stall)) ((w.path sec).elim 0 (·.stall))
    | none => 0
  (s.onPath k prim (fun p => { p with stall := slot })).onPath k sec (fun p => { p with stall := slot })

/-- The word at the head of a turn path's run issues. -/
def State.issueWord (exec : Instr → State → Host.Outcome State Fault Refusal) (s : State) (k : WarpKey) (pid : Nat) :
    Host.Outcome State Fault Refusal :=
  match s.headWord k pid with
  | none => .next s
  | some w =>
    if !s.mayIssue k pid then .next s
    else
      let pl := s.placeOf k
      andThen (s.perform exec k pid w) fun s => .next ({ s with cur := none }.afterWord pl.core pl.slot (wordYld w))

/-- Two words may issue together (02 R26, 22 R425): both are instructions, with OPC[9:7] equal and 0, 1 or 2. -/
def pairable (a b : Insn) : Bool :=
  let cls := fun (w : Insn) => (w.extractLsb' 93 3).toNat
  (decode a).toBool && (decode b).toBool && cls a == cls b && cls a < 3

/-- The words of both turn paths issue together (02 R26, R27). -/
def State.issuePair (exec : Instr → State → Host.Outcome State Fault Refusal) (s : State) (k : WarpKey) (prim sec : Nat) :
    Host.Outcome State Fault Refusal :=
  match s.headWord k prim, s.headWord k sec, s.warp k with
  | some a, some b, some w =>
    if !s.mayIssue k prim || !s.mayIssue k sec || prim == sec || !pairable a b then .next s
    else
      let pl := s.placeOf k
      let s := s.abreast k prim sec
      andThen (State.perform exec { s with dual := some (s.readable w) } k prim a) fun s =>
        andThen (s.perform exec k sec b) fun s =>
          .next ({ s with cur := none, dual := none }.afterWord pl.core pl.slot (wordYld a || wordYld b))
  | _, _, _ => .next s

end Sys2Proof.Machine
end

