-- ==== Sys2Proof/Machine/Pick.lean ====
section
/-! DEFINITION. Time, upsets of stored bits, and the order in which what is due takes place where the agenda names nothing
[1]: every step that is due at an instant before a word issues, and time passes when nothing else is due or a word has
issued. -/

namespace Sys2Proof.Machine

/-! ## Time (01 R16, 06 R130) -/

/-- What n ns correct of a slew: at most 200 ppm, one ns at each 5,000 ns of wall time (10 R237). -/
def slewed (wall n : Nat) (slew : Int) : Int :=
  let most : Int := ((wall + n) / 5000 - wall / 5000 : Nat)
  max (-most) (min most slew)

/-- The cores on which warps stand. -/
def State.coresUsed (s : State) : List CoreKey := (s.warps.vals.filterMap (fun w => w.place.map (·.core))).eraseDups

/-- An owner warp of the core has the turn or is ready. -/
def State.ownerBusy (s : State) (c : CoreKey) : Bool :=
  s.ownerReady c || (s.core c).turn.any (fun t => match s.warp t.w with | some w => !w.inHarvest | none => false)

/-- Cores on which an owner warp is ready are not idle. -/
def State.markBusy (s : State) : State :=
  s.coresUsed.foldl (fun s c => if s.ownerBusy c then s.setCore c { s.core c with idleSince := s.cyclesOf c.cluster } else s) s

/-- A timed round is due at every multiple of 1,000 ns (04 R81): n of them. -/
def State.timedRounds (s : State) (n : Nat) : State :=
  { s with parts := s.parts.map (fun (x : Nat × Part) => (x.1, { x.2 with
      roundsDue := if x.2.open then x.2.roundsDue + n else x.2.roundsDue })) }

/-- Time passes. -/
def State.pass (s : State) (ns : Nat) : State :=
  if s.boot == .off then s
  else
    let g := s.gtime.toNat
    let d := slewed s.wall ns s.slew
    let g' := ((g : Int) + ns + d).toNat
    let s := { s with gtime := BitVec.ofNat 64 g', wall := s.wall + ns, slew := s.slew - d }
    (s.timedRounds (g' / 1000 - g / 1000)).markBusy.settle.endJobs.watch

/-! ## Upsets (23 R433) -/

/-- The cluster or the channel for which an upset that the code corrects is counted: the channel of memory, of chip
scratchpad and of what a partition keeps in memory, the cluster of the rest (DESIGN CHOICE [13]). -/
def State.upsetOf (s : State) (u : Upset) : Report :=
  let line := u.unit / 4
  let ch := fun (p : Option Part) => Report.channel (match p with | some p => p.channel line | none => line % 256)
  let cl := fun (t : Nat) => Report.cluster (match s.task t with | some t => t.cluster | none => 0)
  match u.area with
  | .hbm => ch (s.parts.vals.find? (fun p => p.units.vals.contains (line / 2 ^ 23)))
  | .chip p | .log p | .image p => ch (s.part p)
  | .shr t | .scr t _ | .tile t => cl t
  | .ws k | .idx k | .tlb _ k => .cluster k
  | .l1 c | .icache c => .cluster c.cluster
  | .l2 _ => ch ((s.l2.find? (fun l => l.line == line)).bind (fun l => s.part l.part))
  | .regs w => cl w.task

/-- A corrected or refetched event is counted (23 R433). -/
def State.countUpset (s : State) (u : Upset) : State :=
  let r := s.upsetOf u
  { s with corrected := s.corrected.set r ((s.corrected.find r).getD 0 + 1) }

/-- An error of storage that a SECDED code guards is counted with its time (26 R457); what is older than 24 h counts no more. -/
def State.noteError (s : State) (u : Upset) : State :=
  { s with softErrors := ⟨s.upsetOf u, s.wall, u.area, u.unit, u.correctable⟩
      :: s.softErrors.filter (fun x => decide (s.wall < x.wall + 24 * hourNs)) }

/-- An entry of an undo log is lost. -/
def Part.loseEntry (p : Part) (n : Nat) : Part :=
  { p with undo := (p.undo.zip (List.range p.undo.length)).map (fun (u, i) => if i == n then { u with bad := true } else u) }

/-- The die in whose L2 a line is. -/
def State.l2Die (s : State) (l : L2Line) : Bool := (s.part l.part).any (fun p => p.homeDie l.line)

/-- The copy of an upset unit that parity guards is discarded, to be fetched from its home or walked again (R433); none where
there is no such copy. -/
def State.discard (s : State) (u : Upset) : Option State :=
  let line := u.unit / 4
  match u.area with
  | .l1 c =>
    let hit := fun (x : Copy) => x.holder == .l1 c && x.line == line
    let clean := fun (x : L1Line) => x.core == c && x.line == line && !x.dirty
    if s.copies.any hit || s.l1.any clean then
      some { s with copies := s.copies.filter (fun x => !hit x), l1 := s.l1.filter (fun x => !clean x) }
    else none
  | .icache c =>
    let hit := fun (x : ICLine) => x.line == line
    if (s.core c).icache.any hit then some (s.setCore c { s.core c with icache := (s.core c).icache.filter (fun x => !hit x) }) else none
  | .tlb p _ =>
    let hit := fun (e : TlbEntry) => decide (e.base ≤ 32 * u.unit) && decide (32 * u.unit < e.base + e.size)
    if (s.part p).any (fun q => q.tlb.any hit) then some (s.onPart p (fun q => { q with tlb := q.tlb.filter (fun e => !hit e) })) else none
  | .l2 d =>
    let hit := fun (x : L2Line) => x.line == line && !x.dirty && s.l2Die x == d
    let copy := fun (x : Copy) => (x.holder == .die d || x.holder == .fabric) && x.line == line
    if s.l2.any hit || s.copies.any copy then
      some { s with l2 := s.l2.filter (fun x => !(hit x && x.pins.isEmpty)), copies := s.copies.filter (fun x => !copy x) }
    else none
  | _ => none

/-- An upset that a SECDED code guards, or a copy that is not there. A dirty line of an L1 or an L2 lies in the memory it is
homed on (05 R129): its poison stands there. -/
def State.strikeCoded (s : State) (u : Upset) : State :=
  let dirty := fun (held : Bool) => if !held then s
    else if u.correctable then (s.countUpset u).noteError u
    else { s.noteError u with hbm := s.hbm.addPoison (32 * u.unit) }
  match u.area with
  | .icache _ | .tlb .. | .idx _ => s
  | .l1 c => dirty (s.l1.any (fun x => x.core == c && x.line == u.unit / 4 && x.dirty))
  | .l2 d => dirty (s.l2.any (fun x => x.line == u.unit / 4 && x.dirty && s.l2Die x == d))
  | a =>
    if u.correctable then (s.countUpset u).noteError u
    else
    let s := s.noteError u
    match a with
    | .tile _ | .ws _ | .image _ => { s with upsets := u :: s.upsets }
    | .log p => s.onPart p (fun p => p.loseEntry u.unit)
    | .regs k => s.endCrew k 0x44 3 (BitVec.ofNat 64 (32 * u.unit))
    | a => s.setArea a ((s.area a).addPoison (32 * u.unit))

/-- A stored bit is upset (23 R433): a copy under parity is discarded and counted; else the bit is corrected and counted; or
its unit is poisoned at its home, or waits in tile memory or the weight store for the engine that reads it, or ends the crew
whose registers it strikes; an entry of an undo log is lost, and what a checkpoint reads is found by the checkpoint. -/
def State.strike (s : State) (u : Upset) : State :=
  match s.discard u with
  | some t => t.countUpset u
  | none => s.strikeCoded u

/-! ## What is due -/

/-- The release that is due for a waiting path. -/
def State.releaseStep (s : State) (w : Warp) (p : Path) : Option Instr :=
  let k := w.key
  let on := fun (b : Bool) (i : Instr) => if b then some i else none
  match p.wait with
  | .join _ => on (w.joinDue p.pc p.frame.isSome) (.joinRelease k p.pc)
  | .cross .. => on (w.meetingDue p.pc p.frame.isSome) (.crossLaneComplete k p.pc)
  | .yield .. => on (s.yieldDue w p) (.yieldExpiry k p.pid)
  | .sleep _ => on (s.sleepDue w p) (.sleeptRelease k p.pid)
  | .waitcnt cls n => on (decide (w.cnt cls ≤ n.toNat)) (.waitcntRelease k p.pid)
  | .tbar => on (s.tbarDue k.task k.team) (.tbarComplete k.task k.team)
  | .evwait name target =>
    on (match s.part w.part with | some q => q.meets name target | none => false) (.evwaitRelease k p.pid)
  | .barwait .. => on (s.barwaitDue w p) (.barwaitRelease k p.pid)
  | .ring .. => on (s.ringDue w p) (.rnggetWake k p.pid)
  | .none => on (!p.remote && s.remoteDue w p) (.remoteLoadBlock k p.pid)
  | _ => none

/-- An access that may be made now: not one whose finding cannot reach its lanes, nor one that waits at a ring. -/
def State.goes (s : State) (w : Warp) (e : Entry) (a : Acc) : Bool :=
  w.allMayGo e (e.chosen a.lns) && s.scTurn e
    && (!a.seen || (e.kind != .ring && (e.others a).isEmpty
      && w.reachable e (if s.unreachable e a then 0x13 else 0x14) (a.lns &&& ~~~w.exited)))

/-- The completion of an entry finds the lines it needs. -/
def State.completes (s : State) (w : Warp) (e : Entry) : Bool := (((s.complete w e).warp w.key).bind (·.entry e.id)).isNone

/-- A place in the event queue that an access needs is free. -/
def State.hasRoom (s : State) (w : Warp) (e : Entry) : Bool :=
  e.kind != .evsig || decide ((s.cluster (s.homeCore w).cluster).events.length < 256)

/-- The step that is due for an entry of an access queue. -/
def State.entryStep (s : State) (w : Warp) (e : Entry) : Option Instr :=
  let k := w.key
  let going := e.accs.find? (fun a => !a.served && s.goes w e a)
  let gatedDue := e.gated.any (fun t => !s.stuck e || decide (t.toNat + 10000 ≤ s.gtime.toNat))
  let stuck := e.gated.isSome && s.stuck e
  if gatedDue then some (.targetGatedRetry k e.id)
  else if e.waits && !e.relDone && s.releaseOver w e then some (.releaseWaitElapsed k e.id)
  else match e.kind with
  | .fence => if w.fenceOver e then some (.releaseWaitElapsed k e.id) else none
  | .waitmem _ =>
    if (!stuck && !(w.arriving e).isEmpty) || (e.done && w.place.isSome) then some (.waitmemSatisfied k e.id)
    else if e.accs.any (s.pollDue w e) then some (.waitmemPoll k e.id) else none
  | .barwait => none
  | kind =>
    if e.done then
      if kind.loads then (if s.completes w e then some (.loadReturn k e.id) else none)
      else if !s.heldOf w e.id && s.completes w e then some (.storeAcknowledge k e.id) else none
    else match going with
    | none => none
    | some a =>
      if stuck || !s.hasRoom w e then none
      else if kind.loads then some (.loadServed k e.id a.lns)
      else if kind.stores then some (.storePerform k e.id a.lns)
      else some (.atomicPerform k e.id a.lns)

/-- The operation may be tried now: not while its target is gated. -/
def State.opTries (s : State) (o : EngOp) : Bool :=
  o.gated.all (fun t => (!s.portsOut && s.gatedPeers.isEmpty) || decide (t.toNat + 10000 ≤ s.gtime.toNat))

/-- The step that is due for an engine operation. -/
def State.opStep (s : State) (o : EngOp) : Option Instr :=
  let k := o.core.cluster
  let next := fun (n : Option EngOp) => n.any (fun x => x.id == o.id && s.opTries x)
  match o.phase with
  | .queued =>
    if o.copies && next (s.nextCopy k false (o.id % 2 == 1)) then some (.engineOpStart o.id (o.id % 2 == 1))
    else if o.gathers && next (s.nextCopy k true false) then some (.engineOpStart o.id false)
    else if o.matrix && next (s.nextGrant k) then some (.matrixGrant (BitVec.ofNat 5 k)) else none
  | .worked ehzn _ => if s.opReleased o ehzn && (o.bar.isSome || s.oldest o) then some (.engineOpComplete o.id) else none
  | .collecting .. => if o.gated.isSome && s.opTries o then some (.engineOpStart o.id false) else none

/-- The step that is due for a task: a save that goes on. -/
def State.taskStep (s : State) (t : Task) : Option Instr :=
  match t.phase with
  | .saving true => some (.evictionSaveComplete t.id)
  | .saving false => if s.saveReady t || !s.blockedCrew t.id then some (.evictionSaveComplete t.id) else none
  | _ => none

/-- The partition that receives the next slice: the next, by number, that may, with the clusters of the one whose slice
ends. -/
def State.nextTenant (s : State) (p : Part) : Option Nat :=
  let qs := sortBy (fun a b => a ≤ b) ((s.parts.vals.filter (fun q => q.arg.sliced && !q.failed && q.clusters &&& p.clusters != 0)).map (·.id))
  (qs.find? (p.id < ·)).or qs.head?

/-- The step that is due for a partition. -/
def State.partStep (s : State) (p : Part) : Option Instr :=
  if s.sliceOver p then some (.sliceEndRollback p.id (s.nextTenant p) [])
  else if s.failureDue p then some (.checkpointFailure p.id)
  else if s.commitDue p then some (.checkpointCommit p.id)
  else if s.checkpointDue p then some (.checkpointStart p.id)
  else if 0 < p.roundsDue && p.open then some (.schedulingRound p.id) else none

/-- The step that is due for a core's Tiller. -/
def State.tillerStep (s : State) (c : CoreKey) : Option Instr :=
  let k := BitVec.ofNat 5 c.cluster
  let n := BitVec.ofNat 7 c.core
  if s.demandDue c then some (.harvestRevocation k n)
  else if s.resumeDue c || (s.harvestNext c).isSome then some (.harvestPlacement k n) else none

/-- The cores on which harvest work may come or go. -/
def State.tillerCores (s : State) : List CoreKey :=
  (if s.parts.vals.all (fun p => p.harvestQ.isEmpty) then []
    else ((s.parts.vals.map Part.owns).flatten.eraseDups.map (fun k => (List.range 128).map (fun c => (⟨k, c⟩ : CoreKey)))).flatten)
  ++ (s.warps.vals.filter Warp.inHarvest).filterMap (fun w => w.place.map (·.core))

/-- The command a front end reads next. -/
def State.feStep (s : State) (n : Nat) : Option Instr :=
  let fe := BitVec.ofNat 4 n
  match s.nextCmd n with
  | none => none
  | some (_, _, c) =>
    match c.op with
    | 1 => some (.launch fe)
    | 2 => some (.grant fe)
    | 3 => some (.feEvsig fe)
    | 4 => some (.evreset fe)
    | 5 => some (.cntread fe)
    | 6 => if c.clear && s.jobs.vals.any (fun j => j.fe == n) then none else some (.drain fe)
    | 7 => some (.xtload fe)
    | _ => some (.feNop fe)

/-- The step that is due for the module as a whole. -/
def State.moduleStep (s : State) : Option Instr :=
  let rails := ((List.range 32).filter (fun k => (s.cluster k).rail != s.outcome (BitVec.ofNat 5 k))).map (fun k => Instr.railChange (BitVec.ofNat 5 k))
  let hot := [false, true].filter s.stopDue |>.map Instr.thermalStop
  let lost := [TimeSrc.ptp, .fabric, .ptm].filter s.srcLost |>.map Instr.timeSourceLost
  let worn := ((List.range 32).filter (fun k => s.clPres.getLsbD k && s.clusterWorn k)).map (fun k => Instr.clusterRetirement (BitVec.ofNat 5 k))
    ++ ((List.range 256).filter (fun n => !s.chRetired.getLsbD n && s.channelWorn n)).map (fun n => Instr.channelRetirement (BitVec.ofNat 8 n))
  (hot ++ lost ++ (if s.softErrors.isEmpty then [] else worn) ++ rails ++ s.scrubQ.map Instr.scrubUnit).head?

/-- The run that is due to be fetched. -/
def State.fetchStep (s : State) : Option Instr :=
  s.warps.vals.findSome? (fun w => (w.paths.find? (s.fetchDue w)).map (fun p => Instr.runFetch w.key p.pid))

/-- A turn of the core ends or begins. -/
def State.turnStep (s : State) (c : CoreKey) : Option Instr :=
  let i := Instr.turnArbitration (BitVec.ofNat 5 c.cluster) (BitVec.ofNat 7 c.core)
  match (s.core c).turn with
  | none => if (s.nextTurn c).isSome then some i else none
  | some t =>
    match s.warp t.w with
    | none => some i
    | some w => if (w.inHarvest && s.ownerReady c) || t.over (some w) then some i else none

/-- The words that issue on a core. -/
def State.issueStep (s : State) (c : CoreKey) : Option Move :=
  match (s.core c).turn with
  | none => none
  | some t =>
    let word := fun (p : Nat) => if s.mayIssue t.w p then s.headWord t.w p else none
    let a := word t.prim
    let b := t.sec.bind word
    match a, b, t.sec with
    | some x, some y, some q => if pairable x y then some (.pair t.w t.prim q) else some (.issue t.w t.prim)
    | some _, _, _ => some (.issue t.w t.prim)
    | none, some _, some q => some (.issue t.w q)
    | none, _, _ => none

/-- A list from its n-th element on, then those before. -/
def rotate {α : Type} (l : List α) (n : Nat) : List α := let k := n % max 1 l.length; l.drop k ++ l.take k

/-- The device's step that is due, if any. -/
def State.dueStep (s : State) : Option Instr :=
  [fun (s : State) => s.warps.vals.findSome? (fun w => if w.place.isNone then none else w.paths.findSome? (s.releaseStep w)),
   fun (s : State) => s.warps.vals.findSome? (fun w => w.queue.findSome? (s.entryStep w)),
   fun (s : State) => s.ops.findSome? s.opStep,
   fun (s : State) => (s.clusters.find? (fun x => !x.2.events.isEmpty)).map (fun x => Instr.eventRecordApply (BitVec.ofNat 5 x.1)),
   fun (s : State) => (s.warps.vals.find? s.mayLeave).map (fun w => Instr.warpLeaveSlot w.key),
   fun (s : State) => s.tasks.vals.findSome? s.taskStep,
   fun (s : State) => s.tillerCores.findSome? s.tillerStep,
   fun (s : State) => s.parts.vals.findSome? s.partStep,
   fun (s : State) => (List.range 16).findSome? s.feStep,
   fun (s : State) => s.moduleStep,
   fun (s : State) => s.fetchStep,
   fun (s : State) => s.coresUsed.findSome? s.turnStep].findSome? (fun f => f s)

/-- What comes next where the agenda names nothing: the cores take their turns to issue as time goes on. -/
def State.pick (s : State) : Move :=
  match s.dueStep with
  | some i => .dev i
  | none => ((rotate s.coresUsed s.gtime.toNat).findSome? s.issueStep).getD (.tick 1)

end Sys2Proof.Machine
end

