-- ==== Sys2Proof/Machine/Step.lean ====
section
/-! DEFINITION. One step of the module: the move that stands first in the agenda, or else the one that `pick` chooses,
is made whole [1]. -/

namespace Sys2Proof.Machine

/-- A move. -/
def State.doMove (s : State) : Move → Host.Outcome State Fault Refusal
  | .issue k pid => s.issueWord exec k pid
  | .pair k a b => s.issuePair exec k a b
  | .dev i => if i.encoded then .next s else exec i s
  | .tick n => .next (s.pass n)
  | .upset u => .next (s.strike u)
  | .l1Evict c line => .next (s.writeBack (fun x => x.core == c && x.line == line))

/-- Time that a chosen move takes: the issue of words takes a ns [1]. -/
def Move.ns : Move → Nat
  | .issue .. | .pair .. => 1
  | _ => 0

/-- One step. -/
def step (s : State) : Host.Outcome State Fault Refusal :=
  match s.agenda with
  | m :: ms => { s with agenda := ms }.doMove m
  | [] =>
    let m := s.pick
    andThen (s.doMove m) (fun t => .next (if m.ns == 0 then t else t.pass m.ns))

/-- The state with an instruction as the next one to issue: its word in the run buffer of a path whose turn it is. -/
def State.withFetchWord (s : State) (nbits w : Nat) : State := s.withRun [BitVec.ofNat 96 (w % 2 ^ nbits)]

end Sys2Proof.Machine
end

