-- ==== Sys2Proof/Safety.lean ====
section
/-! DEFINITION. What a safe state is, and the terms in which the statements about instructions are made: how an
instruction stands when it issues in the ordinary way, that its lines are there, and all that it leaves unchanged. -/

namespace Sys2Proof.Machine

/-! ## Memory in canonical form -/

/-- A store's memory is in canonical form. -/
def Store.ok (s : Store) : Bool := Memory.wf s.mem

/-- Every memory of a task. -/
def Task.ok (t : Task) : Bool := t.shr.ok && t.scr.all Store.ok && t.tile.ok

/-- Every memory of the module is in canonical form. -/
def State.memOk (s : State) : Bool :=
  s.hbm.ok && Memory.wf s.staging && Memory.wf s.hostMem && s.parts.all (fun p => p.2.chip.ok) && s.tasks.all (fun t => t.2.ok)
    && s.clusters.all (fun c => c.2.ws.ok) && s.past.all (fun x => x.task.ok)

end Sys2Proof.Machine

namespace Sys2Proof

/-- Only privileged code issues the instruction, or it names a k register (13 R283, R284). -/
def Instr.forHandlers (i : Instr) : Bool := i.privileged || (match i.form with | some f => f.namesK | none => false)

/-- Every v register that the instruction names lies below REGS (13 R268). -/
def Instr.within (i : Instr) (nregs : Nat) : Bool := match i.form with | some f => f.beyond nregs == none | none => false

end Sys2Proof

namespace Sys2Proof.Machine

/-! ## An ordinary issue -/

/-- The instruction `i` issues from a path as context `c` has it, and passes what every instruction passes before its own
effect (22 R418, R419): its mode, Glume where debug mode is on (22 R429), a written lane, its role, its operand range. -/
structure Issues (s : State) (i : Instr) (always : Bool) (role : Option (BitVec 2)) (c : Ctx) : Prop where
  ctx : s.issuing i.hdr always = some c
  mode : i.forHandlers = true → c.priv = true
  calm : s.debugOn c.w = true → s.hazard c i = none
  written : c.wr ≠ 0
  role : ∀ r, role = some r → r = c.w.role
  allowed : i.barred = false
  owner : i.ownersOnly = true → c.w.inHarvest = false
  range : i.within c.w.nregs = true

/-- The core of a warp, as gathering takes it. -/
def Ctx.pool (c : Ctx) : CoreKey := (c.w.place.getD ⟨⟨0, 0⟩, 0⟩).core

/-- No gathering is wanting (02 R53): every register the instruction names is resident, and eight further lines can be had
from the warp's reservation or from the free lines of its core, with the bound of a harvest warp. -/
structure Roomy (s : State) (i : Instr) (c : Ctx) : Prop where
  resident : ∀ n, n ∈ i.names → ∀ h : n < 128, c.w.regs[n].spl = false
  lines : ∀ j, j < 8 → c.w.wuse + j < c.w.wres ∨
    (0 < s.sharedFree c.pool c.k j ∧ (c.w.inHarvest = false ∨ c.w.wuse + j < 30))

/-- Two frames agree but for the k registers of a list. -/
def framesAgree (ks : List Nat) (a b : Option Frame) : Prop :=
  match a, b with
  | none, none => True
  | some f, some g => g = { f with ks := g.ks } ∧ ∀ j (h : j < 8), j ∉ ks → g.ks[j] = f.ks[j]
  | _, _ => False

/-- A register of two warps is the same but for its recency (02 R54). -/
def sameReg (r q : Reg) : Prop := r.val = q.val ∧ r.tags = q.tags ∧ r.spl = q.spl ∧ r.line = q.line ∧ r.dirty = q.dirty

/-- THE FRAME OF AN INSTRUCTION THAT GOES ON TO THE NEXT WORD: `w` is the issuing warp after it. Of the warp nothing is
changed but its predicates and sticky flags (of which each statement says what becomes), the registers the instruction
writes, the recency of those it names, and its own path, which goes on at PC + 12. -/
structure Went (s : State) (i : Instr) (c : Ctx) (w : Warp) : Prop where
  kept : w = { c.w with regs := w.regs, preds := w.preds, xflags := w.xflags, flying := w.flying, clock := w.clock, paths := w.paths }
  regs : ∀ n, n ∉ i.writes → ∀ h : n < 128, sameReg w.regs[n] c.w.regs[n]
  own : ∃ p, w.path c.pid = some p ∧ framesAgree i.kwrites c.p.frame p.frame ∧
    p = { c.p with frame := p.frame, holds := p.holds, pc := c.p.pc + 12, run := c.p.run.drop 1, begun := true
                   behind := [c.p.runId], retry := none, since := s.gtime, stall := s.nextSlot c }
  others : ∀ n, n ≠ c.pid → ∀ q, c.w.path n = some q → ∃ p, w.path n = some p ∧ framesAgree i.kwrites q.frame p.frame ∧
    p = { q with frame := p.frame }

/-- Nothing but the issuing warp is changed: no other warp, no memory, no table of the machine. -/
structure OnlyWarp (s t : State) (c : Ctx) (w : Warp) : Prop where
  rest : t = { s with warps := t.warps }
  others : ∀ k, k ≠ c.k → t.warp k = s.warp k
  warp : t.warp c.k = some w

/-- What became of a register that was to receive `x` and the tags `g`: a written lane holds its value and its tag, a lane
neither written nor exited keeps what it held (02 R48). -/
def received (c : Ctx) (r q : Reg) (x : Lane → Word) (g : Lane → Bool) : Prop :=
  (∀ l, c.wr.has l = true → r.val.at l = x l ∧ r.tags.has l = g l) ∧
  (∀ l, c.wr.has l = false → c.w.exited.has l = false → r.val.at l = q.val.at l ∧ r.tags.has l = q.tags.has l)

/-- Register j of a destination received `x` and the tags `g`: a v register lane by lane; a k register of the handler's
frame the value of the lowest written lane (13 R284); z nothing. -/
def Got (c : Ctx) (w : Warp) (d : Spec) (j : Nat) (x : Lane → Word) (g : Lane → Bool) : Prop :=
  match d with
  | .v n => ∀ h : n.toNat + j < 128, received c w.regs[n.toNat + j] c.w.regs[n.toNat + j] x g
  | .k n => ∀ p ∈ w.paths, p.handler = true → ∀ f, p.frame = some f → ∀ h : n.toNat + j < 8, f.ks[n.toNat + j] = x c.low
  | _ => True

end Sys2Proof.Machine
end

