-- ==== Sys2Proof/Certificates/Slice0/Obligations.lean ====
section
/-! DEFINITION. The statements, with the terms they are made in: for each family of instructions the rows of its table
as the spec gives them, and what a step leaves unchanged. -/

set_option linter.unusedVariables false

namespace Sys2Proof.Machine

/-! ## The terms of the statements about results -/

/-- The flags that the written lanes raise are set, at once or as the result lands (15 R327); none is cleared (07 R159). -/
def Raised (c : Ctx) (w : Warp) (fl : Lane → XFlags) : Prop :=
  ∀ b, b < 5 → w.raised.getLsbD b = (c.w.raised.getLsbD b || lanes.any (fun l => c.wr.has l && (fl l).getLsbD b))

/-- What became of the predicates: all of them as before, or one of them with the bit of each written lane written, and
of it the bit of a lane neither written nor exited as before. A write to p7 is discarded (13 R269). -/
def Preds (c : Ctx) (w : Warp) (pd : Option (BitVec 3 × (Lane → Bool))) : Prop :=
  match pd with
  | none => w.preds = c.w.preds
  | some (n, f) => (∀ m (h : m < 7), m ≠ n.toNat → w.preds[m] = c.w.preds[m]) ∧
      ∀ h : n.toNat < 7, (∀ l, c.wr.has l = true → Mask.has w.preds[n.toNat] l = f l) ∧
        (∀ l, c.wr.has l = false → c.w.exited.has l = false → Mask.has w.preds[n.toNat] l = Mask.has c.w.preds[n.toNat] l)

/-- THE WHOLE OF WHAT AN INSTRUCTION DOES that writes only registers, a predicate and flags, and goes on: exec answers a
next state, in which the destination holds `xs`, one value for each of its registers, the predicates and the flags are
those given, and nothing else is changed but what `Went` and `OnlyWarp` say. -/
def Completes (s : State) (i : Instr) (c : Ctx) (d : Spec) (xs : List (Lane → Word)) (pd : Option (BitVec 3 × (Lane → Bool)))
    (fl : Lane → XFlags) : Prop :=
  ∃ t w, exec i s = .next t ∧ OnlyWarp s t c w ∧ Went s i c w ∧ Raised c w fl ∧ Preds c w pd ∧
    ∀ j x, xs[j]? = some x → Got c w d j x (fun _ => false)

/-- No flag. -/
def noFlags : Lane → XFlags := fun _ => 0

/-- Both halves of a 64-bit value, for a pair. -/
def halves (x : Lane → DWord) : List (Lane → Word) := [fun l => (x l).setWidth 32, fun l => (x l).extractLsb' 32 32]

/-! ## Integer rows (14 R290-R297) -/

/-- The integer that a word stands for (14 R288): two's complement for the signed types, plain binary otherwise. -/
def asInt (t : Ty) (x : Word) : Int := if t.signed then x.toInt else x.toNat

/-- An exact integer clamped to the range of a 32-bit type (14 R290). -/
def clamped (t : Ty) (v : Int) : Word :=
  if t.signed then
    (if v < -(2 ^ 31) then 0x80000000#32 else if 2 ^ 31 - 1 < v then 0x7FFFFFFF#32 else BitVec.ofInt 32 v)
  else (if v < 0 then 0#32 else if 2 ^ 32 - 1 < v then 0xFFFFFFFF#32 else BitVec.ofInt 32 v)

/-- A 32-bit word at 64 bits, by the sign of the type. -/
def widened (t : Ty) (x : Word) : DWord := if t.signed then x.signExtend 64 else x.setWidth 64

/-- Less than, by the sign of the type. -/
def lessW (t : Ty) (x y : Word) : Bool := if t.signed then x.slt y else x.ult y

/-- The 32-bit arithmetic rows of 14 R290. -/
def sumRow (s : State) (c : Ctx) : Instr → Option (Spec × (Lane → Word))
  | .iadd _ t sat d a b => some (d, fun l => let x := s.word c .a a l; let y := s.word c .b b l
      if sat then clamped t (asInt t x + asInt t y) else x + y)
  | .iaddImm _ t sat d a imm => some (d, fun l => let x := s.word c .a a l; let y := imm.setWidth 32
      if sat then clamped t (asInt t x + asInt t y) else x + y)
  | .isub _ t sat d a b => some (d, fun l => let x := s.word c .a a l; let y := s.word c .b b l
      if sat then clamped t (asInt t x - asInt t y) else x - y)
  | .isubImm _ t sat d a imm => some (d, fun l => let x := s.word c .a a l; let y := imm.setWidth 32
      if sat then clamped t (asInt t x - asInt t y) else x - y)
  | .imul _ t sat d a b => some (d, fun l => let x := s.word c .a a l; let y := s.word c .b b l
      if sat then clamped t (asInt t x * asInt t y) else x * y)
  | .imulImm _ t sat d a imm => some (d, fun l => let x := s.word c .a a l; let y := imm.setWidth 32
      if sat then clamped t (asInt t x * asInt t y) else x * y)
  | .imad _ t sat d a b e => some (d, fun l => let x := s.word c .a a l; let y := s.word c .b b l; let z := s.word c .c e l
      if sat then clamped t (asInt t x * asInt t y + asInt t z) else x * y + z)
  | .imadImm _ t sat d a b imm => some (d, fun l => let x := s.word c .a a l; let y := s.word c .b b l; let z := imm.setWidth 32
      if sat then clamped t (asInt t x * asInt t y + asInt t z) else x * y + z)
  | .imulh _ t d a b => some (d, fun l => (widened t (s.word c .a a l) * widened t (s.word c .b b l)).extractLsb' 32 32)
  | .imulhImm _ t d a imm => some (d, fun l => (widened t (s.word c .a a l) * widened t (imm.setWidth 32)).extractLsb' 32 32)
  | .imin _ t d a b => some (d, fun l => let x := s.word c .a a l; let y := s.word c .b b l
      if lessW t y x then y else x)
  | .iminImm _ t d a imm => some (d, fun l => let x := s.word c .a a l; let y := imm.setWidth 32
      if lessW t y x then y else x)
  | .imax _ t d a b => some (d, fun l => let x := s.word c .a a l; let y := s.word c .b b l
      if lessW t y x then x else y)
  | .imaxImm _ t d a imm => some (d, fun l => let x := s.word c .a a l; let y := imm.setWidth 32
      if lessW t y x then x else y)
  | .iabs _ sat d a => some (d, fun l => let x := s.word c .a a l
      if x = 0x80000000#32 then (if sat then 0x7FFFFFFF#32 else x) else if x.msb then -x else x)
  | .ineg _ t sat d a => some (d, fun l => let x := s.word c .a a l
      if sat then clamped t (-(asInt t x)) else -x)
  | .isad _ t d a b e => some (d, fun l => let x := s.word c .a a l; let y := s.word c .b b l
      (if lessW t x y then y - x else x - y) + s.word c .c e l)
  | .isadImm _ t d a b imm => some (d, fun l => let x := s.word c .a a l; let y := s.word c .b b l
      (if lessW t x y then y - x else x - y) + imm.setWidth 32)
  | _ => none

/-- The 64-bit rows of 14 R291. -/
def longRow (s : State) (c : Ctx) : Instr → Option (Spec × (Lane → DWord))
  | .imadw _ t d a b e => some (d, fun l =>
      widened t (s.word c .a a l) * widened t (s.word c .b b l) + s.pairAt c .c e l)
  | .imadwImm _ t d a b imm => some (d, fun l =>
      widened t (s.word c .a a l) * widened t (s.word c .b b l) + imm.signExtend 64)
  | .iadd64 _ _ d a b => some (d, fun l => s.pairAt c .a a l + s.pairAt c .b b l)
  | .iadd64Imm _ _ d a imm => some (d, fun l => s.pairAt c .a a l + imm.signExtend 64)
  | .imad64 _ _ d a b e => some (d, fun l => s.pairAt c .a a l * s.pairAt c .b b l + s.pairAt c .c e l)
  | _ => none

/-- A shift left, logical right, arithmetic right by an unsigned count of any size; a rotation (14 R292). -/
def shiftedL (x k : Word) : Word := if k.toNat < 32 then x <<< k.toNat else 0
def shiftedR (x k : Word) : Word := if k.toNat < 32 then x >>> k.toNat else 0
def shiftedA (x k : Word) : Word :=
  if k.toNat < 32 then x.sshiftRight k.toNat else if x.msb then BitVec.allOnes 32 else 0

/-- The logic, shift and rotation rows of 14 R292. -/
def logicRow (s : State) (c : Ctx) : Instr → Option (Spec × (Lane → Word))
  | .and _ d a b => some (d, fun l => s.word c .a a l &&& s.word c .b b l)
  | .andImm _ d a imm => some (d, fun l => s.word c .a a l &&& imm.setWidth 32)
  | .or _ d a b => some (d, fun l => s.word c .a a l ||| s.word c .b b l)
  | .orImm _ d a imm => some (d, fun l => s.word c .a a l ||| imm.setWidth 32)
  | .xor _ d a b => some (d, fun l => s.word c .a a l ^^^ s.word c .b b l)
  | .xorImm _ d a imm => some (d, fun l => s.word c .a a l ^^^ imm.setWidth 32)
  | .andn _ d a b => some (d, fun l => s.word c .a a l &&& ~~~(s.word c .b b l))
  | .andnImm _ d a imm => some (d, fun l => s.word c .a a l &&& ~~~(imm.setWidth 32))
  | .not _ d a => some (d, fun l => ~~~(s.word c .a a l))
  | .shl _ d a b => some (d, fun l => shiftedL (s.word c .a a l) (s.word c .b b l))
  | .shlImm _ d a imm => some (d, fun l => shiftedL (s.word c .a a l) (imm.setWidth 32))
  | .shr _ d a b => some (d, fun l => shiftedR (s.word c .a a l) (s.word c .b b l))
  | .shrImm _ d a imm => some (d, fun l => shiftedR (s.word c .a a l) (imm.setWidth 32))
  | .sar _ d a b => some (d, fun l => shiftedA (s.word c .a a l) (s.word c .b b l))
  | .sarImm _ d a imm => some (d, fun l => shiftedA (s.word c .a a l) (imm.setWidth 32))
  | .rotl _ d a b => some (d, fun l => (s.word c .a a l).rotateLeft ((s.word c .b b l).toNat % 32))
  | .rotlImm _ d a imm => some (d, fun l => (s.word c .a a l).rotateLeft ((imm.setWidth 32).toNat % 32))
  | _ => none

/-- What the counting and field instructions make of their words, bit by bit (14 R292-R294): the bits of the result as a
relation between the sources and it. -/
def popcOf (x y : Word) : Prop := y.toNat = (lanes.filter (fun j => x.getLsbD j.val)).length
def clzOf (x y : Word) : Prop :=
  (x = 0 ∧ y = 32) ∨ (y.toNat < 32 ∧ x.getLsbD (31 - y.toNat) = true ∧ ∀ j, 31 - y.toNat < j → j < 32 → x.getLsbD j = false)
def brevOf (x y : Word) : Prop := ∀ j, j < 32 → y.getLsbD (31 - j) = x.getLsbD j

/-- Position and width of a field (14 R293). -/
def fieldPos (b : Word) : Nat := min (b.toNat % 256) 32
def fieldWid (b : Word) : Nat := min (min (b.toNat / 256 % 256) 32) (32 - fieldPos b)

/-- BFX: the bits of the field, above it zeros, or for .i32 copies of its top bit. -/
def bfxOf (t : Ty) (a b y : Word) : Prop :=
  ∀ j, j < 32 → y.getLsbD j =
    if j < fieldWid b then a.getLsbD (fieldPos b + j)
    else (t == .i32 && fieldWid b != 0 && a.getLsbD (fieldPos b + (fieldWid b - 1)))

/-- BFI: inside the field the low bits of a, outside it those of the third source. -/
def bfiOf (a b e y : Word) : Prop :=
  ∀ j, j < 32 → y.getLsbD j =
    if fieldPos b ≤ j ∧ j < fieldPos b + fieldWid b then a.getLsbD (j - fieldPos b) else e.getLsbD j

/-- BSEL: each byte of the result by its 5-bit control. -/
def bselOf (a b e y : Word) : Prop :=
  ∀ i, i < 4 →
    let k := e.toNat / 2 ^ (5 * i) % 32
    let z : BitVec 8 := (b ++ a).extractLsb' (8 * (k % 8)) 8
    y.extractLsb' (8 * i) 8 =
      (if k / 8 = 0 then z else if k / 8 = 1 then 0#8 else if k / 8 = 2 then (if z.msb then 0xFF#8 else 0#8) else ~~~z)

/-- The rows of the counting and field instructions: a relation each lane's result stands in. -/
def bitsRow (s : State) (c : Ctx) : Instr → Option (Spec × (Lane → Word → Prop))
  | .popc _ d a => some (d, fun l y => popcOf (s.word c .a a l) y)
  | .clz _ d a => some (d, fun l y => clzOf (s.word c .a a l) y)
  | .brev _ d a => some (d, fun l y => brevOf (s.word c .a a l) y)
  | .bfx _ t d a b => some (d, fun l y => bfxOf t (s.word c .a a l) (s.word c .b b l) y)
  | .bfxImm _ t d a imm => some (d, fun l y => bfxOf t (s.word c .a a l) (imm.setWidth 32) y)
  | .bfi _ d a b e => some (d, fun l y => bfiOf (s.word c .a a l) (s.word c .b b l) (s.word c .c e l) y)
  | .bfiImm _ d a b imm => some (d, fun l y => bfiOf (s.word c .a a l) (s.word c .b b l) (imm.setWidth 32) y)
  | .bsel _ d a b e => some (d, fun l y => bselOf (s.word c .a a l) (s.word c .b b l) (s.word c .c e l) y)
  | .bselImm _ d a b sel => some (d, fun l y => bselOf (s.word c .a a l) (s.word c .b b l) (sel.setWidth 32) y)
  | _ => none

/-- The condition of a comparison on two values of any width (13 R274), by the sign of the type. -/
def compared (cond : Cond) (t : Ty) {n : Nat} (x y : BitVec n) : Bool :=
  let lt := if t.signed then x.slt y else x.ult y
  match cond with
  | .eq => x == y | .ne => x != y | .lt => lt | .ge => !lt | .le => lt || x == y | .gt => !(lt || x == y)

/-- ICMP (14 R295), PSET (R298), PMOV (R299): the predicate and the bit of each lane. -/
def predRow (s : State) (c : Ctx) : Instr → Option (BitVec 3 × (Lane → Bool))
  | .icmp _ cond t pd a b => some (pd, fun l =>
      if t.bytes = 8 then compared cond t (s.pairAt c .a a l) (s.pairAt c .b b l)
      else compared cond t (s.word c .a a l) (s.word c .b b l))
  | .icmpImm _ cond t pd a imm => some (pd, fun l =>
      if t.bytes = 8 then compared cond t (s.pairAt c .a a l) (imm.signExtend 64)
      else compared cond t (s.word c .a a l) (imm.setWidth 32))
  | .pset _ op pd a b => some (pd, fun l =>
      let x := (s.word c .a a l).getLsbD l.val
      let y := (s.word c .b b l).getLsbD l.val
      match op with | .and => x && y | .or => x || y | .xor => x != y | .andn => x && !y)
  | .pmov _ bit pd a => some (pd, fun l =>
      if bit then (s.word c .a a l).getLsbD l.val else s.word c .a a l != 0)
  | _ => none

/-- A predicate as the select position of ISEL reads it. -/
def selMask (s : State) (c : Ctx) (p : BitVec 3) : Mask := match (s.opnd c .a (.p p) 0).1 with | .uni x => x | _ => 0

/-- MOV, MOVI, ISEL and LEA (14 R296, R297): one value, or two for a pair. -/
def moveRow (s : State) (c : Ctx) : Instr → Option (Spec × List (Lane → Word))
  | .mov _ t d a => some (d, if t = .b64 then halves (fun l => s.pairAt c .a a l) else [fun l => s.word c .a a l])
  | .movi _ t d imm => some (d, if t = .b64 then halves (fun _ => imm.signExtend 64) else [fun _ => imm.setWidth 32])
  | .isel _ d p b e => some (d, [fun l =>
      if (selMask s c p).has l then s.word c .b b l else s.word c .c e l])
  | .iselImm _ d p b imm => some (d, [fun l =>
      if (selMask s c p).has l then s.word c .b b l else imm.setWidth 32])
  | .lea _ sh d a b => some (d, [fun l => s.word c .a a l + (s.word c .b b l <<< sh.toNat)])
  | .leaImm _ sh d a imm => some (d, [fun l => s.word c .a a l + ((imm.setWidth 32 : Word) <<< sh.toNat)])
  | _ => none

/-! ## Float rows (15 R328-R342) -/

/-- A float value with the flags of its computation. -/
abbrev FVal := Nat × XFlags

/-- The exact sum, difference, product and fused product of two or three values of a format, rounded once (15 R328, R333). -/
def sumOf (f : FFmt) (r : Rnd) (x y : Nat) : FVal := f.deliver r false 0 (Fp.add r (f.read x) (f.read y))
def differenceOf (f : FFmt) (r : Rnd) (x y : Nat) : FVal := f.deliver r false 0 (Fp.add r (f.read x) (f.read y).negate)
def productOf (f : FFmt) (r : Rnd) (x y : Nat) : FVal := f.deliver r false 0 (Fp.mul (f.read x) (f.read y))
def fusedOf (f : FFmt) (r : Rnd) (x y z : Nat) : FVal := f.deliver r false 0 (Fp.fma r (f.read x) (f.read y) (f.read z))

/-- a · 2^n (15 R329): NaN made canonical, infinities and zeros unchanged. -/
def scaledBy (r : Rnd) (x n : Word) : FVal :=
  match FFmt.f32.read x.toNat with
  | .nan sn => (FFmt.f32.nan, if sn then XFlags.invalid else 0)
  | .inf _ => (x.toNat, 0)
  | .fin neg m e => if m = 0 then (x.toNat, 0)
      else FFmt.f32.round r false 0 ⟨neg, m, e + max (-1000) (min 1000 n.toInt), false⟩

/-- INVALID for a signalling NaN among the operands. -/
def signals (xs : List Fp) : XFlags := if xs.any Fp.snan then XFlags.invalid else 0

/-- The smaller of two values that are not NaN is the first: +0 lies above −0 (15 R330). -/
def firstBelow (f : FFmt) (x y : Nat) : Bool :=
  match Fp.cmp (f.read x) (f.read y) with
  | .lt => true | .gt => false | .eq => decide (2 ^ (f.ebits + f.fbits) ≤ x)

/-- Minimum and maximum by the table of 15 R330. -/
def extremeOf (f : FFmt) (mx num : Bool) (x y : Nat) : FVal :=
  (match (f.read x).isNan, (f.read y).isNan with
    | true, true => f.nan
    | true, false => if num then y else f.nan
    | false, true => if num then x else f.nan
    | false, false => if firstBelow f x y = mx then y else x,
   signals [f.read x, f.read y])

/-- The class bit of a value (15 R332). -/
def classOf (x : Word) : FVal :=
  (match FFmt.f32.read x.toNat with
    | .nan true => 0x001
    | .nan false => 0x002
    | .inf neg => if neg then 0x004 else 0x200
    | .fin neg m _ =>
      if m = 0 then (if neg then 0x020 else 0x040)
      else if m < 2 ^ 23 then (if neg then 0x010 else 0x080)
      else if neg then 0x008 else 0x100, 0)

/-- The FP32 rows of 15 R328-R332. -/
def floatRow (s : State) (c : Ctx) : Instr → Option (Spec × (Lane → FVal))
  | .fadd _ r d a b => some (d, fun l => sumOf .f32 r (s.word c .a a l).toNat (s.word c .b b l).toNat)
  | .faddImm _ r d a imm => some (d, fun l => sumOf .f32 r (s.word c .a a l).toNat imm.toNat)
  | .fsub _ r d a b => some (d, fun l => differenceOf .f32 r (s.word c .a a l).toNat (s.word c .b b l).toNat)
  | .fsubImm _ r d a imm => some (d, fun l => differenceOf .f32 r (s.word c .a a l).toNat imm.toNat)
  | .fmul _ r d a b => some (d, fun l => productOf .f32 r (s.word c .a a l).toNat (s.word c .b b l).toNat)
  | .fmulImm _ r d a imm => some (d, fun l => productOf .f32 r (s.word c .a a l).toNat imm.toNat)
  | .ffma _ r d a b e => some (d, fun l =>
      fusedOf .f32 r (s.word c .a a l).toNat (s.word c .b b l).toNat (s.word c .c e l).toNat)
  | .ffmaImm _ r d a b imm => some (d, fun l => fusedOf .f32 r (s.word c .a a l).toNat (s.word c .b b l).toNat imm.toNat)
  | .fscl _ r d a b => some (d, fun l => scaledBy r (s.word c .a a l) (s.word c .b b l))
  | .fsclImm _ r d a imm => some (d, fun l => scaledBy r (s.word c .a a l) imm)
  | .fmin _ num d a b => some (d, fun l => extremeOf .f32 false num (s.word c .a a l).toNat (s.word c .b b l).toNat)
  | .fminImm _ num d a imm => some (d, fun l => extremeOf .f32 false num (s.word c .a a l).toNat imm.toNat)
  | .fmax _ num d a b => some (d, fun l => extremeOf .f32 true num (s.word c .a a l).toNat (s.word c .b b l).toNat)
  | .fmaxImm _ num d a imm => some (d, fun l => extremeOf .f32 true num (s.word c .a a l).toNat imm.toNat)
  | .fclass _ d a => some (d, fun l => classOf (s.word c .a a l))
  | _ => none

/-- FCMP's condition (15 R331). -/
def fcmpTrue (cond : FCond) (x y : Fp) : Bool :=
  match cond with
  | .nan => x.isNan || y.isNan
  | .num => !x.isNan && !y.isNan
  | .ne => x.isNan || y.isNan || Fp.cmp x y != .eq
  | .eq => !x.isNan && !y.isNan && Fp.cmp x y == .eq
  | .lt => !x.isNan && !y.isNan && Fp.cmp x y == .lt
  | .le => !x.isNan && !y.isNan && Fp.cmp x y != .gt
  | .gt => !x.isNan && !y.isNan && Fp.cmp x y == .gt
  | .ge => !x.isNan && !y.isNan && Fp.cmp x y != .lt

/-- FCMP's flag: a signalling NaN always, a quiet NaN under an ordered condition. -/
def fcmpFlag (cond : FCond) (x y : Fp) : XFlags :=
  if x.snan || y.snan || ((x.isNan || y.isNan) && (cond == .lt || cond == .le || cond == .gt || cond == .ge))
  then XFlags.invalid else 0

/-- FCMP: its predicate, its bit and its flag in a lane. -/
def fcmpRow (s : State) (c : Ctx) : Instr → Option (BitVec 3 × (Lane → Bool) × (Lane → XFlags))
  | .fcmp _ cond pd a b =>
      let x := fun l => FFmt.f32.read (s.word c .a a l).toNat
      let y := fun l => FFmt.f32.read (s.word c .b b l).toNat
      some (pd, fun l => fcmpTrue cond (x l) (y l), fun l => fcmpFlag cond (x l) (y l))
  | .fcmpImm _ cond pd a imm =>
      let x := fun l => FFmt.f32.read (s.word c .a a l).toNat
      some (pd, fun l => fcmpTrue cond (x l) (FFmt.f32.read imm.toNat), fun l => fcmpFlag cond (x l) (FFmt.f32.read imm.toNat))
  | _ => none

/-- Element 0 or 1 of a packed word. -/
def elem (n : Nat) (x : Word) : Nat := x.toNat / 2 ^ (16 * n) % 2 ^ 16

/-- Both elements computed separately, their flags united (15 R333). -/
def packed (g : Nat → FVal) : FVal := ((g 1).1 * 2 ^ 16 + (g 0).1, (g 0).2 ||| (g 1).2)

/-- The packed rows of 15 R333, R334. -/
def packedRow (s : State) (c : Ctx) : Instr → Option (Spec × (Lane → FVal))
  | .hadd2 _ sub r d a b => some (d, fun l => packed fun n =>
      (if sub then differenceOf else sumOf) .f16 r (elem n (s.word c .a a l)) (elem n (s.word c .b b l)))
  | .hadd2Imm _ sub r d a imm => some (d, fun l => packed fun n =>
      (if sub then differenceOf else sumOf) .f16 r (elem n (s.word c .a a l)) (elem n imm))
  | .hmul2 _ r d a b => some (d, fun l => packed fun n => productOf .f16 r (elem n (s.word c .a a l)) (elem n (s.word c .b b l)))
  | .hmul2Imm _ r d a imm => some (d, fun l => packed fun n => productOf .f16 r (elem n (s.word c .a a l)) (elem n imm))
  | .hfma2 _ r d a b e => some (d, fun l => packed fun n =>
      fusedOf .f16 r (elem n (s.word c .a a l)) (elem n (s.word c .b b l)) (elem n (s.word c .c e l)))
  | .hfma2Imm _ r d a b imm => some (d, fun l => packed fun n =>
      fusedOf .f16 r (elem n (s.word c .a a l)) (elem n (s.word c .b b l)) (elem n imm))
  | .badd2 _ sub r d a b => some (d, fun l => packed fun n =>
      (if sub then differenceOf else sumOf) .bf16 r (elem n (s.word c .a a l)) (elem n (s.word c .b b l)))
  | .badd2Imm _ sub r d a imm => some (d, fun l => packed fun n =>
      (if sub then differenceOf else sumOf) .bf16 r (elem n (s.word c .a a l)) (elem n imm))
  | .bmul2 _ r d a b => some (d, fun l => packed fun n => productOf .bf16 r (elem n (s.word c .a a l)) (elem n (s.word c .b b l)))
  | .bmul2Imm _ r d a imm => some (d, fun l => packed fun n => productOf .bf16 r (elem n (s.word c .a a l)) (elem n imm))
  | .bfma2 _ r d a b e => some (d, fun l => packed fun n =>
      fusedOf .bf16 r (elem n (s.word c .a a l)) (elem n (s.word c .b b l)) (elem n (s.word c .c e l)))
  | .bfma2Imm _ r d a b imm => some (d, fun l => packed fun n =>
      fusedOf .bf16 r (elem n (s.word c .a a l)) (elem n (s.word c .b b l)) (elem n imm))
  | .hmnx2 _ v d a b => some (d, fun l => packed fun n =>
      extremeOf .f16 (v == .max || v == .maxnum) (v == .minnum || v == .maxnum) (elem n (s.word c .a a l)) (elem n (s.word c .b b l)))
  | .hmnx2Imm _ v d a imm => some (d, fun l => packed fun n =>
      extremeOf .f16 (v == .max || v == .maxnum) (v == .minnum || v == .maxnum) (elem n (s.word c .a a l)) (elem n imm))
  | _ => none

/-- The range of an integer type (15 R336). -/
def rangeOf : Ty → Int × Int
  | .i8 => (-(2 ^ 7), 2 ^ 7 - 1) | .n8 => (0, 2 ^ 8 - 1) | .i16 => (-(2 ^ 15), 2 ^ 15 - 1) | .n16 => (0, 2 ^ 16 - 1)
  | .n32 => (0, 2 ^ 32 - 1) | .i64 => (-(2 ^ 63), 2 ^ 63 - 1) | .n64 => (0, 2 ^ 64 - 1) | _ => (-(2 ^ 31), 2 ^ 31 - 1)

/-- The format that a type names as a destination. -/
def formatOf : Ty → FFmt
  | .f16 => .f16 | .bf16 => .bf16 | _ => .f32

/-- F2I (15 R336): the format it reads, its type, its rounding, its operands. -/
def f2iRow : Instr → Option (FFmt × Ty × Rnd × Spec × Spec)
  | .f2i _ t r d a => some (.f32, t, r, d, a)
  | .f2iFh _ t r d a => some (.f16, t, r, d, a)
  | .f2iFb _ t r d a => some (.bf16, t, r, d, a)
  | _ => none

/-- The integer F2I delivers, and its flags. -/
def f2iOf (f : FFmt) (t : Ty) (r : Rnd) (x : Word) : DWord × XFlags :=
  let v := Fp.toInt r (rangeOf t).1 (rangeOf t).2 (f.read (x.toNat % 2 ^ f.width))
  (BitVec.ofInt 64 v.1, v.2)

/-- The remaining conversions without a draw (15 R337-R339, R341): I2F, FCVT with a mode other than .rs, F82F, FRND. -/
def convertRow (s : State) (c : Ctx) : Instr → Option (Spec × (Lane → FVal))
  | .i2f _ t r d a => some (d, fun l => intToFp (formatOf t) r 0 (s.word c .a a l).toInt)
  | .i2fU _ t r d a => some (d, fun l => intToFp (formatOf t) r 0 (s.word c .a a l).toNat)
  | .i2fL _ t r d a => some (d, fun l => intToFp (formatOf t) r 0 (s.pairAt c .a a l).toInt)
  | .i2fUl _ t r d a => some (d, fun l => intToFp (formatOf t) r 0 (s.pairAt c .a a l).toNat)
  | .fcvt _ t r d a => if r = .rs then none else
      some (d, fun l => Fp.convert (formatOf t) r false 0 (FFmt.f32.read (s.word c .a a l).toNat))
  | .fcvtFh _ t r d a => if r = .rs then none else
      some (d, fun l => Fp.convert (formatOf t) r false 0 (FFmt.f16.read ((s.word c .a a l).toNat % 2 ^ 16)))
  | .fcvtFb _ t r d a => if r = .rs then none else
      some (d, fun l => Fp.convert (formatOf t) r false 0 (FFmt.bf16.read ((s.word c .a a l).toNat % 2 ^ 16)))
  | .f82fE4m3 _ r d a b e => some (d, fun l => FFmt.f32.deliver r false 0 (Fp.mul
      (FFmt.e4.read ((s.word c .a a l).toNat / 2 ^ (8 * ((s.word c .b b l).toNat % 4)) % 2 ^ 8))
      (FFmt.f32.read (if e = .z then 0x3F800000 else (s.word c .c e l).toNat))))
  | .f82fE5m2 _ r d a b e => some (d, fun l => FFmt.f32.deliver r false 0 (Fp.mul
      (FFmt.e5.read ((s.word c .a a l).toNat / 2 ^ (8 * ((s.word c .b b l).toNat % 4)) % 2 ^ 8))
      (FFmt.f32.read (if e = .z then 0x3F800000 else (s.word c .c e l).toNat))))
  | .frnd _ r d a => some (d, fun l =>
      match FFmt.f32.read (s.word c .a a l).toNat with
      | .nan sn => (FFmt.f32.nan, if sn then XFlags.invalid else 0)
      | .inf _ => ((s.word c .a a l).toNat, 0)
      | .fin neg m e => ((FFmt.f32.round .rn false 0 ⟨neg, (Exact.roundAt ⟨neg, m, e, false⟩ r 0 0).1, 0, false⟩).1, 0))
  | _ => none

/-- The quotient that F2F8 rounds (15 R340), with the rows of 07 R160 for an infinite quotient, and DIVZERO. -/
def quotientOf (f : FFmt) (r : Rnd) (sat : Bool) (draw : Word) (x d : Nat) : FVal :=
  let q := Fp.div (FFmt.f32.read x) (FFmt.f32.read d)
  let v := match q.1 with
    | .nan inv => (f.nan, if inv then XFlags.invalid else 0)
    | .inf n => Fp.convert f r sat draw (.inf n)
    | .num x => f.round r sat draw x
  (v.1, q.2 ||| v.2)

/-- F2F8: the format, saturation, mode and operands. -/
def f2f8Row : Instr → Option (FFmt × Bool × Rnd × Spec × Spec × Spec × Spec)
  | .f2f8E4m3 _ sat r d a b e => some (.e4, sat, r, d, a, b, e)
  | .f2f8E5m2 _ sat r d a b e => some (.e5, sat, r, d, a, b, e)
  | _ => none

/-- Both elements of F2F8 with the draws of the lane. -/
def f2f8Of (f : FFmt) (sat : Bool) (r : Rnd) (d0 d1 : Word) (x y z : Nat) : FVal :=
  let p := quotientOf f r sat d0 x z
  let q := quotientOf f r sat d1 y z
  (q.1 * 2 ^ 8 + p.1, p.2 ||| q.2)

/-- The eight special functions (15 R342) on an FP32 value. -/
def specialRow (s : State) (c : Ctx) : Instr → Option (Spec × (Lane → FVal))
  | .frcp _ d a => some (d, fun l => frcpVal (FFmt.f32.read (s.word c .a a l).toNat))
  | .frsq _ d a => some (d, fun l => frsqVal (FFmt.f32.read (s.word c .a a l).toNat))
  | .fsqrt _ d a => some (d, fun l => fsqrtVal (FFmt.f32.read (s.word c .a a l).toNat))
  | .fexp2 _ d a => some (d, fun l => fexp2Val (FFmt.f32.read (s.word c .a a l).toNat))
  | .flog2 _ d a => some (d, fun l => flog2Val (FFmt.f32.read (s.word c .a a l).toNat))
  | .fsin _ d a => some (d, fun l => fsinVal false (FFmt.f32.read (s.word c .a a l).toNat))
  | .fcos _ d a => some (d, fun l => fsinVal true (FFmt.f32.read (s.word c .a a l).toNat))
  | .ftanh _ d a => some (d, fun l => ftanhVal (FFmt.f32.read (s.word c .a a l).toNat))
  | _ => none

/-- What 07 R163 and R164 give a special function on an FP32 word: the canonical NaN; the rows of their table; and where the exact
value is an FP32 number, that number with no flag. `e` is the exponent field of a power of two. -/
def specialEntry (i : Instr) (x : Word) : Option FVal :=
  let neg := x.getLsbD 31
  let frac := x.extractLsb' 0 23
  let e := (x.extractLsb' 23 8).toNat
  let zero := e = 0 ∧ frac = 0
  let inf := e = 255 ∧ frac = 0
  let power := neg = false ∧ frac = 0 ∧ 0 < e ∧ e < 254
  let bad : FVal := (0x7FC00000, XFlags.invalid)
  let pow := fun (n : Nat) => (n * 2 ^ 23, (0 : XFlags))
  if e = 255 ∧ frac ≠ 0 then some (0x7FC00000, if frac.getLsbD 22 then 0 else XFlags.invalid)
  else match i with
  | .frcp .. => if zero then some (if neg then 0xFF800000 else 0x7F800000, XFlags.divzero)
      else if inf then some (if neg then 0x80000000 else 0, 0) else if power then some (pow (254 - e)) else none
  | .frsq .. => if zero then some (if neg then 0xFF800000 else 0x7F800000, XFlags.divzero)
      else if neg then some bad else if inf then some (0, 0) else if power ∧ e % 2 = 1 then some (pow ((381 - e) / 2)) else none
  | .fsqrt .. => if zero then some (x.toNat, 0) else if neg then some bad else if inf then some (0x7F800000, 0)
      else if power ∧ e % 2 = 1 then some (pow ((e + 127) / 2)) else none
  | .fexp2 .. => if inf then some (if neg then 0 else 0x7F800000, 0) else if zero then some (0x3F800000, 0)
      else ((List.range 254).find? (fun (n : Nat) => (intToFp .f32 .rn 0 ((n : Int) - 126)).1 == x.toNat)).map (fun n => pow (n + 1))
  | .flog2 .. => if zero then some (0xFF800000, XFlags.divzero) else if neg then some bad else if inf then some (0x7F800000, 0)
      else if power then some (intToFp .f32 .rn 0 ((e : Int) - 127)) else none
  | .fsin .. => if zero then some (x.toNat, 0) else if 149 ≤ e then some bad else none
  | .fcos .. => if zero then some (0x3F800000, 0) else if 149 ≤ e then some bad else none
  | .ftanh .. => if zero then some (x.toNat, 0) else if inf then some (if neg then 0xBF800000 else 0x3F800000, 0) else none
  | _ => none

/-! ## Stochastic rounding (07 R157) -/

/-- The k-th draw of a generator, from 0. -/
def nthDraw (g : Word) : Nat → Word
  | 0 => lfsrNext g
  | k + 1 => nthDraw (lfsrNext g) k

/-- The generator after k draws. -/
def afterDraws (g : Word) : Nat → Word
  | 0 => g
  | k + 1 => afterDraws (lfsrNext g) k

/-- The lane counts as written: it is written, or it has exited (02 R48; 15 R326). -/
def Ctx.counted (c : Ctx) (l : Lane) : Bool := c.wr.has l || c.w.exited.has l

/-- How many lanes draw: one for a U result, else those that count as written. -/
def Ctx.drawCount (c : Ctx) (u : Bool) : Nat := if u then 1 else (lanes.filter c.counted).length

/-- The place of a lane's draw: the lanes draw in ascending order. -/
def Ctx.drawPlace (c : Ctx) (u : Bool) (l : Lane) : Nat := if u then 0 else (lanes.filter (fun m => c.counted m && decide (m < l))).length

/-- `Completes`, but the core's generator has moved on by n draws and nothing else of the core is changed. -/
def CompletesDrawing (s : State) (i : Instr) (c : Ctx) (n : Nat) (d : Spec) (x : Lane → Word) (fl : Lane → XFlags) : Prop :=
  ∃ t w, exec i s = .next t ∧ t = { s with warps := t.warps, cores := t.cores } ∧ t.warp c.k = some w ∧
    (∀ k, k ≠ c.k → t.warp k = s.warp k) ∧
    t.core c.core = { s.core c.core with lfsr := afterDraws (s.core c.core).lfsr n } ∧
    (∀ k, k ≠ c.core → t.core k = s.core k) ∧
    Went s i c w ∧ Raised c w fl ∧ w.preds = c.w.preds ∧ Got c w d 0 x (fun _ => false)


/-! ## The exact result and its one rounding (07 R154, R155, R158, R159) -/

/-- The rational number that a finite value, or an exact result, is. -/
def Fp.value : Fp → Rat
  | .fin neg m e => (if neg then -1 else 1) * ((m : Rat) * (2 : Rat) ^ e)
  | _ => 0
def Exact.size (x : Exact) : Rat := (x.m : Rat) * (2 : Rat) ^ x.e
def Exact.value (x : Exact) : Rat := (if x.neg then -1 else 1) * x.size

/-- Of the multiples of 2^q, n times it is the one that a mode takes for a magnitude `v` of the sign given (07 R154). -/
def TakenBy (r : Rnd) (neg : Bool) (v : Rat) (q : Int) (n : Nat) : Prop :=
  let u : Rat := (2 : Rat) ^ q
  let above := (n : Rat) * u - u < v ∧ v ≤ n * u
  let below := (n : Rat) * u ≤ v ∧ v < n * u + u
  match r with
  | .rn => 2 * (n * u - v) ≤ u ∧ 2 * (v - n * u) ≤ u ∧ ((2 * (n * u - v) = u ∨ 2 * (v - n * u) = u) → n % 2 = 0)
  | .rz => below
  | .ru => if neg then below else above
  | .rd => if neg then above else below
  | .rs => True

/-- What overflows under a mode becomes an infinity (07 R155), or the largest finite value: that always where it saturates (R160). -/
def toInfinity (r : Rnd) (neg sat : Bool) : Bool :=
  !sat && (match r with | .rn => true | .rs => true | .rz => false | .ru => !neg | .rd => neg)

/-- ONE ROUNDING OF AN EXACT RESULT to a format under a mode: on the grid of its binade, or of the subnormal numbers, the number the
mode takes, with the flags of 07 R159; a number beyond the largest finite one overflows. -/
def RoundedOnce (f : FFmt) (r : Rnd) (sat : Bool) (x : Exact) (y : Nat × XFlags) : Prop :=
  ∃ (top : Int) (n m : Nat), (2 : Rat) ^ top ≤ x.size ∧ x.size < (2 : Rat) ^ (top + 1) ∧
    let q := max (top - f.fbits) (f.emin - f.fbits)
    let v : Rat := n * (2 : Rat) ^ q
    TakenBy r x.neg x.size q n ∧ TakenBy r x.neg x.size (top - f.fbits) m ∧
    if v ≤ (f.read f.maxFin).value then
      (∃ k e, f.read y.1 = .fin x.neg k e ∧ (k : Rat) * (2 : Rat) ^ e = v) ∧
      y.2 = if v = x.size then 0 else XFlags.inexact |||
        (if (m : Rat) * (2 : Rat) ^ (top - f.fbits) < (2 : Rat) ^ f.emin then XFlags.underflow else 0)
    else y = (if toInfinity r x.neg sat then f.inf x.neg else f.sign x.neg + f.maxFin, XFlags.overflow ||| XFlags.inexact)
/-! ## Cross-lane rows (14 R300-R309) -/

/-- The members of a meeting, ascending, and those of them that vote 1. -/
def Meeting.members (m : Meeting) : List Lane := Sys2Proof.lanes.filter m.mem.has
def Meeting.votes (m : Meeting) : List Lane := m.members.filter (fun l => !m.exited.has l && (m.get 0 l).getLsbD l.val)

/-- The lane's value is supplied by a member that has not exited. -/
def Meeting.supplies (m : Meeting) (l : Lane) : Bool := m.mem.has l && !m.exited.has l

/-- The source lane of SHFL by the table of 14 R305. -/
def shflSource (v : ShflVar) (l : Lane) (k : Word) : Option Nat :=
  match v with
  | .lane => some (k.toNat % 32)
  | .back => if l.val < k.toNat then none else some (l.val - k.toNat)
  | .fwd => if 31 < l.val + k.toNat then none else some (l.val + k.toNat)
  | .swap => some (Nat.xor l.val (k.toNat % 32))

/-- What register j of B a source lane delivers: 0 where there is none, or it has exited, or is no member. -/
def Meeting.from (m : Meeting) (j : Nat) (n : Option Nat) : Word :=
  match n with
  | some n => if h : n < 32 then (if m.supplies ⟨n, h⟩ then m.get j ⟨n, h⟩ else 0) else 0
  | none => 0
/-- The result predicate of that lane. -/
def Meeting.fromOk (m : Meeting) (n : Option Nat) : Bool :=
  match n with
  | some n => if h : n < 32 then m.supplies ⟨n, h⟩ else false
  | none => false

/-- No member has exited (14 R302). -/
def Meeting.complete (m : Meeting) : Bool := m.members.all (fun l => !m.exited.has l)

/-- One integer step of a reduction (14 R307). -/
def stepInt (t : Ty) (op : RedOp) (x y : Word) : Word :=
  match op with
  | .add => x + y
  | .min => if lessW t y x then y else x
  | .max => if lessW t y x then x else y
  | .and => x &&& y
  | .or => x ||| y
  | .xor => x ^^^ y

/-- The integer fold of a list of members' values; of none, the identity (14 R308). -/
def foldInt (t : Ty) (op : RedOp) : List Word → Word
  | [] => match op with
    | .and => 0xFFFFFFFF#32
    | .min => if t.signed then 0x7FFFFFFF#32 else 0xFFFFFFFF#32
    | .max => if t.signed then 0x80000000#32 else 0#32
    | _ => 0#32
  | x :: xs => xs.foldl (stepInt t op) x

/-- The results of the integer cross-lane instructions: the destination registers, the result predicate's bit. -/
def crossRow (m : Meeting) : Instr → Option (Spec × Option (BitVec 3) × List (Lane → Word) × (Lane → Bool))
  | .vote _ v d pe _ _ => some (d, pe, [fun _ => match v with
      | .every => if m.votes = m.members then 1 else 0
      | .some => if m.votes = [] then 0 else 1
      | .mask => Mask.of (fun l => decide (l ∈ m.votes))
      | .same => if m.votes = [] ∨ m.votes = m.members then 1 else 0
      | .count => BitVec.ofNat 32 m.votes.length], fun _ => m.complete)
  | .shfl _ t v d pe _ _ _ =>
      let n := fun l => shflSource v l (m.get 0 l)
      some (d, pe, (fun l => m.from 1 (n l)) :: (if t.bytes = 8 then [fun l => m.from 2 (n l)] else []), fun l => m.fromOk (n l))
  | .bcast _ t d pe _ _ _ =>
      let n := some ((m.get 0 ((m.arrived.lowest).getD 0)).toNat % 32)
      some (d, pe, (fun _ => m.from 1 n) :: (if t.bytes = 8 then [fun _ => m.from 2 n] else []), fun _ => m.fromOk n)
  | .redx _ t op d pe _ _ => if t = .f32 then none else
      some (d, pe, [fun _ => foldInt t op (m.members.map (m.get 0))], fun _ => m.complete)
  | .scanx _ t excl op d pe _ _ => if t = .f32 then none else
      some (d, pe, [fun l => foldInt t op ((m.members.filter (fun k => if excl then decide (k < l) else decide (k ≤ l))).map (m.get 0))],
        fun _ => m.complete)
  | .matchx _ t d pe _ _ => some (d, pe, [fun l => Mask.of (fun k => m.supplies k && m.get 0 k == m.get 0 l
      && (t.bytes != 8 || m.get 1 k == m.get 1 l))], fun _ => m.complete)
  | _ => none

/-- The left fold of floating-point steps, with the flags that the steps raise. -/
def foldFlt (f : Nat → Nat → FVal) (x : Nat) (xs : List Nat) : FVal :=
  xs.foldl (fun a y => ((f a.1 y).1, a.2 ||| (f a.1 y).2)) (x, 0)

/-- A value with a NaN made canonical. -/
def canonical (x : Nat) : Nat := if (FFmt.f32.read x).isNan then FFmt.f32.nan else x

/-- One floating-point step. -/
def stepFlt (op : RedOp) (x y : Nat) : FVal :=
  match op with
  | .min => extremeOf .f32 false false x y
  | .max => extremeOf .f32 true false x y
  | _ => sumOf .f32 .rn x y

/-- The fold of members' FP32 values; of none, the identity. -/
def foldF32 (op : RedOp) : List Nat → FVal
  | [] => (match op with | .min => 0x7F800000 | .max => 0xFF800000 | .and => 0xFFFFFFFF | _ => 0, 0)
  | x :: xs => (canonical (foldFlt (stepFlt op) x xs).1, (foldFlt (stepFlt op) x xs).2)

/-- The FP32 results of REDX and SCANX, with their flags (14 R307, R308). -/
def crossFloat (m : Meeting) : Instr → Option (Spec × Option (BitVec 3) × (Lane → FVal))
  | .redx _ t op d pe _ _ => if t ≠ .f32 then none else
      some (d, pe, fun _ =>
        let r := if op = .add then
            (canonical ((treeSum (lanes.map (fun l => if m.mem.has l then some (m.get 0 l).toNat else none))).1.getD 0),
              (treeSum (lanes.map (fun l => if m.mem.has l then some (m.get 0 l).toNat else none))).2)
          else foldF32 op (m.members.map (fun l => (m.get 0 l).toNat))
        (r.1, r.2 ||| signals (m.members.map (fun l => FFmt.f32.read (m.get 0 l).toNat))))
  | .scanx _ t excl op d pe _ _ => if t ≠ .f32 then none else
      some (d, pe, fun l =>
        let r := foldF32 op ((m.members.filter (fun k => if excl then decide (k < l) else decide (k ≤ l))).map (fun k => (m.get 0 k).toNat))
        (r.1, r.2 ||| signals (m.members.map (fun l => FFmt.f32.read (m.get 0 l).toNat))))
  | _ => none

/-- What a cross-lane instruction supplies: its mask operand and its sources, one register each (14 R300-R309). -/
def crossSources : Instr → Option (Spec × List (Pos × Spec × Nat))
  | .vote _ _ _ _ a p => some (a, [(.b, .p p, 0)])
  | .shfl _ t _ _ _ a b e => some (a, (.c, e, 0) :: (.b, b, 0) :: (if t.bytes = 8 then [(.b, b, 1)] else []))
  | .bcast _ t _ _ a b e => some (a, (.c, e, 0) :: (.b, b, 0) :: (if t.bytes = 8 then [(.b, b, 1)] else []))
  | .redx _ _ _ _ _ a b => some (a, [(.b, b, 0)])
  | .scanx _ _ _ _ _ _ a b => some (a, [(.b, b, 0)])
  | .matchx _ t _ _ a b => some (a, (.b, b, 0) :: (if t.bytes = 8 then [(.b, b, 1)] else []))
  | _ => none

/-- A path of the issuing path's kind that stands at an address with the lanes given, its next word due once the STALL of
the issuing word has passed (02 R29). -/
def Stands (s : State) (c : Ctx) (p : Path) (lns : Mask) (pc : VA) (wait : Wait) : Prop :=
  p = { c.p with pid := p.pid, lns := lns, pc := pc, run := [], begun := false, runId := 0, behind := [], holds := []
                 wait := wait, retry := none, since := s.gtime, stall := s.nextSlot c }

/-- The frame of an instruction that parts or parks its path: of the issuing warp only paths, and the registers it writes
with the recency of those it names, are changed; the other paths are as before; outside the warp only the next number for a name. -/
structure Parted (s t : State) (i : Instr) (c : Ctx) (w : Warp) : Prop where
  rest : t = { s with warps := t.warps, fresh := t.fresh }
  others : ∀ k, k ≠ c.k → t.warp k = s.warp k
  warp : t.warp c.k = some w
  kept : w = { c.w with regs := w.regs, xflags := w.xflags, flying := w.flying, clock := w.clock, paths := w.paths }
  flags : w.raised = c.w.raised
  regs : ∀ n, n ∉ i.writes → ∀ h : n < 128, sameReg w.regs[n] c.w.regs[n]
  paths : ∀ n, n ≠ c.pid → ∀ q, c.w.path n = some q → w.path n = some q

/-- The names of a warp's paths are apart. -/
def Warp.namedApart (w : Warp) : Prop := (w.paths.map (·.pid)).Nodup

/-- Every name in use is one already given, and the paths of a warp have names apart, in the warps as they stand and as a
checkpoint holds them. -/
def State.named (s : State) : Prop :=
  (∀ kw ∈ s.warps, kw.2.namedApart ∧ ∀ p ∈ kw.2.paths, p.pid < s.fresh) ∧
  ∀ np ∈ s.parts, ∀ im, np.2.image = some im → ∀ w ∈ im.warps, w.namedApart ∧ ∀ p ∈ w.paths, p.pid < s.fresh

/-- Where a branch or a call goes (14 R316): the label's address, or the pair A of each lane. -/
def branchRow (s : State) (c : Ctx) : Instr → Option (Lane → DWord)
  | .bra _ off => some fun _ => ((c.x + 12 + 12 * off.signExtend 57 : VA)).setWidth 64
  | .call _ _ off => some fun _ => ((c.x + 12 + 12 * off.signExtend 57 : VA)).setWidth 64
  | .brx _ a => some fun l => s.pairAt c .a a l
  | .callx _ _ a => some fun l => s.pairAt c .a a l
  | .ret _ a => some fun l => s.pairAt c .a a l
  | _ => none

/-- The target is taken as it stands from a label, or is one that 14 R315 admits. -/
def targetTaken (i : Instr) (x : DWord) : Prop :=
  match i with
  | .bra .. | .call .. => True
  | _ => x.toNat % 4 = 0 ∧ x.toNat < 2 ^ 57

/-- The pair a call links in. -/
def linkPair : Instr → Option Spec
  | .call _ d _ => some d
  | .callx _ d _ => some d
  | _ => none

/-- The waiting paths at a JOIN, those of the handler where `hand`, leave as one (02 R32): the warp after it. -/
def JoinLeft (v w : Warp) (x : VA) (hand : Bool) (g : DWord) : Prop :=
  w = { v with paths := w.paths } ∧
  match v.joiners x hand with
  | [] => False
  | (p, _) :: rest =>
    w.path p.pid = some { p with lns := rest.foldl (fun a q => a ||| q.1.lns) p.lns, pc := x + 12, run := [], begun := false, runId := 0
                                 behind := [], holds := [], wait := .none, retry := none, since := g
                                 stall := rest.foldl (fun n q => max n q.1.stall) p.stall } ∧
    (∀ q ∈ rest, w.path q.1.pid = none) ∧
    ∀ n, n ≠ p.pid → (∀ q ∈ rest, n ≠ q.1.pid) → w.path n = v.path n

/-- Every lane that the masks name and that has not exited waits at X. -/
def JoinMet (v : Warp) (x : VA) (hand : Bool) : Prop :=
  v.joiners x hand ≠ [] ∧
    ∀ l, (∃ q ∈ v.joiners x hand, q.2.has l = true) → v.exited.has l = false → ∃ q ∈ v.joiners x hand, q.1.lns.has l = true

/-- How an instruction that parks its written lanes leaves their path: the other lanes go on at X + 12. -/
def Left (s : State) (c : Ctx) (w : Warp) (gone : Mask) : Prop :=
  if c.p.lns &&& ~~~gone = 0 then w.path c.pid = none
  else ∃ p, w.path c.pid = some p ∧ p = { c.p with lns := c.p.lns &&& ~~~gone, holds := p.holds, pc := c.x + 12, run := c.p.run.drop 1
                                                   begun := true, behind := [c.p.runId], retry := none, since := s.gtime
                                                   stall := s.nextSlot c }

/-- A WARP HAS ENDED (23 R439): the records that it named, in the order of its lanes, stand behind those of the warps that ended
before it, and before those of the warps that run. -/
def EndedIn (k : WarpKey) (l b : List Succ) : Prop :=
  ∃ mine : List Succ, mine.Perm (l.filter (·.who == k)) ∧ mine.Pairwise (fun x y => x.lane ≤ y.lane) ∧
    b = l.filter (fun x => x.ended && x.who != k) ++ mine.map (fun x => { x with ended := true }) ++ l.filter (fun x => !x.ended && x.who != k)

/-- A trap can be taken: the path is no handler path, the warp has no handler, the core has a free frame, the resumption
address is one a pc can hold (21 R411, R412, R415); the path's name is one already given. -/
structure CanTrap (s : State) (c : Ctx) (xpc : DWord) : Prop where
  user : c.p.frame = none
  free : c.w.inHandler = false
  frames : ∀ pl, c.w.place = some pl → s.framesHeld pl.core < 8
  pc : xpc.toNat % 4 = 0 ∧ xpc.toNat < 2 ^ 57
  fresh : c.pid < s.fresh

/-- The handler's address of a warp's context (10 R231); 0 where it has none. -/
def State.handlerOf (s : State) (w : Warp) : DWord :=
  match s.part w.part with
  | some p => match p.ctxs.find (s.ctxOf w) with | some c => c.hentry | none => 0
  | none => 0

/-- A path of lanes that have entered the handler with a frame (21 R411, R413). -/
def Entered (s : State) (p : Path) (lns : Mask) (f : Frame) : Prop :=
  p = { pid := s.fresh, lns := lns, pc := p.pc, run := [], begun := false, runId := 0, behind := [], holds := [], wait := .none
        frame := some f, retry := none, since := s.gtime, remote := false, stall := 0 }

/-- The shape code, the SPL bit and the tags that SHQ reports of a source (14 R310). -/
def shqWord (c : Ctx) (a : Spec) : Word :=
  match a with
  | .v n => match c.rd.regs[n.toNat]? with
    | some r =>
        BitVec.ofNat 32 ((if r.tags = 0 then 0 else 16) + (if r.tags = Mask.all then 8 else 0) + (if r.spl then 4 else 0)
          + (match r.val.shape with | .u => 0 | .a => 1 | .w => 2))
    | none => 0
  | .lid => 1
  | _ => 0

/-- How wide a source is: U, then A, then W (14 R311). -/
def widthOf (c : Ctx) (a : Spec) : Nat := (shqWord c a).toNat % 4

/-- The lane values that SHF forces (14 R312). -/
def forced (shape : BitVec 2) (v : Lane → Word) (wr : Mask) (l : Lane) : Word :=
  match lanes.filter wr.has with
  | [] => v l
  | l0 :: more =>
    if shape = 2#2 then v l
    else if shape = 0#2 then v l0
    else match more with
      | [] => v l0
      | l1 :: _ =>
        let st := BitVec.ofInt 32 (((v l1 - v l0).toInt).tdiv (l1.val - l0.val : Int))
        v l0 + BitVec.ofInt 32 (l.val - l0.val : Int) * st

/-- The tags SHF leaves. -/
def forcedTags (shape : BitVec 2) (v : Lane → Word) (tags wr : Mask) (l : Lane) : Bool :=
  if shape = 2#2 then tags.has l
  else tags == Mask.all && lanes.all (fun m => forced shape v wr m == v m)

/-- The lanes that have arrived at the cross-lane instruction at X, those of the handler where `hand`. -/
def arrivedAt (v : Warp) (x : VA) (hand : Bool) : Mask :=
  Mask.of (fun l => !v.exited.has l && (v.meeting x hand).any (fun q => q.1.lns.has l))

/-- What the path of a lane brought: its masks, the lanes its guards held for, its sources. -/
def broughtAt (v : Warp) (x : VA) (hand : Bool) (l : Lane) : Line × Mask × List Line :=
  match (v.meeting x hand).find? (fun q => q.1.lns.has l) with
  | some q => q.2.2
  | none => (Vector.replicate 32 0, 0, [])

/-- The lanes written: arrived, their guards held. -/
def writtenAt (v : Warp) (x : VA) (hand : Bool) : Mask :=
  Mask.of (fun l => (arrivedAt v x hand).has l && (broughtAt v x hand l).2.1.has l)

/-- All the arrived lanes stand as the first path `p`, its next word due when each of theirs would be; the paths of `rest`
are gone. -/
def joinedPath (w : Warp) (x : VA) (hand : Bool) (p : Path) (rest : List Path) : Path :=
  { p with lns := arrivedAt w x hand, wait := .none, run := [], begun := false, holds := []
           stall := rest.foldl (fun n q => max n q.stall) p.stall }
def joinedWarp (w : Warp) (x : VA) (hand : Bool) (p : Path) (rest : List Path) : Warp :=
  { w with paths := (w.paths.filter (fun q => !rest.any (fun r => r.pid == q.pid))).map (fun q =>
      if q.pid = p.pid then joinedPath w x hand p rest else q) }
/-- The context of the joined path. -/
def joinedCtx (k : WarpKey) (w : Warp) (x : VA) (hand : Bool) (p : Path) (rest : List Path) (h : Hdr) : Ctx :=
  { k := k, pid := p.pid, w := joinedWarp w x hand p rest, rd := joinedWarp w x hand p rest, p := joinedPath w x hand p rest, x := x
    h := h, act := arrivedAt w x hand, wr := writtenAt w x hand, priv := p.frame.isSome }

/-- A cross-lane instruction is due at X for the ordinary paths, or for those of the handler (14 R300, R301, 21 R407): its
paths, with names apart, wait there, every arrived lane read the same mask M, every member that has not exited has arrived, and
some lane is written; no paths of the other kind are due there as well. -/
structure CrossDue (w : Warp) (x : VA) (hand : Bool) (i : Instr) (M : Mask) (n : Nat) (p : Path) (rest : List Path) : Prop where
  waits : (w.meeting x hand).map (·.1) = p :: rest
  same : ∀ q ∈ w.meeting x hand, q.2.1 = i ∧ q.2.2.2.2.length = n
  alone : w.meetingDue x (!hand) = false
  apart : w.namedApart
  masks : ∀ l, (arrivedAt w x hand).has l = true → (broughtAt w x hand l).1[l.val] = M
  whole : ∀ l, M.has l = true → w.exited.has l = false → (arrivedAt w x hand).has l = true
  written : writtenAt w x hand ≠ 0

/-- What the arrived lanes supply: register j of each, an exited member 0. -/
def suppliedAt (w : Warp) (x : VA) (hand : Bool) (M : Mask) (n : Nat) : Meeting where
  mem := M
  exited := w.exited
  arrived := arrivedAt w x hand
  srcs := (List.range n).map (fun j => Line.of (fun l =>
    if (arrivedAt w x hand).has l then ((broughtAt w x hand l).2.2.getD j (Vector.replicate 32 0))[l.val] else 0))


/-- The instructions that write registers or a predicate from their sources alone, by the rows of their tables: the destination and its
words, the predicate with the bit of each lane, the flags of each lane. -/
def plainRow (s : State) (c : Ctx) (i : Instr) :
    Option (Spec × List (Lane → Word) × Option (BitVec 3 × (Lane → Bool)) × (Lane → XFlags)) :=
  let words := fun (r : Option (Spec × (Lane → Word))) => r.map (fun q => (q.1, [q.2], none, noFlags))
  let floats := fun (r : Option (Spec × (Lane → FVal))) =>
    r.map (fun q => (q.1, [fun l => BitVec.ofNat 32 (q.2 l).1], none, fun l => (q.2 l).2))
  [words (sumRow s c i), (longRow s c i).map (fun q => (q.1, halves q.2, none, noFlags)), words (logicRow s c i),
    (predRow s c i).map (fun q => (.z, [], some q, noFlags)), (moveRow s c i).map (fun q => (q.1, q.2, none, noFlags)),
    floats (floatRow s c i), (fcmpRow s c i).map (fun q => (.z, [], some (q.1, q.2.1), q.2.2)), floats (packedRow s c i),
    floats (convertRow s c i), floats (specialRow s c i)].foldr (fun x y => x.or y) none

/-- Where a spilled register lies, and the 128 bytes there as its reload reads them (02 R54, R55), in the state `u` that the
translation leaves: it may be read, and its data are sound. -/
def Reloads (s u : State) (c : Ctx) (n : Nat) (h : n < 128) (x : Loc) (bs : List Byte) (g : Nat) : Prop :=
  c.w.regs[n].spl = true ∧ s.locate c.w.part (s.ctxOf c.w) (c.w.backing c.w.regs[n].line) 128 .read c.priv = (u, .ok x) ∧
    u.locRead c.w.part (c.w.backing c.w.regs[n].line) 128 0 x = .ok (bs, g)

/-- The lanes of a list of faults, and those of them whose cause has a code. -/
def faultLanes (fs : List (Lane × Cause)) : Mask := Mask.of (fun l => fs.any (·.1 == l))
def codeLanes (fs : List (Lane × Cause)) (code : BitVec 8) : Mask := Mask.of (fun l => fs.any (fun q => q.1 == l && q.2.code == code))

/-- LANES OF AN INSTRUCTION FAULT while its other lanes do what they do (21 R407, R411, R413, R415): they leave the path, which goes
on; those whose cause has the code of the lowest-numbered one's, `e`, enter the handler with it, to resume at X, and the others stand
deferred; the other paths are as before. `f` is the number of the frame. -/
structure Faulted (s : State) (c : Ctx) (w : Warp) (fs : List (Lane × Cause)) (e : Cause) (f : Nat) : Prop where
  left : Left s c w (faultLanes fs)
  handler : ∃ p ∈ w.paths, p.pc = (s.handlerOf c.w).setWidth 57 ∧ Entered { s with fresh := f } p (codeLanes fs e.code)
    { id := f, xpc := c.x.setWidth 64, xaddr := e.xaddr, xcause := BitVec.ofNat 32 (e.code.toNat + 2 ^ 16 * e.detail.toNat), xstat := 0
      xmask := codeLanes fs e.code, ks := Vector.replicate 8 0 }
  defers : w.defers = if faultLanes fs = codeLanes fs e.code then c.w.defers
    else c.w.defers ++ [{ lns := faultLanes fs &&& ~~~codeLanes fs e.code, x := c.x, since := s.gtime.toNat }]
  others : ∀ n, n ≠ c.pid → ∀ q, c.w.path n = some q → w.path n = some q

/-- The imprecise record is reported (21 R413, R414): every written lane traps with code 0x15 and IMP, the space as DETAIL, the bank and
the offset in XADDR, the further accesses in XSTAT; the record is cleared, and no register is changed. -/
def ReportsGuard (s : State) (i : Instr) (c : Ctx) (r : ImpRec) : Prop :=
  ∃ t w p, exec i s = .next t ∧ Parted s t i { c with w := { c.w with imp := none } } w ∧ w.regs = c.w.regs ∧ Left s c w c.wr ∧
    p ∈ w.paths ∧ p.pc = (s.handlerOf c.w).setWidth 57 ∧
    Entered s p c.wr { id := s.fresh, xpc := c.x.setWidth 64, xaddr := r.bank ++ r.off
                       xcause := BitVec.ofNat 32 (2 ^ 31 + 0x15 + 2 ^ 16 * r.space.code.toNat), xstat := r.further, xmask := c.wr
                       ks := Vector.replicate 8 0 }
/-! ## Memory instructions at issue (16 R344-R358, 17 R364-R383) -/

/-- The path of the issuing word goes on to the next word. -/
def GoesOn (s : State) (c : Ctx) (p : Path) : Prop :=
  p = { c.p with holds := p.holds, pc := c.p.pc + 12, run := c.p.run.drop 1, begun := true, behind := [c.p.runId]
                 retry := none, since := s.gtime, stall := s.nextSlot c }

/-- AN ENTRY JOINS THE ACCESS QUEUE (16 R346): the state with the translations made, `u`, in which of the issuing warp only its
queue has the entry at its end, its path is `p`, and its registers hold what they held; nothing else is changed. -/
structure Joined (u t : State) (c : Ctx) (w : Warp) (e : Entry) (p : Path) : Prop where
  rest : t = { u with warps := t.warps, fresh := u.fresh + 1 }
  others : ∀ k, k ≠ c.k → t.warp k = u.warp k
  warp : t.warp c.k = some w
  kept : w = { c.w with regs := w.regs, clock := w.clock, paths := w.paths, queue := c.w.queue ++ [e] }
  regs : ∀ n (h : n < 128), w.regs[n].tags = c.w.regs[n].tags ∧ ∀ l, w.regs[n].val.at l = c.w.regs[n].val.at l
  path : w.path c.pid = some p
  paths : ∀ n, n ≠ c.pid → w.path n = c.w.path n

/-- What the table of memory instructions says of one (16 R344-R355). -/
structure AccessRow where
  kind : EKind
  scope : Scope
  ord : Order
  ty : Ty
  m : MemArg
  disp : Int
  perm : BitVec 8
  use : Use
  /-- the register written when the access returns, and how many -/
  dst : Option (Spec × Nat)
  /-- one access serves every lane -/
  once : Bool
  /-- the data, the comparand and the tag of a lane -/
  data : Lane → List Byte
  cmp : Lane → List Byte
  tag : Lane → Bool

/-- The rows of LD, LDC, ST, STC, ATOM, RED and WAITMEM. -/
def accessRow (s : State) (c : Ctx) : Instr → Option AccessRow
  | .ld _ sc ord bc t d m disp => some
    { kind := .ld, scope := sc, ord := ord, ty := t, m := m, disp := disp.toInt, perm := permR, use := .read
      dst := if d = .z then none else some (d, max 1 (t.bytes / 4))
      once := s.uniform c m && (bc || m.space != .glob), data := fun _ => [], cmp := fun _ => [], tag := fun _ => false }
  | .ldc _ sc ord bc d m disp => some
    { kind := .ldc, scope := sc, ord := ord, ty := .b128, m := m, disp := disp.toInt, perm := permR, use := .read
      dst := if d = .z then none else some (d, 4)
      once := s.uniform c m && (bc || m.space != .glob), data := fun _ => [], cmp := fun _ => [], tag := fun _ => false }
  | .st _ sc ord t d m disp => some
    { kind := .st, scope := sc, ord := ord, ty := t, m := m, disp := disp.toInt, perm := permW, use := .write
      dst := none, once := false, data := s.dataBytes c .d d t.bytes, cmp := fun _ => [], tag := fun _ => false }
  | .stc _ sc ord d m disp => some
    { kind := .stc, scope := sc, ord := ord, ty := .b128, m := m, disp := disp.toInt, perm := permW, use := .write
      dst := none, once := false, data := s.dataBytes c .d d 16, cmp := fun _ => [], tag := s.quadTag c .d d }
  | .atom _ sc ord op t d m disp e => some
    { kind := .atom op, scope := sc, ord := ord, ty := t, m := m, disp := disp.toInt, perm := permAtom, use := .write
      dst := if d = .z then none else some (d, max 1 (t.bytes / 4)), once := false
      data := fun l => if op = .cas then (s.dataBytes c .c e (2 * t.bytes) l).drop t.bytes else s.dataBytes c .c e t.bytes l
      cmp := fun l => if op = .cas then (s.dataBytes c .c e (2 * t.bytes) l).take t.bytes else [], tag := fun _ => false }
  | .red _ sc ord op t d m disp => some
    { kind := .red op, scope := sc, ord := ord, ty := t, m := m, disp := disp.toInt, perm := permAtom, use := .write
      dst := none, once := false, data := s.dataBytes c .d d t.bytes, cmp := fun _ => [], tag := fun _ => false }
  | .waitmem _ sc ord cond t d m disp => some
    { kind := .waitmem cond, scope := sc, ord := ord, ty := t, m := m, disp := disp.toInt, perm := permAtom, use := .read
      dst := none, once := false, data := s.dataBytes c .d d t.bytes, cmp := fun _ => [], tag := fun _ => false }
  | _ => none

/-- The accesses of the written lanes, each formed and checked (16 R344): the state with the translations made, the lanes that
fault, the accesses. -/
def AccessRow.form (s : State) (c : Ctx) (r : AccessRow) : State × List (Lane × Cause) × List Acc :=
  let lane := fun (s : State) l => s.laneAddr c r.m r.disp r.ty.bytes r.ty.bytes r.perm r.use l
  if r.once then s.formOnce lane c.wr else s.formAll lane c.wr

/-- What the destinations of an access that take their line at issue hold then, where that is not wide (02 R53): those of a
result that is W, and those of a uniform one that a partial mask may make W. -/
def Ctx.heldFor (c : Ctx) (sh : Shape) (dst : Option (Spec × Nat)) : List (Nat × Val) :=
  match dst with
  | some (.v m, n) =>
    if sh = .w ∨ wset c.wr c.w.exited ≠ Mask.all then
      (List.range n).filterMap (fun j => if h : m.toNat + j < 128 then
        (if c.rd.regs[m.toNat + j].val.shape = .w then none else some (m.toNat + j, c.rd.regs[m.toNat + j].val)) else none)
    else []
  | _ => []

/-- The entry of the instruction. -/
def AccessRow.entry (u : State) (c : Ctx) (i : Instr) (r : AccessRow) (accs : List Acc) : Entry where
  id := u.fresh
  kind := r.kind
  space := r.m.space
  scope := r.scope
  ord := r.ord
  ty := r.ty
  x := c.x
  pid := c.pid
  runId := c.p.runId
  accs := accs.map (fun a => { a with data := r.data (a.lns.lowest.getD 0), cmp := r.cmp (a.lns.lowest.getD 0), tag := r.tag (a.lns.lowest.getD 0) })
  instr := i
  priv := c.priv
  ch := c.h.ch
  dst := r.dst
  held := c.heldFor (if r.once then .u else .w) r.dst
  lns := c.wr
  shape := if r.once then .u else .w
  relDone := false
  relSeq := 0
  frame := c.p.frameId
  issued := u.gtime
  gated := none

/-- The bytes that the pieces of a private store take of its data, each with its device address: through a view in the
buffer's format (09 R215). -/
def pieceStores : List PrivPiece → List Byte → List (Nat × Byte)
  | [], _ => []
  | p :: ps, bs =>
    let x := match p.loc.view with
      | none => bs.take p.len
      | some a => convertBytes a.formats.1 a.formats.2 (bs.take p.len)
    ((List.range x.length).map (p.loc.dev + ·)).zip x ++ pieceStores ps (bs.drop p.len)

/-- The bytes that a store to lane-private memory writes, in the order of its lanes: each with its device address. -/
def privStores (s : State) (c : Ctx) (d : Spec) (n : Nat) (ps : List (Lane × List PrivPiece)) : List (Nat × Byte) :=
  (ps.map (fun q => pieceStores q.2 (s.dataBytes c .d d n q.1))).flatten

/-- A partition but for the translations it holds, its undo log and what its contexts count of their traffic. -/
def Part.still (p : Part) : Part :=
  { p with tlb := [], undo := [], ctxs := p.ctxs.map (fun x => (x.1, { x.2 with fills := 0, wbacks := 0 })) }

/-- A partition but for what its contexts count of their traffic. -/
def Part.uncounted (p : Part) : Part := { p with ctxs := p.ctxs.map (fun x => (x.1, { x.2 with fills := 0, wbacks := 0 })) }

/-- PRIVATE LINES HAVE LEFT THE L1s, the dirty ones written back to their home L2s (05 R106, R127); nothing else is changed. -/
def LinesBack (s t : State) (which : L1Line → Prop) : Prop :=
  t = { s with parts := t.parts, l2 := t.l2, l1 := t.l1, fresh := t.fresh } ∧
  (∀ n, (t.part n).map Part.uncounted = (s.part n).map Part.uncounted) ∧ ∀ x, x ∈ t.l1 ↔ x ∈ s.l1 ∧ ¬ which x

/-- The private lines at the places of an access are in the L1 of a core, dirty where it `wrote` them, and no line has left it or
become clean (05 R106, R129). -/
def LinesHeld (s t : State) (c : CoreKey) (ps : List (Lane × List PrivPiece)) (wrote : Bool) : Prop :=
  (∀ q ∈ ps, ∀ p ∈ q.2, ∀ l ∈ blocks 128 p.loc.dev p.loc.len, ∃ x ∈ t.l1, x.core = c ∧ x.line = l ∧ (wrote = true → x.dirty = true)) ∧
  ∀ x ∈ s.l1, ∃ y ∈ t.l1, y = { x with dirty := y.dirty } ∧ (x.dirty = true → y.dirty = true) ∧ (wrote = false → y = x)

/-- The last of the bytes written to an address. -/
def lastAt (ws : List (Nat × Byte)) (a : Nat) : Option Byte := (ws.reverse.find? (fun q => q.1 == a)).map (·.2)

/-- An instruction that acts once for the warp (17 R364-R367): the kind of its entry, its window, its scope and order, its
type, what its one access carries, the offset and the length of the access; the destination; and what its path then waits for,
given the number of its entry, if it does not go on. -/
structure OnceRow where
  kind : EKind
  space : Space
  scope : Scope
  ord : Order
  ty : Ty
  off : Nat
  pa : Nat
  len : Nat
  data : List Byte
  dst : Option (Spec × Nat)
  shape : Shape
  wait : Option (Nat → Wait)

/-- Its entry. -/
def OnceRow.entry (u : State) (c : Ctx) (i : Instr) (r : OnceRow) : Entry where
  id := u.fresh
  kind := r.kind
  space := r.space
  scope := r.scope
  ord := r.ord
  ty := r.ty
  x := c.x
  pid := c.pid
  runId := c.p.runId
  accs := [{ lns := c.wr, off := r.off, pa := r.pa, len := r.len, view := none, data := r.data, cmp := [], tag := false, seen := false
             served := false, res := [], g := 0 }]
  instr := i
  priv := c.priv
  ch := c.h.ch
  dst := r.dst
  held := c.heldFor r.shape r.dst
  lns := c.wr
  shape := r.shape
  relDone := false
  relSeq := 0
  frame := c.p.frameId
  issued := u.gtime
  gated := none

/-- The operand of an instruction that acts once is uniform over `n` registers. -/
def State.oneFor (s : State) (c : Ctx) (q : Pos) (a : Spec) (n : Nat) : Prop := allU (s.shapes c q a n) = true

/-- The memory operand of such an instruction passes its checks at `off`: that of its lowest written lane (17 R366). -/
def State.onceAt (s : State) (c : Ctx) (m : EngArg) (perm : BitVec 8) (off : Nat) : Prop :=
  off = effOffset (s.quadAt c .a m.a c.low) (s.word c .b m.b c.low) m.sh (16 * m.disp.toInt) ∧
  capCheck (s.quadTag c .a m.a c.low) (s.quadAt c .a m.a c.low) false off 16 perm none false = none ∧ off % 16 = 0

/-- BARINIT, BARARR, BARWAIT, BARTST, RNGGET, RNGPUT, RNGCLOSE and EVSIG with the conditions under which each joins the queue. -/
def onceRow (s : State) (c : Ctx) : Instr → Option (OnceRow × (Nat → Prop))
  | .barinit _ sp m e f =>
    let arr := (s.word c .e e c.low).toNat
    let byt := (s.word c .f f c.low).toNat
    some ({ kind := .barinit, space := spSpace sp, scope := .thread, ord := .rlx, ty := .b128, off := 0, pa := 0, len := 16
            data := leBytes 16 (byt + arr * 2 ^ 32 + byt * 2 ^ 64 + arr * 2 ^ 96), dst := none, shape := .w
            wait := if arr = 0 ∧ byt = 0 then some .home else none },
      fun off => s.oneFor c .e e 1 ∧ s.oneFor c .f f 1 ∧ arr < 65536 ∧ s.onceAt c m (permW ||| permAtom) off)
  | .bararr _ sc sp n m =>
    some ({ kind := .bararr, space := spSpace sp, scope := sc, ord := .rel, ty := .b128, off := 0, pa := 0, len := 16
            data := leBytes 4 (match n with | .imm k => k.toNat | .reg e => (s.word c .e e c.low).toNat)
            dst := none, shape := .w, wait := some .home },
      fun off => (∀ e, n = .reg e → s.oneFor c .e e 1) ∧ s.onceAt c m permAtom off)
  | .bartst _ sp d m =>
    some ({ kind := .bartst, space := spSpace sp, scope := .cluster, ord := .acq, ty := .b128, off := 0, pa := 0, len := 16, data := []
            dst := if d = .z then none else some (d, 1), shape := .u, wait := none },
      fun off => s.onceAt c m permR off)
  | .rngput _ _ m e =>
    some ({ kind := .ring, space := .shr, scope := .cluster, ord := .rel, ty := .b128, off := 0, pa := 0, len := 16
            data := leBytes 4 (s.word c .e e c.low).toNat, dst := none, shape := .w, wait := some .home },
      fun off => s.oneFor c .e e 1 ∧ s.onceAt c m (permR ||| permW ||| permAtom) off)
  | .rngclose _ m =>
    some ({ kind := .ring, space := .shr, scope := .cluster, ord := .rel, ty := .b128, off := 0, pa := 0, len := 16, data := []
            dst := none, shape := .w, wait := some .home },
      fun off => s.onceAt c m (permR ||| permW ||| permAtom) off)
  | .evsig _ a _ =>
    some ({ kind := .evsig, space := .priv, scope := .device, ord := .rel, ty := .b32, off := 0, pa := 0, len := 0
            data := leBytes 4 (s.word c .a a c.low).toNat, dst := none, shape := .w, wait := none },
      fun off => s.oneFor c .a a 1 ∧ off = 0)
  | _ => none


/-- The six steps of the capability check, each by whether it fails (05 R113, R114): `q` is the capability, `perm` what is asked. -/
def capFails (tag : Bool) (q : CapBits) (glob : Bool) (off len : Nat) (perm : BitVec 8) : List Bool :=
  [!tag, q.getLsbD 111, q.getLsbD 110 != glob, q.extractLsb' 104 8 &&& perm != perm,
    decide (off < (q.extractLsb' 0 57).toNat) || decide ((q.extractLsb' 64 40).toNat < off - (q.extractLsb' 0 57).toNat + len),
    q.extractLsb' 61 3 != 0#3 || decide (12 ≤ (q.extractLsb' 57 4).toNat)]

/-- A cause of an access: its code, its DETAIL and its address. -/
def accessCause (code detail addr : Nat) : Cause :=
  { code := BitVec.ofNat 8 code, detail := BitVec.ofNat 8 detail, xaddr := BitVec.ofNat 64 addr, xstat := 0, imp := false }
/-- What the imprecise record of a warp becomes when a window access lies outside its window (21 R414). -/
def Ctx.guardRec (c : Ctx) (sp : Space) (off : Nat) : ImpRec :=
  match c.w.imp with
  | some r => { r with further := if r.further = BitVec.allOnes 32 then r.further else r.further + 1 }
  | none => { space := sp, off := BitVec.ofNat 48 off, further := 0
              bank := BitVec.ofNat 16 (if sp = .scr then (match c.w.place with | some pl => pl.core.core | none => 0) else off / 256 % 128) }

/-- The issuing path stands at X and waits; nothing else of the machine is changed but the recency of registers. -/
def Blocks (s : State) (i : Instr) (c : Ctx) (wait : Wait) : Prop :=
  ∃ t w p, exec i s = .next t ∧ Parted s t i c w ∧ t.fresh = s.fresh ∧ (∀ n (h : n < 128), sameReg w.regs[n] c.w.regs[n]) ∧
    w.path c.pid = some p ∧ Stands s c p c.p.lns c.x wait

/-- A waiting path of a placed warp is released at the next word; nothing else is changed. -/
def Released (s t : State) (k : WarpKey) (n : Nat) (w : Warp) (p : Path) : Prop :=
  t = { s with warps := t.warps } ∧ (∀ j, j ≠ k → t.warp j = s.warp j) ∧
    ∃ v, t.warp k = some v ∧ v = { w with paths := v.paths } ∧ (∀ m, m ≠ n → v.path m = w.path m) ∧
      v.path n = some { p with pc := p.pc + 12, run := [], begun := false, runId := 0, behind := [], holds := [], wait := .none
                               retry := none, since := s.gtime }

/-! ## Accesses at their homes (06 R132-R145, 16 R345-R355) -/

/-- No lane holds a watch entry. -/
def State.unwatched (s : State) : Prop := ∀ kw ∈ s.warps, ∀ e ∈ kw.2.queue, e.watching = []

/-- The storage is there, so that a write to it is kept. -/
def State.holds (s : State) : Area → Prop
  | .scr t k => ∃ x, s.task t = some x ∧ k < x.scr.length
  | .shr t => s.task t ≠ none
  | .chip p => s.part p ≠ none
  | _ => True

/-- Where n bytes of an access lie: the storage, the first byte, and how many of them are inside. -/
def State.spot (s : State) (w : Warp) (e : Entry) (a : Acc) (n : Nat) : Area × Nat × Nat :=
  if e.space = .glob then (.hbm, a.pa, n)
  else ((s.window w e.space).1, (s.window w e.space).2.1 + a.off, min n ((s.window w e.space).2.2 - a.off))

/-- EVERY BYTE OF EVERY STORAGE reads as before, but those of the access that lie inside, which are `bs`. -/
def Landed (s t : State) (q : Area × Nat × Nat) (bs : List Byte) : Prop :=
  ∀ ar x, (t.area ar).mem.byte x =
    if ar = q.1 ∧ q.2.1 ≤ x ∧ x < q.2.1 + q.2.2 then bs.getD (x - q.2.1) 0 else (s.area ar).mem.byte x

/-- Every granule's tag is as before, but those of the bytes written, which are clear, or set where a whole capability was. -/
def Tagged (s t : State) (q : Area × Nat × Nat) (tag : Bool) : Prop :=
  ∀ ar g, (t.area ar).tags.contains g =
    if ar = q.1 ∧ g ∈ blocks 16 q.2.1 q.2.2 then (tag && decide (16 ≤ q.2.2) && g == q.2.1 / 16) else (s.area ar).tags.contains g

/-- A task but for its windows; a partition but for its chip window, its undo log, its held effects and its contexts' counts. -/
def Task.bare (x : Task) : Task := { x with shr := .empty, scr := [] }
def Part.bare (p : Part) : Part := { p with chip := .empty, undo := [], heldFx := [], ctxs := [] }

/-- THE FRAME OF A STEP OF THE ACCESS QUEUE: of the warp only its queue, what it has read of lines (06 R137) and its imprecise
record are changed, which is made where an access does not lie inside its window (21 R414); outside it only storage and what its homes keep. -/
structure Homed (s t : State) (k : WarpKey) (w v : Warp) (e : Entry) (a : Acc) : Prop where
  rest : t = { s with warps := t.warps, tasks := t.tasks, parts := t.parts, hbm := t.hbm, lines := t.lines, copies := t.copies
                      l2 := t.l2, fresh := t.fresh, draws := t.draws }
  tasks : ∀ n, (t.task n).map Task.bare = (s.task n).map Task.bare
  parts : ∀ n, (t.part n).map Part.bare = (s.part n).map Part.bare
  others : ∀ j, j ≠ k → t.warp j = s.warp j
  warp : t.warp k = some v
  kept : v = { w with queue := v.queue, imp := v.imp, seen := v.seen }
  imp : if e.space = .glob ∨ s.windowIn w e.space a.off a.len = true then v.imp = w.imp
    else ∃ r, v.imp = some r ∧ match w.imp with
      | some q => r = { q with further := if q.further = BitVec.allOnes 32 then q.further else q.further + 1 }
      | none => r.space = e.space ∧ r.off = BitVec.ofNat 48 a.off ∧ r.further = 0 ∧
          (e.space = .scr → ∀ pl, w.place = some pl → r.bank = BitVec.ofNat 16 pl.core.core) ∧
          (e.space = .shr → r.bank = BitVec.ofNat 16 (a.off / 256 % 128))

/-- The queue with an access of an entry answered. -/
def answeredIn (w : Warp) (id : Nat) (e : Entry) (a new : Acc) : List Entry :=
  w.queue.map (fun f => if f.id = id then { f with gated := if e.gated.isSome then none else f.gated
                                                   accs := f.accs.map (fun b => if b = a then new else b) } else f)

/-- One access of an entry may be made now at its home, alone: it touches no byte of another of the entry, the order of the
queue lets it go, no access at .sc of its scope comes before it (06 R141), it can be reached and its location is sound. -/
structure MayPerform (s : State) (k : WarpKey) (id : Nat) (lns : Mask) (w : Warp) (e : Entry) (a : Acc) (p : Part) : Prop where
  warp : s.warp k = some w
  key : w.key = k
  entry : w.entry id = some e
  chosen : e.chosen lns = [a]
  order : w.mayGo e a = true
  turn : s.scTurn e = true
  reach : s.unreachable e a = false
  sound : s.locationBad w e a = false
  part : s.part w.part = some p
  calm : s.unwatched
  canon : s.memOk = true

/-- G of a store to a line at its home, accepted at an instant (06 R134). -/
def State.stampAt (s : State) (line t : Nat) : Nat :=
  max (max t (s.lineInfo line).lloc) (max (s.lineInfo line).lrem (s.lineInfo line).lfab)

/-- The GWCT that a write of an access carries. -/
def State.stampFor (s : State) (p : Part) (w : Warp) (e : Entry) (a : Acc) : Nat :=
  if e.space = .glob then s.stampAt (a.pa / 128) (s.homeTime p (a.pa / 128)) else s.windowNow w e.space a.off

/-- The number that bytes of a type stand for. -/
def numOf (t : Ty) (n : Nat) : Int :=
  if t.signed ∧ 2 ^ (8 * t.bytes - 1) ≤ n then (n : Int) - 2 ^ (8 * t.bytes) else n

/-- The value an atomic leaves (16 R351): `m` what the location held, `x` the data, `cmp` the comparand. -/
def atomOf (op : AtomOp) (t : Ty) (m x cmp : Nat) : Nat :=
  match op with
  | .add => if t = .f32 then (sumOf .f32 .rn m x).1 else (m + x) % 2 ^ (8 * t.bytes)
  | .min => if t = .f32 then (extremeOf .f32 false false m x).1 else if numOf t m ≤ numOf t x then m else x
  | .max => if t = .f32 then (extremeOf .f32 true false m x).1 else if numOf t m ≤ numOf t x then x else m
  | .and => Nat.land m x
  | .or => Nat.lor m x
  | .xor => Nat.xor m x
  | .exch => x
  | .cas => if m = cmp then x else m
  | .inc => if x ≤ m then 0 else m + 1
  | .dec => if m = 0 ∨ x < m then x else m - 1

/-- A barrier object after an arrival that adds `count` bytes (17 R376, 06 R149). -/
def barAfter (o count : Nat) : Nat :=
  let byt := o % 2 ^ 32 + count
  let arr := o / 2 ^ 32 % 2 ^ 16 - 1
  if byt = 0 ∧ arr = 0 then o / 2 ^ 64 % 2 ^ 32 + o / 2 ^ 96 % 2 ^ 16 * 2 ^ 32 + (1 - o / 2 ^ 48 % 2) * 2 ^ 48 + o / 2 ^ 49 * 2 ^ 49
  else byt + arr * 2 ^ 32 + o / 2 ^ 48 % 2 * 2 ^ 48 + o / 2 ^ 49 * 2 ^ 49

/-- What a lane of a load receives in register j (07 R153): fewer than 32 bits extended by the type, else word j. -/
def loadOf (t : Ty) (bs : List Byte) (j : Nat) : Word :=
  match t.bytes with
  | 1 => let b := BitVec.ofNat 8 (leNat (bs.take 1)); if t.signed then b.signExtend 32 else b.setWidth 32
  | 2 => let b := BitVec.ofNat 16 (leNat (bs.take 2)); if t.signed then b.signExtend 32 else b.setWidth 32
  | _ => BitVec.ofNat 32 (leNat ((bs.drop (4 * j)).take 4))

/-- The access that serves a lane, and what the lane receives: of BARTST PHASE and PARR (17 R377). -/
def resultOf (e : Entry) (j : Nat) (l : Lane) : Word :=
  match e.accs.find? (fun a => a.lns.has l) with
  | none => 0
  | some a =>
    if e.kind = .bartst then BitVec.ofNat 32 (leNat a.res / 2 ^ 32 % 2 ^ 16 + leNat a.res / 2 ^ 48 % 2 * 2 ^ 16)
    else loadOf e.ty a.res j

/-- Eight further lines can be had for a warp (02 R53). -/
def Lined (s : State) (c : Ctx) : Prop :=
  ∀ j, j < 8 → c.w.wuse + j < c.w.wres ∨ (0 < s.sharedFree c.pool c.k j ∧ (c.w.inHarvest = false ∨ c.w.wuse + j < 30))

/-- AN ENTRY IS OVER: it leaves the queue, HZN takes the largest stamp of its accesses, its destination holds the results in
the lanes it serves that have not exited (a k register where the frame of its issue still stands, 21 R411), and nothing else is changed. -/
def Completed (s t : State) (k : WarpKey) (w : Warp) (e : Entry) : Prop :=
  ∃ v, t = { s with warps := t.warps } ∧ (∀ j, j ≠ k → t.warp j = s.warp j) ∧ t.warp k = some v ∧
    v = { w with regs := v.regs, clock := v.clock, paths := v.paths, hzn := joinHzn w.hzn (e.accs.foldl (fun g a => max g a.g.toNat) 0)
                 queue := w.queue.filter (fun f => f.id != e.id) } ∧
    (∀ n (h : n < 128), e.pends n = false → sameReg v.regs[n] w.regs[n]) ∧
    (∀ n q, w.path n = some q → ∃ p, v.path n = some p ∧ p = { q with frame := p.frame } ∧
      ((∀ d, e.dst = some d → ∀ m, d.1 ≠ .k m) → p.frame = q.frame)) ∧
    ∀ d n j, e.dst = some (d, n) → j < n → (e.ctx w).wr ≠ 0 → (∀ m, d = .k m → e.frame ≠ none ∧ w.frameId = e.frame) →
      Got (e.ctx w) v d j (resultOf e j) (fun l => e.kind == .ldc && (e.accs.find? (fun a => a.lns.has l)).any (·.tag))


/-- A ring descriptor after RNGPUT of slot i, `full` by a producer (03 R70): its phase is the one put, and it is held no longer. -/
def putAfter (g : Nat) (full : Bool) (i : Nat) : Nat :=
  (if full then g + 2 ^ (32 + i) else g - 2 ^ (32 + i)) - 2 ^ (64 + i)

/-- A WORD THAT WAITS WITHIN ITS RUN FOR THE HOME IS PERFORMED THERE (17 R376, R378): the object, 16 bytes in a window, holds
`new` afterwards, the access is answered, the path goes on to the next word, and the turn of its core may end, on which paths of the
warp that yielded have had their turn; nothing else is changed. -/
def HomeWord (s t : State) (k : WarpKey) (w : Warp) (e : Entry) (a : Acc) (p : Path) (new : Nat) : Prop :=
  ∃ v pl, w.place = some pl ∧ t = { s with warps := t.warps, tasks := t.tasks, parts := t.parts, cores := t.cores, fresh := t.fresh } ∧
    (∀ n, (t.task n).map Task.bare = (s.task n).map Task.bare) ∧ (∀ n, (t.part n).map Part.bare = (s.part n).map Part.bare) ∧
    (∀ c, c ≠ pl.core → t.core c = s.core c) ∧ (∀ j, j ≠ k → t.warp j = s.warp j) ∧ t.warp k = some v ∧
    v = { w with queue := v.queue, paths := v.paths } ∧ Landed s t (s.spot w e a 16) (leBytes 16 new) ∧ Tagged s t (s.spot w e a 16) false ∧
    v.queue = answeredIn w e.id e a { a with served := true, res := [], tag := false, g := BitVec.ofNat 64 (s.windowNow w e.space a.off) } ∧
    (∃ q, v.path p.pid = some q ∧ q = { p with wait := .none, pc := p.pc + 12, run := p.run.drop 1, begun := true, behind := [p.runId]
                                               holds := q.holds, retry := none, since := s.gtime, stall := q.stall }) ∧
    ∀ n q, n ≠ p.pid → w.path n = some q → v.path n = some q ∨ ∃ m b, q.wait = .yield m b ∧ v.path n = some { q with wait := .yield m true }
/-! ## Waits that end (06 R141, R147-R149, 03 R63, R70, 17 R377-R383, 23 R437) -/

/-- Only the access entries of a warp are changed. -/
def QueueOnly (s t : State) (k : WarpKey) (w : Warp) (q : List Entry) : Prop :=
  t = { s with warps := t.warps } ∧ (∀ j, j ≠ k → t.warp j = s.warp j) ∧ t.warp k = some { w with queue := q }

/-- Only the access entries of a warp are changed, and the lines of a home L2 with what contexts count of their traffic. -/
def QueueTouched (s t : State) (k : WarpKey) (w : Warp) (q : List Entry) : Prop :=
  t = { s with warps := t.warps, parts := t.parts, l2 := t.l2, fresh := t.fresh } ∧
  (∀ n, (t.part n).map Part.still = (s.part n).map Part.still) ∧
  (∀ j, j ≠ k → t.warp j = s.warp j) ∧ t.warp k = some { w with queue := q }

/-- What a translation may leave behind: translations held, the bits A and D of page-table entries set, what the homes of
their lines keep, and the lines of page tables in the home L2 with what their contexts count of them (05 R127). EVERY BYTE of
global memory reads as before but the first of each entry marked, in which those two bits alone may be set, and neither is
cleared (05 R121). -/
def WalkedOnly (s t : State) (marks : List Nat) : Prop :=
  t = { s with parts := t.parts, hbm := t.hbm, lines := t.lines, l2 := t.l2, fresh := t.fresh } ∧
  (∀ n, (t.part n).map Part.still = (s.part n).map Part.still) ∧
  (∀ a, a ∉ marks → t.hbm.mem.byte a = s.hbm.mem.byte a) ∧
  ∀ a, a ∈ marks → ∃ m : Byte, m &&& 0xF3 = 0 ∧ t.hbm.mem.byte a = s.hbm.mem.byte a ||| m

/-- The entries that the walk for an address visits and marks, by the device address of each (05 R118, R119, R121). -/
def State.walked (s : State) (part : Nat) (ctx : BitVec 6) (va : Nat) : List Nat :=
  match s.part part with
  | none => []
  | some p =>
    match p.ctxs.find ctx with
    | none => []
    | some x =>
      match s.walkFrom p va 4 x.root.toNat [] [] with
      | .found _ seen _ _ _ _ => seen
      | .poisoned _ => []

/-- The entries that a translation may mark: the leaf of a translation that is held, which is the model's choice, log entry 95;
else those of a walk. -/
def State.marked (s : State) (part : Nat) (ctx : BitVec 6) (va : Nat) : List Nat :=
  match (s.part part).bind (·.tlbHit ctx va) with
  | some e => [e.leaf]
  | none => s.walked part ctx va

/-- Slot and descriptor of a RNGGET that is taken (03 R70): the slot its index names is in the phase asked for and not held, and a
producer's ring is not closed; the descriptor marks it held and the index goes on. -/
structure RingTaken (g role : Nat) (full : Bool) (i g' : Nat) : Prop where
  slot : i = if full then g / 2 ^ 16 % 32 else g / 2 ^ 11 % 32
  role : role = if full then g / 2 ^ 7 % 4 else g / 2 ^ 5 % 4
  phase : g.testBit (32 + i) = full
  held : g.testBit (64 + i) = false
  there : full = false → g.testBit 9 = false
  after : g' = g + 2 ^ (64 + i) - i * 2 ^ (if full then 16 else 11) + (i + 1) % (g % 32 + 1) * 2 ^ (if full then 16 else 11)

/-- Warps stand under their own keys, each once, with paths of names apart. -/
def State.keyed (s : State) : Prop :=
  (s.warps.map (·.1)).Nodup ∧ ∀ kw ∈ s.warps, kw.2.key = kw.1 ∧ kw.2.namedApart

/-! ## Capabilities (16 R359-R362, 17 R393), reading state (17 R384-R391) -/

/-- A capability from its fields, PITCH the highest (05 R113). -/
def capOf (pitch : BitVec 16) (perm : BitVec 8) (len : BitVec 40) (zero : BitVec 3) (fmt : BitVec 4) (base : BitVec 57) : CapBits :=
  pitch ++ perm ++ len ++ zero ++ fmt ++ base

/-- CAPNAR in one lane: the value and the tag. -/
def narrowed (tag : Bool) (q : CapBits) (b n : Nat) (fmt : Option Fmt) (pitch : Option (BitVec 16)) : CapBits × Bool :=
  let blocked := match fmt with
    | some f => !q.getLsbD 110 && (q.extractLsb' 57 4 == 10#4 || f.code.toNat == 10)
    | none => false
  if tag = true ∧ q.getLsbD 111 = false ∧ q.getLsbD 109 = true ∧ b + n ≤ (q.extractLsb' 64 40).toNat ∧ blocked = false then
    (capOf (pitch.getD (q.extractLsb' 112 16)) (q.extractLsb' 104 8) (BitVec.ofNat 40 n) (q.extractLsb' 61 3)
      (match fmt with | some f => BitVec.ofNat 4 f.code.toNat | none => q.extractLsb' 57 4) (q.extractLsb' 0 57 + BitVec.ofNat 57 b), true)
  else (q, false)

/-- CAPPERM in one lane: R, W, ATOM, ASYNC, MMA and DERIVE only fall, GLOBAL stays, SEAL is as the mask has it. -/
def limited (tag : Bool) (q : CapBits) (mask : BitVec 8) : CapBits × Bool :=
  if tag = true ∧ q.getLsbD 111 = false ∧ q.getLsbD 109 = true then
    (capOf (q.extractLsb' 112 16) (mask.extractLsb' 7 1 ++ q.extractLsb' 110 1 ++ (q.extractLsb' 104 6 &&& mask.extractLsb' 0 6))
      (q.extractLsb' 64 40) (q.extractLsb' 61 3) (q.extractLsb' 57 4) (q.extractLsb' 0 57), true)
  else (q, false)

/-- The four words of a quad. -/
def quarters (x : Lane → CapBits) : List (Lane → Word) :=
  [fun l => (x l).extractLsb' 0 32, fun l => (x l).extractLsb' 32 32, fun l => (x l).extractLsb' 64 32, fun l => (x l).extractLsb' 96 32]

/-- An offset or an extent: a word, or with `.l` a pair. -/
def State.extentAt (s : State) (c : Ctx) (l : Bool) (q : Pos) (a : Spec) (x : Lane) : Nat :=
  if l then (s.pairAt c q a x).toNat else (s.word c q a x).toNat

/-- The instructions over capabilities: the destination, its words, their tags, the predicate. -/
def capRow (s : State) (c : Ctx) : Instr → Option (Spec × List (Lane → Word) × (Lane → Bool) × Option (BitVec 3 × (Lane → Bool)))
  | .capnar _ fmt pitch l d pe a b e =>
    let r := fun x => narrowed (s.quadTag c .a a x) (s.quadAt c .a a x) (s.extentAt c l .b b x) (s.extentAt c l .c e x) fmt pitch
    some (d, quarters (fun x => (r x).1), fun x => (r x).2, pe.map (fun p => (p, fun x => (r x).2)))
  | .capperm _ d a mask =>
    let r := fun x => limited (s.quadTag c .a a x) (s.quadAt c .a a x) mask
    some (d, quarters (fun x => (r x).1), fun x => (r x).2, none)
  | .capget _ sel d a =>
    let q := fun x => s.quadAt c .a a x
    some (d, [fun x => match sel.toNat with
      | 0 => (q x).extractLsb' 0 32
      | 1 => ((q x).extractLsb' 32 25).setWidth 32
      | 2 => (q x).extractLsb' 64 32
      | 3 => ((q x).extractLsb' 96 8).setWidth 32
      | 4 => ((q x).extractLsb' 104 8).setWidth 32
      | 5 => ((q x).extractLsb' 57 4).setWidth 32
      | 6 => ((q x).extractLsb' 112 16).setWidth 32
      | _ => if s.quadTag c .a a x then 1 else 0], fun _ => false, none)
  | .captst _ need pd a b e =>
    let q := fun x => s.quadAt c .a a x
    some (.z, [], fun _ => false, some (pd, fun x => s.quadTag c .a a x && !(q x).getLsbD 111
      && (q x).extractLsb' 104 6 &&& need == need
      && decide ((s.word c .b b x).toNat + (s.word c .c e x).toNat ≤ ((q x).extractLsb' 64 40).toNat)))
  | .caproot _ d a =>
    let q := fun x => s.quadAt c .a a x
    some (d, quarters q, fun x => (q x).extractLsb' 61 3 == 0#3 && decide (((q x).extractLsb' 57 4).toNat < 12), none)
  | _ => none

/-- `Completes` with the tags the destination's registers receive. -/
def CompletesTagged (s : State) (i : Instr) (c : Ctx) (d : Spec) (xs : List (Lane → Word)) (g : Lane → Bool)
    (pd : Option (BitVec 3 × (Lane → Bool))) : Prop :=
  ∃ t w, exec i s = .next t ∧ OnlyWarp s t c w ∧ Went s i c w ∧ Raised c w noFlags ∧ Preds c w pd ∧ ∀ j x, xs[j]? = some x → Got c w d j x g

/-- What RDID gives (17 R385). -/
def State.identityOf (s : State) (w : Warp) (sel : Nat) : Nat :=
  let t := s.task w.key.task
  let pl := w.place.getD ⟨⟨0, 0⟩, 0⟩
  let adm := if w.harvest then 0 else match t with | some x => x.admseq.toNat | none => 0
  [pl.core.core, pl.core.cluster, w.key.wid, if w.harvest then 0 else w.key.team, pl.slot, w.role.toNat,
    match t with | some x => x.trec.taskid.toNat | none => 0, adm % 2 ^ 32, adm / 2 ^ 32,
    match t with | some x => (x.trec.teams - 1) + 256 * (x.trec.warps - 1) | none => 0,
    match t with | some x => x.ctx.toNat | none => 0].getD sel (if w.inHarvest then 1 else 0)

/-- What a path reads from a system register (17 R390, R391). -/
def State.registerOf (s : State) (c : Ctx) (p : Part) (n : Nat) : Nat :=
  let f : Frame := c.p.frame.getD { id := 0, xpc := 0, xaddr := 0, xcause := 0, xstat := 0, xmask := 0, ks := Vector.replicate 8 0 }
  let cl := s.cluster c.core.cluster
  let a := p.apertures.toList.getD (n % 16) Aperture.off
  match n with
  | 0x00 => f.xpc.toNat
  | 0x01 => f.xcause.toNat
  | 0x02 => f.xstat.toNat
  | 0x03 => f.xaddr.toNat
  | 0x04 => f.xmask.toNat
  | 0x10 => (s.core c.core).lfsr.toNat
  | 0x11 => cl.genCopy0.toNat
  | 0x20 => p.lloc.toNat
  | 0x21 => p.lrem.toNat
  | 0x22 => p.flease.toNat
  | 0x23 => p.fskew.toNat
  | 0x30 => match p.windows.find c.core.cluster with | some x => x.rows.toNat | none => 0
  | 0x31 => match p.windows.find c.core.cluster with | some x => x.idx.toNat | none => 0
  | 0x32 => match p.ctxs.find (s.ctxOf c.w) with | some x => x.pinq | none => 0
  | _ => if n < 0x50 then a.va.toNat else if n < 0x60 then a.sz.toNat else a.pa.toNat

/-- The sticky flags of the results that have landed by a cycle: those a read of XFLAGS then sees (15 R327). -/
def landedBy (w : Warp) (pos : Nat) : XFlags :=
  (w.flying.filter (fun f => decide (f.ready ≤ pos))).foldl (fun g f => g ||| f.flags) w.xflags

/-- RDTIME, RDID, RDCNT but for selector 2, HVSTAT and MFX. RDCNT reads the warp as it stood before either word of a dual issue
wrote (02 R27). -/
def readRow (s : State) (c : Ctx) (p : Part) : Instr → Option (Spec × List (Lane → Word))
  | .rdtime _ d => some (d, halves (fun _ => BitVec.ofNat 64 (s.nowAt c.w)))
  | .rdid _ sel d => some (d, [fun _ => BitVec.ofNat 32 (s.identityOf c.w sel.toNat)])
  | .rdcnt _ sel d => match sel.toNat with
    | 0 => some (d, [fun _ => c.rd.wspill])
    | 1 => some (d, [fun _ => (landedBy c.rd (s.posOf c.w c.p)).setWidth 32])
    | 2 => none
    | 3 => some (d, [fun _ => BitVec.ofNat 32 (c.rd.cntCopy + 2 ^ 8 * c.rd.cntGather + 2 ^ 16 * c.rd.cntMma + 2 ^ 24 * c.rd.cntColl)])
    | 4 => some (d, halves (fun _ => c.rd.hzn))
    | _ => some (d, [fun _ => BitVec.ofNat 32 (c.rd.wres % 256 + 2 ^ 16 * (c.rd.wuse % 256))])
  | .hvstat _ d =>
    let lent := match c.w.place with | some pl => (s.core pl.core).lent | none => none
    some (d, [fun _ => BitVec.ofNat 32 (if c.w.inHarvest then c.w.revs.toNat + (if c.w.lentMap then 2 ^ 16 else 0) + 2 ^ 17
      else if lent.any (fun x => x.task == c.w.key.task && x.team == c.w.key.team) then 2 ^ 16 else 0)])
  | .mfx _ reg d =>
    if sysReg64 reg then some (d, halves (fun _ => BitVec.ofNat 64 (s.registerOf c p reg.toNat)))
    else some (d, [fun _ => BitVec.ofNat 32 (s.registerOf c p reg.toNat)])
  | _ => none

/-- The instruction goes on, has changed of its warp only the recency of registers, and of the machine only what `f` says. -/
def Effects (s : State) (i : Instr) (c : Ctx) (f : State → State → Prop) : Prop :=
  ∃ t w, exec i s = .next t ∧ t.warp c.k = some w ∧ (∀ k, k ≠ c.k → t.warp k = s.warp k) ∧ Went s i c w ∧ w.preds = c.w.preds ∧
    w.raised = c.w.raised ∧ (∀ n (h : n < 128), sameReg w.regs[n] c.w.regs[n]) ∧ f s t

/-- The fields of an aperture's register (09 R214). -/
def Aperture.wrote (a : Aperture) (n : Nat) (v : DWord) : Aperture :=
  if n < 0x50 then { a with va := v &&& 0x01FFFFFFFFFF000F#64 }
  else if n < 0x60 then { a with sz := v &&& 0x000000FFFFFFFFFF#64 } else { a with pa := v &&& 0x0000FFFFFFFFFF80#64 }

/-! ## Engine operations (06 R146, R147, 17 R364-R374) -/

/-- What the issue of an engine operation fixes, beside what every operation has (06 R146). -/
structure OpRow where
  cls : Option CntClass
  scope : Scope
  caps : List CapBits := []
  off : Nat := 0
  rows : Line := Vector.replicate 32 0
  scales : List Line := []
  b : Nat := 0
  bar : Option (Bool × Nat) := none
  bytes : Option Nat := none
  k : Nat := 0

/-- The operation. -/
def OpRow.op (s : State) (c : Ctx) (i : Instr) (r : OpRow) : EngOp where
  id := s.fresh
  part := c.w.part
  instr := i
  w := c.k
  core := c.core
  slot := match c.w.place with | some pl => pl.slot | none => 0
  cls := r.cls
  scope := r.scope
  hzn := c.w.hzn
  x := c.x
  lns := c.wr
  caps := r.caps
  off := r.off
  rows := r.rows
  scales := r.scales
  b := r.b
  bar := r.bar
  earlier := c.w.queue.map (·.id)
  phase := .queued
  bytes := r.bytes
  k := r.k
  gated := none

/-- The operands of a job card's instruction: uniform, the card's 64 bytes inside a capability that allows it, aligned. -/
def State.cardAt (s : State) (c : Ctx) (m : EngArg) (off : Nat) : Prop :=
  s.oneFor c .a m.a 4 ∧ s.oneFor c .b m.b 1 ∧
  off = effOffset (s.quadAt c .a m.a c.low) (s.word c .b m.b c.low) m.sh (16 * m.disp.toInt) ∧ off % 64 = 0 ∧
  capCheck (s.quadTag c .a m.a c.low) (s.quadAt c .a m.a c.low) false off 64 (permR ||| permW ||| permAsync) none false = none

/-- The entries and the base of a warp's index window on its cluster: its partition's WSIDX, bits [29:15] and [14:0] (08 R180), as
far as the 16,384 entries of a cluster reach; that what lies beyond is not there is the model's choice, log entry 113. -/
def State.indexWindow (s : State) (c : Ctx) : Nat × Nat :=
  match (s.part c.w.part).bind (fun p => p.windows.find c.core.cluster) with
  | some w =>
    let base := (w.idx.extractLsb' 0 15).toNat
    (min (w.idx.extractLsb' 15 15).toNat (16384 - base), base)
  | none => (0, 0)

/-- The slot lies in the crew's tile memory. -/
def State.slotIn (s : State) (c : Ctx) (f : AccFmt) (slot : Nat) : Prop :=
  ∃ t, s.task c.k.task = some t ∧ slot < if f = .f32 then t.tslot else 2 * t.tslot

/-- A barrier operand of a matrix instruction: absent, or uniform, aligned and inside the shared window. -/
def State.barAt (s : State) (c : Ctx) (bar : Option Spec) (o : Option (Bool × Nat)) : Prop :=
  match bar with
  | none => o = none
  | some b => s.oneFor c .c b 1 ∧ (s.word c .c b c.low).toNat % 16 = 0 ∧ s.windowIn c.w .shr (s.word c .c b c.low).toNat 16 = true ∧
      o = some (false, (s.word c .c b c.low).toNat)

/-- n bytes of every row a lane stands for pass the checks of a capability: rows 4l to 4l+3 (08 R172). -/
def rowsPass (tag : Bool) (q : CapBits) (row : Nat → Nat) (len : Nat) (glob : Bool) (perm : BitVec 8) (fmt : Option Nat) (wr : Mask) : Prop :=
  ∀ l, wr.has l = true → ∀ r, r < 4 → capCheck tag q glob (row (4 * l.val + r)) len perm fmt false = none

/-- The rows of CPY, CPYG, MMA, MZERO, MDRAIN and WTLOAD with what each must pass to issue whole. `off` is the effective offset of
its memory operand, `br` its barrier. -/
def opRow (s : State) (c : Ctx) (off : Nat) (br : Option (Bool × Nat)) : Instr → Option (OpRow × Prop)
  | .cpy _ sc _ _ m => some ({ cls := some .copy, scope := sc, off := off }, s.cardAt c m off)
  | .cpyg _ sc _ _ m e => some ({ cls := some .gather, scope := sc, off := off, rows := Line.of (s.word c .e e) }, s.cardAt c m off)
  | .mma _ sc bf acc bar slot m e f =>
    let q := s.quadAt c .a m.a c.low
    let b := (s.word c .e e c.low).toNat
    let len := if bf then 256 else 128
    some ({ cls := some .mma, scope := sc, caps := [q], off := off, b := b, bar := br
            scales := if bf then [] else (List.range 4).map (fun k => Line.of ((s.opnd c .f f k).1.at))
            bytes := some (if br = none then 0 else c.wr.count * (4 * len)) },
      s.oneFor c .a m.a 4 ∧ s.oneFor c .b m.b 1 ∧ s.oneFor c .e e 1 ∧ s.slotIn c acc slot.toNat ∧ b % 4 = 0 ∧
      b + 3 < (s.indexWindow c).1 ∧ s.barAt c bar br ∧
      off = effOffset q (s.word c .b m.b c.low) m.sh (16 * m.disp.toInt) ∧
      rowsPass (s.quadTag c .a m.a c.low) q (fun r => mod57 ((off + r * mmaPitch q bf : Nat))) len false
        (permR ||| permAsync ||| permMma) (some (if bf then 3 else 4)) c.wr)
  | .mzero _ sc fmt bar slot => some ({ cls := some .mma, scope := sc, bar := br, bytes := some 0 }, s.slotIn c fmt slot.toNat ∧ s.barAt c bar br ∧ off = 0)
  | .mdrain _ sc fmt t bar slot a _ acc =>
    let q := fun j => (s.drainQuad c a j).1
    let g := fun j => (s.drainQuad c a j).2
    let e := drainElem fmt
    let n := 4 * c.wr.count
    let p := permW ||| permAsync
    let used := 0 :: (if fmt = .e4m3 then [1] else []) ++ (if t then [2, 3] else [])
    some ({ cls := some .mma, scope := sc, caps := (List.range 4).map q, bar := br
            bytes := some (if br = none then 0 else n * 512 * e + (if fmt = .e4m3 then 16 * n else 0) + (if t then 512 * n + 2048 else 0)) },
      off = 0 ∧ (∀ j ∈ used, ∀ k, k < 4 → (s.opnd c .a a (4 * j + k)).1.shape = .u) ∧
      (∀ v, a = .v v → v.toNat + 4 * (used.getLast?.getD 0) + 4 ≤ c.w.nregs) ∧ s.slotIn c acc slot.toNat ∧ s.barAt c bar br ∧
      rowsPass (g 0) (q 0) (fun r => mod57 ((capBase (q 0) + r * drainPitch (q 0) (512 * e) : Nat))) (512 * e) (capGlobal (q 0)) (p ||| permMma) none c.wr ∧
      (fmt = .e4m3 → rowsPass (g 1) (q 1) (fun r => mod57 ((capBase (q 1) + r * 16 : Nat))) 16 (capGlobal (q 1)) p none c.wr) ∧
      (t = true → (∀ r, r < 512 → capCheck (g 2) (q 2) (capGlobal (q 2)) (mod57 ((capBase (q 2) + r * drainPitch (q 2) 128 : Nat))) 128
          (p ||| permMma) none false = none) ∧
        capCheck (g 3) (q 3) (capGlobal (q 3)) (mod57 (capBase (q 3))) 2048 p none false = none))
  | .wtload _ sc _ bar _ m =>
    let q := s.quadAt c .a m.a c.low
    some ({ cls := none, scope := sc, caps := [q], off := off, bar := br, bytes := some (if br = none then 0 else 272) },
      s.oneFor c .a m.a 4 ∧ s.oneFor c .b m.b 1 ∧ s.barAt c bar br ∧
      off = effOffset q (s.word c .b m.b c.low) m.sh (16 * m.disp.toInt) ∧
      capCheck (s.quadTag c .a m.a c.low) q (capGlobal q) off 272 (permR ||| permAsync) none false = none)
  | _ => none

/-- The role that may issue an engine instruction (13 R285, 17 R370, R371). -/
def roleFor : Instr → BitVec 2
  | .cpy .. | .cpyg .. | .coll .. => 1
  | _ => 2

/-- THE WHOLE OF THE ISSUE OF AN OPERATION: it stands last among the operations of its engine, its counter is one more, and
nothing else is changed but what `Went` says and what `f` says of the partitions. -/
def Enters (s : State) (i : Instr) (c : Ctx) (op : EngOp) (f : State → Prop) : Prop :=
  ∃ t w v, exec i s = .next t ∧ t = { s with warps := t.warps, parts := t.parts, fresh := s.fresh + 1, ops := s.ops ++ [op] } ∧
    (∀ k, k ≠ c.k → t.warp k = s.warp k) ∧ t.warp c.k = some w ∧ Went s i c v ∧ v.preds = c.w.preds ∧ v.raised = c.w.raised ∧
    (w = match op.cls with | some cls => v.setCnt cls (c.w.cnt cls + 1) | none => v) ∧ f t

/-- The operation taken up, worked to its end without a failure. -/
def Worked (t : State) (id : Nat) (o : EngOp) (bytes : Nat) (bar : Option (Bool × Nat)) : Prop :=
  ∃ g, t.op id = some { o with phase := .worked g none, bytes := some bytes, bar := bar }

/-- Names of operations are apart, and no collective waits for its members. -/
def State.plainOps (s : State) : Prop := (s.ops.map (·.id)).Nodup ∧ ∀ o ∈ s.ops, ∀ h c n, o.phase ≠ .collecting h c n

/-! ## The module: power, start-up, partitions, front ends (10 R218-R237, 26 R455-R460) -/

/-- The step is made whole and leaves `t`. -/
def Makes (s : State) (i : Instr) (t : State) : Prop := exec i s = .next t

/-- No partition has a trace buffer. -/
def State.untraced (s : State) : Prop := ∀ np ∈ s.parts, np.2.trace = none

/-- Partitions stand under their own numbers. -/
def State.numbered (s : State) : Prop := ∀ n p, s.part n = some p → p.id = n

/-- The cap in force: R235's field, or the nearer limit. -/
def capNow (v : Word) : Nat := let n := (v.extractLsb' 0 11).toNat; if n < 600 then 600 else if 1800 < n then 1800 else n

/-- The averaging window in us: R235's field, or the nearer limit. -/
def winNow (v : Word) : Nat := let n := (v.extractLsb' 16 11).toNat; if n < 100 then 100 else if 2000 < n then 2000 else n

/-- The vote of a partition for a cluster: VLO where it has cast none. -/
def Part.voteFor (p : Part) (k : BitVec 5) : Rail := match p.votes.find k with | some r => r | none => .vlo

/-- No work of a partition ran at a vote of its own below the rail. -/
def State.noExcess (s : State) (ms : List Meter) : Prop :=
  ∀ m ∈ ms, ∀ p, s.part m.part = some p → p.voteFor m.cluster = .vhi ∨ (s.cluster m.cluster.toNat).rail = .vlo

/-- What the meters give a partition. -/
def drawnBy (ms : List Meter) (n : Nat) : Nat := ((ms.filter (fun m => m.part == n)).map (·.drawn)).sum

/-- The device's units of 1 GiB: its capacity scales with the channels present (01 R19). -/
def capacity (ch : BitVec 256) : Nat := 384 * ((List.range 256).filter ch.getLsbD).length / 256

/-- A cluster's memories are worn out (26 R458): two uncorrectable errors of its tile memory, weight store or register storage
within 24 h, or more than 1,000 corrected ones within one. -/
def State.wornOut (s : State) (k : Nat) : Prop :=
  2 ≤ (s.softErrors.filter (fun x => decide (s.wall < x.wall + 24 * 3600 * 10 ^ 9) && x.what == .cluster k && !x.correctable &&
    (match x.area with | .tile _ | .ws _ | .regs _ => true | _ => false))).length ∨
  1000 < (s.softErrors.filter (fun x => decide (s.wall < x.wall + 3600 * 10 ^ 9) && x.what == .cluster k && x.correctable)).length

/-- A channel is worn out (26 R459): uncorrectable errors in more than 16 distinct units of 32 bytes within 24 h. -/
def State.channelOut (s : State) (n : Nat) : Prop :=
  16 < (((s.softErrors.filter (fun x => decide (s.wall < x.wall + 24 * 3600 * 10 ^ 9) && x.what == .channel n && !x.correctable)).map
    (fun x => (x.area, x.unit))).eraseDups).length

/-- The colours of a die that serve a partition and all others as chip scratchpad. -/
def chipColoursOf (s : State) (a : PartArg) (f : PartArg → BitVec 48) : Nat :=
  ((f a :: s.parts.vals.map (fun p => f p.arg)).map (fun c => ((List.range 48).filter c.getLsbD).length)).sum

/-- One partition is changed, and nothing else. -/
def OnePart (s t : State) (part : Nat) (q : Part) : Prop :=
  t = { s with parts := t.parts } ∧ t.part part = some q ∧ ∀ n, n ≠ part → t.part n = s.part n

/-- One cluster is changed, and nothing else. -/
def OneCluster (s t : State) (k : Nat) (x : Cluster) : Prop :=
  t = { s with clusters := t.clusters } ∧ t.cluster k = x ∧ ∀ n, n ≠ k → t.cluster n = s.cluster n

/-- One front end is changed, and nothing else. -/
def OneFront (s t : State) (fe : BitVec 4) (f : FrontEnd) : Prop :=
  t = { s with fes := t.fes } ∧ t.fe fe.toNat = f ∧ ∀ n, n ≠ fe.toNat → t.fe n = s.fe n

/-- The vote of a partition that sets the rail of a cluster: it holds the cluster, and of time-sliced ones it has its slice. -/
def Part.votesFor (p : Part) (k : BitVec 5) : Prop := p.clusters.getLsbD k.toNat = true ∧ (p.arg.sliced = false ∨ p.active = true)

/-- The function owns the block of a front end (10 R218, R219): a PF, or a VF bound to the front end's partition, on the link on
which it is enabled. -/
def State.owner (s : State) (fn : Fn) (fe : BitVec 4) : Prop :=
  (∃ link, fn = .pf link) ∨ ∃ link n part p, fn = .vf link n ∧ s.vfLink.getLsbD n.toNat = link ∧ (s.fe fe.toNat).part = some part ∧
    s.part part = some p ∧ n ∈ p.arg.vfs

/-- A partition's capability record (10 R232), the ISA version 3.0. -/
def Part.capRecord (p : Part) : BitVec 1024 :=
  p.chgrant ++ p.chpres ++ BitVec.ofNat 64 (p.arg.units.length * 2 ^ 30) ++ 0#16 ++ p.arg.chcol1 ++ 0#16 ++ p.arg.chcol0 ++ 0#16 ++
  p.arg.l2col1 ++ 0#16 ++ p.arg.l2col0 ++ 0#40 ++ p.arg.floor ++ p.arg.ports ++ 0#16 ++
  BitVec.ofNat 16 ((p.arg.fes.map (fun f => 2 ^ f.fe.toNat)).sum) ++ p.clusters ++ p.clpres ++ 0#15 ++
  BitVec.ofBool p.arg.sliced ++ 3#8 ++ 0#8

/-- The partition whose memory a function's BAR2 shows (10 R218): that to which the VF is bound, where it is enabled on its link;
for a PF the first with no VF. -/
def State.behind (s : State) (fn : Fn) (p : Option Part) : Prop :=
  match fn with
  | .pf _ => p = s.parts.vals.find? (fun q => q.arg.vfs.isEmpty)
  | .vf link n => p = if s.vfLink.getLsbD n.toNat = link then s.parts.vals.find? (fun q => q.arg.vfs.contains n) else none

/-- A command of a front end: what R221 reads from the queue, a partition's own held writes being in effect for it (04 R100). -/
def commandAt (s : State) (p : Part) (f : FrontEnd) : Cmd :=
  Cmd.of (leNat ((p.heldFx.foldl (fun m h => match h with | .hostWrite a bs => m.putAll a bs | _ => m) s.hostMem).bytes (f.qbase.toNat / 64 * 64 + 64 * (f.head.toNat % 2 ^ (f.qsize.toNat + 4))) 64))

/-- A front end stands ready to read the command `c` for partition `p` (10 R221, R225). -/
structure Commanded (s : State) (fe : BitVec 4) (part : Nat) (p : Part) (c : Cmd) : Prop where
  of : (s.fe fe.toNat).part = some part
  there : s.part part = some p
  id : p.id = part
  on : (s.fe fe.toNat).qen = true
  more : (s.fe fe.toNat).tail ≠ (s.fe fe.toNat).head
  fits : ((s.fe fe.toNat).tail - (s.fe fe.toNat).head).toNat ≤ 2 ^ ((s.fe fe.toNat).qsize.toNat + 4)
  whole : p.failed = false
  slice : p.arg.sliced = false ∨ (p.active = true ∧ p.ckBegan = none)
  acquired : (s.fe fe.toNat).after.toNat ≤ s.gtime.toNat
  ring : (s.fe fe.toNat).cidx - (s.fe fe.toNat).chead ≠ BitVec.ofNat 32 (2 ^ ((s.fe fe.toNat).csize.toNat + 4))
  held : p.arg.sliced = false ∨ c.irq = false ∨ p.fxTight = false
  read : c = commandAt s p (s.fe fe.toNat)
  calm : s.unwatched

/-- The function whose MSI-X table a partition's front ends use: its first VF, on the link on which that is enabled, else the PF of
HA; that it is the first is the model's choice, log entry 19. -/
def State.irqFn (s : State) (p : Part) : Fn :=
  match p.arg.vfs with | v :: _ => Fn.vf (s.vfLink.getLsbD v.toNat) v | [] => Fn.pf false

/-- THE COMMAND COMPLETES AT ONCE (10 R225): HEAD has gone on, and 16 bytes with SEQ, the status and the time stand in the next
slot of the completion ring; where asked, the vector is raised. A time-sliced partition holds both (04 R100). `u` is the state
with the command's own effect. -/
def Replied (u t : State) (fe : BitVec 4) (part : Nat) (c : Cmd) (status : Nat) : Prop :=
  let f := u.fe fe.toNat
  let a := f.cbase.toNat / 16 * 16 + 16 * (f.cidx.toNat % 2 ^ (f.csize.toNat + 4))
  let bs := leBytes 16 (c.seq.toNat + status * 2 ^ 32 + u.gtime.toNat * 2 ^ 64)
  (∀ n, n ≠ fe.toNat → t.fe n = u.fe n) ∧
  ∃ q, u.part part = some q ∧ t.fe fe.toNat = { f with head := f.head + 1, cidx := f.cidx + 1, owes := q.arg.sliced || f.owes } ∧
    if q.arg.sliced then
      t = { u with fes := t.fes, parts := t.parts } ∧ (∀ n, n ≠ part → t.part n = u.part n) ∧
      t.part part = some { q with heldFx := q.heldFx ++ .hostWrite a bs :: (if c.irq then [.msix fe.toNat] else []) }
    else t = { u with fes := t.fes, hostMem := u.hostMem.putAll a bs
                      irqs := if c.irq then u.irqs ++ [(u.irqFn q, fe.toNat)] else u.irqs }

/-- The instruction that a command's code is (10 R222). -/
def commandOf (op : Nat) (fe : BitVec 4) : Instr :=
  match op with
  | 1 => .launch fe | 2 => .grant fe | 3 => .feEvsig fe | 4 => .evreset fe | 5 => .cntread fe | 6 => .drain fe | 7 => .xtload fe
  | _ => .feNop fe

/-- A firmware command answers and does nothing else. -/
def Answered (s : State) (i : Instr) (status : Nat) : Prop := Makes s i { s with fwResp := response status [], fwBusy := false }

/-- A firmware command goes on: it has done nothing yet, and its mailbox reads busy (10 R219). -/
def Waits (s : State) (i : Instr) : Prop := Makes s i { s with fwBusy := true }

/-- A partition without what its log holds of some units: they are released (10 R233). -/
def Part.without (p : Part) (units : List Nat) : Part :=
  { p with undo := p.undo.filter (fun u => !(u.area == .hbm && units.contains (u.line / 2 ^ 23))) }

/-- No entry of a context of a partition watches a word (16 R355). -/
def State.watchless (s : State) (part : Nat) (ctx : BitVec 6) : Prop :=
  ∀ kw ∈ s.warps, kw.2.part = part → s.ctxOf kw.2 = ctx → ∀ e ∈ kw.2.queue, ∀ q, e.kind ≠ .waitmem q

/-- A command of the firmware on a partition: refused outside RUN, and of a partition that is not there. -/
def Guarded (i : Nat → Instr) : Prop :=
  (∀ s part, s.boot = .off → Makes s (i part) s) ∧
  (∀ s part, s.boot ≠ .off → s.boot ≠ .run → Answered s (i part) 1) ∧
  (∀ s part, s.boot = .run → s.part part = none → Answered s (i part) 2)

/-- A mailbox command in a state of the module where ROM does not take it: status 1, and nothing else. -/
def Turned (i : Instr) (ok : Boot → Bool) : Prop :=
  (∀ s, s.boot = .off → Makes s i s) ∧ ∀ s, s.boot ≠ .off → ok s.boot = false → Makes s i { s with mbResp := response 1 [] }

/-- What no reset of the module changes: what is fused or retired, host memory, what has been reported. -/
structure Lasting (s t : State) : Prop where
  clusters : t.clPres = s.clPres
  channels : t.chPres = s.chPres &&& ~~~s.chRetired
  fused : t.secFused = s.secFused
  host : t.hostMem = s.hostMem
  reports : t.reports = s.reports

/-- Nothing of a partition, a crew or a job is left. -/
structure Emptied (t : State) : Prop where
  parts : t.parts = []
  jobs : t.jobs = []
  tasks : t.tasks = []
  warps : t.warps = []
  ops : t.ops = []
  l2 : t.l2 = []
  l1 : t.l1 = []
  copies : t.copies = []
  fronts : ∀ n, t.fe n = FrontEnd.fresh
  clusters : t.clusters = []
  cores : t.cores = []
/-! ## Rollback (04 R101) -/

/-- A partition with what its checkpoint keeps of it. -/
def Part.back (p : Part) (im : Image) : Part :=
  { p with events := im.events, admNext := im.admNext, lastPlaced := im.lastPlaced, harvestQ := im.harvestQ, colls := im.colls
           apertures := im.apertures, xtables := im.xtables, roundsDue := max 1 p.roundsDue }

/-- A warp as it comes back: its lanes at a JOIN or a cross-lane instruction have lost their arrival, and issue it again (14 R303). -/
def Warp.again (w : Warp) (now : DWord) : Warp :=
  { w with paths := w.paths.map (fun p => match p.wait with
      | .join _ | .cross .. => { p with wait := .none, run := [], begun := false, runId := 0, behind := [], holds := [], retry := none, since := now }
      | _ => p) }

/-- What a checkpoint keeps can come back as it is: each line it pins is in an L2, each cluster on which a crew stands present. -/
structure State.whole (s : State) (part : Nat) (im : Image) : Prop where
  pins : ∀ x ∈ im.pins, ∃ l ∈ s.l2, l.line = x.1
  clusters : ∀ x ∈ im.tasks, s.clPres.getLsbD x.cluster = true ∨ x.phase = .waiting ∨ x.phase = .ready ∨ x.phase = .queued

/-- No front end of a partition has an interrupt to post that waits for room. -/
def State.posted (s : State) (part : Nat) : Prop := ∀ n, (s.fe n).part = some part → (s.fe n).irqDue = false

/-- The instant at which a partition's next interval ends: CKINT from now, 200 us where none is named (04 R98). -/
def State.intervalEnd (s : State) (p : Part) : DWord := s.gtime + BitVec.ofNat 64 (p.arg.ckint.getD 200 * 1000)

/-- The crews, jobs and operations of a partition are those of its checkpoint; those of the others are as before. -/
def Back (s t : State) (part : Nat) (im : Image) : Prop :=
  t.warps = s.warps.filter (fun x => x.2.part != part) ++ im.warps.map (fun w => (w.key, w.again s.gtime)) ∧
  t.tasks = s.tasks.filter (fun x => x.2.part != part) ++ im.tasks.map (fun x => (x.id, x)) ∧
  t.jobs = s.jobs.filter (fun x => x.2.part != part) ++ im.jobs.map (fun j => (j.id, j)) ∧
  t.ops = s.ops.filter (fun o => o.part != part) ++ im.ops
/-! ## Events and the dispatcher (04 R87-R92) -/

/-- The wait entries of a task that a count of an event leaves (04 R92). -/
def Task.leaves (x : Task) (name : BitVec 16) (n : Nat) : List (BitVec 16 × Word × Bool) :=
  x.cells.filter (fun q => !(q.1 == name && decide (q.2.1.toNat ≤ n)))

/-- A TASK AFTER AN EVENT'S COUNT HAS REACHED `n` (04 R90, R92): one that waits is runnable once no entry is left, a crew that is
saved once its wake condition holds in `u`; else it has only lost the entries now met. -/
def Roused (u : State) (x y : Task) (name : BitVec 16) (n : Nat) : Prop :=
  if x.leaves name n = x.cells then y = x
  else if x.phase = .waiting then
    if x.leaves name n = [] then y = { x with
      cells := [], readySeq := y.readySeq, rounds := 0, eprio := x.trec.prio, phase := if x.trec.harv then .queued else .ready }
    else y = { x with cells := x.leaves name n }
  else if x.woken = true ∨ u.wakes x.id = true then y = { x with
    cells := [], readySeq := y.readySeq, rounds := 0, eprio := x.trec.prio, phase := .resumable, woken := false }
  else y = { x with cells := x.leaves name n }

/-- Tasks stand under their own names, each once. -/
def State.tasksApart (s : State) : Prop := (s.tasks.map (·.1)).Nodup ∧ ∀ nt ∈ s.tasks, nt.2.id = nt.1

/-- A path restarts at the blocking instruction at which it stood (04 R90). -/
def Path.anew (p : Path) (now : DWord) : Path :=
  { p with run := [], begun := false, runId := 0, behind := [], holds := [], wait := .none, retry := none, since := now, remote := false, stall := 0 }

/-- A WARP OF A CREW THAT RESUMES (04 R90): it stands on a core, each path restarts, what it waited for at a blocking instruction is
issued again; its registers, predicates and pending loads are as they were. -/
def Resumed (w v : Warp) (core : CoreKey) (now : DWord) : Prop :=
  ∃ slot, slot < 16 ∧ v = { w with place := some ⟨core, slot⟩, paths := w.paths.map (·.anew now), regs := v.regs, queue := v.queue } ∧
    (∀ n (h : n < 128), v.regs[n] = { w.regs[n] with line := v.regs[n].line }) ∧
    ∀ e, e ∈ v.queue ↔ e ∈ w.queue ∧ e.kind ≠ .barwait ∧ e.kind ≠ .ring ∧ ∀ q, e.kind ≠ .waitmem q
/-! ## The machine as a whole -/

/-- The instruction acts only through its written lanes: no cross-lane instruction, at which every active lane arrives, no JOIN,
TBAR or XRET, which ignore their guards, and no matrix operation, which completes also with no lane (13 R270, 08 R171). -/
def guarded : Instr → Bool
  | .vote .. | .shfl .. | .bcast .. | .redx .. | .scanx .. | .matchx .. => false
  | .join .. | .joinImm .. | .tbar .. | .xret .. | .mma .. | .mdrain .. | .mzero .. => false
  | _ => true

/-- The role that an instruction requires (13 R285). -/
def roleOf : Instr → Option (BitVec 2)
  | .cpy .. | .cpyg .. | .coll .. => some 1
  | .mma .. | .mdrain .. | .mzero .. | .wtload .. | .widx .. => some 2
  | _ => none

/-- THE INSTRUCTION TRAPS with no effect: the lanes given enter the handler with the cause, to resume at X; the other lanes of
the path go on; no register is changed. -/
def TrapsWith (s : State) (i : Instr) (c : Ctx) (code detail : Nat) (lns : Mask) : Prop :=
  ∃ t w p, exec i s = .next t ∧ Parted s t i c w ∧ w.regs = c.w.regs ∧ Left s c w lns ∧ p ∈ w.paths ∧
    p.pc = (s.handlerOf c.w).setWidth 57 ∧
    Entered s p lns { id := s.fresh, xpc := c.x.setWidth 64, xaddr := c.x.setWidth 64, xcause := BitVec.ofNat 32 (code + 2 ^ 16 * detail), xstat := 0
                      xmask := lns, ks := Vector.replicate 8 0 }

/-- Every memory is in canonical form, those that a checkpoint keeps with the others. -/
def State.canonical (s : State) : Prop :=
  s.memOk = true ∧ ∀ np ∈ s.parts, ∀ im, np.2.image = some im → (∀ x ∈ im.tasks, x.ok = true) ∧ ∀ x ∈ im.past, x.task.ok = true

/-- Names are apart: those of partitions, tasks, warps and paths, in the machine and in its checkpoints; each stands under its
own, and none is one yet to be given. -/
structure State.tidy (s : State) : Prop where
  keyed : s.keyed
  named : s.named
  parts : (s.parts.map (·.1)).Nodup ∧ ∀ np ∈ s.parts, np.2.id = np.1 ∧ np.1 < s.fresh
  tasks : (s.tasks.map (·.1)).Nodup ∧ ∀ nt ∈ s.tasks, nt.2.id = nt.1 ∧ nt.1 < s.fresh ∧ nt.2.part < s.fresh
  crews : ∀ kw ∈ s.warps, kw.1.task < s.fresh ∧ ∀ nt ∈ s.tasks, nt.1 = kw.1.task → nt.2.part = kw.2.part
  images : ∀ np ∈ s.parts, ∀ im, np.2.image = some im → (im.warps.map (·.key)).Nodup ∧ (im.tasks.map (·.id)).Nodup ∧
    (∀ w ∈ im.warps, w.part = np.1 ∧ w.key.task < s.fresh ∧ ∀ x ∈ im.tasks, x.id = w.key.task → x.part = w.part) ∧
    ∀ x ∈ im.tasks, x.part = np.1 ∧ x.id < s.fresh
  apart : ∀ np ∈ s.parts, ∀ im, np.2.image = some im →
    (∀ w ∈ im.warps, ∀ kw ∈ s.warps, kw.1 = w.key → kw.2.part = w.part) ∧ (∀ x ∈ im.tasks, ∀ nt ∈ s.tasks, nt.1 = x.id → nt.2.part = x.part) ∧
    (∀ w ∈ im.warps, ∀ nt ∈ s.tasks, nt.1 = w.key.task → nt.2.part = w.part) ∧ (∀ x ∈ im.tasks, ∀ kw ∈ s.warps, kw.1.task = x.id → kw.2.part = x.part) ∧
    ∀ mp ∈ s.parts, ∀ jm, mp.2.image = some jm → mp.1 ≠ np.1 → (∀ w ∈ im.warps, ∀ v ∈ jm.warps, w.key ≠ v.key) ∧
      ∀ x ∈ im.tasks, ∀ y ∈ jm.tasks, x.id ≠ y.id

/-- A header with the second guard absent. -/
def hdrOf (g : BitVec 3) (stall : BitVec 4) (bnd : Bool) : Hdr :=
  { g1 := ⟨false, g⟩, g2 := ⟨false, 7⟩, stall := stall, yld := false, bnd := bnd, hold := 0, ch := 0 }
end Sys2Proof.Machine

open Sys2Proof Sys2Proof.Machine

/-- 14 R290: the exact integer modulo 2^32, or clamped; the frame of 02 R48. 14 R291: sums and products modulo 2^64, IMADW with the exact 64-bit product. -/
def Obligations.IntegerArithmetic : Prop :=
  (
    ∀ (s : State) (i : Instr) (c : Ctx) (d : Spec) (x : Lane → Word),
      Issues s i false none c → Roomy s i c → sumRow s c i = some (d, x) → Completes s i c d [x] none noFlags) ∧
  (
    ∀ (s : State) (i : Instr) (c : Ctx) (d : Spec) (x : Lane → DWord),
      Issues s i false none c → Roomy s i c → longRow s c i = some (d, x) → Completes s i c d (halves x) none noFlags)

/-- 14 R292: logic, shifts by any count, rotation. 14 R292-R294: the result of each lane by its bits. -/
def Obligations.LogicAndFields : Prop :=
  (
    ∀ (s : State) (i : Instr) (c : Ctx) (d : Spec) (x : Lane → Word),
      Issues s i false none c → Roomy s i c → logicRow s c i = some (d, x) → Completes s i c d [x] none noFlags) ∧
  (
    ∀ (s : State) (i : Instr) (c : Ctx) (d : Spec) (r : Lane → Word → Prop),
      Issues s i false none c → Roomy s i c → bitsRow s c i = some (d, r) →
      ∃ x : Lane → Word, (∀ l, c.wr.has l = true → r l (x l)) ∧ Completes s i c d [x] none noFlags)

/-- 14 R295, R298, R299: one bit for each written lane. -/
def Obligations.PredicateResults : Prop :=
  ∀ (s : State) (i : Instr) (c : Ctx) (n : BitVec 3) (f : Lane → Bool),
    Issues s i false none c → Roomy s i c → predRow s c i = some (n, f) → Completes s i c .z [] (some (n, f)) noFlags

/-- 14 R296, R297. -/
def Obligations.MovesAndAddresses : Prop :=
  ∀ (s : State) (i : Instr) (c : Ctx) (d : Spec) (xs : List (Lane → Word)),
    Issues s i false none c → Roomy s i c → moveRow s c i = some (d, xs) → Completes s i c d xs none noFlags

/-- 15 R328-R330, R332. 15 R331. 07 R154, R155, R158-R160: the exact result as a rational number and its one rounding, for the modes but
.rs, which `StochasticRounding` has. -/
def Obligations.FloatArithmetic : Prop :=
  (
    ∀ (s : State) (i : Instr) (c : Ctx) (d : Spec) (x : Lane → FVal),
      Issues s i false none c → Roomy s i c → floatRow s c i = some (d, x) →
      Completes s i c d [fun l => BitVec.ofNat 32 (x l).1] none (fun l => (x l).2)) ∧
  (
    ∀ (s : State) (i : Instr) (c : Ctx) (n : BitVec 3) (f : Lane → Bool) (g : Lane → XFlags),
      Issues s i false none c → Roomy s i c → fcmpRow s c i = some (n, f, g) → Completes s i c .z [] (some (n, f)) g) ∧
  (∀ (r : Rnd) (na nb nc : Bool) (ma mb mc : Nat) (ea eb ec : Int),
    let a := Fp.fin na ma ea
    let b := Fp.fin nb mb eb
    let c := Fp.fin nc mc ec
    (∃ x, Fp.add r a b = .num x ∧ x.more = false ∧ x.value = a.value + b.value ∧
      (x.m = 0 → x.neg = if ma = 0 ∧ mb = 0 ∧ na = nb then na else decide (r = .rd))) ∧
    (∃ x, Fp.mul a b = .num x ∧ x.more = false ∧ x.neg = (na != nb) ∧ x.value = a.value * b.value) ∧
    ∃ x, Fp.fma r a b c = .num x ∧ x.more = false ∧ x.value = a.value * b.value + c.value ∧
      (x.m = 0 → x.neg = if ma * mb = 0 ∧ mc = 0 ∧ (na != nb) = nc then nc else decide (r = .rd))) ∧
  ∀ (f : FFmt) (r : Rnd) (sat : Bool) (draw : Word) (x : Exact), f ∈ [FFmt.f32, .f16, .bf16, .e4, .e5] → r ≠ .rs → x.more = false →
    (x.m = 0 → f.round r sat draw x = (f.sign x.neg, 0)) ∧ (x.m ≠ 0 → RoundedOnce f r sat x (f.round r sat draw x))

/-- 15 R333, R334. -/
def Obligations.PackedArithmetic : Prop :=
  ∀ (s : State) (i : Instr) (c : Ctx) (d : Spec) (x : Lane → FVal),
    Issues s i false none c → Roomy s i c → packedRow s c i = some (d, x) →
    Completes s i c d [fun l => BitVec.ofNat 32 (x l).1] none (fun l => (x l).2)

/-- 15 R336, 07 R161. 15 R337-R339, R341. -/
def Obligations.Conversions : Prop :=
  (
    ∀ (s : State) (i : Instr) (c : Ctx) (f : FFmt) (t : Ty) (r : Rnd) (d a : Spec),
      Issues s i false none c → Roomy s i c → f2iRow i = some (f, t, r, d, a) →
      Completes s i c d (if t.bytes = 8 then halves (fun l => (f2iOf f t r (s.word c .a a l)).1)
          else [fun l => ((f2iOf f t r (s.word c .a a l)).1).setWidth 32]) none (fun l => (f2iOf f t r (s.word c .a a l)).2)) ∧
  (
    ∀ (s : State) (i : Instr) (c : Ctx) (d : Spec) (x : Lane → FVal),
      Issues s i false none c → Roomy s i c → convertRow s c i = some (d, x) →
      Completes s i c d [fun l => BitVec.ofNat 32 (x l).1] none (fun l => (x l).2))

/-- 15 R340 with 07 R157. 15 R338 with 07 R156, R157. That a result which its sources make U takes one draw in all also where
a partial mask widens D is the model's reading, log entry 41. -/
def Obligations.StochasticRounding : Prop :=
  (
    ∀ (s : State) (i : Instr) (c : Ctx) (f : FFmt) (sat : Bool) (r : Rnd) (d a b e : Spec),
      Issues s i false none c → Roomy s i c → f2f8Row i = some (f, sat, r, d, a, b, e) →
      let u : Bool := (s.opnd c .a a 0).1.shape == .u && (s.opnd c .b b 0).1.shape == .u && (s.opnd c .c e 0).1.shape == .u
      let z := fun l => if e = .z then 0x3F800000 else (s.word c .c e l).toNat
      let g := (s.core c.core).lfsr
      let v := fun l => f2f8Of f sat r (nthDraw g (2 * c.drawPlace u l)) (nthDraw g (2 * c.drawPlace u l + 1))
        (s.word c .a a l).toNat (s.word c .b b l).toNat (z l)
      if r = .rs then CompletesDrawing s i c (2 * c.drawCount u) d (fun l => BitVec.ofNat 32 (v l).1) (fun l => (v l).2)
      else Completes s i c d [fun l => BitVec.ofNat 32 (v l).1] none (fun l => (v l).2)) ∧
  (
    ∀ (s : State) (i : Instr) (c : Ctx) (f : FFmt) (t : Ty) (d a : Spec),
      Issues s i false none c → Roomy s i c →
      ((∃ h, i = .fcvt h t .rs d a ∧ f = .f32) ∨ (∃ h, i = .fcvtFh h t .rs d a ∧ f = .f16) ∨ (∃ h, i = .fcvtFb h t .rs d a ∧ f = .bf16)) →
      let u : Bool := (s.opnd c .a a 0).1.shape == .u
      let g := (s.core c.core).lfsr
      let v := fun l => Fp.convert (formatOf t) .rs false (nthDraw g (c.drawPlace u l)) (f.read ((s.word c .a a l).toNat % 2 ^ f.width))
      CompletesDrawing s i c (c.drawCount u) d (fun l => BitVec.ofNat 32 (v l).1) (fun l => (v l).2))

/-- 15 R342, 07 R163, R164. The second clause gives FEXP2, FLOG2, FSIN, FCOS and FTANH as the model computes them (`fexp2Val`,
`flog2Val`, `fsinVal`, `ftanhVal`): the computation is the model's choice, log entry 39. -/
def Obligations.SpecialFunctions : Prop :=
  (∀ (s : State) (i : Instr) (c : Ctx) (h : Hdr) (d a : Spec),
    i = .frcp h d a ∨ i = .frsq h d a ∨ i = .fsqrt h d a ∨ i = .fexp2 h d a ∨ i = .flog2 h d a ∨ i = .fsin h d a ∨ i = .fcos h d a ∨
      i = .ftanh h d a →
    Issues s i false none c → Roomy s i c →
    ∃ x : Lane → FVal, Completes s i c d [fun l => BitVec.ofNat 32 (x l).1] none (fun l => (x l).2) ∧
      ∀ l v, specialEntry i (s.word c .a a l) = some v → x l = v) ∧
  ∀ (s : State) (i : Instr) (c : Ctx) (d : Spec) (x : Lane → FVal),
    Issues s i false none c → Roomy s i c → specialRow s c i = some (d, x) →
    Completes s i c d [fun l => BitVec.ofNat 32 (x l).1] none (fun l => (x l).2)

/-- 14 R310-R312: of a v register SHF writes all 32 lanes, of a k register it leaves the value of the lowest written lane (13
R269, R286). SHQ reads the descriptor alone, so its source may be spilled. A wider source of SHA traps by 14 R311, 21 R413 and
22 R428; that XSTAT holds the specifier's byte zero-extended is the model's reading, log entry 48. -/
def Obligations.ShapeInstructions : Prop :=
  (
    (∀ (s : State) (c : Ctx) (h : Hdr) (d a : Spec), Issues s (.shq h d a) false none c → Lined s c →
      (∀ n, n ∈ (Instr.shq h d a).writes → ∀ h : n < 128, c.w.regs[n].spl = false) →
      Completes s (.shq h d a) c d [fun _ => shqWord c a] none noFlags) ∧
    (∀ (s : State) (c : Ctx) (h : Hdr) (a : Spec) (shape : BitVec 2), Issues s (.sha h a shape) false none c →
      widthOf c a ≤ shape.toNat → Completes s (.sha h a shape) c .z [] none noFlags) ∧
    (∀ (s : State) (c : Ctx) (h : Hdr) (d a : Spec) (shape : BitVec 2), Issues s (.shf h d a shape) false none c →
      Roomy s (.shf h d a shape) c → shape ≠ 3#2 →
      let v := fun l => s.word c .a a l
      let tags := (s.opnd c .a a 0).2
      ∃ t w, exec (.shf h d a shape) s = .next t ∧ OnlyWarp s t c w ∧ Went s (.shf h d a shape) c w ∧ w.raised = c.w.raised ∧
        w.preds = c.w.preds ∧
        Got (match d with | .v _ => { c with wr := Mask.all } | _ => c) w d 0 (forced shape v c.wr) (forcedTags shape v tags c.wr))) ∧
  (
    ∀ (s : State) (c : Ctx) (h : Hdr) (a : Spec) (shape : BitVec 2), Issues s (.sha h a shape) false none c →
      shape.toNat < widthOf c a → CanTrap s c (c.x.setWidth 64) → s.handlerOf c.w ≠ 0 →
      ∃ t w p, exec (.sha h a shape) s = .next t ∧ Parted s t (.sha h a shape) c w ∧ w.regs = c.w.regs ∧ Left s c w c.wr ∧ p ∈ w.paths ∧
        p.pc = (s.handlerOf c.w).setWidth 57 ∧
        Entered s p c.wr { id := s.fresh, xpc := c.x.setWidth 64, xaddr := c.x.setWidth 64
                           xcause := BitVec.ofNat 32 (0x0C + 2 ^ 16 * (4 * shape.toNat + widthOf c a)), xstat := a.bits.setWidth 32
                           xmask := c.wr, ks := Vector.replicate 8 0 })

/-- 14 R313. 02 R55, R57: the reload of a spilled source. -/
def Obligations.LineReservation : Prop :=
  (∀ (s : State) (c : Ctx) (h : Hdr) (pd : BitVec 3) (n : BitVec 8), Issues s (.shrsv h pd n) false none c →
    let need : Int := (max n.toNat c.w.wuse : Nat) - (max c.w.wres c.w.wuse : Nat)
    let ok : Bool := if c.w.inHarvest = true ∧ n ≠ 0 then false else decide (need ≤ s.sharedFree c.core c.k 0)
    ∃ t w, exec (.shrsv h pd n) s = .next t ∧ OnlyWarp s t c w ∧
      Went s (.shrsv h pd n) { c with w := { c.w with wres := if ok then n.toNat else c.w.wres } } w ∧
      w.raised = c.w.raised ∧ Preds c w (some (pd, fun _ => ok)) ∧ (∀ j (h : j < 128), sameReg w.regs[j] c.w.regs[j])) ∧
  (∀ (s u : State) (i : Instr) (c : Ctx) (n : Nat) (h : n < 128) (x : Loc) (bs : List Byte) (g : Nat) (d : Spec) (xs : List (Lane → Word))
      (pd : Option (BitVec 3 × (Lane → Bool))) (fl : Lane → XFlags), Issues s i false none c → plainRow s c i = some (d, xs, pd, fl) →
    n ∈ i.reads → n ∉ i.writes → (∀ m, m ∈ i.names → m ≠ n → ∀ h : m < 128, c.w.regs[m].spl = false) → Lined s c → s.keyed →
    Reloads s u c n h x bs g →
    (s.dual = none → c.p.holds = [] → ∀ q l, s.word c q (.v (BitVec.ofNat 7 n)) l = (Val.wide (lineOfBytes bs)).at l) ∧
    ∃ t w line, exec i s = .next t ∧ t = { u with warps := t.warps, parts := t.parts, l2 := t.l2, l1 := t.l1, fresh := t.fresh } ∧
      LinesHeld u t c.core [(0, [⟨c.w.backing c.w.regs[n].line, 128, x⟩])] false ∧ (∀ m, (t.part m).map Part.still = (u.part m).map Part.still) ∧ (∀ k, k ≠ c.k → t.warp k = s.warp k) ∧ t.warp c.k = some w ∧
      let c' : Ctx := { c with w := { c.w with regs := c.w.regs.set n { c.w.regs[n] with
        val := .wide (lineOfBytes bs), spl := false, line := line } } }
      Went s i c' w ∧ Raised c' w fl ∧ Preds c' w pd ∧ ∀ j y, xs[j]? = some y → Got c' w d j y (fun _ => false))

/-- 14 R300, R301: arrival. -/
def Obligations.CrossLaneArrival : Prop :=
  ∀ (s : State) (i : Instr) (c : Ctx) (a : Spec) (srcs : List (Pos × Spec × Nat)),
    crossSources i = some (a, srcs) → s.issuing i.hdr false = some c → (i.forHandlers = true → c.priv = true) → (i.barred = false) →
    (s.debugOn c.w = true → s.hazard c i = none) → (c.wr ≠ 0 → i.within c.w.nregs = true) →
    (∀ n, n ∈ i.reads → ∀ h : n < 128, c.w.regs[n].spl = false) →
    let mem := Mask.of (fun l => c.act.has l && (s.word c .a a l).getLsbD l.val)
    let rest := c.act &&& ~~~mem
    ∃ t w, exec i s = .next t ∧ (∀ n (h : n < 128), sameReg w.regs[n] c.w.regs[n]) ∧
      (if mem = 0 then OnlyWarp s t c w ∧ Went s i c w ∧ w.raised = c.w.raised ∧ w.preds = c.w.preds
       else Parted s t i c w ∧
        (∃ p, w.path c.pid = some p ∧ p = { c.p with
          lns := mem, run := [], begun := false, holds := [], retry := none, since := s.gtime, stall := s.nextSlot c
          wait := .cross i (Line.of fun l => s.word c .a a l) c.wr (srcs.map fun q => Line.of fun l => (s.opnd c q.1 q.2.1 q.2.2).1.at l) }) ∧
        (rest ≠ 0 → ∃ p ∈ w.paths, p = { c.p with
          pid := p.pid, lns := rest, pc := c.x + 12, run := [], begun := false, holds := [], retry := none, since := s.gtime
          stall := s.nextSlot c }))

/-- 14 R301-R309, the integer forms. 14 R300, R301: the member-mask fault. -/
def Obligations.CrossLaneCompletion : Prop :=
  (∀ (s : State) (k : WarpKey) (x : VA) (i : Instr) (M : Mask) (n : Nat) (p : Path) (rest : List Path) (w : Warp) (hand : Bool) (d : Spec)
    (pe : Option (BitVec 3)) (xs : List (Lane → Word)) (g : Lane → Bool),
    let c := joinedCtx k w x hand p rest i.hdr
    s.warp k = some w → CrossDue w x hand i M n p rest → Roomy (s.putWarp k c.w) i c →
    crossRow (suppliedAt w x hand M n) i = some (d, pe, xs, g) →
    ∃ t u, exec (.crossLaneComplete k x) s = .next t ∧ OnlyWarp s t c u ∧ Went s i c u ∧ Raised c u noFlags ∧
      Preds c u (pe.map fun q => (q, g)) ∧ ∀ j y, xs[j]? = some y → Got c u d j y (fun _ => false)) ∧
  (∀ (s : State) (k : WarpKey) (x : VA) (w : Warp) (l m : Lane), s.warp k = some w → w.namedApart → x.toNat % 4 = 0 →
    (arrivedAt w x false).has l = true → (arrivedAt w x false).has m = true →
    (broughtAt w x false l).1[l.val] ≠ (broughtAt w x false m).1[m.val] → (∀ q ∈ w.meeting x false, q.1.lns &&& w.exited = 0) →
    w.inHandler = false → (∀ pl, w.place = some pl → s.framesHeld pl.core < 8) → s.handlerOf w ≠ 0 →
    ∃ t v p, exec (.crossLaneComplete k x) s = .next t ∧ t = { s with warps := t.warps, fresh := s.fresh + 1 } ∧
      (∀ j, j ≠ k → t.warp j = s.warp j) ∧ t.warp k = some v ∧ v.raised = w.raised ∧
      v = { w with paths := w.paths.filter (fun q => !(w.meeting x false).any (fun r => r.1.pid == q.pid)) ++ [p], flying := v.flying } ∧
      p.pc = (s.handlerOf w).setWidth 57 ∧
      Entered s p (arrivedAt w x false) { id := s.fresh, xpc := x.setWidth 64, xaddr := x.setWidth 64, xcause := 0x0B, xstat := 0
                                          xmask := arrivedAt w x false, ks := Vector.replicate 8 0 })

/-- 14 R307, R308 for .f32. -/
def Obligations.CrossLaneFloat : Prop :=
  ∀ (s : State) (k : WarpKey) (x : VA) (i : Instr) (M : Mask) (n : Nat) (p : Path) (rest : List Path) (w : Warp) (hand : Bool) (d : Spec)
    (pe : Option (BitVec 3)) (y : Lane → FVal),
    let c := joinedCtx k w x hand p rest i.hdr
    s.warp k = some w → CrossDue w x hand i M n p rest → Roomy (s.putWarp k c.w) i c →
    crossFloat (suppliedAt w x hand M n) i = some (d, pe, y) →
    ∃ t u, exec (.crossLaneComplete k x) s = .next t ∧ OnlyWarp s t c u ∧ Went s i c u ∧ Raised c u (fun l => (y l).2) ∧
      Preds c u (pe.map fun q => (q, fun _ => (suppliedAt w x hand M n).complete)) ∧ Got c u d 0 (fun l => BitVec.ofNat 32 (y l).1) (fun _ => false)

/-- 14 R314-R316. The branch-target fault: 14 R315, 21 R413, 22 R428. -/
def Obligations.Branches : Prop :=
  (
    ∀ (s : State) (i : Instr) (c : Ctx) (tgt : Lane → DWord), Issues s i false none c → Roomy s i c → i.wf = true →
      branchRow s c i = some tgt → (∀ l, c.wr.has l = true → targetTaken i (tgt l)) →
      ∃ t w, exec i s = .next t ∧ Parted s t i c w ∧
        (∀ l, c.wr.has l = true → ∃ p ∈ w.paths, Stands s c p p.lns ((tgt l).setWidth 57) .none ∧
          ∀ m, p.lns.has m = (c.wr.has m && decide (tgt m = tgt l))) ∧
        (c.act &&& ~~~c.wr ≠ 0 → ∃ p ∈ w.paths, Stands s c p (c.act &&& ~~~c.wr) (c.x + 12) .none) ∧
        (∀ p ∈ w.paths, (p ∈ c.w.paths ∧ p.pid ≠ c.pid) ∨ Stands s c p p.lns p.pc .none) ∧
        ∀ d, linkPair i = some d → ∀ j y, (halves fun _ => (c.x + 12 : VA).setWidth 64)[j]? = some y → Got c w d j y (fun _ => false)) ∧
  (
    ∀ (s : State) (i : Instr) (c : Ctx) (tgt : Lane → DWord) (a : DWord), Issues s i false none c → Roomy s i c → i.wf = true →
      branchRow s c i = some tgt → (∀ l, c.wr.has l = true → tgt l = a) → (¬ targetTaken i a) →
      CanTrap s c (c.x.setWidth 64) → s.handlerOf c.w ≠ 0 →
      ∃ t w p, exec i s = .next t ∧ Parted s t i c w ∧ (∀ n (h : n < 128), sameReg w.regs[n] c.w.regs[n]) ∧ p ∈ w.paths ∧
        p.pc = (s.handlerOf c.w).setWidth 57 ∧
        Entered s p c.wr { id := s.fresh, xpc := c.x.setWidth 64, xaddr := a, xcause := 0x0E, xstat := 0, xmask := c.wr, ks := Vector.replicate 8 0 } ∧
        (c.act &&& ~~~c.wr ≠ 0 → ∃ q ∈ w.paths, Stands s c q (c.act &&& ~~~c.wr) (c.x + 12) .none))

/-- 14 R317, 02 R32. 02 R32. -/
def Obligations.Joins : Prop :=
  (
    ∀ (s : State) (i : Instr) (c : Ctx) (m : Lane → Word), Issues s i true none c → Roomy s i c → c.w.namedApart →
      ((∃ h a, i = .join h a ∧ m = fun l => s.word c .a a l) ∨ (∃ h y, i = .joinImm h y ∧ m = fun _ => y)) →
      let M := lanes.foldl (fun a l => if c.act.has l then a ||| m l else a) (0 : Mask)
      ∃ t v w, exec i s = .next t ∧ t = { s with warps := t.warps } ∧ (∀ k, k ≠ c.k → t.warp k = s.warp k) ∧ t.warp c.k = some w ∧
        v = { c.w with regs := v.regs, xflags := v.xflags, flying := v.flying, clock := v.clock, paths := v.paths } ∧
        v.raised = c.w.raised ∧ (∀ n (h : n < 128), sameReg v.regs[n] c.w.regs[n]) ∧
        (∃ p, v.path c.pid = some p ∧ Stands s c p c.p.lns c.x (.join M)) ∧ (∀ n, n ≠ c.pid → v.path n = c.w.path n) ∧
        (JoinMet v c.x c.priv → JoinLeft v w c.x c.priv s.gtime) ∧ (¬ JoinMet v c.x c.priv → w = v)) ∧
  (
    ∀ (s : State) (k : WarpKey) (x : VA) (hand : Bool) (v : Warp), s.warp k = some v → v.namedApart → JoinMet v x hand →
      ¬ JoinMet v x (!hand) →
      ∃ t w, exec (.joinRelease k x) s = .next t ∧ t = { s with warps := t.warps } ∧ (∀ j, j ≠ k → t.warp j = s.warp j) ∧
        t.warp k = some w ∧ JoinLeft v w x hand s.gtime)

/-- 14 R318, R319, 21 R414. -/
def Obligations.Exits : Prop :=
  ∀ (s : State) (i : Instr) (c : Ctx) (named : List Succ), Issues s i false none c → Roomy s i c →
    ((∃ h, i = .exit h ∧ named = []) ∨ (∃ h a, i = .exitSucc h a ∧ named = (lanes.filter c.wr.has).map (fun l =>
      { who := c.k, lane := l.val, addr := s.pairAt c .a a l, ended := false }))) →
    (c.priv = true ∨ c.w.imp = none) →
    (c.p.frame = none ∨ (c.p.wait = .none ∧ c.p.lns &&& ~~~c.wr ≠ 0)) →
    let gone := c.w.exited ||| c.wr
    ∃ t w, exec i s = .next t ∧ t = { s with warps := t.warps, tasks := t.tasks } ∧ (∀ k, k ≠ c.k → t.warp k = s.warp k) ∧
      t.warp c.k = some w ∧
      w = { c.w with regs := w.regs, xflags := w.xflags, flying := w.flying, clock := w.clock, paths := w.paths
                     exited := gone, ended := gone == Mask.all, imp := if gone = Mask.all then none else c.w.imp } ∧
      w.raised = c.w.raised ∧ (∀ n (h : n < 128), sameReg w.regs[n] c.w.regs[n]) ∧ Left s c w c.wr ∧
      (∀ n, n ≠ c.pid → w.path n = c.w.path n) ∧ (∀ n, n ≠ c.k.task → t.task n = s.task n) ∧
      (s.task c.k.task = none → t.task c.k.task = none) ∧
      ∀ a, s.task c.k.task = some a → ∃ b, t.task c.k.task = some { a with succs := b } ∧
        if gone = Mask.all then EndedIn c.k (a.succs ++ named) b else b = a.succs ++ named

/-- 14 R320, R321. -/
def Obligations.YieldAndSleep : Prop :=
  (∀ (s : State) (c : Ctx) (h : Hdr), Issues s (.yield h) false none c →
    ∃ t w p, exec (.yield h) s = .next t ∧ t = { s with warps := t.warps, cores := t.cores } ∧ (∀ k, k ≠ c.k → t.warp k = s.warp k) ∧
      t.warp c.k = some w ∧ w = { c.w with paths := w.paths } ∧ (∀ n, n ≠ c.pid → w.path n = c.w.path n) ∧ w.path c.pid = some p ∧
      Stands s c p c.p.lns (c.x + 12) (.yield (s.posOf c.w c.p) false) ∧
      (∀ pl, c.w.place = some pl → t.core pl.core = { s.core pl.core with
        turn := (s.core pl.core).turn.map (fun y => { y with yld := true }) }) ∧
      ∀ k, (∀ pl, c.w.place = some pl → k ≠ pl.core) → t.core k = s.core k) ∧
  (∀ (s : State) (c : Ctx) (h : Hdr) (a : Spec) (m : Nat), Issues s (.sleept h a) false none c → Roomy s (.sleept h a) c →
    (∀ l, c.wr.has l = true → (s.pairAt c .a a l).toNat ≤ m) → (∃ l, c.wr.has l = true ∧ (s.pairAt c .a a l).toNat = m) →
    if m ≤ s.nowAt c.w then Completes s (.sleept h a) c .z [] none noFlags
    else ∃ t w p, exec (.sleept h a) s = .next t ∧ Parted s t (.sleept h a) c w ∧ t.fresh = s.fresh ∧ w.path c.pid = some p ∧
      Stands s c p c.p.lns c.x (.sleep (BitVec.ofNat 64 m)))

/-- 14 R323, R324, 21 R411, R413, R417. -/
def Obligations.TrapAndBreakpoint : Prop :=
  (∀ (s : State) (c : Ctx) (h : Hdr) (code : Word), Issues s (.trap h code) false none c →
    CanTrap s c (c.x.setWidth 64 + 12) → s.handlerOf c.w ≠ 0 →
    ∃ t w p, exec (.trap h code) s = .next t ∧ Parted s t (.trap h code) c w ∧ w.regs = c.w.regs ∧ Left s c w c.wr ∧ p ∈ w.paths ∧
      p.pc = (s.handlerOf c.w).setWidth 57 ∧
      Entered s p c.wr { id := s.fresh, xpc := c.x.setWidth 64 + 12, xaddr := c.x.setWidth 64, xcause := 0x20, xstat := code, xmask := c.wr
                         ks := Vector.replicate 8 0 }) ∧
  (∀ (s : State) (c : Ctx) (h : Hdr) (code : Word), Issues s (.brkpt h code) false none c → s.debugOn c.w = true →
    CanTrap s c (c.x.setWidth 64 + 12) →
    ∃ t w p, exec (.brkpt h code) s = .next t ∧ Parted s t (.brkpt h code) c w ∧ w.regs = c.w.regs ∧ Left s c w c.wr ∧ p ∈ w.paths ∧
      p = { pid := s.fresh, lns := c.wr, pc := c.x, run := [], begun := false, runId := 0, behind := [], holds := [], wait := .debug
            frame := some { id := s.fresh, xpc := c.x.setWidth 64 + 12, xaddr := c.x.setWidth 64, xcause := 0x21, xstat := code
                            xmask := c.wr, ks := Vector.replicate 8 0 }
            retry := none, since := s.gtime, remote := false, stall := 0 }) ∧
  (∀ (s : State) (c : Ctx) (h : Hdr) (code : Word), Issues s (.brkpt h code) false none c → s.debugOn c.w = false →
    Completes s (.brkpt h code) c .z [] none noFlags)

/-- 14 R320, R321. 16 R355. -/
def Obligations.WaitsEnd : Prop :=
  (
    (∀ (s : State) (k : WarpKey) (n : Nat) (w : Warp) (p : Path) (since : Nat) (turned : Bool), s.warp k = some w → w.path n = some p →
      p.wait = .yield since turned → (turned = true ∨ since + 64 * 20 ≤ s.clockOf w) →
      ∃ t v, exec (.yieldExpiry k n) s = .next t ∧ t = { s with warps := t.warps } ∧ (∀ j, j ≠ k → t.warp j = s.warp j) ∧
        t.warp k = some v ∧ v = { w with paths := v.paths } ∧ v.path n = some { p with wait := .none } ∧ ∀ m, m ≠ n → v.path m = w.path m) ∧
    (∀ (s : State) (k : WarpKey) (n : Nat) (w : Warp) (p : Path) (at' : DWord), s.warp k = some w → w.path n = some p → w.place ≠ none →
      p.wait = .sleep at' → at'.toNat ≤ s.nowAt w →
      ∃ t v, exec (.sleeptRelease k n) s = .next t ∧ t = { s with warps := t.warps } ∧ (∀ j, j ≠ k → t.warp j = s.warp j) ∧
        t.warp k = some v ∧ v = { w with paths := v.paths } ∧
        v.path n = some { p with pc := p.pc + 12, run := [], begun := false, runId := 0, behind := [], holds := [], wait := .none
                                 retry := none, since := s.gtime } ∧ ∀ m, m ≠ n → v.path m = w.path m)) ∧
  (
    (∀ (s : State) (k : WarpKey) (id : Nat) (w : Warp) (e : Entry) (cond : Cond) (p : Path), s.warp k = some w → w.entry id = some e →
      e.kind = .waitmem cond → e.accs ≠ [] → (∀ a ∈ e.accs, a.served = true) → w.place ≠ none →
      w.paths.find? (fun p => p.wait == .waitmem id) = some p → w.path p.pid = some p →
      ∃ t, exec (.waitmemSatisfied k id) s = .next t ∧ Released s t k p.pid
        { w with hzn := joinHzn w.hzn (e.accs.foldl (fun g a => max g a.g.toNat) 0), queue := w.queue.filter (fun f => f.id != id) } p) ∧
    (∀ (s : State) (k : WarpKey) (id : Nat) (w : Warp) (e : Entry) (cond : Cond) (a : Acc) (bs : List Byte) (g : Nat), s.warp k = some w → w.key = k →
      w.entry id = some e → e.kind = .waitmem cond → e.accs = [a] → a.seen = true → a.tag = false → a.served = false →
      (s.watchFree (s.watchSet w e a) = true ∨ a.g.toNat + 2000 ≤ s.gtime.toNat) → s.watched w e a = some (bs, g) →
      (e.space ≠ .glob → s.windowIn w e.space a.off a.len = true) →
      let x : DWord := BitVec.ofNat 64 (leNat bs)
      let y : DWord := BitVec.ofNat 64 (leNat a.data)
      let met := if e.ty.bytes = 8 then compared cond e.ty x y else compared cond e.ty (x.setWidth 32 : Word) (y.setWidth 32)
      ∃ t seen, exec (.waitmemPoll k id) s = .next t ∧ (¬ (met = true ∧ e.space = .glob) → seen = w.seen) ∧
        (∀ p, met = true → e.space = .glob → a.view = none → s.part w.part = some p → let line := a.pa / 128
          seen = if isPeer a.pa = false ∧ p.homeDie line = dieOf (s.homeCore w).cluster then w.seen
            else w.seen.set line (max (s.homeView line (s.homeTime p line)).seq ((w.seen.find line).getD 0))) ∧
        QueueTouched s t k { w with seen := seen } (w.queue.map (fun f => if f.id = id then { f with accs := f.accs.map (fun b =>
        if b = a then { a with seen := true, tag := s.watchFree (s.watchSet w e a), served := met
                               g := if met then BitVec.ofNat 64 g else s.gtime } else b) } else f))))

/-- 16 R344-R346, R348-R351, R355. The address of a lane is formed by `State.laneAddr`, as the meaning forms it; the translation it
makes is in `u`. What a lane's check gives is 16 R344, 05 R114, R118-R120; what failing lanes do is 21 R407, R413, 22 R418. -/
def Obligations.MemoryIssue : Prop :=
  (∀ (s u : State) (i : Instr) (c : Ctx) (r : AccessRow) (accs : List Acc),
    Issues s i false none c → Roomy s i c → accessRow s c i = some r → r.m.space ≠ .priv → c.w.queue.length < 64 →
    r.form s c = (u, [], accs) →
    let e := r.entry u c i accs
    (u.fxWaits c e = false ∨ ∃ q, r.kind = .waitmem q) → (u.touchesLent c r.m.space e.accs = false ∨ ∃ q, r.kind = .waitmem q) →
    ∃ t w p, exec i s = .next t ∧ Joined u t c w e p ∧
      ((∃ q, r.kind = .waitmem q) → Stands s c p c.p.lns c.x (.waitmem u.fresh)) ∧ ((∀ q, r.kind ≠ .waitmem q) → GoesOn s c p)) ∧
  (∀ (s : State) (c : Ctx) (m : MemArg) (disp : Int) (n align : Nat) (perm : BitVec 8) (use : Use) (l : Lane),
    let q := s.quadAt c .a m.a l
    let off := (((q.extractLsb' 0 57).toNat + (s.word c .b m.b l).toNat * 2 ^ m.sh.toNat + disp) % (2 ^ 57 : Int)).toNat
    let fails := capFails (s.quadTag c .a m.a l) q (m.space == .glob) off n perm
    (∀ d, fails[d]? = some true → (∀ j, j < d → fails[j]? = some false) →
      s.laneAddr c m disp n align perm use l = (s, .error (accessCause 0x05 (d + 1) off))) ∧
    ((∀ b ∈ fails, b = false) → off % align ≠ 0 → s.laneAddr c m disp n align perm use l = (s, .error (accessCause 0x06 0 off))) ∧
    ((∀ b ∈ fails, b = false) → off % align = 0 → m.space = .glob → ∀ u code detail,
      s.locate c.w.part (s.ctxOf c.w) off n use c.priv = (u, .error (code, detail)) →
      s.laneAddr c m disp n align perm use l = (u, .error (accessCause code (if code = 0x14 then 4 else detail) off)))) ∧
  (∀ (s u : State) (part : Nat) (ctx : BitVec 6) (va : Nat) (use : Use) (priv : Bool) (p : Part) (e : TlbEntry), s.part part = some p →
    p.tlbHit ctx va = none → s.walk part ctx va = (u, some e) →
    let r := (s.translate part ctx va use priv).2
    (∀ l, e.walk = .invalid l → r = .error (0x08, l)) ∧ (∀ l, e.walk = .malformed l → r = .error (0x09, l)) ∧
    (e.walk = .outside → r = .error (0x0A, 1)) ∧
    ∀ pa size uu ww xx, e.walk = .page pa size uu ww xx →
      (p.phys (pa + va % size) = none → r = .error (0x0A, 1)) ∧
      ∀ dev, p.phys (pa + va % size) = some dev →
        (uu = false → priv = false → r = .error (0x0A, 4)) ∧
        ((uu = true ∨ priv = true) → (use = .write → ww = false → r = .error (0x0A, 2)) ∧ (use = .exec → xx = false → r = .error (0x0A, 3)) ∧
          (use = .read ∨ (use = .write ∧ ww = true) ∨ (use = .exec ∧ xx = true) → r = .ok dev))) ∧
  (∀ (s u : State) (i : Instr) (c : Ctx) (r : AccessRow) (l : Lane) (x : Cause) (more : List (Lane × Cause)) (accs : List Acc),
    Issues s i false none c → Roomy s i c → accessRow s c i = some r → r.m.space ≠ .priv → (∀ q, r.kind ≠ .waitmem q) →
    c.w.queue.length < 64 → r.form s c = (u, (l, x) :: more, accs) → CanTrap s c (c.x.setWidth 64) → s.handlerOf c.w ≠ 0 →
    let fs := (l, x) :: more
    let e := { r.entry u c i accs with lns := c.wr &&& ~~~faultLanes fs }
    u.fxWaits c e = false → u.touchesLent c r.m.space e.accs = false →
    ∃ t w f, exec i s = .next t ∧ t = { u with warps := t.warps, fresh := f + 1 } ∧ f = u.fresh + (if accs = [] then 0 else 1) ∧
      (∀ k, k ≠ c.k → t.warp k = s.warp k) ∧ t.warp c.k = some w ∧
      w = { c.w with regs := w.regs, clock := w.clock, flying := w.flying, paths := w.paths, defers := w.defers
                     queue := if accs = [] then c.w.queue else c.w.queue ++ [e] } ∧ w.raised = c.w.raised ∧
      (∀ n (h : n < 128), w.regs[n].tags = c.w.regs[n].tags ∧ ∀ l, w.regs[n].val.at l = c.w.regs[n].val.at l) ∧
      Faulted s c w fs x f)

/-- 05 R104-R106, R129, 16 R344, R348, R350. That the access is made at once, and that the bytes of a line which is dirty in an L1
lie in its home's memory, are the model's choice, log entries 31 and 105; that only the failing lanes take part in nothing follows
16 R344 and 22 R418, log entry 96. -/
def Obligations.PrivateMemory : Prop :=
  (∀ (s u : State) (h : Hdr) (sc : Scope) (ord : Order) (bc : Bool) (ty : Ty) (d : Spec) (m : MemArg) (disp : BitVec 24) (c : Ctx)
      (ps : List (Lane × List PrivPiece)),
    let i : Instr := .ld h sc ord bc ty d m disp
    Issues s i false none c → Roomy s i c → m.space = .priv → s.privAll c m disp.toInt ty.bytes .read = (u, [], ps) →
    ∃ t w, exec i s = .next t ∧ t = { u with warps := t.warps, parts := t.parts, l2 := t.l2, l1 := t.l1, fresh := t.fresh } ∧
      LinesHeld u t c.core ps false ∧
      (∀ n, (t.part n).map Part.still = (u.part n).map Part.still) ∧ (∀ k, k ≠ c.k → t.warp k = u.warp k) ∧ t.warp c.k = some w ∧
      w.hzn = ps.foldl (fun h q => joinHzn h (u.privRead c.w.part q.2).2) c.w.hzn ∧ Went s i c { w with hzn := c.w.hzn } ∧
      w.preds = c.w.preds ∧ w.raised = c.w.raised ∧
      ∀ j, j < max 1 (ty.bytes / 4) → Got c w d j
        (fun l => match ps.find? (·.1 == l) with | some q => loadOf ty (u.privRead c.w.part q.2).1 j | none => 0) (fun _ => false)) ∧
  (∀ (s u : State) (h : Hdr) (sc : Scope) (ord : Order) (ty : Ty) (d : Spec) (m : MemArg) (disp : BitVec 24) (c : Ctx)
      (ps : List (Lane × List PrivPiece)),
    let i : Instr := .st h sc ord ty d m disp
    Issues s i false none c → Roomy s i c → m.space = .priv → u.memOk = true → s.privAll c m disp.toInt ty.bytes .write = (u, [], ps) →
    ∃ t w, exec i s = .next t ∧
      t = { u with warps := t.warps, hbm := t.hbm, lines := t.lines, parts := t.parts, l2 := t.l2, l1 := t.l1, fresh := t.fresh } ∧
      LinesHeld u t c.core ps true ∧
      (∀ n, (t.part n).map Part.still = (u.part n).map Part.still) ∧
      (∀ k, k ≠ c.k → t.warp k = u.warp k) ∧ t.warp c.k = some w ∧ Went s i c w ∧ w.preds = c.w.preds ∧ w.raised = c.w.raised ∧
      ∀ a, t.hbm.mem.byte a = (lastAt (privStores u c d ty.bytes ps) a).getD (u.hbm.mem.byte a)) ∧
  (∀ (s : State) (c : Ctx) (m : MemArg) (disp : Int) (n : Nat) (use : Use) (l : Lane),
    let o := (((s.word c .b m.b l).toNat * 2 ^ m.sh.toNat + disp) % (2 ^ 57 : Int)).toNat
    (o % n ≠ 0 → s.privForm c m disp n use l = (s, .error (accessCause 0x06 0 o))) ∧
    (o % n = 0 → c.w.plim * 4 < o + n → s.privForm c m disp n use l = (s, .error (accessCause 0x07 0 o)))) ∧
  (∀ (s u : State) (h : Hdr) (sc : Scope) (ord : Order) (bc : Bool) (ty : Ty) (d : Spec) (m : MemArg) (disp : BitVec 24) (c : Ctx)
      (ps : List (Lane × List PrivPiece)) (l : Lane) (x : Cause) (more : List (Lane × Cause)),
    let i : Instr := .ld h sc ord bc ty d m disp
    let fs := (l, x) :: more
    let c' := { c with wr := c.wr &&& ~~~faultLanes fs }
    Issues s i false none c → Roomy s i c → m.space = .priv → CanTrap s c (c.x.setWidth 64) → s.handlerOf c.w ≠ 0 →
    s.privAll c m disp.toInt ty.bytes .read = (u, fs, ps) →
    ∃ t w f, exec i s = .next t ∧ t = { u with warps := t.warps, parts := t.parts, l2 := t.l2, l1 := t.l1, fresh := f + 1 } ∧
      LinesHeld u t c.core ps false ∧
      (∀ n, (t.part n).map Part.still = (u.part n).map Part.still) ∧ (∀ k, k ≠ c.k → t.warp k = u.warp k) ∧ t.warp c.k = some w ∧
      w = { c.w with regs := w.regs, xflags := w.xflags, flying := w.flying, clock := w.clock, paths := w.paths, defers := w.defers
                     hzn := ps.foldl (fun h q => joinHzn h (u.privRead c.w.part q.2).2) c.w.hzn } ∧ w.raised = c.w.raised ∧
      (∀ n, n ∉ i.writes → ∀ h : n < 128, sameReg w.regs[n] c.w.regs[n]) ∧ Faulted s c w fs x f ∧
      ∀ j, j < max 1 (ty.bytes / 4) → (match d with | .v _ => True | _ => False) → Got c' w d j
        (fun l => match ps.find? (·.1 == l) with | some q => loadOf ty (u.privRead c.w.part q.2).1 j | none => 0) (fun _ => false)) ∧
  (∀ (s u : State) (h : Hdr) (sc : Scope) (ord : Order) (ty : Ty) (d : Spec) (m : MemArg) (disp : BitVec 24) (c : Ctx)
      (ps : List (Lane × List PrivPiece)) (l : Lane) (x : Cause) (more : List (Lane × Cause)),
    let i : Instr := .st h sc ord ty d m disp
    let fs := (l, x) :: more
    Issues s i false none c → Roomy s i c → m.space = .priv → u.memOk = true → CanTrap s c (c.x.setWidth 64) → s.handlerOf c.w ≠ 0 →
    s.privAll c m disp.toInt ty.bytes .write = (u, fs, ps) →
    ∃ t w f, exec i s = .next t ∧
      t = { u with warps := t.warps, hbm := t.hbm, lines := t.lines, parts := t.parts, l2 := t.l2, l1 := t.l1, fresh := f + 1 } ∧
      LinesHeld u t c.core ps true ∧
      (∀ n, (t.part n).map Part.still = (u.part n).map Part.still) ∧ (∀ k, k ≠ c.k → t.warp k = u.warp k) ∧ t.warp c.k = some w ∧
      w = { c.w with regs := w.regs, xflags := w.xflags, flying := w.flying, clock := w.clock, paths := w.paths, defers := w.defers } ∧
      w.raised = c.w.raised ∧ (∀ n (h : n < 128), sameReg w.regs[n] c.w.regs[n]) ∧ Faulted s c w fs x f ∧
      ∀ a, t.hbm.mem.byte a = (lastAt (privStores u c d ty.bytes ps) a).getD (u.hbm.mem.byte a))

/-- 17 R364-R367, R375-R378, R382, 23 R436. That BARARR, RNGPUT and RNGCLOSE wait within their run for the home is the model's
reading, log entry 44; that the address is the lowest written lane's, with no check that the lanes agree, log entry 55. -/
def Obligations.ActsOnceIssue : Prop :=
  ∀ (s : State) (i : Instr) (c : Ctx) (r : OnceRow) (ok : Nat → Prop) (off : Nat),
    Issues s i false none c → Roomy s i c → onceRow s c i = some (r, ok) → ok off → c.w.queue.length < 64 →
    let e := { r with off := off, pa := off }.entry s c i
    s.touchesLent c r.space e.accs = false →
    ∃ t w p, exec i s = .next t ∧ Joined s t c w e p ∧
      (r.wait = none → GoesOn s c p) ∧ ∀ f, r.wait = some f → p = { c.p with wait := f s.fresh }

/-- 16 R353, R354, 17 R364, R365, R381. That a uniform operand is checked by its shape is the model's reading, log entry 55. -/
def Obligations.FenceAndSpawnIssue : Prop :=
  (∀ (s : State) (c : Ctx) (h : Hdr) (sc : Scope) (ord : Order),
    let i : Instr := .fence h sc ord
    Issues s i false none c → c.w.queue.length < 64 →
    ∃ t w p, exec i s = .next t ∧ GoesOn s c p ∧
      Joined s t c w { id := s.fresh, kind := .fence, space := .priv, scope := sc, ord := ord, ty := .b32, x := c.x, pid := c.pid
                       runId := c.p.runId, accs := [], instr := i, priv := c.priv, ch := c.h.ch, dst := none, held := [], lns := c.wr, shape := .w
                       relDone := false, relSeq := 0, frame := c.p.frameId, issued := s.gtime, gated := none } p) ∧
  (∀ (s u : State) (c : Ctx) (h : Hdr) (a b : Spec),
    let i : Instr := .tspawn h a b
    let va := (s.pairAt c .a a c.low).toNat
    let n := (s.word c .b b c.low).toNat
    Issues s i false none c → Roomy s i c → s.oneFor c .a a 2 → s.oneFor c .b b 1 → 1 ≤ n → n ≤ 64 → va % 64 = 0 →
    c.w.queue.length < 64 → s.spawnFault c va n = (u, none) →
    ∃ t w p, exec i s = .next t ∧ GoesOn s c p ∧
      Joined u t c w (OnceRow.entry u c i { kind := .tspawn, space := .glob, scope := .device, ord := .rel, ty := .b64, off := va, pa := 0
                                            len := 0, data := leBytes 4 n, dst := none, shape := .w, wait := none }) p)

/-- 17 R377-R380, R383, 21 R414: the last clauses are the report, the others the cases without. That the address of BARWAIT and RNGGET is
the lowest written lane's, with no check that the lanes agree, is the model's choice, log entry 55. -/
def Obligations.BlockingIssue : Prop :=
  (∀ (s : State) (c : Ctx) (h : Hdr) (sp : Bool) (m : EngArg) (e : Spec) (off : Nat),
    let i : Instr := .barwait h sp m e
    let r : OnceRow := { kind := .barwait, space := spSpace sp, scope := .cluster, ord := .acq, ty := .b128, off := off, pa := off, len := 16
                         data := [], dst := none, shape := .w, wait := none }
    Issues s i false none c → Roomy s i c → s.oneFor c .e e 1 → (c.priv = true ∨ c.w.imp = none) → s.onceAt c m permR off →
    c.w.queue.length < 64 → s.touchesLent c (spSpace sp) (OnceRow.entry s c i r).accs = false →
    let c' := { c with w := { c.w with imp := if s.windowIn c.w (spSpace sp) off 16 then c.w.imp else some (c.guardRec (spSpace sp) off) } }
    ∃ t w p, exec i s = .next t ∧ Joined s t c' w (OnceRow.entry s c i r) p ∧
      Stands s c p c.p.lns c.x (.barwait sp off ((s.word c .e e c.low).getLsbD 0))) ∧
  (∀ (s : State) (c : Ctx) (h : Hdr) (full : Bool) (d : Spec) (pe : BitVec 3) (m : EngArg) (off : Nat),
    let i : Instr := .rngget h full d pe m
    let r : OnceRow := { kind := .ring, space := .shr, scope := .cluster, ord := .acq, ty := .b128, off := off, pa := off, len := 16
                         data := [], dst := none, shape := .w, wait := none }
    Issues s i false none c → Roomy s i c → s.onceAt c m (permR ||| permW ||| permAtom) off → c.w.queue.length < 64 →
    ∃ t w p, exec i s = .next t ∧ Joined s t c w { OnceRow.entry s c i r with held := c.heldFor .u (if d = .z then none else some (d, 1)) } p ∧
      Stands s c p c.p.lns c.x (.ring full d pe off c.wr)) ∧
  (∀ (s : State) (c : Ctx) (h : Hdr) (cls : CntClass) (n : BitVec 6), Issues s (.waitcnt h cls n) false none c →
    if c.w.cnt cls ≤ n.toNat then Completes s (.waitcnt h cls n) c .z [] none noFlags
    else Blocks s (.waitcnt h cls n) c (.waitcnt cls n)) ∧
  (∀ (s : State) (c : Ctx) (h : Hdr), Issues s (.tbar h) true none c → (c.priv = true ∨ c.w.imp = none) → Blocks s (.tbar h) c .tbar) ∧
  (∀ (s : State) (c : Ctx) (h : Hdr) (a : Spec) (name : BitVec 16), Issues s (.evwait h a name) false none c →
    Roomy s (.evwait h a name) c → s.oneFor c .a a 1 →
    let target := s.word c .a a c.low
    if target.toNat ≤ (match s.part c.w.part with | some p => (p.event name).toNat | none => 0)
    then Completes s (.evwait h a name) c .z [] none noFlags
    else Blocks s (.evwait h a name) c (.evwait name target)) ∧
  (∀ (s : State) (i : Instr) (c : Ctx) (r : ImpRec), Issues s i false none c → c.w.imp = some r →
    ((∃ h, i = .exit h) ∨ (∃ h a, i = .exitSucc h a) ∨ ∃ h sp m e, i = .barwait h sp m e ∧ s.oneFor c .e e 1) →
    CanTrap s c (c.x.setWidth 64) → s.handlerOf c.w ≠ 0 → ReportsGuard s i c r) ∧
  (∀ (s : State) (c : Ctx) (h : Hdr) (r : ImpRec), Issues s (.tbar h) true none c → c.w.imp = some r → CanTrap s c (c.x.setWidth 64) →
    s.handlerOf c.w ≠ 0 → ReportsGuard s (.tbar h) c r)

/-- 16 R350, 06 R134, R135, 05 R111, R117, 04 R100. -/
def Obligations.HomeStores : Prop :=
  ∀ (s : State) (k : WarpKey) (id : Nat) (lns : Mask) (w : Warp) (e : Entry) (a : Acc) (p : Part), MayPerform s k id lns w e a p →
    (e.kind = .st ∨ e.kind = .stc ∨ e.kind = .barinit) → (e.kind = .stc → a.data.length = 16) →
    (e.kind = .barinit → ∃ b ∈ a.data, b ≠ 0) →
    let tag := decide (e.kind = .stc) && a.view.isNone && (e.accs.filter (fun b => b.pa / 16 == a.pa / 16)).all (·.tag)
    let q := s.spot w e a a.stored.length
    let g := s.stampFor p w e a
    (¬ (e.space = .glob ∧ isPeer a.pa = true ∧ p.arg.sliced = true) → s.holds q.1 →
      ∃ t v, exec (.storePerform k id lns) s = .next t ∧ Homed s t k w v e a ∧ Landed s t q a.stored ∧ Tagged s t q tag ∧
        v.queue = answeredIn w id e a { a with served := true, res := [], g := BitVec.ofNat 64 g } ∧
        (e.space = .glob → (t.lineInfo (a.pa / 128)).gwct = BitVec.ofNat 64 g)) ∧
    (e.space = .glob → isPeer a.pa = true → p.arg.sliced = true →
      ∃ t v, exec (.storePerform k id lns) s = .next t ∧ Homed s t k w v e a ∧ (∀ ar, t.area ar = s.area ar) ∧
        v.queue = answeredIn w id e a { a with served := true, res := [], g := s.gtime } ∧
        t.part w.part = some { p with heldFx := p.heldFx ++ [.peerWrite e.id a.pa a.stored tag] })

/-- 16 R351, 17 R376, 06 R149. 17 R376, R378, 03 R70: the objects at their home. 17 R382, 04 R91: EVSIG. That these words wait in their
run for the home is the model's choice, log entry 44. -/
def Obligations.HomeAtomics : Prop :=
  (∀ (s : State) (k : WarpKey) (id : Nat) (lns : Mask) (w : Warp) (e : Entry) (a : Acc) (p : Part) (op : AtomOp), MayPerform s k id lns w e a p →
    (e.kind = .atom op ∨ e.kind = .red op) → a.view = none → a.data.length = e.ty.bytes → (op = .cas → a.cmp.length = e.ty.bytes) →
    a.len = e.ty.bytes → 0 < e.ty.bytes → ¬ (e.space = .glob ∧ isPeer a.pa = true ∧ p.arg.sliced = true) →
    let q := s.spot w e a e.ty.bytes
    let old := s.locationBytes w e a
    s.holds q.1 →
    ∃ t v, exec (.atomicPerform k id lns) s = .next t ∧ Homed s t k w v e a ∧
      Landed s t q (leBytes e.ty.bytes (atomOf op e.ty (leNat old) (leNat a.data) (leNat a.cmp))) ∧ Tagged s t q false ∧
      v.queue = answeredIn w id e a { a with served := true, res := old, tag := false, g := BitVec.ofNat 64 (s.stampFor p w e a) }) ∧
  (∀ o count, o < 2 ^ 128 → 0 < o / 2 ^ 32 % 2 ^ 16 → o % 2 ^ 32 + count < 2 ^ 32 → barArrive o count = .ok (barAfter o count)) ∧
  (∀ (s : State) (k : WarpKey) (id : Nat) (lns : Mask) (w : Warp) (e : Entry) (a : Acc) (p : Part) (q : Path), MayPerform s k id lns w e a p →
    (e.kind = .bararr ∨ e.kind = .ring) → (e.space = .scr ∨ e.space = .shr) → a.len = 16 → s.windowIn w e.space a.off 16 = true →
    s.holds (s.spot w e a 16).1 → w.place ≠ none → w.namedApart → e.id = id → w.paths.find? (fun q => q.wait == .home id) = some q → e.pid = q.pid →
    let o := leNat (s.windowBytes w e.space a.off 16)
    let x := leNat a.data
    (e.kind = .bararr → 0 < o / 2 ^ 32 % 2 ^ 16 → o % 2 ^ 32 + x < 2 ^ 32 →
      ∃ t, exec (.atomicPerform k id lns) s = .next t ∧ HomeWord s t k w e a q (barAfter o x)) ∧
    (∀ h full m sp, e.kind = .ring → e.instr = .rngput h full m sp → w.role.toNat = (if full then o / 2 ^ 5 % 4 else o / 2 ^ 7 % 4) →
      x < o % 32 + 1 → o.testBit (64 + x) = true → o.testBit (32 + x) = !full →
      ∃ t, exec (.atomicPerform k id lns) s = .next t ∧ HomeWord s t k w e a q (putAfter o full x)) ∧
    (∀ h m, e.kind = .ring → e.instr = .rngclose h m → w.role.toNat = o / 2 ^ 5 % 4 →
      ∃ t, exec (.atomicPerform k id lns) s = .next t ∧ HomeWord s t k w e a q (if o.testBit 9 then o else o + 2 ^ 9))) ∧
  (∀ (s : State) (k : WarpKey) (id : Nat) (lns : Mask) (w : Warp) (e : Entry) (a : Acc) (p : Part) (h : Hdr) (sp : Spec) (name : BitVec 16),
    MayPerform s k id lns w e a p → e.kind = .evsig → e.instr = .evsig h sp name →
    let cl := (s.homeCore w).cluster
    (s.cluster cl).events.length < 256 →
    ∃ t, exec (.storePerform k id lns) s = .next t ∧ t = { s with warps := t.warps, clusters := t.clusters } ∧
      (∀ j, j ≠ k → t.warp j = s.warp j) ∧
      t.warp k = some { w with queue := answeredIn w id e a { a with served := true, res := [], tag := false, g := 0 } } ∧
      (∀ j, j ≠ cl → t.cluster j = s.cluster j) ∧ t.cluster cl = { s.cluster cl with events := (s.cluster cl).events ++
        [{ part := w.part, name := name, amount := BitVec.ofNat 32 (leNat a.data), taskid := none }] })

/-- 16 R349, R350, 06 R132, R133, R138, 07 R153, 17 R377. That a window keeps one stamp for each 128 bytes (`Store.stampOf`) is the
model's choice, log entry 116. -/
def Obligations.LoadsServed : Prop :=
  (∀ (s : State) (k : WarpKey) (id : Nat) (lns : Mask) (w : Warp) (e : Entry) (a : Acc) (p : Part), MayPerform s k id lns w e a p →
    (e.kind = .ld ∨ e.kind = .ldc ∨ e.kind = .bartst) →
    (e.space = .glob → a.view = none ∧ isPeer a.pa = false ∧ (∀ c ∈ s.copies, c.line ≠ a.pa / 128) ∧ a.pa % 128 + a.len ≤ 128 ∧
      (s.lineInfo (a.pa / 128)).sw = none ∧ (s.lineInfo (a.pa / 128)).own = []) →
    ∃ t v b tag g, exec (.loadServed k id lns) s = .next t ∧ Homed s t k w v e a ∧ (∀ ar, t.area ar = s.area ar) ∧
      v.queue = answeredIn w id e a { a with served := true, res := b, tag := tag, g := BitVec.ofNat 64 g } ∧
      if e.space = .glob then b = s.hbm.mem.bytes a.pa a.len ∧ tag = s.hbm.tag a.pa ∧ g = (s.lineInfo (a.pa / 128)).gwct.toNat
      else tag = (s.windowIn w e.space a.off a.len && (s.area (s.window w e.space).1).tag ((s.window w e.space).2.1 + a.off)) ∧
        b = (List.range a.len).map (fun i => if a.off + i < (s.window w e.space).2.2
          then (s.area (s.window w e.space).1).mem.byte ((s.window w e.space).2.1 + a.off + i) else 0) ∧
        (s.windowIn w e.space a.off a.len = true → g = if a.len = 0 then 0 else
          (s.area (s.window w e.space).1).stampOf ((s.window w e.space).2.1 + a.off) a.len)) ∧
  (∀ (s : State) (k : WarpKey) (id : Nat) (w : Warp) (e : Entry), s.warp k = some w → w.key = k → w.entry id = some e →
    e.kind ≠ .fence → (∀ a ∈ e.accs, a.served = true) → Lined s (e.ctx w) → (∀ d n, e.dst = some (d, n) → n ≤ 4) →
    (∀ n (h : n < 128), e.pends n = true → w.regs[n].spl = false) →
    (e.held.map (·.1)).Nodup → (∀ h ∈ e.held, e.pends h.1 = true) → (e.shape = .w ∨ (e.shape = .u ∧ ∃ a, e.accs = [a])) →
    ((e.kind = .ld ∨ e.kind = .ldc ∨ e.kind = .bartst) → ∃ t, exec (.loadReturn k id) s = .next t ∧ Completed s t k w e) ∧
    ((e.kind.stores = true ∨ e.kind.atomics = true) → s.heldOf w id = false →
      ∃ t, exec (.storeAcknowledge k id) s = .next t ∧ Completed s t k w e))

/-- 05 R118-R123, R127. The entries are those of the model's own walk, `State.walkFrom`. That every result is held until a shootdown,
and that a translation which is held is used, are the model's choice, log entry 95. -/
def Obligations.TranslationFrame : Prop :=
  (∀ (s u : State) (part : Nat) (ctx : BitVec 6) (va : Nat) (use : Use) (priv : Bool) (r : Except (Nat × Nat) Nat), s.memOk = true →
    s.translate part ctx va use priv = (u, r) → WalkedOnly s u (s.marked part ctx va)) ∧
  (∀ (s u : State) (c : Ctx) (m : MemArg) (disp : Int) (n align : Nat) (perm : BitVec 8) (use : Use) (l : Lane) (r : Except Cause Acc), s.memOk = true →
    s.laneAddr c m disp n align perm use l = (u, r) →
    WalkedOnly s u (s.marked c.w.part (s.ctxOf c.w) (effOffset (s.quadAt c .a m.a l) (s.word c .b m.b l) m.sh disp))) ∧
  (∀ (s : State) (part : Nat) (ctx : BitVec 6) (va : VA) (write : Bool), s.memOk = true →
    ∃ t, exec (.pageWalk part ctx va write) s = .next t ∧ WalkedOnly s t (s.walked part ctx va.toNat) ∧
      (∀ a ∈ s.walked part ctx va.toNat, (t.hbm.mem.byte a).getLsbD 2 = true) ∧
      ∀ p x, s.part part = some p → p.ctxs.find ctx = some x → (∀ r, s.walkFrom p va.toNat 4 x.root.toNat [] [] ≠ .poisoned r) →
        ∃ q, t.part part = some q ∧ q.tlbHit ctx va.toNat ≠ none)

/-- 06 R139-R141, 16 R354, 23 R437, 04 R87. That a peer is out exactly while all 18 ports are down, or while it is gated, and how
its access is tried again, are the model's choice, log entry 86. -/
def Obligations.QueueWaits : Prop :=
  (∀ (s : State) (k : WarpKey) (id : Nat) (w : Warp) (e : Entry), s.warp k = some w → w.entry id = some e →
    let due := e.waits && !e.relDone && s.releaseOver w e
    let e' := if due then { e with relDone := true } else e
    ∃ t, exec (.releaseWaitElapsed k id) s = .next t ∧
      QueueOnly { s with fresh := if due then s.fresh + 1 else s.fresh } t k w
        (if e.kind = .fence ∧ w.fenceOver e' = true then w.queue.filter (fun f => f.id != id)
         else if due then w.queue.map (fun f => if f.id = id then { f with relDone := true, relSeq := s.fresh } else f) else w.queue)) ∧
  (∀ (s : State) (k : WarpKey) (id : Nat) (w : Warp) (e : Entry) (t0 : DWord), s.warp k = some w → w.entry id = some e → e.gated = some t0 →
    let out := ∃ a ∈ e.accs, a.served = false ∧ e.space = .glob ∧ isPeer a.pa = true ∧
      (s.portsDown = BitVec.allOnes 18 ∨ a.pa / (384 * 2 ^ 30) - 1 ∈ s.gatedPeers)
    (¬ out → ∃ t, exec (.targetGatedRetry k id) s = .next t ∧
      QueueOnly s t k w (w.queue.map (fun f => if f.id = id then { f with gated := none } else f))) ∧
    (out → s.gtime.toNat < t0.toNat + 10000 → exec (.targetGatedRetry k id) s = .next s)) ∧
  (∀ (s : State) (k : WarpKey) (n : Nat) (w : Warp) (p : Path), s.warp k = some w → w.path n = some p →
    p.wait = .none → p.run ≠ [] → p.begun = false → w.holdsBack p ≠ [] → (∀ e ∈ w.holdsBack p, s.remoteLoad w e = true) →
    (∃ e ∈ w.holdsBack p, e.issued.toNat + 1000 ≤ s.gtime.toNat) →
    ∃ t v, exec (.remoteLoadBlock k n) s = .next t ∧ t = { s with warps := t.warps } ∧ (∀ j, j ≠ k → t.warp j = s.warp j) ∧
      t.warp k = some v ∧ v = { w with paths := v.paths } ∧ v.path n = some { p with remote := true } ∧ ∀ m, m ≠ n → v.path m = w.path m)

/-- 17 R377-R380, R383, 03 R63, R70. -/
def Obligations.SynchronisationReleases : Prop :=
  (∀ (s : State) (k : WarpKey) (n : Nat) (w : Warp) (p : Path) (e : Entry) (a : Acc) (sp ph : Bool) (off : Nat), s.warp k = some w →
    w.path n = some p → w.place ≠ none → p.wait = .barwait sp off ph →
    w.queue.find? (fun f => f.kind == EKind.barwait && f.pid == n) = some e → e.accs = [a] → w.mayGo e a = true →
    (s.windowRead w e.space a.off 16).poison = false → (leNat (s.windowBytes w e.space a.off 16)).testBit 48 ≠ ph →
    ∃ t, exec (.barwaitRelease k n) s = .next t ∧ Released s t k n
      { w with hzn := joinHzn w.hzn (s.windowRead w e.space a.off 16).g, queue := w.queue.filter (fun f => f.id != e.id) } p) ∧
  (∀ (s : State) (k : WarpKey) (n : Nat) (w : Warp) (p : Path) (cls : CntClass) (m : BitVec 6), s.warp k = some w → w.path n = some p →
    w.place ≠ none → p.wait = .waitcnt cls m → w.cnt cls ≤ m.toNat → ∃ t, exec (.waitcntRelease k n) s = .next t ∧ Released s t k n w p) ∧
  (∀ (s : State) (k : WarpKey) (n : Nat) (w : Warp) (p : Path) (q : Part) (name : BitVec 16) (x : Word), s.warp k = some w →
    w.path n = some p → w.place ≠ none → p.wait = .evwait name x → s.part w.part = some q → x.toNat ≤ ((q.events.find name).getD 0).toNat →
    ∃ t, exec (.evwaitRelease k n) s = .next t ∧ Released s t k n w p) ∧
  (∀ (s : State) (k : WarpKey) (n : Nat) (w : Warp) (p : Path) (e : Entry) (a : Acc) (h : Hdr) (full : Bool) (d : Spec) (pe : BitVec 3) (m : EngArg)
      (off i g' : Nat) (wt : Mask), s.warp k = some w → w.key = k → w.path n = some p → w.place ≠ none → p.wait = .ring full d pe off wt →
    w.queue.find? (fun f => f.kind == EKind.ring && f.pid == n) = some e → w.entry e.id = some e → e.pid = n → e.space = .shr → e.accs = [a] → a.seen = true → a.len = 16 →
    w.mayGo e a = true → e.instr = .rngget h full d pe m → s.locationBad w e a = false → s.windowIn w .shr a.off 16 = true →
    s.holds (.shr w.key.task) → s.unwatched → s.memOk = true → Lined s (e.ctx w) → (∀ r, r ∈ e.instr.names → ∀ h : r < 128, w.regs[r].spl = false) →
    (e.ctx w).wr ≠ 0 → e.held.length ≤ 1 → RingTaken (leNat (s.windowBytes w .shr a.off 16)) w.role.toNat full i g' →
    ∃ t v q, exec (.rnggetWake k n) s = .next t ∧ (∀ j, j ≠ k → t.warp j = s.warp j) ∧ t.warp k = some v ∧
      Landed s t (s.spot w e a 16) (leBytes 16 g') ∧ v.path n = some q ∧ q.pc = p.pc + 12 ∧ q.wait = .none ∧ q.lns = p.lns ∧
      Got (e.ctx w) v d 0 (fun _ => BitVec.ofNat 32 i) (fun _ => false) ∧ Preds (e.ctx w) v (some (pe, fun _ => true)) ∧ v.raised = w.raised) ∧
  (∀ (s : State) (task team : Nat), s.keyed → s.tbarDue task team = true → (∀ w ∈ s.team task team, w.place ≠ none) →
    ∃ t, exec (.tbarComplete task team) s = .next t ∧ t = { s with warps := t.warps } ∧
      (∀ k, (k.task ≠ task ∨ k.team ≠ team) → t.warp k = s.warp k) ∧
      ∀ k w, s.warp k = some w → k.task = task → k.team = team →
        ∃ v, t.warp k = some v ∧ v = { w with paths := v.paths } ∧ ∀ n p, w.path n = some p → v.path n = some
          { p with pc := p.pc + 12, run := [], begun := false, runId := 0, behind := [], holds := [], wait := .none, retry := none, since := s.gtime })

/-- 16 R359-R362, 17 R393. -/
def Obligations.Capabilities : Prop :=
  ∀ (s : State) (i : Instr) (c : Ctx) (d : Spec) (xs : List (Lane → Word)) (g : Lane → Bool) (pd : Option (BitVec 3 × (Lane → Bool))),
    Issues s i false none c → Roomy s i c → capRow s c i = some (d, xs, g, pd) → CompletesTagged s i c d xs g pd

/-- 17 R384-R386, R388, R390, R391, 15 R327. 17 R390, R391, 09 R214. A register that only firmware writes parks the lanes instead. -/
def Obligations.SystemRegisters : Prop :=
  (
    (∀ (s : State) (i : Instr) (c : Ctx) (p : Part) (d : Spec) (xs : List (Lane → Word)), Issues s i false none c → Roomy s i c →
      i.wf = true → s.part c.w.part = some p → readRow s c p i = some (d, xs) → Completes s i c d xs none noFlags) ∧
    (∀ (s : State) (c : Ctx) (h : Hdr) (d : Spec), Issues s (.rdcnt h 2 d) false none c → Roomy s (.rdcnt h 2 d) c →
      let pos := s.posOf c.w c.p
      let seen := landedBy c.rd pos
      let now := (c.rd.flying.filter (fun f => decide (f.ready = pos))).foldl (fun g f => g ||| f.flags) 0
      ∃ t w, exec (.rdcnt h 2 d) s = .next t ∧ OnlyWarp s t c w ∧ Went s (.rdcnt h 2 d) c w ∧ w.preds = c.w.preds ∧
        w.raised = (c.w.flying.filter (fun f => !decide (f.ready ≤ pos))).foldl (fun g f => g ||| f.flags)
          ((landedBy c.w pos &&& ~~~(landedBy c.rd (pos - 1))) ||| now) ∧
        Got c w d 0 (fun _ => seen.setWidth 32) (fun _ => false))) ∧
  (
    ∀ (s : State) (c : Ctx) (h : Hdr) (reg : BitVec 12) (a : Spec) (p : Part),
      let i : Instr := .mtx h reg a
      Issues s i false none c → Roomy s i c → i.wf = true → s.part c.w.part = some p → ¬ (0x20 ≤ reg.toNat ∧ reg.toNat < 0x40) →
      s.oneFor c .a a (if sysReg64 reg then 2 else 1) →
      let v : DWord := if sysReg64 reg then s.pairAt c .a a c.low else (s.word c .a a c.low).setWidth 64
      let seed : Word := if v.setWidth 32 = 0#32 then 1 else v.setWidth 32
      let n := reg.toNat
      (n = 0 ∨ n = 2 → ∃ t w, exec i s = .next t ∧ OnlyWarp s t c w ∧
        (∀ m (h : m < 128), sameReg w.regs[m] c.w.regs[m]) ∧ w.preds = c.w.preds ∧ w.raised = c.w.raised ∧
        (∃ q, w.path c.pid = some q ∧ q.pc = c.p.pc + 12 ∧ q.lns = c.p.lns) ∧
        ∀ q ∈ w.paths, q.handler = true → ∀ f, q.frame = some f → if n = 0 then f.xpc = v else f.xstat = v.setWidth 32) ∧
      (n = 0x10 → Effects s i c (fun s t => t = { s with warps := t.warps, cores := t.cores } ∧ (∀ k, k ≠ c.core → t.core k = s.core k) ∧
        t.core c.core = { s.core c.core with lfsr := seed })) ∧
      (n = 0x11 → Effects s i c (fun s t => t = { s with warps := t.warps, clusters := t.clusters } ∧
        (∀ k, k ≠ c.core.cluster → t.cluster k = s.cluster k) ∧
        t.cluster c.core.cluster = { s.cluster c.core.cluster with genCopy0 := seed, genCopy1 := seed, genMma := seed })) ∧
      (0x40 ≤ n → Effects s i c (fun s t => t = { s with warps := t.warps, parts := t.parts } ∧ (∀ k, k ≠ c.w.part → t.part k = s.part k) ∧
        ∃ q, t.part c.w.part = some q ∧ q = { p with apertures := q.apertures, tlb := q.tlb } ∧
          (∀ j (h : j < 16), q.apertures[j] = if j = n % 16 then p.apertures[j].wrote n v else p.apertures[j]) ∧
          ∀ e, e ∈ q.tlb ↔ e ∈ p.tlb ∧ ∀ r, (r = p.apertures.toList.getD (n % 16) Aperture.off ∨ r = q.apertures.toList.getD (n % 16) Aperture.off) →
            ¬ (e.base < r.base + r.sz.toNat % 2 ^ 40 ∧ r.base < e.base + e.size))))

/-- 21 R416, R415, 17 R389. The statement is of a core on which no other warp has a deferred group. -/
def Obligations.HandlerReturn : Prop :=
  ∀ (s : State) (c : Ctx) (h : Hdr) (f : Frame) (pl : Place), Issues s (.xret h) true none c → c.p.frame = some f → c.w.place = some pl →
    s.keyed → s.named → c.w.key = c.k → f.xpc.toNat % 4 = 0 → f.xpc.toNat < 2 ^ 57 →
    (∀ q ∈ c.w.paths, q.handler = true → ∃ g, q.frame = some g ∧ g.xpc = f.xpc ∧ g.xmask = f.xmask) → (∀ kw ∈ s.warps, kw.1 ≠ c.k → kw.2.defers = []) →
    ((∃ q ∈ c.w.paths, q.handler = true ∧ q.pid ≠ c.pid ∧ q.wait ≠ .xret) → Blocks s (.xret h) c .xret) ∧
    ((∀ q ∈ c.w.paths, q.handler = true → q.pid ≠ c.pid → q.wait = .xret) →
      ∃ t w, exec (.xret h) s = .next t ∧ t = { s with warps := t.warps, fresh := t.fresh } ∧ (∀ k, k ≠ c.k → t.warp k = s.warp k) ∧
        t.warp c.k = some w ∧ w = { c.w with paths := w.paths, defers := [] } ∧ (∀ q ∈ w.paths, q.handler = false) ∧
        (∀ n q, c.w.path n = some q → q.handler = false → w.path n = some q) ∧
        (f.xmask &&& ~~~c.w.exited ≠ 0 → ∃ q ∈ w.paths, q.lns = f.xmask &&& ~~~c.w.exited ∧ q.pc = f.xpc.setWidth 57 ∧
          q.frame = none ∧ q.wait = .none ∧ q.run = []) ∧
        ∀ d ∈ c.w.defers, ∃ q ∈ w.paths, q.lns = d.lns ∧ q.pc = d.x ∧ q.frame = none ∧ q.wait = .none ∧ q.retry ≠ none)

/-- 17 R392, R394, R395, 26 R452, 23 R438. -/
def Obligations.SystemInstructions : Prop :=
  (∀ (s : State) (c : Ctx) (h : Hdr) (whole : Bool) (a b d : Spec) (p : Part),
    let i : Instr := .tlbinv h whole a b d
    let x := (s.word c .c d c.low).toNat
    let lo := (s.pairAt c .a a c.low).toNat
    let len := (s.pairAt c .b b c.low).toNat
    Issues s i false none c → Roomy s i c → s.part c.w.part = some p → x < 64 → p.ctxs.find (BitVec.ofNat 6 x) ≠ none →
    s.oneFor c .c d 1 → (whole = false → s.oneFor c .a a 2 ∧ s.oneFor c .b b 2) → c.w.fencing = false →
    s.translating c.w.part (BitVec.ofNat 6 x) (if whole then none else some (lo, len)) = false →
    (∀ kw ∈ s.warps, ∀ e ∈ kw.2.queue, ∀ q, e.kind ≠ .waitmem q) →
    Effects s i c (fun s t => t = { s with warps := t.warps, parts := t.parts } ∧ (∀ k, k ≠ c.w.part → t.part k = s.part k) ∧
      ∃ q, t.part c.w.part = some q ∧ q = { p with tlb := q.tlb } ∧
        ∀ e, e ∈ q.tlb ↔ e ∈ p.tlb ∧ ¬ (e.ctx = BitVec.ofNat 6 x ∧ (whole = true ∨ (e.base < lo + len ∧ lo < e.base + e.size))))) ∧
  (∀ (s : State) (c : Ctx) (h : Hdr) (p : Part), Issues s (.ckpt h) false none c → s.part c.w.part = some p →
    Effects s (.ckpt h) c (fun s t => t = { s with warps := t.warps, parts := t.parts } ∧ (∀ k, k ≠ c.w.part → t.part k = s.part k) ∧
      t.part c.w.part = some (if p.arg.sliced = true ∧ p.ckBegan = none then { p with ckNext := s.gtime } else p))) ∧
  (∀ (s : State) (c : Ctx) (h : Hdr) (f : Frame) (x : Task), Issues s (.halt h) false none c → c.p.frame = some f →
    s.task c.k.task = some x → x.id = c.k.task → s.keyed → (∀ kw ∈ s.warps, kw.2.defers ≠ [] → kw.1 = c.k ∨ (x.trec.harv = false ∧ kw.1.task = c.k.task)) →
    let e : CrewErr := { ecode := 0x49, edet := f.xcause.setWidth 8, etask := x.trec.taskid, eaddr := f.xpc }
    let lost := if x.trec.harv then [] else s.harvestOf x
    ∃ t, exec (.halt h) s = .next t ∧ t = { s with warps := t.warps, tasks := t.tasks, jobs := t.jobs } ∧
      t.task c.k.task = some { x with err := some (x.err.getD e) } ∧ (lost = [] → ∀ n, n ≠ c.k.task → t.task n = s.task n) ∧
      (∀ j, s.job x.job = some j → t.job x.job = some { j with status := 4, err := some (j.err.getD e) }) ∧
      ∀ k w, s.warp k = some w → t.warp k = some (if (if x.trec.harv then k = c.k else k.task = c.k.task ∨ ∃ v ∈ lost, v.key = k)
        then { w with exited := Mask.all, paths := [], defers := [], imp := none, ended := true } else w))

/-- 16 R356-R358, R363, 05 R126. That PIN of a peer's line is limited by the quota alone, and that a line outside the map pins
nothing, are the model's choice, log entry 106. -/
def Obligations.LineInstructions : Prop :=
  (∀ (s u : State) (c : Ctx) (h : Hdr) (pd : BitVec 3) (m : MemArg) (disp : BitVec 24) (lns : List (Lane × Nat)),
    let i : Instr := .pin h pd m disp
    let v := lns.foldl (fun (r : State × Mask) q => ((r.1.pinLine c.w.part (s.ctxOf c.w) q.2).1,
      if (r.1.pinLine c.w.part (s.ctxOf c.w) q.2).2 then r.2 ||| BitVec.twoPow 32 q.1.val else r.2)) (u, 0)
    Issues s i false none c → Roomy s i c → s.lineAddrs c m disp.toInt = (u, [], lns) →
    ∃ t w, exec i s = .next t ∧ t = { u with warps := t.warps, l2 := v.1.l2, parts := v.1.parts, fresh := t.fresh } ∧
      (∀ k, k ≠ c.k → t.warp k = s.warp k) ∧ t.warp c.k = some w ∧ Went s i c w ∧ w.raised = c.w.raised ∧ Preds c w (some (pd, v.2.has))) ∧
  (∀ (s : State) (part line : Nat) (ctx : BitVec 6) (p : Part) (x : L2Line), s.part part = some p → s.l2.find? (fun l => l.line == line) = some x →
    let full := (isPeer (128 * line) = false ∧ 14 ≤ (s.l2.filter (fun l => l.part == p.id && !isPeer (128 * l.line)
        && p.l2Set l.line == p.l2Set line && !l.pins.isEmpty)).length) ∨
      (match p.ctxs.find ctx with | some c => c.pinq | none => 0) ≤ (s.l2.filter (fun l => l.part == part && l.pins.contains ctx)).length
    s.pinLine part ctx line = if ctx ∈ x.pins then (s, true) else if full then (s, false)
      else ({ s with l2 := s.l2.map (fun l => if l.line = line then { l with pins := ctx :: l.pins } else l) }, true)) ∧
  (∀ (s u : State) (c : Ctx) (h : Hdr) (m : MemArg) (disp : BitVec 24) (lns : List (Lane × Nat)),
    let i : Instr := .unpin h m disp
    Issues s i false none c → Roomy s i c → s.lineAddrs c m disp.toInt = (u, [], lns) →
    ∃ t w, exec i s = .next t ∧ (∀ k, k ≠ c.k → t.warp k = s.warp k) ∧ t.warp c.k = some w ∧ Went s i c w ∧ w.raised = c.w.raised ∧
      w.preds = c.w.preds ∧ t = { u with
        warps := t.warps
        l2 := u.l2.map (fun x => if lns.any (fun q => q.2 == x.line) then { x with pins := x.pins.filter (· != s.ctxOf c.w) } else x) }) ∧
  (∀ (s u : State) (c : Ctx) (h : Hdr) (m : MemArg) (disp : BitVec 24) (accs : List Acc) (faults : List (Lane × Cause)),
    let i : Instr := .pref h m disp
    Issues s i false none c → Roomy s i c → s.formAll (fun s l => s.laneAddr c m disp.toInt 4 4 permR .read l) c.wr = (u, faults, accs) →
    ∃ t w, exec i s = .next t ∧ (∀ k, k ≠ c.k → t.warp k = s.warp k) ∧ t.warp c.k = some w ∧ Went s i c w ∧ w.raised = c.w.raised ∧
      w.preds = c.w.preds ∧ t = { u with warps := t.warps, l2 := t.l2, parts := t.parts, lines := t.lines, copies := t.copies, fresh := t.fresh } ∧
      ∀ ar, t.area ar = u.area ar) ∧
  (∀ (s : State) (c : Ctx) (h : Hdr) (m : MemArg) (disp : BitVec 24),
    let i : Instr := .icinv h m disp
    let va := fun l => effOffset (s.quadAt c .a m.a l) (s.word c .b m.b l) m.sh disp.toInt
    Issues s i false none c → Roomy s i c → c.w.fencing = false →
    (∀ l, c.wr.has l = true → capCheck (s.quadTag c .a m.a l) (s.quadAt c .a m.a l) true (va l) 1 permR none false = none) →
    Effects s i c (fun s t => t = { s with warps := t.warps, cores := t.cores } ∧ ∀ k, t.core k = { s.core k with
      icache := (s.core k).icache.filter (fun x => !(x.part == c.w.part && x.ctx == s.ctxOf c.w &&
        (lanes.filter c.wr.has).any (fun l => x.line / 512 == va l / 65536))) }))

/-- 17 R387, 20 R405. -/
def Obligations.LendingScratchpad : Prop :=
  ∀ (s : State) (c : Ctx) (h : Hdr) (pd : BitVec 3) (m : EngArg) (e : Spec),
    let i : Instr := .hvlend h pd m e
    let n := (s.word c .e e c.low).toNat
    let q := s.quadAt c .a m.a c.low
    let off := effOffset q (s.word c .b m.b c.low) m.sh (16 * m.disp.toInt)
    Issues s i false none c → Roomy s i c → c.w.inHarvest = false → s.oneFor c .e e 1 → off % 64 = 0 → n % 64 = 0 → n ≤ 196608 →
    capCheck (s.quadTag c .a m.a c.low) q false off n (permR ||| permW) none false = none →
    s.harvestRuns c.core = false → s.rangeBusy c.core = false →
    let lent := (s.core c.core).lent
    let foreign := lent.any (fun l => !(l.task == c.k.task && l.team == c.k.team))
    ∃ t w, exec i s = .next t ∧ t = { s with warps := t.warps, cores := t.cores } ∧ (∀ k, k ≠ c.k → t.warp k = s.warp k) ∧
      t.warp c.k = some w ∧ Went s i c w ∧ w.raised = c.w.raised ∧ Preds c w (some (pd, fun _ => !foreign || n == 0)) ∧
      (∀ k, k ≠ c.core → t.core k = s.core k) ∧
      t.core c.core = { s.core c.core with
        lent := if foreign then lent else if n = 0 then none else some { task := c.k.task, team := c.k.team, off := off, len := n } }

/-- 17 R364-R374, 06 R146, R147, 09 R210, 08 R179, 03 R66, R67, 22 R426. That MDRAIN looks at no quads but those its form uses is the
model's reading, log entry 67; that the row of a window beyond the cluster's rows is none is log entry 113. -/
def Obligations.EngineIssue : Prop :=
  (∀ (s : State) (i : Instr) (c : Ctx) (off : Nat) (br : Option (Bool × Nat)) (r : OpRow) (ok : Prop),
    Issues s i false (some (roleFor i)) c → Roomy s i c → opRow s c off br i = some (r, ok) → ok →
    (∀ cls, r.cls = some cls → c.w.cnt cls < 63) → Enters s i c (r.op s c i) (fun t => t.parts = s.parts)) ∧
  (∀ (s : State) (c : Ctx) (h : Hdr) (sc : Scope) (src : SrcWin) (dst : DstWin) (m : EngArg) (e : Spec) (off : Nat) (p : Part),
    let i : Instr := .coll h sc src dst m e
    let q := s.quadAt c .e e c.low
    let set : BitVec 8 := q.extractLsb' 112 8
    Issues s i false (some 1) c → Roomy s i c → s.part c.w.part = some p → s.oneFor c .e e 4 → s.quadTag c .e e c.low = true →
    q.getLsbD 111 = true → capCheck true q true (capBase q) (capLen q) 0 none true = none → p.fxTight = false → s.cardAt c m off →
    c.w.cntColl < 63 →
    Enters s i c (OpRow.op s c i { cls := some .coll, scope := sc, caps := [q], off := off, k := (p.colls.find set).getD 0 }) (fun t =>
      (∀ k, k ≠ c.w.part → t.part k = s.part k) ∧ t.part c.w.part = some { p with colls := p.colls.set set ((p.colls.find set).getD 0 + 1) })) ∧
  (∀ (s : State) (c : Ctx) (h : Hdr) (a b : Spec),
    let i : Instr := .widx h a b
    let n := (s.word c .a a c.low).toNat
    let k := c.core.cluster
    let cl := s.cluster k
    Issues s i false (some 2) c → Roomy s i c → s.oneFor c .a a 1 → s.oneFor c .b b 2 → n < (s.indexWindow c).1 →
    (∀ o ∈ s.ops, o.w = c.k → o.matrix = true → o.phase ≠ .queued) →
    Effects s i c (fun s t => t = { s with warps := t.warps, clusters := t.clusters, parts := t.parts } ∧
      (∀ p, (t.part p).map Part.still = (s.part p).map Part.still) ∧ (∀ j, j ≠ k → t.cluster j = s.cluster j) ∧
      t.cluster k = { cl with widx := cl.widx.set ((s.indexWindow c).2 + n) (s.pairAt c .b b c.low) }))

/-- 09 R195-R199, 08 R176, R177, 09 R211, 06 R146-R149. -/
def Obligations.EngineWork : Prop :=
  (∀ (s : State) (id : Nat) (eng : Bool) (o : EngOp) (w : Warp) (h : Hdr) (sc : Scope) (src : SrcWin) (dst : DstWin) (m : EngArg) (a b : Nat) (sp : Space),
    let bs := s.windowBytes w .scr o.off 64
    let c := Card.of bs (s.windowRead w .scr o.off 16).tag (s.windowRead w .scr (o.off + 16) 16).tag
    let len := c.cols * elemBytes (capFmt c.scap)
    let row := s.windowBytes w (srcWindow src) a len
    s.op id = some o → s.plainOps → o.instr = .cpy h sc src dst m → o.phase = .queued → s.nextCopy o.core.cluster false eng = some o →
    s.warp o.w = some w → w.key = o.w → s.unwatched → s.memOk = true →
    s.windowIn w .scr o.off 64 = true → (s.windowRead w .scr o.off 64).poison = false → c.clear = true → c.mode < 4 →
    c.stg = [0, 0, 0, 0, 0, 0] → c.ben = false → c.rows = 1 → c.cols ≠ 0 → capGlobal c.scap = false → capGlobal c.dcap = false →
    capFmt c.scap = capFmt c.dcap → capFmt c.scap < 10 → dstSpace c.dcap dst = some sp →
    capBad c.stag c.scap (permR ||| permAsync) = false → capBad c.dtag c.dcap (permW ||| permAsync) = false →
    rowAt c.scap c.stag c.soff (pitchOf c.scap len) 0 len (permR ||| permAsync) = .ok a →
    rowAt c.dcap c.dtag c.doff (pitchOf c.dcap len) 0 len (permW ||| permAsync) = .ok b →
    s.windowIn w (srcWindow src) a len = true → (s.windowRead w (srcWindow src) a len).poison = false →
    s.windowIn w sp b len = true → s.holds (s.window w sp).1 → s.holds (s.window w .scr).1 →
    ∃ t u, exec (.engineOpStart id eng) s = .next t ∧ (∀ k, t.warp k = s.warp k) ∧ Worked t id o 0 none ∧
      Landed s u ((s.window w sp).1, (s.window w sp).2.1 + b, len) row ∧
      Landed u t ((s.window w .scr).1, (s.window w .scr).2.1 + o.off + 52, 12) (leBytes 12 (2 ^ 31))) ∧
  (∀ (s : State) (k : BitVec 5) (o : EngOp) (w : Warp) (x : Task) (h : Hdr) (sc : Scope) (fmt : AccFmt) (bar : Option Spec) (slot : BitVec 6),
    s.nextGrant k.toNat = some o → s.warp o.w = some w → o.instr = .mzero h sc fmt bar slot → s.plainOps → o ∈ s.ops →
    s.task o.w.task = some x → s.unwatched → s.memOk = true →
    let n := if fmt = .f32 then 4 else 2
    ∃ t, exec (.matrixGrant k) s = .next t ∧ (∀ j, t.warp j = s.warp j) ∧ t.op o.id = some { o with phase := .worked 0 none } ∧
      (t.cluster k.toNat).lastGrant = some (o.core.core, o.slot) ∧
      ∀ ar y, (t.area ar).mem.byte y = if ar = .tile o.w.task ∧ lanes.any (fun l => o.lns.has l && (List.range 4).any (fun r =>
          decide (slot.toNat * (65536 * n) + (4 * l.val + r) * 512 * n ≤ y) &&
          decide (y < slot.toNat * (65536 * n) + (4 * l.val + r) * 512 * n + 512 * n))) = true
        then 0 else (s.area ar).mem.byte y) ∧
  (∀ (s : State) (part k : Nat) (set pos : BitVec 8) (cols : BitVec 16) (data : List Word), s.plainOps → s.unwatched →
    exec (.collectiveContribution part set k pos cols data) s = .next { s with
      contribs := s.contribs ++ [{ part := part, set := set, k := k, pos := pos.toNat, cols := cols, data := data }] }) ∧
  (∀ (s : State) (id : Nat) (o : EngOp) (w : Warp) (g : DWord) (p : Part), s.op id = some o → s.warp o.w = some w → w.key = o.w →
    o.phase = .worked g none → s.opReleased o g = true → s.oldest o = true → s.part o.part = some p → p.trace = none → s.plainOps →
    s.unwatched → s.memOk = true →
    let gone := fun (t : State) => (∀ k, k ≠ o.w → t.warp k = s.warp k) ∧ t.ops = s.ops.filter (·.id != id) ∧
      t.warp o.w = some (match o.cls with | some cls => w.setCnt cls (w.cnt cls - 1) | none => w)
    (o.bar = none → ∃ t, exec (.engineOpComplete id) s = .next t ∧ gone t ∧ t = { s with warps := t.warps, ops := t.ops }) ∧
    ∀ scr off n, o.bar = some (scr, off) → o.bytes = some n → s.windowIn w (spSpace scr) off 16 = true →
      (s.windowRead w (spSpace scr) off 16).poison = false → s.holds (s.window w (spSpace scr)).1 →
      let b := leNat (s.windowBytes w (spSpace scr) off 16)
      n ≤ b % 2 ^ 32 →
      let byt := b % 2 ^ 32 - n
      let new := if byt = 0 ∧ b / 2 ^ 32 % 2 ^ 16 = 0
        then b / 2 ^ 64 % 2 ^ 32 + b / 2 ^ 96 % 2 ^ 16 * 2 ^ 32 + (1 - b / 2 ^ 48 % 2) * 2 ^ 48 + b / 2 ^ 49 * 2 ^ 49
        else byt + b / 2 ^ 32 % 2 ^ 16 * 2 ^ 32 + b / 2 ^ 48 % 2 * 2 ^ 48 + b / 2 ^ 49 * 2 ^ 49
      ∃ t, exec (.engineOpComplete id) s = .next t ∧ gone t ∧
        Landed s t ((s.window w (spSpace scr)).1, (s.window w (spSpace scr)).2.1 + off, 16) (leBytes 16 new))

/-- 10 R235, R236, 26 R455, 23 R437, of a module without trace buffers. The steps of the controller (eight shares, eight idle
cycles) are the model's choice, log entry 24; that a peer's homes are gated with their device, log entry 86. -/
def Obligations.PowerControl : Prop :=
  (∀ (s : State) (watts : Nat) (meters : List Meter), s.untraced → s.numbered →
    let hi := capNow s.pwrcap < watts
    let last := (watts :: s.watts).take (winNow s.pwrcap)
    let above := capNow s.pwrcap * last.length < last.sum
    let limit := s.grants = 1 ∧ s.idle = 8
    ∃ t, Makes s (.powerMeasurement watts meters) t ∧
      t = { s with watts := (watts :: s.watts).take 2000, parts := t.parts, grants := t.grants, idle := t.idle, emergency := t.emergency } ∧
      (∀ n p, s.part n = some p → ∃ c, t.part n = some { p with charge := c } ∧ p.charge ≤ c) ∧ (∀ n, s.part n = none → t.part n = none) ∧
      (s.noExcess meters → ∀ n p, s.part n = some p → t.part n = some { p with charge := p.charge + drawnBy meters n }) ∧
      (∀ m p q, meters = [m] → s.part m.part = some p → p.voteFor m.cluster = .vlo → (s.cluster m.cluster.toNat).rail = .vhi →
        s.parts.vals.filter (fun x => x.clusters.getLsbD m.cluster.toNat && x.voteFor m.cluster == .vhi) = [q] → q.id ≠ m.part →
        s.part q.id = some q →
        t.part m.part = some { p with charge := p.charge + min m.own m.drawn } ∧
        t.part q.id = some { q with charge := q.charge + (m.drawn - m.own) }) ∧
      match s.emergency with
      | .none =>
        (hi ∧ limit → t.grants = s.grants ∧ t.idle = s.idle ∧ t.emergency = .moved s.gtime) ∧
        ((hi ∨ above) ∧ ¬ (hi ∧ limit) → t.emergency = .none ∧ t.grants = max 1 (s.grants - 1) ∧ t.idle = (if s.grants = 1 then min 8 (s.idle + 1) else s.idle)) ∧
        (¬ hi ∧ ¬ above → t.emergency = .none ∧ t.idle = s.idle - 1 ∧ t.grants = (if s.idle = 0 then min 8 (s.grants + 1) else s.grants))
      | .moved g => t.grants = s.grants ∧ t.idle = s.idle ∧
        t.emergency = (if ¬ hi then .none else if g.toNat + 2000 ≤ s.gtime.toNat then .stopped else .moved g)
      | .stopped => t.grants = s.grants ∧ t.idle = s.idle ∧ t.emergency = (if watts < capNow s.pwrcap then .none else .stopped)) ∧
  (∀ (s : State) (link : Bool) (v : Word), Makes s (.pwrcapWrite ⟨.pf link, v⟩) { s with
    pwrcap := 0#5 ++ v.extractLsb' 16 11 ++ 0#5 ++ v.extractLsb' 0 11 } ∧ ∀ n, Makes s (.pwrcapWrite ⟨.vf link n, v⟩) s) ∧
  (Guarded (fun part => .railVote part 0 .vhi) ∧
  ∀ (s : State) (part : Nat) (k : BitVec 5) (r : Rail) (p : Part), s.boot = .run → s.part part = some p →
    (p.clusters.getLsbD k.toNat = false → Answered s (.railVote part k r) 2) ∧
    (p.clusters.getLsbD k.toNat = true → ∃ t q, Makes s (.railVote part k r) t ∧ q = { p with votes := q.votes } ∧
      OnePart { s with fwResp := response 0 [], fwBusy := false } t part q ∧ q.votes.find k = some r ∧ ∀ j, j ≠ k → q.votes.find j = p.votes.find j)) ∧
  (∀ (s : State) (k : BitVec 5), s.untraced → s.numbered →
    ∃ t r, Makes s (.railChange k) t ∧ OneCluster s t k.toNat (let x := s.cluster k.toNat
        if x.rail = r then x else { x with rail := r, cycles := s.cyclesOf k.toNat, railSince := s.wall }) ∧
      (r = .vhi ↔ s.emergency = .none ∧ ∃ np ∈ s.parts, np.2.votesFor k ∧ np.2.votes.find k = some .vhi)) ∧
  (∀ (s : State) (n : Nat) (gate : Bool), Makes s (.powerGate (.peer n) gate) { s with
    gatedPeers := if gate then n :: s.gatedPeers.filter (· != n) else s.gatedPeers.filter (· != n) }) ∧
  (∀ (s : State) (k : BitVec 5) (gate : Bool),
    let idle := (∀ x ∈ s.tasks, x.2.cluster = k.toNat → x.2.resident = false) ∧
      ∀ x ∈ s.warps, ∀ pl, x.2.place = some pl → pl.core.cluster ≠ k.toNat
    (gate = true ∧ ¬ idle → Makes s (.powerGate (.cluster k) gate) s) ∧
    (gate = false ∨ idle → ∃ t, Makes s (.powerGate (.cluster k) gate) t ∧ OneCluster s t k.toNat { s.cluster k.toNat with gated := gate })) ∧
  (∀ (s : State) (port : Nat) (down : Bool), port < 18 → ∃ t, Makes s (.fabricPortDown port down) t ∧ t = { s with portsDown := t.portsDown } ∧
    t.portsDown.getLsbD port = down ∧ ∀ j, j ≠ port → t.portsDown.getLsbD j = s.portsDown.getLsbD j)

/-- 26 R456-R460, 10 R237, 23 R442-R444. Which corrections are accepted, by the order of the sources, is the model's reading, log entry 83;
what a cluster's retirement ends, log entry 82; whose count an error is, log entry 13. -/
def Obligations.HeatRetirementTime : Prop :=
  (∀ (s : State) (die : Bool), let hot := if die then s.hot1 else s.hot0
    (∀ g, hot = some g → Makes s (.thermalLimit die) s) ∧
    (hot = none → Makes s (.thermalLimit die) (if die then { s with hot1 := some s.gtime } else { s with hot0 := some s.gtime })) ∧
    (let due := ∃ g, hot = some g ∧ g.toNat + 100000000 ≤ s.gtime.toNat
     (due → Makes s (.belowJunctionLimit die) s) ∧
     (¬ due → Makes s (.belowJunctionLimit die) (if die then { s with hot1 := none } else { s with hot0 := none }) ∧
       Makes s (.thermalStop die) s) ∧
     (due → ∃ t, Makes s (.thermalStop die) t ∧ t.boot = .rom ∧ Emptied t ∧ t.gtime = s.gtime ∧ t.pwrcap = 0x03E80708 ∧
       t.clPres = s.clPres ∧ t.chPres = s.chPres &&& ~~~s.chRetired ∧ (if die then t.hot1 else t.hot0) = none))) ∧
  (∀ (s : State) (k : BitVec 5), s.clPres.getLsbD k.toNat = false ∨ ¬ s.wornOut k.toNat → Makes s (.clusterRetirement k) s) ∧
  (∀ (s : State) (k : BitVec 5), s.clPres.getLsbD k.toNat = true → s.wornOut k.toNat →
    (∀ x ∈ s.tasks, x.2.cluster = k.toNat → x.2.phase = .waiting ∨ x.2.phase = .ready ∨ x.2.phase = .queued) →
    ∃ t, Makes s (.clusterRetirement k) t ∧ t = { s with clPres := t.clPres, reports := s.reports ++ [.cluster k.toNat], parts := t.parts } ∧
      (∀ j, t.clPres.getLsbD j = (s.clPres.getLsbD j && decide (j ≠ k.toNat))) ∧
      ∀ n, t.part n = (s.part n).map (fun p => { p with
        clpres := p.clpres &&& ~~~(BitVec.twoPow 32 k.toNat), clusters := p.clusters &&& ~~~(BitVec.twoPow 32 k.toNat) })) ∧
  (∀ (s : State) (k : BitVec 5) (n : Nat) (x : Task), s.clPres.getLsbD k.toNat = true → s.wornOut k.toNat → s.keyed → s.tasks = [(n, x)] → x.id = n →
    x.cluster = k.toNat → x.phase = .running → x.trec.harv = false → (∀ kw ∈ s.warps, kw.2.defers = []) →
    (∃ kw ∈ s.warps, kw.1.task = n ∧ kw.2.ended = false) → (∀ kw ∈ s.warps, kw.2.place ≠ none) →
    let e : CrewErr := { ecode := 0x4C, edet := 1, etask := x.trec.taskid, eaddr := k.setWidth 64 }
    ∃ t, Makes s (.clusterRetirement k) t ∧ t.task n = some { x with err := some (x.err.getD e) } ∧
      (∀ j, s.job x.job = some j → t.job x.job = some { j with status := 4, err := some (j.err.getD e) }) ∧
      ∀ q w, s.warp q = some w → t.warp q = some (if q.task = n ∨ (∃ v ∈ s.harvestOf x, v.key = q) then { w with exited := Mask.all, paths := [], defers := [], imp := none, ended := true } else w)) ∧
  (∀ (s : State) (ch : BitVec 8), (s.chRetired.getLsbD ch.toNat = true ∨ ¬ s.channelOut ch.toNat → Makes s (.channelRetirement ch) s) ∧
    (s.chRetired.getLsbD ch.toNat = false → s.channelOut ch.toNat → Makes s (.channelRetirement ch) { s with
      chRetired := s.chRetired ||| BitVec.twoPow 256 ch.toNat, reports := s.reports ++ [.channel ch.toNat] })) ∧
  (∀ (s : State) (offset : Int) (hs : List Nat), Makes s (.timeCorrection .fabric offset ⟨hs, false⟩) { s with hPeers := hs }) ∧
  (∀ (s : State) (src : TimeSrc) (offset : Int) (peers : TimeExchange), src ≠ .fabric ∨ peers.disciplined = true →
    ∃ t, Makes s (.timeCorrection src offset peers) t ∧
    t = { s with hPeers := peers.hs, lastPtp := t.lastPtp, lastFabric := t.lastFabric, lastPtm := t.lastPtm
                 timeSrc := t.timeSrc, tLast := t.tLast, slew := t.slew, offset := t.offset, regaining := t.regaining } ∧
    (∀ x, t.lastOf x = if x = src then some s.gtime else s.lastOf x) ∧
    if s.timeSrc = none ∨ s.timeSrc = some src ∨ (s.timeSrc = some .ptm ∧ src ≠ .ptm) ∨ (s.timeSrc = some .fabric ∧ src = .ptp)
    then t.timeSrc = some src ∧ t.tLast = s.gtime ∧ t.slew = offset ∧ t.offset = offset.natAbs ∧
      (t.regaining = true ↔ (s.regaining = true ∨ s.timeSrc = none) ∧ 50 ≤ offset.natAbs)
    else t.timeSrc = s.timeSrc ∧ t.tLast = s.tLast ∧ t.slew = s.slew ∧ t.offset = s.offset ∧ t.regaining = s.regaining) ∧
  (∀ (s : State) (src : TimeSrc), let lost := ∃ g, s.lastOf src = some g ∧ g.toNat + 4000000000 ≤ s.gtime.toNat
    (¬ lost → Makes s (.timeSourceLost src) s) ∧
    (lost → ∃ t, Makes s (.timeSourceLost src) t ∧ (∀ x, t.lastOf x = if x = src then none else s.lastOf x) ∧
      t = { s with lastPtp := t.lastPtp, lastFabric := t.lastFabric, lastPtm := t.lastPtm, timeSrc := t.timeSrc } ∧
      (s.timeSrc ≠ some src → t.timeSrc = s.timeSrc) ∧
      (s.timeSrc = some src → match t.timeSrc with
        | some x => t.lastOf x ≠ none ∧ ∀ y, srcRank y < srcRank x → t.lastOf y = none
        | none => ∀ y, t.lastOf y = none)))

/-- 10 R226-R229, R233. What a reset keeps beside what the rules name is the model's choice, log entry 5, and which units stay, entry 13; where
the key lies and how a signature is laid out, entry 117; LOADSEG beyond the staging area and the statuses of a bad VERIFY, entry 80; SHA-384
is that of FIPS 180-4, entry 22; what the report holds, entry 23; the secret scalar of a signature is drawn, entry 87. -/
def Obligations.StartUp : Prop :=
  (∀ s : State, (s.boot ≠ .off → Makes s .powerUp s) ∧
    (s.boot = .off → ∃ t, Makes s .powerUp t ∧ t.boot = .rom ∧ Lasting s t ∧ Emptied t ∧ t.hbm = .empty ∧
      t.cleanPool = List.range (capacity t.chPres)) ∧
    ∃ t, Makes s .powerRemoved t ∧ t.boot = .off ∧ Lasting s t ∧ Emptied t ∧ t.hbm = .empty) ∧
  (∀ s : State, (s.boot = .off → Makes s .reset s) ∧
    (s.boot ≠ .off → ∃ t, Makes s .reset t ∧ t.boot = .rom ∧ Lasting s t ∧ Emptied t ∧ t.gtime = s.gtime ∧ t.pwrcap = 0x03E80708 ∧
      t.hbm = s.hbm ∧ t.cleanPool = s.cleanPool.filter (fun u => decide (u < capacity t.chPres)) ∧
      ∀ u, u ∈ t.scrubQ ↔ u < capacity t.chPres ∧ (u ∈ s.scrubQ ∨ (u < 384 ∧ ∃ np ∈ s.parts, ∃ x ∈ np.2.units, x.2 = u)))) ∧
  (Turned .ident (fun _ => true) ∧ Turned (.settime 0) (· == .rom) ∧ Turned (.loadseg 0 0 0) (fun b => b == .rom || b == .verified) ∧
    Turned (.verify 0) (· == .rom) ∧ Turned .start (· == .verified) ∧ Turned (.attest 0) (fun _ => true)) ∧
  (∀ s : State, s.boot ≠ .off → ∃ t, Makes s .ident t ∧ t = { s with mbResp := t.mbResp } ∧ t.mbResp.length = 256 ∧
    t.mbResp.take 4 = leBytes 4 0 ∧ (t.mbResp.drop 8).take 40 = leBytes 4 (~~~s.clPres).toNat ++ leBytes 32 (~~~s.chPres).toNat ++ leBytes 4 0x0300) ∧
  (∀ (s : State) (v : DWord), s.boot = .rom →
    (v.toNat < s.gtime.toNat → Makes s (.settime v) { s with mbResp := response 2 [] }) ∧
    (s.gtime.toNat ≤ v.toNat → Makes s (.settime v) { s with mbResp := response 0 [], gtime := v })) ∧
  (∀ (s : State) (host : DWord) (off len : Nat), s.boot = .rom ∨ s.boot = .verified →
    (2 ^ 26 < off + len → Makes s (.loadseg host off len) { s with boot := .rom, mbResp := response 2 [] }) ∧
    (off + len ≤ 2 ^ 26 → s.memOk = true → ∃ t, Makes s (.loadseg host off len) t ∧
      t = { s with boot := .rom, mbResp := response 0 [], staging := t.staging } ∧
      ∀ a, t.staging.byte a = if off ≤ a ∧ a < off + len then s.hostMem.byte (host.toNat + (a - off)) else s.staging.byte a)) ∧
  (∀ (s : State) (len : Nat), s.boot = .rom →
    let img := s.staging.bytes 0 len
    let signed := img.take 160 ++ List.replicate 96 0 ++ img.drop 256
    let good := leNat (img.take 4) = 0x4B465731 ∧ leNat ((img.drop 4).take 4) = len ∧ s.secFused.toNat ≤ leNat ((img.drop 8).take 4) ∧
      signatureValid Config.romKeyDigest (Config.imageKey img) signed ((img.drop 160).take 96) = true
    (len < 256 ∨ 2 ^ 26 < len → Makes s (.verify len) { s with mbResp := response 2 [] }) ∧
    (256 ≤ len ∧ len ≤ 2 ^ 26 ∧ ¬ good → Makes s (.verify len) { s with mbResp := response 3 [] }) ∧
    (256 ≤ len ∧ len ≤ 2 ^ 26 ∧ good → Makes s (.verify len) { s with
      mbResp := response 0 [], boot := .verified, secVer := BitVec.ofNat 32 (leNat ((img.drop 8).take 4))
      measurement := BitVec.ofNat 384 (leNat (sha384 signed)) })) ∧
  (∀ s : State, s.boot = .verified → Makes s .start { s with mbResp := response 0 [], boot := .run }) ∧
  (∀ (s : State) (nonce : BitVec 384), s.boot ≠ .off → ∃ t, Makes s (.attest nonce) t ∧ t = { s with mbResp := t.mbResp, report := t.report, draws := s.draws + 1 } ∧
    t.report.length = 256 ∧ t.report.drop 160 = identitySign s.draws (t.report.take 160) ∧ t.report.take 100 = leBytes 48 nonce.toNat ++ leBytes 48 s.measurement.toNat ++ leBytes 4 s.secVer.toNat)

/-- 10 R230, R232, R233, 06 R131. That the colours of a die are summed over the chip's partitions, and the other causes of failure, are the
model's reading, log entry 81; that a command which waits keeps the mailbox busy, log entry 92. -/
def Obligations.PartitionLife : Prop :=
  (∀ (s : State) (a : PartArg), s.boot = .run → (∀ x ∈ s.tasks, x.2.part < s.fresh) →
    let own := (a.units.filter (· < 384)).length
    (s.createFails a = true → Answered s (.partitionCreate a) 2) ∧
    ((∃ np ∈ s.parts, (a.sliced = false ∨ np.2.arg.sliced = false) ∧ a.clusters &&& np.2.clusters ≠ 0) → s.createFails a = true) ∧
    ((a.clusters &&& ~~~s.clPres ≠ 0 ∨ a.channels &&& ~~~s.chPres ≠ 0) → s.createFails a = true) ∧
    (16 < chipColoursOf s a PartArg.chcol0 ∨ 16 < chipColoursOf s a PartArg.chcol1 → s.createFails a = true) ∧
    (s.createFails a = false → s.cleanPool.length < own → Waits s (.partitionCreate a)) ∧
    (s.createFails a = false → own ≤ s.cleanPool.length → ∃ t p, Makes s (.partitionCreate a) t ∧ t.part s.fresh = some p ∧
      t = { s with fresh := s.fresh + 1, cleanPool := s.cleanPool.drop own, parts := t.parts, fes := t.fes, warps := t.warps, tasks := t.tasks
                   jobs := t.jobs, past := t.past, ops := t.ops, contribs := t.contribs, clusters := t.clusters, cores := t.cores, l2 := t.l2
                   fwResp := response 0 (leBytes 4 s.fresh), fwBusy := false } ∧
      (a.sliced = false → t = { s with fresh := t.fresh, cleanPool := t.cleanPool, parts := t.parts, fes := t.fes, fwResp := t.fwResp, fwBusy := false }) ∧
      (∀ n, n ≠ s.fresh → t.part n = s.part n) ∧
      p.id = s.fresh ∧ p.arg = a ∧ p.clusters = a.clusters ∧ p.chgrant = a.channels ∧ p.lloc = (match a.lloc with | some x => x.setWidth 32 | none => 256) ∧
      p.lrem = (match a.lrem with | some x => x.setWidth 32 | none => 2048) ∧ p.flease = (match a.flease with | some x => x.setWidth 32 | none => 1024) ∧
      p.fskew = (match a.fskew with | some x => x.setWidth 32 | none => 200) ∧ p.windows = [] ∧ p.events = [] ∧ p.admNext = 1 ∧
      p.trace = none ∧ p.debug = false ∧ p.failed = false ∧ p.image.isSome = a.sliced ∧
      p.units = (List.range a.units.length).zip (fillUnits a.units s.cleanPool) ∧
      (∀ c, p.ctxs.find c = if a.fes.any (fun f => f.ctx == c) then some ⟨0, 0, 0, 0, 0⟩ else none) ∧
      (∀ f ∈ a.fes, t.fe f.fe.toNat = { FrontEnd.fresh with part := some s.fresh, clbase := f.clbase, cllimit := f.cllimit, ctx := f.ctx }) ∧
      ∀ n, (∀ f ∈ a.fes, f.fe.toNat ≠ n) → t.fe n = s.fe n)) ∧
  (Guarded .partitionDestroy ∧ Guarded (fun n => .memoryRelease n [])) ∧
  (∀ (s : State) (part : Nat) (p : Part), s.boot = .run → s.part part = some p → p.id = part →
    let own := p.units.vals.filter (· < 384)
    ∃ t, Makes s (.partitionDestroy part) t ∧ t.fwResp = response 0 [] ∧ t.fwBusy = false ∧ t.part part = none ∧
      (∀ n, n ≠ part → t.part n = (s.part n).map (·.without own)) ∧
      t.scrubQ = s.scrubQ ++ own ∧ t.hbm = s.hbm ∧ t.hostMem = s.hostMem ∧
      t.warps = s.warps.filter (fun x => x.2.part != part) ∧ t.tasks = s.tasks.filter (fun x => x.2.part != part) ∧
      t.jobs = s.jobs.filter (fun x => x.2.part != part) ∧ t.ops = s.ops.filter (fun o => o.part != part) ∧
      (∀ n, t.fe n = if (s.fe n).part = some part then FrontEnd.fresh else s.fe n) ∧
      (∀ l, l ∈ t.l2 ↔ l ∈ s.l2 ∧ l.line / 2 ^ 23 ∉ own) ∧ (∀ c, c ∈ t.copies ↔ c ∈ s.copies ∧ c.line / 2 ^ 23 ∉ own) ∧
      (∀ l, l ∈ t.l1 ↔ l ∈ s.l1 ∧ l.line / 2 ^ 23 ∉ own)) ∧
  (∀ (s : State) (part : Nat) (units : List Nat) (p : Part), s.boot = .run → s.part part = some p →
    let good := (∀ u ∈ units, ∃ x ∈ p.units, x.2 = u) ∧ units.eraseDups.length = units.length
    (¬ good → Answered s (.memoryRelease part units) 2) ∧
    (good → s.reaching part units = true → Waits s (.memoryRelease part units)) ∧
    (good → s.reaching part units = false → ∃ t, Makes s (.memoryRelease part units) t ∧
      (∀ n, n ≠ part → t.part n = (s.part n).map (·.without (units.filter (· < 384)))) ∧
      t.part part = some ({ p with units := p.units.filter (fun x => !units.contains x.2) }.without (units.filter (· < 384))) ∧
      t = { s with parts := t.parts, scrubQ := s.scrubQ ++ units.filter (· < 384), fwResp := response 0 [], fwBusy := false
                   copies := s.copies.filter (fun c => !(units.filter (· < 384)).contains (c.line / 2 ^ 23))
                   l2 := s.l2.filter (fun l => !(units.filter (· < 384)).contains (l.line / 2 ^ 23))
                   l1 := s.l1.filter (fun l => !(units.filter (· < 384)).contains (l.line / 2 ^ 23)) })) ∧
  (∀ (s : State) (unit : Nat), ((∀ rest, s.scrubQ ≠ unit :: rest) → Makes s (.scrubUnit unit) s) ∧
    ∀ rest, (s.scrubQ = unit :: rest → s.memOk = true → ∃ t, Makes s (.scrubUnit unit) t ∧
      t = { s with hbm := t.hbm, lines := t.lines, scrubbed := t.scrubbed, upsets := t.upsets, scrubQ := rest
                   cleanPool := s.cleanPool ++ [unit] } ∧
      (∀ a, t.hbm.mem.byte a = if a / 2 ^ 30 = unit then 0 else s.hbm.mem.byte a) ∧
      ∀ g, t.hbm.tags.contains g = (s.hbm.tags.contains g && decide (g / 2 ^ 26 ≠ unit))))

/-- 10 R218-R220, R231, R238, 04 R80, R97, 22 R429, 21 R417, 06 R131, 08 R180, 05 R123. The step by which these registers are written and that a
granted window reads zero are the model's choice, log entry 54; the link of a virtual function, entry 89; the rows of a cluster, entry 113;
what of an undo log a grant drops, entry 120; the busy bit, entry 92. -/
def Obligations.Configuration : Prop :=
  (Guarded (fun n => .ctxset n 0 0 0 0) ∧ Guarded (fun n => .ctxdel n 0) ∧ Guarded (fun n => .traceBufferSet n 0 0 0) ∧
    Guarded (fun n => .debugModeSet n false)) ∧
  (∀ (s : State) (part ctx pinq : Nat) (root hentry : DWord) (p : Part), s.boot = .run → s.part part = some p →
    let good := ctx < 64 ∧ root.toNat % 8192 = 0 ∧ pinq ≤ 2 ^ 20 ∧ hentry.toNat % 64 = 0 ∧ hentry.toNat < 2 ^ 57
    (¬ good → Answered s (.ctxset part ctx root pinq hentry) 2) ∧
    (good → s.translating part (BitVec.ofNat 6 ctx) none = true → Waits s (.ctxset part ctx root pinq hentry)) ∧
    (good → s.translating part (BitVec.ofNat 6 ctx) none = false → s.watchless part (BitVec.ofNat 6 ctx) → ∃ t q, Makes s (.ctxset part ctx root pinq hentry) t ∧
      OnePart { s with fwResp := response 0 [], fwBusy := false } t part q ∧ q = { p with ctxs := q.ctxs, tlb := p.tlb.filter (fun e => e.ctx != BitVec.ofNat 6 ctx) } ∧
      (∃ x, q.ctxs.find (BitVec.ofNat 6 ctx) = some x ∧ x.root = root ∧ x.pinq = pinq ∧ x.hentry = hentry ∧
        ((∀ y, p.ctxs.find (BitVec.ofNat 6 ctx) = some y → x = { y with root := root, pinq := pinq, hentry := hentry }))) ∧
      ∀ c, c ≠ BitVec.ofNat 6 ctx → q.ctxs.find c = p.ctxs.find c)) ∧
  (∀ (s : State) (part ctx : Nat) (p : Part), s.boot = .run → s.part part = some p →
    let c := BitVec.ofNat 6 ctx
    let good := ctx < 64 ∧ p.ctxs.find c ≠ none ∧ ∀ n, n < 16 → (s.fe n).part = some part → (s.fe n).ctx ≠ c
    (¬ good → Answered s (.ctxdel part ctx) 2) ∧
    (good → s.translating part c none = true → Waits s (.ctxdel part ctx)) ∧
    (good → s.translating part c none = false → s.watchless part c → ∃ t q, Makes s (.ctxdel part ctx) t ∧
      OnePart { s with fwResp := response 0 [], fwBusy := false, l2 := t.l2 } t part q ∧ q = { p with ctxs := q.ctxs, tlb := p.tlb.filter (fun e => e.ctx != c) } ∧
      q.ctxs.find c = none ∧ (∀ d, d ≠ c → q.ctxs.find d = p.ctxs.find d) ∧
      t.l2 = s.l2.map (fun l => if l.part = part then { l with pins := l.pins.filter (· != c) } else l))) ∧
  (∀ (s : State) (fe : BitVec 4) (lo hi : BitVec 5), (s.boot = .off → Makes s (.frontEndRangeSet fe lo hi) s) ∧
    (s.boot ≠ .off → s.boot ≠ .run → Answered s (.frontEndRangeSet fe lo hi) 1) ∧
    (s.boot = .run → (s.fe fe.toNat).part = none ∨ hi.toNat < lo.toNat → Answered s (.frontEndRangeSet fe lo hi) 2) ∧
    (s.boot = .run → (s.fe fe.toNat).part ≠ none → lo.toNat ≤ hi.toNat → ∃ t, Makes s (.frontEndRangeSet fe lo hi) t ∧
      OneFront { s with fwResp := response 0 [], fwBusy := false } t fe { s.fe fe.toNat with clbase := lo, cllimit := hi })) ∧
  (∀ (s : State) (part size : Nat) (base : DWord) (mask : BitVec 16) (on : Bool) (p : Part), s.boot = .run → s.part part = some p →
    (∃ t, Makes s (.traceBufferSet part base size mask) t ∧
      OnePart { s with fwResp := response 0 [], fwBusy := false } t part { p with trace := some { base := base.toNat, size := size, mask := mask, pos := 0 } }) ∧
    ∃ t, Makes s (.debugModeSet part on) t ∧ OnePart { s with fwResp := response 0 [], fwBusy := false } t part { p with debug := on }) ∧
  (∀ (s : State) (k : WarpKey) (xpc : Option DWord) (xstat : Option Word) (ks : List (BitVec 3 × Word)) (w : Warp) (p : Path) (f : Frame),
    s.warp k = some w → w.key = k → w.paths.find? (fun q => q.wait == .debug) = some p → p.frame = some f → s.named → s.keyed →
    (∀ kw ∈ s.warps, kw.2.defers = []) → (xpc.getD f.xpc).toNat % 4 = 0 → (xpc.getD f.xpc).toNat < 2 ^ 57 →
    ∃ t v, Makes s (.debugRelease k xpc xstat ks) t ∧ t = { s with warps := t.warps, fresh := t.fresh } ∧ (∀ j, j ≠ k → t.warp j = s.warp j) ∧
      t.warp k = some v ∧ v = { w with paths := v.paths } ∧ v.path p.pid = none ∧
      (∀ n q, n ≠ p.pid → w.path n = some q → v.path n = some q) ∧
      (f.xmask &&& ~~~w.exited ≠ 0 → ∃ q ∈ v.paths, q.lns = f.xmask &&& ~~~w.exited ∧ q.pc = (xpc.getD f.xpc).setWidth 57 ∧ q.frame = none ∧
        q.wait = .none ∧ q.run = [])) ∧
  (∀ (s : State) (k : WarpKey) (xpc : Option DWord) (xstat : Option Word) (ks : List (BitVec 3 × Word)),
    (∀ w, s.warp k = some w → ∀ q ∈ w.paths, q.wait ≠ .debug) → Makes s (.debugRelease k xpc xstat ks) s) ∧
  (∀ (s : State) (part : Nat) (v : DWord) (p : Part), s.part part = some p → let w := fun n => (v.setWidth n).setWidth 32
    (∃ t, Makes s (.registerWrite (.lloc part) v) t ∧ OnePart s t part { p with lloc := w 13 }) ∧
    (∃ t, Makes s (.registerWrite (.lrem part) v) t ∧ OnePart s t part { p with lrem := w 16 }) ∧
    (∃ t, Makes s (.registerWrite (.flease part) v) t ∧ OnePart s t part { p with flease := w 20 }) ∧
    ∃ t, Makes s (.registerWrite (.fskew part) v) t ∧ OnePart s t part { p with fskew := w 20 }) ∧
  (∀ (s : State) (part : Nat) (k : BitVec 5) (v : DWord) (rows : Bool), s.part part = none →
    Makes s (.registerWrite (if rows then .wsrows part k else .wsidx part k) v) s) ∧
  (∀ (s : State) (part : Nat) (p : Part) (k : BitVec 5) (v : DWord), s.part part = some p → s.memOk = true →
    let x := s.cluster k.toNat
    let old := match p.windows.find k.toNat with | some w => w | none => ⟨0, 0⟩
    let field := (v.setWidth 30).setWidth 32
    let base := (v.extractLsb' 0 15).toNat
    let n := min (v.extractLsb' 15 15).toNat (24576 - base)
    let m := min (v.extractLsb' 15 15).toNat (16384 - base)
    (∃ t y q, Makes s (.registerWrite (.wsrows part k) v) t ∧ t = { s with clusters := t.clusters, parts := t.parts, upsets := t.upsets } ∧
      (∀ u ∈ t.upsets, u ∈ s.upsets) ∧ (∀ j, j ≠ k.toNat → t.cluster j = s.cluster j) ∧ t.cluster k.toNat = y ∧ y = { x with ws := y.ws } ∧
      (∀ j, j ≠ part → t.part j = s.part j) ∧ t.part part = some q ∧ q = { p with windows := q.windows, undo := q.undo } ∧
      q.windows.find k.toNat = some { old with rows := field } ∧ (∀ j, j ≠ k.toNat → q.windows.find j = p.windows.find j) ∧
      (∀ a, y.ws.mem.byte a = if base * 2048 ≤ a ∧ a < (base + n) * 2048 then 0 else x.ws.mem.byte a) ∧
      ∀ u, u ∈ q.undo ↔ u ∈ p.undo ∧ ¬ (u.area = .ws k.toNat ∧ base * 16 ≤ u.line ∧ u.line < (base + n) * 16)) ∧
    ∃ t y q, Makes s (.registerWrite (.wsidx part k) v) t ∧ t = { s with clusters := t.clusters, parts := t.parts } ∧
      (∀ j, j ≠ k.toNat → t.cluster j = s.cluster j) ∧ t.cluster k.toNat = y ∧ y = { x with widx := y.widx } ∧
      (∀ j, j ≠ part → t.part j = s.part j) ∧ t.part part = some q ∧ q = { p with windows := q.windows, undo := q.undo } ∧
      q.windows.find k.toNat = some { old with idx := field } ∧ (∀ j, j ≠ k.toNat → q.windows.find j = p.windows.find j) ∧
      (∀ e, y.widx.find e = if base ≤ e ∧ e < base + m then none else x.widx.find e) ∧
      ∀ u, u ∈ q.undo ↔ u ∈ p.undo ∧ ¬ (u.area = .idx k.toNat ∧ base ≤ u.line ∧ u.line < base + m)) ∧
  (∀ (s : State) (v : DWord) (n : BitVec 4), (∃ t, Makes s (.registerWrite (.vfLink n) v) t ∧ t = { s with vfLink := t.vfLink } ∧
      ∀ j, t.vfLink.getLsbD j = if j = n.toNat then v.getLsbD 0 else s.vfLink.getLsbD j) ∧
    Makes s (.registerWrite .crossHarvest v) { s with crossHarvest := v.getLsbD 0 }) ∧
  (∀ (s : State) (v : DWord) (fn : Fn) (fe : BitVec 4), s.owner fn fe →
    let at_ := fun off w64 => Instr.registerWrite (.bar0 fn (0x10000 + 0x1000 * fe.toNat + off) w64) v
    let f := s.fe fe.toNat
    (∃ t, Makes s (at_ 0x000 true) t ∧ OneFront s t fe { f with qbase := v.extractLsb' 6 58 ++ 0#6 }) ∧
    (∃ t, Makes s (at_ 0x018 true) t ∧ OneFront s t fe { f with cbase := v.extractLsb' 4 60 ++ 0#4 }) ∧
    (∃ t, Makes s (at_ 0x020 false) t ∧ OneFront s t fe { f with csize := v.setWidth 4 }) ∧
    (∃ t, Makes s (at_ 0x000 false) t ∧ OneFront s t fe { f with qbaseLow := v.setWidth 32 }) ∧
    (∃ t, Makes s (at_ 0x004 false) t ∧ OneFront s t fe { f with qbase := v.setWidth 32 ++ (f.qbaseLow.extractLsb' 6 26 ++ 0#6) }) ∧
    exec (at_ 0x008 false) s = exec (.qenWrite ⟨fn, fe⟩ (v.setWidth 32)) s ∧ exec (at_ 0x00C false) s = exec (.tailWrite ⟨fn, fe⟩ (v.setWidth 32)) s ∧
    exec (at_ 0x024 false) s = exec (.cheadWrite ⟨fn, fe⟩ (v.setWidth 32)) s) ∧
  (∀ (s : State) (v : DWord) (fn : Fn) (fe : BitVec 4) (off : Nat) (w64 : Bool), ¬ s.owner fn fe → off < 0x1000 →
    Makes s (.registerWrite (.bar0 fn (0x10000 + 0x1000 * fe.toNat + off) w64) v) s ∧ s.bar0Read fn (0x10000 + 0x1000 * fe.toNat + off) w64 = 0) ∧
  (∀ (s : State) (fn : Fn) (fe : BitVec 4) (part : Nat) (p : Part) (i : Nat), s.owner fn fe → (s.fe fe.toNat).part = some part →
    s.part part = some p → i < 32 → (p.arg.fes.map (·.fe)).Nodup → p.arg.units.length < 2 ^ 34 →
    s.bar0Read fn (0x10000 + 0x1000 * fe.toNat + 0x80 + 4 * i) false = (p.capRecord.extractLsb' (32 * i) 32).setWidth 64) ∧
  (∀ (s : State) (link : Bool), s.bar0Read (.pf link) 0x2204 false = if s.fwBusy then 1 else 0) ∧
  (∀ (s : State) (link : Bool) (v : DWord), exec (.registerWrite (.bar0 (.pf link) 0x1000 false) v) s = exec (.pwrcapWrite ⟨.pf link, v.setWidth 32⟩) s ∧
    (v.setWidth 32 = 0x10#32 → exec (.registerWrite (.bar0 (.pf link) 0x200 false) v) s = exec .ident s) ∧
    (v.setWidth 32 = 0x14#32 → exec (.registerWrite (.bar0 (.pf link) 0x200 false) v) s = exec .start s)) ∧
  (∀ (s : State) (v : DWord) (fn : Fn) (off : Nat), off % 4 = 0 → off < 0x100 →
    ((∀ link, fn ≠ .pf link) → Makes s (.registerWrite (.bar0 fn off false) v) s ∧ Makes s (.registerWrite (.bar0 fn (0x2000 + off) false) v) s) ∧
    (∀ link, fn = .pf link → (∃ t, Makes s (.registerWrite (.bar0 fn off false) v) t ∧ t = { s with mbReq := t.mbReq } ∧ t.mbReq.length = 256 ∧
        ∀ i, i < 256 → t.mbReq.getD i 0 = if off ≤ i ∧ i < off + 4 then (leBytes 4 v.toNat).getD (i - off) 0 else s.mbReq.getD i 0) ∧
      ∃ t, Makes s (.registerWrite (.bar0 fn (0x2000 + off) false) v) t ∧ t = { s with fwReq := t.fwReq } ∧ t.fwReq.length = 256 ∧
        ∀ i, i < 256 → t.fwReq.getD i 0 = if off ≤ i ∧ i < off + 4 then (leBytes 4 v.toNat).getD (i - off) 0 else s.fwReq.getD i 0))

/-- 10 R221-R225, 23 R441, 03 R73-R75, 05 R127. Status 3 for XTLOAD of memory that cannot be read, and the argument bits ignored, are the
model's reading, log entry 78; that GRANT goes by the page tables, log entry 121; that EVSIG waits as a release at .host, log entry 134. -/
def Obligations.FrontEndCommands : Prop :=
  (∀ (s : State) (fe : BitVec 4) (part : Nat) (p : Part) (c : Cmd), Commanded s fe part p c →
    s.nextCmd fe.toNat = some (part, p, c) ∧
    (c.clear = false → ∃ t, Makes s (commandOf c.op fe) t ∧ Replied s t fe part c 1) ∧
    (c.clear = true → c.op = 0 ∨ 7 < c.op → ∃ t, Makes s (.feNop fe) t ∧ Replied s t fe part c (if c.op = 0 then 0 else 1)) ∧
    (∀ i, i < 8 → i ≠ c.op → (i ≠ 0 ∨ c.op ≤ 7) → Makes s (commandOf i fe) s)) ∧
  (∀ (s : State) (fe : BitVec 4), s.nextCmd fe.toNat = none → ∀ i, Makes s (commandOf i fe) s) ∧
  (∀ (s : State) (fe : BitVec 4) (part : Nat) (p : Part) (c : Cmd), Commanded s fe part p c → c.clear = true → c.op = 3 →
    let name := BitVec.ofNat 16 c.arg0
    let released := (s.fe fe.toNat).owes = false ∧ (s.fe fe.toNat).hzn.toNat ≤ s.gtime.toNat
    (name = 0 → ∃ t, Makes s (.feEvsig fe) t ∧ Replied s t fe part c 1) ∧
    (name ≠ 0 → ¬ released → Makes s (.feEvsig fe) s) ∧
    (name ≠ 0 → released → (s.addEvent part name (c.arg1 % 2 ^ 32)).unwatched → ∃ t u q, Makes s (.feEvsig fe) t ∧ Replied u t fe part c 0 ∧ u = s.addEvent part name (c.arg1 % 2 ^ 32) ∧ u.part part = some q ∧
      (q.event name).toNat = min ((p.event name).toNat + c.arg1 % 2 ^ 32) 0xFFFFFFFF ∧ ∀ m, m ≠ name → q.event m = p.event m)) ∧
  (∀ (s : State) (fe : BitVec 4) (part : Nat) (p : Part) (c : Cmd), Commanded s fe part p c → c.clear = true → c.op = 4 →
    ∃ t u q, Makes s (.evreset fe) t ∧ Replied u t fe part c 0 ∧ OnePart s u part q ∧ q = { p with events := q.events } ∧
      q.event (BitVec.ofNat 16 c.arg0) = 0 ∧ ∀ m, m ≠ BitVec.ofNat 16 c.arg0 → q.event m = p.event m) ∧
  (∀ (s : State) (fe : BitVec 4) (part : Nat) (p : Part) (c : Cmd) (x : Context), Commanded s fe part p c → c.clear = true → c.op = 5 →
    p.ctxs.find (s.fe fe.toNat).ctx = some x → let bs := leBytes 8 x.fills.toNat ++ leBytes 8 x.wbacks.toNat
    ∃ t u, Makes s (.cntread fe) t ∧ Replied u t fe part c 0 ∧
      if p.arg.sliced then ∃ v, OneFront s v fe { s.fe fe.toNat with owes := true } ∧ OnePart v u part { p with heldFx := p.heldFx ++ [.hostWrite c.arg0 bs] }
      else u = { s with hostMem := s.hostMem.putAll c.arg0 bs }) ∧
  (∀ (s : State) (fe : BitVec 4) (part : Nat) (p : Part) (c : Cmd), Commanded s fe part p c → c.clear = true → c.op = 6 →
    ((∃ j ∈ s.jobs, j.2.fe = fe.toNat) → Makes s (.drain fe) s) ∧
    ((∀ j ∈ s.jobs, j.2.fe ≠ fe.toNat) → ∃ t, Makes s (.drain fe) t ∧ Replied s t fe part c 0)) ∧
  (∀ (s : State) (fe : BitVec 4) (part : Nat) (p : Part) (c : Cmd), Commanded s fe part p c → c.clear = true → c.op = 7 →
    (8 ≤ c.arg1 ∨ c.arg0 % 16 ≠ 0 → ∃ t, Makes s (.xtload fe) t ∧ Replied s t fe part c 1) ∧
    ∀ u, c.arg1 < 8 → c.arg0 % 16 = 0 →
      (∀ e, s.readVirtual part (s.fe fe.toNat).ctx false c.arg0 272 = (u, .error e) → u.unwatched → u.part part ≠ none →
        (u.fe fe.toNat).part = some part → ∃ t, Makes s (.xtload fe) t ∧ Replied u t fe part c 3) ∧
      (∀ bs q, s.readVirtual part (s.fe fe.toNat).ctx false c.arg0 272 = (u, .ok bs) → u.unwatched → u.part part = some q →
        (u.fe fe.toNat).part = some part → ∃ t v r, Makes s (.xtload fe) t ∧ OnePart u v part r ∧ Replied v t fe part c 0 ∧
          r = { q with xtables := r.xtables } ∧ r.xtables.find (BitVec.ofNat 3 c.arg1) = some bs ∧
          ∀ n, n ≠ BitVec.ofNat 3 c.arg1 → r.xtables.find n = q.xtables.find n)) ∧
  (∀ (s : State) (fe : BitVec 4) (part : Nat) (p : Part) (c : Cmd), Commanded s fe part p c → c.clear = true → c.op = 2 →
    let ctx := (s.fe fe.toNat).ctx
    let q := c.capv
    let sound := capGlobal q = true ∧ capSeal q = false ∧ capBase q + capLen q ≤ 2 ^ 57 ∧
      s.mappedTo p ctx (capBase q + capLen q) ((capPerm q &&& (permW ||| permAtom)) != 0) (capLen q / 2 ^ 16 + 2) (capBase q) = true
    let there := ∃ base size, s.leafOf p ctx c.arg0 = some (base, size, true, true)
    (c.arg0 % 16 ≠ 0 → ∃ t, Makes s (.grant fe) t ∧ Replied s t fe part c 1) ∧
    (c.arg0 % 16 = 0 → (2 ^ 57 ≤ c.arg0 ∨ ¬ there) → ∃ t, Makes s (.grant fe) t ∧ Replied s t fe part c 3) ∧
    (c.arg0 % 16 = 0 → c.arg0 < 2 ^ 57 → there → ¬ sound → ∃ t, Makes s (.grant fe) t ∧ Replied s t fe part c 2) ∧
    ∀ u dev, c.arg0 % 16 = 0 → c.arg0 < 2 ^ 57 → there → sound → s.translate part ctx c.arg0 .write false = (u, .ok dev) →
      p.arg.sliced = false → u.part part ≠ none → u.unwatched → u.memOk = true → dev % 16 = 0 → u.fes = s.fes →
      ∃ t v g, Makes s (.grant fe) t ∧ Replied v t fe part c 0 ∧ (v.lineInfo (dev / 128)).gwct = BitVec.ofNat 64 g ∧
        v.fe fe.toNat = { s.fe fe.toNat with hzn := joinHzn (s.fe fe.toNat).hzn g } ∧ (∀ n, n ≠ fe.toNat → v.fe n = s.fe n) ∧
        v = { u with fes := v.fes, hbm := v.hbm, lines := v.lines, copies := v.copies, l2 := v.l2, parts := v.parts, fresh := v.fresh, draws := v.draws
                     warps := v.warps } ∧
        Landed u v (.hbm, dev, 16) (leBytes 16 q.toNat) ∧ Tagged u v (.hbm, dev, 16) true) ∧
  (∀ (s : State) (fe : BitVec 4) (part : Nat) (p : Part) (c : Cmd), Commanded s fe part p c → c.clear = true → c.op = 1 → s.untraced →
    let f := s.fe fe.toNat
    let n := c.arg1 % 2 ^ 13
    let good := 0 < n ∧ n ≤ 4096 ∧ c.arg1 < 2 ^ 13 ∧ c.arg0 % 64 = 0
    (¬ good → ∃ t, Makes s (.launch fe) t ∧ Replied s t fe part c 1) ∧
    (good → (∀ x, p.ctxs.find f.ctx = some x → x.root = 0) → ∃ t, Makes s (.launch fe) t ∧ Replied s t fe part c 3) ∧
    ∀ x u, good → p.ctxs.find f.ctx = some x → x.root ≠ 0 → u.unwatched → u.fes = s.fes → u.untraced → u.part part ≠ none →
      (∀ r va, s.checkRecords part f.ctx false c.arg0 n = (u, .error (r, va)) → ∃ t, Makes s (.launch fe) t ∧
        Replied u t fe part c (if r.untranslated then 3 else 1)) ∧
      (∀ rs, s.checkRecords part f.ctx false c.arg0 n = (u, .ok rs) →
        let j : Job := { id := u.fresh, part := part, fe := fe.toNat, ctx := f.ctx, seq := c.seq, irq := c.irq, status := 0, err := none, hzn := 0 }
        let v := rs.foldl (fun v r => v.queueTask part u.fresh f.ctx r.1 r.2) { u with fresh := u.fresh + 1, jobs := u.jobs.set u.fresh j }
        ∃ t, Makes s (.launch fe) t ∧ OneFront v t fe { f with head := f.head + 1 } ∧ t.job u.fresh = some j)) ∧
  (∀ (s : State) (part job : Nat) (ctx : BitVec 6) (r : TaskRec) (k : KDesc) (p : Part), s.part part = some p → p.id = part →
    let t := s.queueTask part job ctx r k
    let unmet := r.waits.filter (fun w => (p.event w.1).toNat < w.2.toNat)
    ∃ x, t.task s.fresh = some x ∧ x.trec = r ∧ x.kd = k ∧ x.job = job ∧ x.ctx = ctx ∧ x.part = part ∧
      x.cells.map (fun y => (y.1, y.2.1)) = unmet.map (fun w => (w.1, w.2.setWidth 32)) ∧
      x.phase = (if unmet = [] then (if r.harv then .queued else .ready) else .waiting) ∧
      (∀ n, n ≠ s.fresh → t.task n = s.task n) ∧ t = { s with fresh := t.fresh, tasks := t.tasks, parts := t.parts })

/-- 10 R220, R221, R225, R218. A time-sliced partition that stops raises its vector at the commit (04 R100). That TAIL is checked only
while QEN is set, and that a queue starts anew only where QEN goes from 0 to 1, are the model's reading, log entry 79; what BAR2 does not
map, and which partition a PF shows, are the model's choice, log entries 119 and 19. -/
def Obligations.FrontEndRegisters : Prop :=
  (∀ (s : State) (fn : Fn) (fe : BitVec 4) (v : Word), ¬ s.owner fn fe → Makes s (.tailWrite ⟨fn, fe⟩ v) s ∧ Makes s (.qenWrite ⟨fn, fe⟩ v) s ∧
    Makes s (.cheadWrite ⟨fn, fe⟩ v) s) ∧
  (∀ (s : State) (fn : Fn) (fe : BitVec 4) (v : Word) (part : Nat) (p : Part), s.owner fn fe → (s.fe fe.toNat).part = some part →
    s.part part = some p → p.id = part →
    let f := { s.fe fe.toNat with tail := v, after := p.hostG }
    let stopped := { f with qen := false, qerr := true }
    let long := f.qen = true ∧ 2 ^ (f.qsize.toNat + 4) < (v - f.head).toNat
    (¬ long → ∃ t, Makes s (.tailWrite ⟨fn, fe⟩ v) t ∧ OneFront s t fe f) ∧
    (long → p.arg.sliced = false → ∃ t, Makes s (.tailWrite ⟨fn, fe⟩ v) t ∧
      OneFront { s with irqs := s.irqs ++ [(s.irqFn p, fe.toNat)] } t fe stopped) ∧
    (long → p.arg.sliced = true → p.fxTight = false → ∃ t u, Makes s (.tailWrite ⟨fn, fe⟩ v) t ∧ OneFront s u fe stopped ∧
      OnePart u t part { p with heldFx := p.heldFx ++ [.msix fe.toNat] }) ∧
    (long → p.arg.sliced = true → p.fxTight = true → ∃ t, Makes s (.tailWrite ⟨fn, fe⟩ v) t ∧ OneFront s t fe { stopped with irqDue := true })) ∧
  (∀ (s : State) (fn : Fn) (fe : BitVec 4) (v : Word), s.owner fn fe → let f := s.fe fe.toNat
    let q := v.extractLsb' 12 4
    (v.getLsbD 0 = false ∨ f.qen = true ∧ q.toNat < 12 → ∃ t, Makes s (.qenWrite ⟨fn, fe⟩ v) t ∧ OneFront s t fe { f with qsize := q, qen := v.getLsbD 0 }) ∧
    (∀ part p, v.getLsbD 0 = true → f.qen = true → 12 ≤ q.toNat → f.part = some part → s.part part = some p → p.arg.sliced = false →
      ∃ t, Makes s (.qenWrite ⟨fn, fe⟩ v) t ∧
        OneFront { s with irqs := s.irqs ++ [(s.irqFn p, fe.toNat)] } t fe
          { f with qsize := q, qen := false, qerr := true }) ∧
    ∀ part p, v.getLsbD 0 = true → f.qen = false → f.part = some part → s.part part = some p → p.arg.sliced = false → p.image = none →
      ∃ t, Makes s (.qenWrite ⟨fn, fe⟩ v) t ∧
        if q.toNat < 12 then OneFront { s with parts := t.parts } t fe { f with qsize := q, qen := true, qerr := false, head := 0, tail := 0 } ∧
          ∀ n, t.part n = s.part n
        else t.irqs = s.irqs ++ [(s.irqFn p, fe.toNat)] ∧
          OneFront { s with parts := t.parts, irqs := t.irqs } t fe { f with qsize := q, qen := false, qerr := true, head := 0, tail := 0 } ∧
          ∀ n, t.part n = s.part n) ∧
  (∀ (s : State) (fn : Fn) (fe : BitVec 4) (v : Word), s.owner fn fe → (∀ j ∈ s.jobs, ∃ x ∈ s.tasks, x.2.job = j.2.id) →
    ∃ t, Makes s (.cheadWrite ⟨fn, fe⟩ v) t ∧ OneFront s t fe { s.fe fe.toNat with chead := v }) ∧
  (∀ (s : State) (fn : Fn) (pa : Nat) (bs : List Byte) (len : Nat), s.behind fn none → Makes s (.hostBar2Access fn pa (some bs) len) s) ∧
  (∀ (s : State) (fn : Fn) (pa len : Nat) (p : Option Part), s.behind fn p → ∃ t, Makes s (.hostBar2Access fn pa none len) t ∧
    t = { s with hostData := t.hostData, draws := t.draws } ∧ t.hostData.length = len ∧
    (p = none → ∀ i, i < len → t.hostData.getD i 0 = (Config.freeValue (s.draws + i)).setWidth 8) ∧
    ∀ q i dev, p = some q → i < len → q.phys (pa + i) = some dev → (s.lineInfo (dev / 128)).sw = none →
      t.hostData.getD i 0 = s.hbm.mem.byte dev) ∧
  (∀ (s : State) (fn : Fn) (pa len : Nat) (p : Part) (bs : List Byte), s.behind fn (some p) → s.part p.id = some p → s.memOk = true →
    s.unwatched → p.arg.sliced = false → (∀ x ∈ p.units, ∀ y ∈ p.units, x.2 = y.2 → x = y) →
    ∃ t, Makes s (.hostBar2Access fn pa (some bs) len) t ∧
      t = { s with hbm := t.hbm, lines := t.lines, copies := t.copies, parts := t.parts, fresh := t.fresh, draws := t.draws } ∧
      ∀ d, t.hbm.mem.byte d = match (List.range bs.length).find? (fun i => p.phys (pa + i) == some d) with
        | some i => bs.getD i 0 | none => s.hbm.mem.byte d)

/-- 02 R22-R25, 04 R93, 22 R420. -/
def Obligations.FetchAndTurns : Prop :=
  (∀ (s u : State) (w : Warp) (priv : Bool) (va : Nat) (run : List Insn), s.fetchRun w priv 24 va [] = (u, .ok run) →
    ∃ pre x, run = pre ++ [x] ∧ run.length ≤ 24 ∧ endsRun x = true ∧ ∀ y ∈ pre, endsRun y = false) ∧
  (∀ (s u : State) (k : WarpKey) (w : Warp) (p : Path) (run : List Insn), s.warp k = some w → w.paths = [p] → s.fetchDue w p = true →
    s.fetchRun w p.privileged 24 p.pc.toNat [] = (u, .ok run) →
    ∃ t, exec (.runFetch k p.pid) s = .next t ∧ t = { u with warps := t.warps, fresh := u.fresh + 1 } ∧ (∀ j, j ≠ k → t.warp j = s.warp j) ∧
      t.warp k = some { w with paths := [{ p with run := run, begun := false, runId := u.fresh, holds := [], since := s.gtime }] }) ∧
  (∀ (s : State) (cl : BitVec 5) (co : BitVec 7) (w : Warp) (prim : Nat) (sec : Option Nat),
    let c : CoreKey := ⟨cl.toNat, co.toNat⟩
    (s.core c).turn = none → s.nextTurn c = some w → w.merge = w → s.turnPaths w (s.slotEnd w) = some (prim, sec) → s.warp w.key = some w →
    ∃ t v, exec (.turnArbitration cl co) s = .next t ∧ t = { s with warps := t.warps, tasks := t.tasks, cores := t.cores } ∧
      t.core c = { s.core c with turn := some { w := w.key, prim := prim, sec := sec, yld := false } } ∧ (∀ j, j ≠ c → t.core j = s.core j) ∧
      (∀ j, j ≠ w.key → t.warp j = s.warp j) ∧ t.warp w.key = some v ∧ v = { w with paths := v.paths } ∧
      (∀ n p, w.path n = some p → v.path n = some (if n = prim ∨ sec = some n then { p with remote := false } else p)) ∧
      (∀ n, n ≠ w.key.task → t.task n = s.task n) ∧ ∀ x, s.task w.key.task = some x → t.task w.key.task = some
        { x with phase := if x.phase = .blocked ∨ x.phase = .saving false then .running else x.phase })

/-- 04 R91, R92, R90, R81, 03 R74, R75. The tasks that lose an entry here are ones that have not started or are saved. -/
def Obligations.EventRecords : Prop :=
  (∀ (s : State) (cl : BitVec 5) (r : EvRec) (rest : List EvRec) (p : Part), (s.cluster cl.toNat).events = r :: rest →
    s.part r.part = some p → r.name ≠ 0 →
    let n := min (((p.events.find r.name).getD 0).toNat + r.amount.toNat) (2 ^ 32 - 1)
    (∀ x ∈ s.tasks, x.2.part = r.part → ∀ q ∈ x.2.cells, q.1 = r.name → n < q.2.1.toNat) →
    ∃ t, exec (.eventRecordApply cl) s = .next t ∧ t = { s with clusters := t.clusters, parts := t.parts } ∧
      (∀ j, j ≠ cl.toNat → t.cluster j = s.cluster j) ∧ t.cluster cl.toNat = { s.cluster cl.toNat with events := rest } ∧
      (∀ j, j ≠ r.part → t.part j = s.part j) ∧ t.part r.part = some { p with events := p.events.set r.name (BitVec.ofNat 32 n) }) ∧
  ∀ (s : State) (cl : BitVec 5) (r : EvRec) (rest : List EvRec) (p : Part), (s.cluster cl.toNat).events = r :: rest →
    s.part r.part = some p → r.name ≠ 0 → s.tasksApart →
    let n := min (((p.events.find r.name).getD 0).toNat + r.amount.toNat) (2 ^ 32 - 1)
    let p' := { p with events := p.events.set r.name (BitVec.ofNat 32 n) }
    (∀ x ∈ s.tasks, x.2.part = r.part → x.2.leaves r.name n ≠ x.2.cells → x.2.phase = .waiting ∨ x.2.phase = .evicted) →
    ∃ t q, exec (.eventRecordApply cl) s = .next t ∧
      t = { s with clusters := t.clusters, parts := t.parts, tasks := t.tasks, fresh := t.fresh } ∧
      (∀ j, j ≠ cl.toNat → t.cluster j = s.cluster j) ∧ t.cluster cl.toNat = { s.cluster cl.toNat with events := rest } ∧
      (∀ j, j ≠ r.part → t.part j = s.part j) ∧ t.part r.part = some q ∧ q = { p' with roundsDue := q.roundsDue, harvestQ := q.harvestQ } ∧
      (∀ j, s.task j = none → t.task j = none) ∧
      (∀ j x, s.task j = some x → ∃ y, t.task j = some y ∧
        if x.part = r.part then Roused { s with parts := s.parts.set r.part p' } x y r.name n else y = x) ∧
      let roused := fun j => ∃ x y, s.task j = some x ∧ t.task j = some y ∧ y.phase ≠ x.phase
      ((∃ j, roused j) → q.roundsDue = max 1 p.roundsDue) ∧ ((∀ j, ¬ roused j) → q.roundsDue = p.roundsDue) ∧
      ∀ j, j ∈ q.harvestQ ↔ j ∈ p.harvestQ ∨ (roused j ∧ ∃ x, s.task j = some x ∧ x.phase = .waiting ∧ x.trec.harv = true)

/-- 04 R80-R90, R95, R96, 14 R318. The wake condition, the cluster and cores found and the conditions of a save are the model's
functions of 04 R87, R84 and R89; when private lines leave an L1 is the model's choice, log entry 105. -/
def Obligations.Scheduling : Prop :=
  (∀ (s : State) (part : Nat) (p : Part) (x : Task) (k : Nat) (cores : List Nat), s.part part = some p → p.id = part → p.open = true → p.roundsDue ≠ 0 → p.trace = none →
    s.tasks = [(x.id, x)] → x.part = part → x.phase = .ready → x.trec.harv = false →
    let p' := { p with roundsDue := p.roundsDue - 1 }
    { s with parts := s.parts.set part p' }.findFit p' [] [] x = some (k, cores) →
    (∀ c ∈ cores, s.harvestHolds ⟨k, c⟩ = false) →
    ∃ t q, exec (.schedulingRound part) s = .next t ∧ t.part part = some q ∧
      q.uncounted = Part.uncounted { p' with admNext := p.admNext + 1, lastPlaced := k } ∧
      (∀ j w pl, j.task = x.id → s.warp j = none → t.warp j = some w → w.place = some pl → ∀ y ∈ t.l1, w.hasPrivate y = true → y.core = pl.core) ∧
      t.task x.id = some { x.freshWindows with phase := .running, admseq := p.admNext, cluster := k, cores := cores, eprio := x.trec.prio, rounds := 0 } ∧
      (t.cluster k).gated = false ∧ t.hbm = s.hbm) ∧
  (∀ (s : State) (n : Nat) (x : Task), s.task n = some x → x.id = n → x.phase = .saving false →
    (s.blockedCrew n = false → ∃ t, exec (.evictionSaveComplete n) s = .next t ∧ t = { s with tasks := t.tasks } ∧
      t.task n = some { x with phase := .running } ∧ ∀ j, j ≠ n → t.task j = s.task j) ∧
    (s.blockedCrew n = true → s.saveReady x = true → ∃ t, exec (.evictionSaveComplete n) s = .next t ∧ t = { s with tasks := t.tasks } ∧
      t.task n = some { x with phase := .saving true } ∧ ∀ j, j ≠ n → t.task j = s.task j) ∧
    (s.blockedCrew n = true → s.saveReady x = false → exec (.evictionSaveComplete n) s = .next s)) ∧
  (∀ (s : State) (n : Nat), (∀ x b, s.task n = some x → x.phase ≠ .saving b) → exec (.evictionSaveComplete n) s = .next s) ∧
  (∀ (s : State) (n : Nat) (x : Task) (p : Part), s.keyed → s.task n = some x → x.id = n → x.phase = .saving true → s.part x.part = some p →
    (∀ k ∈ x.cores, ∀ l, (s.core ⟨x.cluster, k⟩).lent = some l → l.task ≠ n) →
    ∃ u t y, LinesBack s u (fun l => ∃ kw ∈ s.warps, kw.1.task = n ∧ kw.2.hasPrivate l = true) ∧ exec (.evictionSaveComplete n) s = .next t ∧
      t = { u with warps := t.warps, tasks := t.tasks, cores := t.cores, parts := t.parts, fresh := t.fresh } ∧
      (∀ j, j ≠ n → t.task j = s.task j) ∧ t.task n = some y ∧
      y = { x with phase := y.phase, cells := y.cells, eprio := x.trec.prio, rounds := 0, hzn := y.hzn, woken := false, readySeq := y.readySeq } ∧
      y.phase = (if s.blockedCrew n = true ∧ s.wakes n = false then .evicted else .resumable) ∧
      (y.phase = .resumable → y.cells = []) ∧
      (y.phase = .evicted → y.readySeq = x.readySeq ∧ ∀ name target, (∃ b, (name, target, b) ∈ y.cells) ↔
        ∃ kw ∈ s.warps, kw.1.task = n ∧ ∃ q ∈ kw.2.paths, q.wait = .evwait name target) ∧
      (x.hzn.toNat ≤ y.hzn.toNat ∧ ∀ kw ∈ s.warps, kw.1.task = n → kw.2.ended = true → kw.2.place ≠ none → kw.2.hzn.toNat ≤ y.hzn.toNat) ∧
      (∀ k w, s.warp k = some w → t.warp k = some (if k.task = n then { w with place := none, xflags := w.raised, flying := [] } else w)) ∧
      (∀ c, (∀ k ∈ x.cores, c ≠ ⟨x.cluster, k⟩) → t.core c = s.core c) ∧
      (∀ j, j ≠ x.part → t.part j = u.part j) ∧ t.part x.part = (u.part x.part).map (fun p => { p with roundsDue := max 1 p.roundsDue })) ∧
  (∀ (s : State) (part : Nat) (p : Part) (x : Task) (k : Nat) (cores : List Nat), s.keyed → s.part part = some p → p.id = part → p.open = true →
    p.roundsDue ≠ 0 → p.trace = none → s.tasks = [(x.id, x)] → x.part = part → x.phase = .resumable → x.trec.harv = false →
    let p' := { p with roundsDue := p.roundsDue - 1 }
    { s with parts := s.parts.set part p' }.findFit p' [] [] x = some (k, cores) → (∀ c ∈ cores, s.harvestHolds ⟨k, c⟩ = false) →
    (∀ kw ∈ s.warps, kw.2.defers = [] ∧ ∀ pl, kw.2.place = some pl → kw.2.inHarvest = true → 16 ≤ pl.slot) →
    (∀ kw ∈ s.warps, kw.1.task = x.id → kw.2.place = none ∧ kw.1.team < x.trec.teams ∧ kw.1.wid < x.trec.warps) →
    ∃ u t, LinesBack s u (fun l => ∃ kw ∈ s.warps, kw.1.task = x.id ∧ kw.2.ended = false ∧ kw.2.hasPrivate l = true ∧
        l.core ≠ ⟨k, cores.getD kw.1.team 0⟩) ∧ exec (.schedulingRound part) s = .next t ∧ k = x.cluster ∧
      t = { u with parts := t.parts, tasks := t.tasks, clusters := t.clusters, warps := t.warps, past := t.past } ∧
      (∀ j, j ≠ part → t.part j = u.part j) ∧
      t.part part = (u.part part).map (fun p => { p with roundsDue := p.roundsDue - 1, lastPlaced := k }) ∧
      t.task x.id = some { x with phase := .running, cores := cores, eprio := x.trec.prio, rounds := 0, cells := [], woken := false } ∧
      (∀ j, j ≠ k → t.cluster j = s.cluster j) ∧ t.cluster k = { s.cluster k with gated := false } ∧
      ∀ q w, s.warp q = some w → if q.task = x.id ∧ w.ended = false
        then ∃ v, t.warp q = some v ∧ Resumed w v ⟨k, cores.getD q.team 0⟩ s.gtime
        else t.warp q = some w) ∧
  (∀ (s : State) (k : WarpKey) (w : Warp) (x : Task) (pl : Place), s.keyed → s.warp k = some w → s.task k.task = some x → x.id = k.task →
    w.place = some pl → s.mayLeave w = true → (∀ l, (s.core pl.core).lent = some l → ¬ (l.task = k.task ∧ l.team = k.team)) → (∃ j v, s.warp j = some v ∧ j ≠ k ∧ j.task = k.task ∧ v.place ≠ none) →
    ∃ t, exec (.warpLeaveSlot k) s = .next t ∧ t = { s with warps := t.warps, tasks := t.tasks, cores := t.cores } ∧
      t.warp k = some { w with place := none } ∧ (∀ j, j ≠ k → t.warp j = s.warp j) ∧
      t.task k.task = some { x with hzn := if x.hzn.toNat < w.hzn.toNat then w.hzn else x.hzn } ∧ (∀ n, n ≠ k.task → t.task n = s.task n) ∧
      ∀ c, c ≠ pl.core → t.core c = s.core c) ∧
  (∀ (s : State) (cl : BitVec 5) (co : BitVec 7), s.keyed →
    let c : CoreKey := ⟨cl.toNat, co.toNat⟩
    s.resumeDue c = true → ∃ t, exec (.harvestPlacement cl co) s = .next t ∧ t = { s with warps := t.warps } ∧
      ∀ k w, s.warp k = some w → if w ∈ s.harvesters c then ∃ v, t.warp k = some v ∧ v.parked = false ∧ v.paths = w.paths ∧
        v.lentMap = (s.lentTo c w.part).isSome ∧ v.preds = w.preds ∧ v.revs = w.revs else t.warp k = some w) ∧
  (∀ (s : State) (cl : BitVec 5) (co : BitVec 7), s.keyed → (∀ q ∈ s.parts, q.2.trace = none) →
    let c : CoreKey := ⟨cl.toNat, co.toNat⟩
    s.demandDue c = true → ∃ t, exec (.harvestRevocation cl co) s = .next t ∧ t = { s with warps := t.warps, cores := t.cores, draws := t.draws } ∧
      ∀ k w, s.warp k = some w → t.warp k = some (if w ∈ s.harvesters c ∧ w.parked = false
        then { w.again s.gtime with parked := true, revs := w.revs + 1 } else w))

/-- 04 R98-R101, 26 R453, R454. The commit is of a partition no job of which is over; the failure is of one
whose log holds only lines of global memory, the slice's end of one with an empty log; the lines that a checkpoint pins are still
in an L2, and its clusters present. That the creation counts as epoch 0 and that a rollback or a failure begins a new number is the
model's reading, log entry 74; what the image and the log hold, log entry 76; when private lines leave an L1, log entry 105. -/
def Obligations.Checkpointing : Prop :=
  (∀ (s : State) (part : Nat) (p : Part), s.part part = some p →
    p.arg.sliced = true → p.active = true → p.failed = false → p.ckBegan = none →
    (p.ckNext.toNat ≤ s.gtime.toNat ∨ 3 * 2 ^ 18 ≤ 4 * p.heldBytes) →
    ∃ t, exec (.checkpointStart part) s = .next t ∧ t = { s with parts := t.parts } ∧ (∀ j, j ≠ part → t.part j = s.part j) ∧
      t.part part = some { p with ckBegan := some s.gtime }) ∧
  (∀ (s : State) (part : Nat) (p : Part), s.part part = some p → p.id = part → p.trace = none → s.commitDue p = true → s.unwatched → s.posted part →
    (∀ h ∈ p.heldFx, ∃ a bs, h = .hostWrite a bs) → (∀ j ∈ s.jobs, ∃ x ∈ s.tasks, x.2.job = j.2.id) →
    ∃ u t p' q im, LinesBack s u (fun l => l.part = part) ∧ u.part part = some p' ∧
      exec (.checkpointCommit part) s = .next t ∧ t = { u with parts := t.parts, warps := t.warps, hostMem := t.hostMem, fes := t.fes } ∧
      (∀ n, t.fe n = if (s.fe n).part = some part then { s.fe n with owes := false } else s.fe n) ∧
      (∀ j, j ≠ part → t.part j = s.part j) ∧ t.part part = some q ∧
      q = { p' with heldFx := [], undo := [], ckBegan := none, ckFails := 0, ckNext := s.intervalEnd p, image := some im, epoch := p.epoch + 1
                    sliceEnd := p.sliceEnd + (s.gtime - p.ckBegan.getD s.gtime) } ∧
      im.epoch = p.epoch ∧ im.events = p.events ∧ im.past = s.past.filter (fun x => x.task.part == part) ∧ im.tasks = s.tasks.vals.filter (fun x => x.part == part) ∧
      im.warps = t.warps.vals.filter (fun w => w.part == part) ∧
      (∀ k w, s.warp k = some w → t.warp k = some (if w.part = part then { w with regs := w.regs.map (fun r => { r with dirty := false }) } else w)) ∧
      t.hostMem = p.heldFx.foldl (fun m h => match h with | .hostWrite a bs => m.putAll a bs | _ => m) s.hostMem) ∧
  (∀ (s : State) (part : Nat) (p : Part) (im : Image), s.part part = some p → p.id = part → p.trace = none → p.image = some im →
    s.failureDue p = true → s.unwatched → s.tidy → s.whole part im → s.posted part → (∀ w ∈ im.warps, ∀ e ∈ w.queue, e.watching = []) →
    p.ckFails < 2 → s.memOk = true → (∀ u ∈ p.undo, u.area = .hbm ∧ u.bytes.length = 128 ∧ u.bad = false) → (p.undo.map (·.line)).Nodup →
    ∃ t, exec (.checkpointFailure part) s = .next t ∧ Back s t part im ∧ t.l1 = s.l1.filter (fun x => x.part != part) ∧ (∀ j, j ≠ part → t.part j = s.part j) ∧
      t.part part = some { p.back im with undo := [], heldFx := [], ckBegan := none, epoch := p.epoch + 1, ckFails := p.ckFails + 1, ckNext := s.intervalEnd p
                                          sliceEnd := p.sliceEnd + (s.gtime - p.ckBegan.getD s.gtime) } ∧
      ∀ a, t.hbm.mem.byte a = match p.undo.find? (fun u => u.line == a / 128) with | some u => u.bytes.getD (a % 128) 0 | none => s.hbm.mem.byte a) ∧
  (∀ (s : State) (part : Nat) (p : Part) (im : Image), s.part part = some p → p.id = part → p.trace = none → p.image = some im → p.undo = [] →
    s.unwatched → s.tidy → s.whole part im → s.posted part → (∀ j ∈ im.jobs, j.part = part) →
    (∀ o ∈ im.ops, o.part = part) → p.arg.sliced = true → p.active = true → p.sliceEnd.toNat ≤ (p.ckBegan.getD s.gtime).toNat →
    (∀ kw ∈ s.warps, kw.2.inHarvest = true → kw.2.parked = false → ∀ pl, kw.2.place = some pl → p.clusters.getLsbD pl.core.cluster = false) →
    ∃ t, exec (.sliceEndRollback part none []) s = .next t ∧
      t.part part = some { p.back im with heldFx := [], ckBegan := none, epoch := p.epoch + 1, active := false } ∧
      t.warps = s.warps.filter (fun x => x.2.part != part) ∧ t.tasks = s.tasks.filter (fun x => x.2.part != part) ∧
      t.jobs = s.jobs.filter (fun x => x.2.part != part) ∧ t.ops = s.ops.filter (fun o => o.part != part) ∧ t.hbm = s.hbm) ∧
  (∀ (s : State) (part next : Nat) (p q : Part) (im : Image), s.part part = some p → p.active = false → s.part next = some q → q.id = next →
    q.image = some im → s.mayStartSlice q = true → s.whole next im →
    ∃ t, exec (.sliceEndRollback part (some next) []) s = .next t ∧ Back s t next im ∧ (∀ j, j ≠ next → t.part j = s.part j) ∧
      t.part next = some { q.back im with active := true, sliceEnd := s.gtime + BitVec.ofNat 64 (q.arg.slice * 1000)
                                          ckNext := s.intervalEnd q } ∧ t.hbm = s.hbm)

/-- 13 R268, R270, R284, 03 R67, 22 R418, R419, R426; 22 R423, R425: the word that is no instruction, as the step of
`StepRunsDecodedWord` issues it. The traps are those of a user path with a handler and a free frame. -/
def Obligations.GuardsAndChecks : Prop :=
  (∀ (s : State) (i : Instr) (c : Ctx), guarded i = true → i.encoded = true → s.issuing i.hdr false = some c → c.wr = 0 → i.barred = false →
    (i.forHandlers = true → c.priv = true) → (s.debugOn c.w = true → s.hazard c i = none) →
    ∃ t w, exec i s = .next t ∧ OnlyWarp s t c w ∧ Went s i c w ∧ w.regs = c.w.regs ∧ w.preds = c.w.preds ∧ w.raised = c.w.raised) ∧
  (∀ (s : State) (i : Instr) (c : Ctx), guarded i = true → i.forHandlers = true → i.encoded = true → s.issuing i.hdr false = some c →
    c.priv = false → c.act ≠ 0 → CanTrap s c (c.x.setWidth 64) → s.handlerOf c.w ≠ 0 → TrapsWith s i c 0x02 0 c.act) ∧
  (∀ (s : State) (i : Instr) (c : Ctx) (r : BitVec 2), (roleOf i = some r ∧ r ≠ c.w.role ∨ i.ownersOnly = true ∧ c.w.inHarvest = true ∧ r = 0) →
    s.issuing i.hdr false = some c → c.wr ≠ 0 → i.barred = false →
    (s.debugOn c.w = true → s.hazard c i = none) → (i.forHandlers = true → c.priv = true) →
    CanTrap s c (c.x.setWidth 64) → s.handlerOf c.w ≠ 0 → TrapsWith s i c 0x04 r.toNat c.wr) ∧
  (∀ (s : State) (i : Instr) (c : Ctx) (f : Form) (d : Nat), guarded i = true → i.form = some f → f.beyond c.w.nregs = some d →
    s.issuing i.hdr false = some c → c.wr ≠ 0 → (∀ r, roleOf i = some r → r = c.w.role) →
    i.barred = false → (i.ownersOnly = true → c.w.inHarvest = false) → (s.debugOn c.w = true → s.hazard c i = none) → (i.forHandlers = true → c.priv = true) →
    CanTrap s c (c.x.setWidth 64) → s.handlerOf c.w ≠ 0 → TrapsWith s i c 0x0D d c.wr) ∧
  (∀ (s : State) (k : WarpKey) (pid : Nat) (b : IllegalWord) (w : Warp) (p : Path), s.warp k = some w → w.namedApart → w.path pid = some p →
    p.frame = none → w.inHandler = false → (∀ pl, w.place = some pl → s.framesHeld pl.core < 8) → p.pc.toNat % 4 = 0 → p.lns ≠ 0 →
    p.lns &&& w.exited = 0 → s.handlerOf w ≠ 0 →
    let t := s.illegalWord k pid b
    t = { s with warps := t.warps, fresh := s.fresh + 1 } ∧ (∀ j, j ≠ k → t.warp j = s.warp j) ∧
      ∃ v q, t.warp k = some v ∧ v = { w with paths := w.paths.filter (fun r => r.pid != pid) ++ [q], flying := v.flying } ∧ v.raised = w.raised ∧
        q.pc = (s.handlerOf w).setWidth 57 ∧
        Entered s q p.lns { id := s.fresh, xpc := p.pc.setWidth 64, xaddr := p.pc.setWidth 64
                            xcause := BitVec.ofNat 32 (0x01 + 2 ^ 16 * (match b with
                              | .opc => 1 | .mod => 2 | .spec => 3 | .unused => 4 | .ch => 5 | .hold => 6))
                            xstat := 0, xmask := p.lns, ks := Vector.replicate 8 0 })

/-- 14 R322. -/
def Obligations.NopDoesNothing : Prop :=
  (∀ (s : State) (c : Ctx) (h : Hdr), Issues s (.nop h) false none c → Completes s (.nop h) c .z [] none noFlags) ∧
  (∀ (w : Insn) (h : Hdr), decode w = .ok (.nop h) → w.extractLsb' 20 66 = 0#66) ∧
  ∀ (h : Hdr), h.hold = 0 → h.ch = 0 → decode (encode (.nop h)) = .ok (.nop h) ∧ (h.bnd = false → endsRun (encode (.nop h)) = false)

/-- 14 R298. -/
def Obligations.PredicateSet : Prop :=
  (∀ (s : State) (c : Ctx) (h : Hdr) (op : PsetOp) (pd : BitVec 3) (a b : Spec), Issues s (.pset h op pd a b) false none c →
    Roomy s (.pset h op pd a b) c → Completes s (.pset h op pd a b) c .z [] (some (pd, fun l =>
      (match op with
        | .and => s.word c .a a l &&& s.word c .b b l
        | .or => s.word c .a a l ||| s.word c .b b l
        | .xor => s.word c .a a l ^^^ s.word c .b b l
        | .andn => s.word c .a a l &&& ~~~(s.word c .b b l)).getLsbD l.val)) noFlags) ∧
  (∀ (w : Insn) (i : Instr), decode w = .ok i → w.extractLsb' 86 10 = 0x181#10 →
    ∃ h op pd a b, i = .pset h op pd a b ∧ w.extractLsb' 82 4 = 0#4 ∧
      w.extractLsb' 78 4 = (match op with | .and => 0#4 | .or => 1#4 | .xor => 2#4 | .andn => 3#4)) ∧
  (∀ (w : Insn) (h : Hdr) (op : PsetOp) (pd : BitVec 3) (a b : Spec), decode w = .ok (.pset h op pd a b) → w.extractLsb' 86 10 = 0x181#10) ∧
  (∀ (s : State) (c : Ctx) (p q : BitVec 3) (l : Lane), c.p.holds = [] →
    (s.word c .a (.p p) l).getLsbD l.val = (if h : p.toNat < 7 then Mask.has c.rd.preds[p.toNat] l else true) ∧
    (s.word c .b (.p q) l).getLsbD l.val = (if h : q.toNat < 7 then Mask.has c.rd.preds[q.toNat] l else true) ∧
    s.word c .b .z l = 0) ∧
  ∀ (s : State) (c : Ctx) (q : Pos) (n : BitVec 7) (l : Lane), c.p.holds = [] →
    c.rd.regs[n.toNat].spl = false → s.word c q (.v n) l = c.rd.regs[n.toNat].val.at l

/-- 02 R50; read from the registers, where no hold stands for the position (13 R285). -/
def Obligations.QuadTags : Prop :=
  ∀ (s : State) (c : Ctx) (q : Pos) (n : Nat) (hn : n < 32) (l : Lane), c.p.holds = [] →
    (∀ j (h : j < 4), c.rd.regs[4 * n + j].spl = false) →
    (s.quadTag c q (.v (BitVec.ofNat 7 (4 * n))) l = true ↔
      c.rd.regs[4 * n].tags.has l = true ∧ c.rd.regs[4 * n + 1].tags.has l = true ∧
      c.rd.regs[4 * n + 2].tags.has l = true ∧ c.rd.regs[4 * n + 3].tags.has l = true) ∧
    s.quadAt c q (.v (BitVec.ofNat 7 (4 * n))) l = c.rd.regs[4 * n + 3].val.at l ++ c.rd.regs[4 * n + 2].val.at l ++
      c.rd.regs[4 * n + 1].val.at l ++ c.rd.regs[4 * n].val.at l

/-- 02 R25-R27, 13 R285, 22 R425; the ns that a chosen issue takes is the model's choice, log entry 1. -/
def Obligations.StepRunsDecodedWord : Prop :=
  (∀ (s : State) (k : WarpKey) (pid : Nat) (x : Insn) (i : Instr) (w : Warp) (pl : Place) (p : Path) (run : List Insn) (tn : Turn) (ms : List Move),
    s.warp k = some w → w.place = some pl → w.path pid = some p → p.wait = .none → p.run = x :: run → decode x = .ok i →
    (s.core pl.core).turn = some tn → tn.w = k → (tn.prim = pid ∨ tn.sec = some pid) → s.slotDue k pid = true → s.cut k = false →
    let after := fun (t : State) => { t with cur := none }.afterWord pl.core pl.slot (x.getLsbD 7)
    (s.agenda = .issue k pid :: ms →
      step s = match exec i { s with agenda := ms, cur := some (k, pid) } with
        | .next t => .next (after t) | .fault f => .fault f | .refused r => .refused r) ∧
    (s.agenda = [] → s.pick = .issue k pid →
      step s = match exec i { s with cur := some (k, pid) } with
        | .next t => .next ((after t).pass 1) | .fault f => .fault f | .refused r => .refused r)) ∧
  (∀ (s : State) (k : WarpKey) (pid : Nat) (x : Insn) (e : IllegalWord) (w : Warp) (pl : Place) (p : Path) (run : List Insn) (tn : Turn)
    (ms : List Move), s.warp k = some w → w.place = some pl → w.path pid = some p → p.wait = .none → p.run = x :: run → decode x = .error e →
    (s.core pl.core).turn = some tn → tn.w = k → (tn.prim = pid ∨ tn.sec = some pid) → s.slotDue k pid = true → s.cut k = false →
    s.agenda = .issue k pid :: ms →
    step s = .next (({ ({ s with agenda := ms } : State).illegalWord k pid e with cur := none } : State).afterWord pl.core pl.slot (x.getLsbD 7))) ∧
  (∀ (s : State) (k : WarpKey) (a b : Nat) (x y : Insn) (i j : Instr) (w : Warp) (pl : Place) (p q : Path) (runx runy : List Insn) (tn : Turn)
    (ms : List Move), s.warp k = some w → w.place = some pl → w.path a = some p → w.path b = some q → p.wait = .none → q.wait = .none →
    p.run = x :: runx → q.run = y :: runy → decode x = .ok i → decode y = .ok j → x.extractLsb' 93 3 = y.extractLsb' 93 3 →
    (x.extractLsb' 93 3).toNat < 3 → (s.core pl.core).turn = some tn → tn.w = k → tn.prim = a → tn.sec = some b → a ≠ b →
    s.slotDue k a = true → s.slotDue k b = true → s.cut k = false →
    s.agenda = .pair k a b :: ms → ∀ u v, exec i { s.abreast k a b with agenda := ms, dual := some (s.readable w), cur := some (k, a) } = .next u →
    exec j { u with cur := some (k, b) } = .next v →
    step s = .next ({ v with cur := none, dual := none }.afterWord pl.core pl.slot (x.getLsbD 7 || y.getLsbD 7))) ∧
  ∀ (nbits w : Nat) (i : Instr), decodeTableWord nbits w = some i → nbits ≤ 96 →
    step (State.reset.withFetchWord nbits w) =
      match exec i { State.reset.withFetchWord nbits w with agenda := [], cur := some (⟨0, 0, 0⟩, 0) } with
      | .next t => .next ({ t with cur := none }.afterWord ⟨0, 0⟩ 0 ((BitVec.ofNat 96 (w % 2 ^ nbits)).getLsbD 7))
      | .fault f => .fault f | .refused r => .refused r

/-- 13 R263-R268 and the examples of R297, R305, R329, R340, R351, R413, R416, R423. -/
def Obligations.SpecWordsDecode : Prop :=
  decode 0x074880480840000000077300#96 = .ok (.icmp (hdrOf 7 3 false) .lt .n32 1 (.v 32) (.v 33)) ∧
  decode 0x80400000003FFFFFFFC17040#96 = .ok (.bra (hdrOf 1 0 true) 0x3FFFFFFFC) ∧
  decode 0xA05CCD043C00000004077040#96 = .ok (.ld (hdrOf 7 0 true) .device .acq true .b32 (.v 52) ⟨.v 16, .z, 0, .glob⟩ 0) ∧
  decode 0x6100CA4A0A80000AC0B77040#96 = .ok (.shfl (hdrOf 7 0 true) .b32 .swap (.v 41) (some 3) (.v 40) (.v 42) (.v 43)) ∧
  decode 0xA9DD8A030880000B04377040#96 = .ok (.atom (hdrOf 7 0 true) .device .acqrel .cas .b64 (.v 40) ⟨.v 12, .v 34, 0, .glob⟩ 0 (.v 44)) ∧
  decode 0xE08020000000000000077300#96 = .ok (.mfx (hdrOf 7 3 false) 0 (.k 0)) ∧
  decode 0xE04000000000000000077040#96 = .ok (.xret (hdrOf 7 0 true)) ∧
  decode 0x30C804044003F00000077100#96 = .ok (.fmulImm (hdrOf 7 1 false) .rz (.v 16) (.v 17) 0x3F000000) ∧
  decode 0x42C20B0A0A40000A80077000#96 = .ok (.f2f8E4m3 (hdrOf 7 0 false) true .rn (.v 44) (.v 40) (.v 41) (.v 42)) ∧
  decode 0x004201014180000000077000#96 = .error .mod

/-- 13 R262-R286, 22 R423. -/
def Obligations.DecodeAndEncodeAgree : Prop :=
  (∀ i : Instr, i.encoded = true → i.wf = true → decode (encode i) = .ok i) ∧
  (∀ (w : Insn) (i : Instr), decode w = .ok i → i.encoded = true ∧ i.wf = true ∧ encode i = w) ∧
  ∀ i : Instr, i.encoded = true → i.wf = true → Insn.ofBytes (Insn.toBytes (encode i)) = encode i ∧ (Insn.toBytes (encode i)).length = 12

/-- The form is the model's own: what a memory that nothing has written reads as is log entry 6. -/
def Obligations.MemoryStaysCanonical : Prop :=
  (∀ s t : State, s.canonical → step s = .next t → t.canonical) ∧
  ∀ m n : Memory, m.wf = true → n.wf = true → (∀ a, m.byte a = n.byte a) → m = n

/-- The premise of the statements that take names as apart: one path, warp, crew and partition is meant by each. -/
def Obligations.NamesStayApart : Prop :=
  ∀ s t : State, s.tidy → step s = .next t → t.tidy

/-- 10 R226, R233, R235, R220. What an unlisted byte reads as, and the registers for which the spec gives no value, are the
model's choice, log entries 4 to 8; the invariants' names are the model's. -/
def Obligations.ResetState : Prop :=
  State.reset.boot = .rom ∧ State.reset.gtime = 0 ∧ State.reset.pwrcap = 0x03E80708 ∧ State.reset.emergency = .none ∧
  (∀ n, let f := State.reset.fe n; f.part = none ∧ f.qen = false ∧ f.qerr = false ∧ f.head = 0 ∧ f.tail = 0 ∧ f.chead = 0 ∧ f.qbase = 0 ∧ f.cbase = 0) ∧
  Emptied State.reset ∧ (∀ a, State.reset.hbm.mem.byte a = 0) ∧ State.reset.hbm.tags = [] ∧ State.reset.canonical ∧ State.reset.tidy
end

