-- ==== Sys2Proof/Laws/Caches.lean ====
section
/-! SUPPORT. What an access to a cache can do: the L2s, and the private lines of the L1s. -/

namespace Sys2Proof.Machine

/-- An access at a home L2 changes what the L2s hold and what contexts count of their traffic, and takes names. -/
theorem State.l2Touch_only (s : State) (part : Nat) (ctx : BitVec 6) (line : Nat) (write : Bool) (ch : Nat) :
    ∃ ps l2 n, s.l2Touch part ctx line write ch = { s with parts := ps, l2 := l2, fresh := n } := by
  unfold State.l2Touch
  repeat' split
  all_goals exact ⟨_, _, _, rfl⟩

theorem State.l2Access_only (s : State) (part : Nat) (ctx : BitVec 6) (line : Nat) (write : Bool) (ch : Nat) :
    ∃ ps l2 n, s.l2Access part ctx line write ch = { s with parts := ps, l2 := l2, fresh := n } := by
  obtain ⟨ps, l2, n, h⟩ := s.l2Touch_only part ctx line write ch
  unfold State.l2Access
  rw [h]
  split
  · obtain ⟨ps', l2', n', h'⟩ := State.l2Touch_only { s with parts := ps, l2 := l2, fresh := n } part ctx (line + 1) false 0
    exact ⟨ps', l2', n', h'⟩
  · exact ⟨ps, l2, n, rfl⟩

/-- A private access changes no more than the L1s, and at a miss what an access at a home L2 does (05 R106). -/
theorem State.l1Access_only (s : State) (c : CoreKey) (part : Nat) (ctx : BitVec 6) (va line : Nat) (write : Bool) (ch : Nat) :
    ∃ ps l2 l1 n, s.l1Access c part ctx va line write ch = { s with parts := ps, l2 := l2, l1 := l1, fresh := n } := by
  obtain ⟨ps, l2, n, h⟩ := s.l2Access_only part ctx line false ch
  unfold State.l1Access
  split
  · split <;> exact ⟨_, _, _, _, rfl⟩
  · rw [h]; exact ⟨_, _, _, _, rfl⟩

/-- Lines written back leave the L1s, and reach no more than what accesses at home L2s do. -/
theorem State.writeBack_only (s : State) (which : L1Line → Bool) :
    ∃ ps l2 n, s.writeBack which = { s with parts := ps, l2 := l2, fresh := n, l1 := s.l1.filter (fun x => !which x) } := by
  have fold : ∀ (xs : List L1Line) (s : State), ∃ ps l2 n,
      xs.foldl (fun s x => s.l2Access x.part x.ctx x.line true 0) s = { s with parts := ps, l2 := l2, fresh := n } := by
    intro xs
    induction xs with
    | nil => exact fun s => ⟨_, _, _, rfl⟩
    | cons x xs ih =>
      intro s
      obtain ⟨ps, l2, n, h⟩ := s.l2Access_only x.part x.ctx x.line true 0
      obtain ⟨ps', l2', n', h'⟩ := ih { s with parts := ps, l2 := l2, fresh := n }
      exact ⟨ps', l2', n', by rw [List.foldl_cons, h, h']⟩
  obtain ⟨ps, l2, n, h⟩ := fold (s.l1.filter (fun x => which x && x.dirty)) s
  exact ⟨ps, l2, n, by unfold State.writeBack; rw [h]⟩

end Sys2Proof.Machine
end

