-- ==== Sys2Proof/Laws/Memory.lean ====
section
/-! SUPPORT. Memory and tables: every operation of memory keeps the canonical form; what a read finds after a write; what
a table holds after an entry is set. -/

namespace Sys2Proof.Machine

/-! ## The canonical form -/

theorem Memory.wfFrom_mono {m : Memory} : ∀ {lo hi : Nat}, lo ≤ hi → Memory.wfFrom hi m = true → Memory.wfFrom lo m = true := by
  cases m with
  | nil => intros; rfl
  | cons c m =>
    obtain ⟨a, b⟩ := c
    intro lo hi h w
    simp only [Memory.wfFrom, Bool.and_eq_true, decide_eq_true_eq] at w ⊢
    exact ⟨⟨by omega, w.1.2⟩, w.2⟩

theorem Memory.put_wfFrom {m : Memory} : ∀ {lo a : Nat} {v : Byte}, Memory.wfFrom lo m = true → lo ≤ a →
    Memory.wfFrom lo (m.put a v) = true := by
  induction m with
  | nil =>
    intro lo a v _ h
    by_cases hv : v = unlisted <;> simp [Memory.put, Memory.wfFrom, hv, h]
  | cons c m ih =>
    obtain ⟨x, b⟩ := c
    intro lo a v w h
    have w' := w
    simp only [Memory.wfFrom, Bool.and_eq_true, decide_eq_true_eq] at w'
    obtain ⟨⟨w1, w2⟩, w3⟩ := w'
    simp only [Memory.put]
    split
    · split
      · exact w
      · simp only [Memory.wfFrom, Bool.and_eq_true, decide_eq_true_eq, bne_iff_ne, ne_eq]
        simp only [bne_iff_ne, ne_eq] at w2
        exact ⟨⟨h, by assumption⟩, ⟨by omega, w2⟩, w3⟩
    · split
      · split
        · exact Memory.wfFrom_mono (by omega) w3
        · subst_vars
          simp only [Memory.wfFrom, Bool.and_eq_true, decide_eq_true_eq, bne_iff_ne, ne_eq]
          exact ⟨⟨h, by assumption⟩, w3⟩
      · simp only [Memory.wfFrom, Bool.and_eq_true, decide_eq_true_eq]
        exact ⟨⟨w1, w2⟩, ih w3 (by omega)⟩

/-- Writing a byte keeps the form. -/
theorem Memory.put_wf {m : Memory} {a : Nat} {v : Byte} (h : m.wf = true) : (m.put a v).wf = true :=
  Memory.put_wfFrom h (Nat.zero_le a)

/-- Writing bytes keeps the form. -/
theorem Memory.putAll_wf {bs : List Byte} : ∀ {m : Memory} {a : Nat}, m.wf = true → (m.putAll a bs).wf = true := by
  induction bs with
  | nil => intro m a h; exact h
  | cons b bs ih => intro m a h; exact ih (Memory.put_wf h)

theorem Memory.filter_wfFrom (f : Host.Cell → Bool) {m : Memory} : ∀ {lo : Nat}, Memory.wfFrom lo m = true →
    Memory.wfFrom lo (m.filter f) = true := by
  induction m with
  | nil => intro lo _; rfl
  | cons c m ih =>
    obtain ⟨a, b⟩ := c
    intro lo w
    simp only [Memory.wfFrom, Bool.and_eq_true, decide_eq_true_eq] at w
    obtain ⟨⟨w1, w2⟩, w3⟩ := w
    simp only [List.filter_cons]
    split
    · simp only [Memory.wfFrom, Bool.and_eq_true, decide_eq_true_eq]
      exact ⟨⟨w1, w2⟩, ih w3⟩
    · exact Memory.wfFrom_mono (by omega) (ih w3)

/-- Clearing a range keeps the form. -/
theorem Memory.clear_wf {m : Memory} {lo hi : Nat} (h : m.wf = true) : (m.clear lo hi).wf = true :=
  Memory.filter_wfFrom _ h

/-- Every operation of a store keeps the form of its memory. -/
theorem Store.write_ok {s : Store} {a : Nat} {bs : List Byte} (h : s.ok = true) : (s.write a bs).ok = true :=
  Memory.putAll_wf h
theorem Store.setTag_ok {s : Store} {a : Nat} {t : Bool} (h : s.ok = true) : (s.setTag a t).ok = true := h
theorem Store.stamp_ok {s : Store} {a n t : Nat} (h : s.ok = true) : (s.stamp a n t).ok = true := h
theorem Store.addPoison_ok {s : Store} {a : Nat} (h : s.ok = true) : (s.addPoison a).ok = true := h
theorem Store.clear_ok {s : Store} {lo hi : Nat} (h : s.ok = true) : (s.clear lo hi).ok = true := Memory.clear_wf h

/-- The memories after reset are in canonical form. -/
theorem reset_memOk : State.reset.memOk = true := by decide

/-! ## Reading after writing -/

theorem Memory.byte_lt {m : Memory} : ∀ {lo a : Nat}, Memory.wfFrom lo m = true → a < lo → m.byte a = unlisted := by
  induction m with
  | nil => intros; rfl
  | cons c m ih =>
    obtain ⟨x, b⟩ := c
    intro lo a w h
    simp only [Memory.wfFrom, Bool.and_eq_true, decide_eq_true_eq] at w
    rw [Memory.byte, if_neg (by omega)]
    exact ih w.2 (by omega)

/-- A byte written is the byte read, and every other byte reads as before. -/
theorem Memory.byte_put {m : Memory} : ∀ {lo a b : Nat} {v : Byte}, Memory.wfFrom lo m = true →
    (m.put a v).byte b = if b = a then v else m.byte b := by
  induction m with
  | nil =>
    intro lo a b v _
    by_cases hv : v = unlisted <;> simp [Memory.put, hv, Memory.byte, eq_comm]
  | cons c m ih =>
    obtain ⟨x, y⟩ := c
    intro lo a b v w
    simp only [Memory.wfFrom, Bool.and_eq_true, decide_eq_true_eq] at w
    simp only [Memory.put]
    split
    · split
      · rename_i h1 h2
        by_cases hb : b = a
        · subst hb
          rw [if_pos rfl, Memory.byte, if_neg (by omega), Memory.byte_lt w.2 (by omega), h2]
        · rw [if_neg hb]
      · simp only [Memory.byte]
        by_cases hb : b = a
        · simp [hb]
        · rw [if_neg (fun h => hb h.symm), if_neg hb]
    · split
      · split
        · rename_i h1 h2 h3
          by_cases hb : b = a
          · subst hb; rw [if_pos rfl, Memory.byte_lt w.2 (by omega), h3]
          · rw [if_neg hb, Memory.byte, if_neg (by omega)]
        · rename_i h1 h2 h3
          simp only [Memory.byte]
          by_cases hb : b = a
          · simp [hb]
          · rw [if_neg (fun h => hb h.symm), if_neg hb, if_neg (by omega)]
      · simp only [Memory.byte]
        by_cases hx : x = b
        · subst hx; rw [if_pos rfl, if_pos rfl, if_neg (by omega)]
        · rw [if_neg hx, if_neg hx, ih w.2]

/-! ## Tables -/

section
variable {κ α : Type} [DecidableEq κ]

/-- The entry set is the entry found. -/
@[simp] theorem Tab.find_set_same (t : Tab κ α) (k : κ) (v : α) : (t.set k v).find k = some v := by
  induction t with
  | nil => simp [Tab.set, Tab.find]
  | cons c t ih =>
    obtain ⟨x, y⟩ := c
    by_cases h : x = k <;> simp [Tab.set, Tab.find, h, ih]

/-- Every other entry stands. -/
theorem Tab.find_set_ne (t : Tab κ α) {k x : κ} (v : α) (h : x ≠ k) : (t.set k v).find x = t.find x := by
  induction t with
  | nil => simp [Tab.set, Tab.find, h.symm]
  | cons c t ih =>
    obtain ⟨y, z⟩ := c
    by_cases hy : y = k
    · subst hy; simp [Tab.set, Tab.find, h.symm]
    · by_cases hx : y = x
      · subst hx; simp [Tab.set, Tab.find, hy]
      · simp [Tab.set, Tab.find, hy, hx, ih]

/-- A deleted entry is gone. -/
@[simp] theorem Tab.find_del_same (t : Tab κ α) (k : κ) : (t.del k).find k = none := by
  induction t with
  | nil => simp [Tab.del, Tab.find]
  | cons c t ih =>
    obtain ⟨x, y⟩ := c
    by_cases h : x = k
    · simpa [Tab.del, h] using ih
    · have e : Tab.del ((x, y) :: t) k = (x, y) :: Tab.del t k := by simp [Tab.del, h]
      rw [e, Tab.find, if_neg h, ih]

/-- Every other entry stands. -/
theorem Tab.find_del_ne (t : Tab κ α) {k x : κ} (h : x ≠ k) : (t.del k).find x = t.find x := by
  induction t with
  | nil => simp [Tab.del, Tab.find]
  | cons c t ih =>
    obtain ⟨y, z⟩ := c
    by_cases hy : y = k
    · subst hy
      have e : Tab.del ((y, z) :: t) y = Tab.del t y := by simp [Tab.del]
      rw [e, ih, Tab.find, if_neg (Ne.symm h)]
    · have e : Tab.del ((y, z) :: t) k = (y, z) :: Tab.del t k := by simp [Tab.del, hy]
      rw [e, Tab.find, Tab.find, ih]

end

end Sys2Proof.Machine
end

