-- ==== Sys2Proof/Laws/State.lean ====
section
/-! SUPPORT. What each update of the state leaves of each field, and what it does to its own. -/

namespace Sys2Proof.Machine

/-! ## The warp of a key is set -/

@[simp] theorem State.putWarp_agenda (s : State) (k : WarpKey) (w : Warp) : (s.putWarp k w).agenda = s.agenda := rfl
@[simp] theorem State.putWarp_cur (s : State) (k : WarpKey) (w : Warp) : (s.putWarp k w).cur = s.cur := rfl
@[simp] theorem State.putWarp_dual (s : State) (k : WarpKey) (w : Warp) : (s.putWarp k w).dual = s.dual := rfl
@[simp] theorem State.putWarp_fresh (s : State) (k : WarpKey) (w : Warp) : (s.putWarp k w).fresh = s.fresh := rfl
@[simp] theorem State.putWarp_draws (s : State) (k : WarpKey) (w : Warp) : (s.putWarp k w).draws = s.draws := rfl
@[simp] theorem State.putWarp_gtime (s : State) (k : WarpKey) (w : Warp) : (s.putWarp k w).gtime = s.gtime := rfl
@[simp] theorem State.putWarp_wall (s : State) (k : WarpKey) (w : Warp) : (s.putWarp k w).wall = s.wall := rfl
@[simp] theorem State.putWarp_skew0 (s : State) (k : WarpKey) (w : Warp) : (s.putWarp k w).skew0 = s.skew0 := rfl
@[simp] theorem State.putWarp_skew1 (s : State) (k : WarpKey) (w : Warp) : (s.putWarp k w).skew1 = s.skew1 := rfl
@[simp] theorem State.putWarp_boot (s : State) (k : WarpKey) (w : Warp) : (s.putWarp k w).boot = s.boot := rfl
@[simp] theorem State.putWarp_clPres (s : State) (k : WarpKey) (w : Warp) : (s.putWarp k w).clPres = s.clPres := rfl
@[simp] theorem State.putWarp_chPres (s : State) (k : WarpKey) (w : Warp) : (s.putWarp k w).chPres = s.chPres := rfl
@[simp] theorem State.putWarp_chRetired (s : State) (k : WarpKey) (w : Warp) : (s.putWarp k w).chRetired = s.chRetired := rfl
@[simp] theorem State.putWarp_secFused (s : State) (k : WarpKey) (w : Warp) : (s.putWarp k w).secFused = s.secFused := rfl
@[simp] theorem State.putWarp_staging (s : State) (k : WarpKey) (w : Warp) : (s.putWarp k w).staging = s.staging := rfl
@[simp] theorem State.putWarp_measurement (s : State) (k : WarpKey) (w : Warp) : (s.putWarp k w).measurement = s.measurement := rfl
@[simp] theorem State.putWarp_report (s : State) (k : WarpKey) (w : Warp) : (s.putWarp k w).report = s.report := rfl
@[simp] theorem State.putWarp_secVer (s : State) (k : WarpKey) (w : Warp) : (s.putWarp k w).secVer = s.secVer := rfl
@[simp] theorem State.putWarp_mbReq (s : State) (k : WarpKey) (w : Warp) : (s.putWarp k w).mbReq = s.mbReq := rfl
@[simp] theorem State.putWarp_mbResp (s : State) (k : WarpKey) (w : Warp) : (s.putWarp k w).mbResp = s.mbResp := rfl
@[simp] theorem State.putWarp_mbBusy (s : State) (k : WarpKey) (w : Warp) : (s.putWarp k w).mbBusy = s.mbBusy := rfl
@[simp] theorem State.putWarp_fwReq (s : State) (k : WarpKey) (w : Warp) : (s.putWarp k w).fwReq = s.fwReq := rfl
@[simp] theorem State.putWarp_fwResp (s : State) (k : WarpKey) (w : Warp) : (s.putWarp k w).fwResp = s.fwResp := rfl
@[simp] theorem State.putWarp_fwBusy (s : State) (k : WarpKey) (w : Warp) : (s.putWarp k w).fwBusy = s.fwBusy := rfl
@[simp] theorem State.putWarp_pwrcap (s : State) (k : WarpKey) (w : Warp) : (s.putWarp k w).pwrcap = s.pwrcap := rfl
@[simp] theorem State.putWarp_watts (s : State) (k : WarpKey) (w : Warp) : (s.putWarp k w).watts = s.watts := rfl
@[simp] theorem State.putWarp_grants (s : State) (k : WarpKey) (w : Warp) : (s.putWarp k w).grants = s.grants := rfl
@[simp] theorem State.putWarp_idle (s : State) (k : WarpKey) (w : Warp) : (s.putWarp k w).idle = s.idle := rfl
@[simp] theorem State.putWarp_emergency (s : State) (k : WarpKey) (w : Warp) : (s.putWarp k w).emergency = s.emergency := rfl
@[simp] theorem State.putWarp_hot0 (s : State) (k : WarpKey) (w : Warp) : (s.putWarp k w).hot0 = s.hot0 := rfl
@[simp] theorem State.putWarp_hot1 (s : State) (k : WarpKey) (w : Warp) : (s.putWarp k w).hot1 = s.hot1 := rfl
@[simp] theorem State.putWarp_portsDown (s : State) (k : WarpKey) (w : Warp) : (s.putWarp k w).portsDown = s.portsDown := rfl
@[simp] theorem State.putWarp_gatedPeers (s : State) (k : WarpKey) (w : Warp) : (s.putWarp k w).gatedPeers = s.gatedPeers := rfl
@[simp] theorem State.putWarp_regaining (s : State) (k : WarpKey) (w : Warp) : (s.putWarp k w).regaining = s.regaining := rfl
@[simp] theorem State.putWarp_timeSrc (s : State) (k : WarpKey) (w : Warp) : (s.putWarp k w).timeSrc = s.timeSrc := rfl
@[simp] theorem State.putWarp_tLast (s : State) (k : WarpKey) (w : Warp) : (s.putWarp k w).tLast = s.tLast := rfl
@[simp] theorem State.putWarp_lastPtp (s : State) (k : WarpKey) (w : Warp) : (s.putWarp k w).lastPtp = s.lastPtp := rfl
@[simp] theorem State.putWarp_lastFabric (s : State) (k : WarpKey) (w : Warp) : (s.putWarp k w).lastFabric = s.lastFabric := rfl
@[simp] theorem State.putWarp_lastPtm (s : State) (k : WarpKey) (w : Warp) : (s.putWarp k w).lastPtm = s.lastPtm := rfl
@[simp] theorem State.putWarp_slew (s : State) (k : WarpKey) (w : Warp) : (s.putWarp k w).slew = s.slew := rfl
@[simp] theorem State.putWarp_offset (s : State) (k : WarpKey) (w : Warp) : (s.putWarp k w).offset = s.offset := rfl
@[simp] theorem State.putWarp_hPeers (s : State) (k : WarpKey) (w : Warp) : (s.putWarp k w).hPeers = s.hPeers := rfl
@[simp] theorem State.putWarp_crossHarvest (s : State) (k : WarpKey) (w : Warp) : (s.putWarp k w).crossHarvest = s.crossHarvest := rfl
@[simp] theorem State.putWarp_scrubQ (s : State) (k : WarpKey) (w : Warp) : (s.putWarp k w).scrubQ = s.scrubQ := rfl
@[simp] theorem State.putWarp_cleanPool (s : State) (k : WarpKey) (w : Warp) : (s.putWarp k w).cleanPool = s.cleanPool := rfl
@[simp] theorem State.putWarp_scrubbed (s : State) (k : WarpKey) (w : Warp) : (s.putWarp k w).scrubbed = s.scrubbed := rfl
@[simp] theorem State.putWarp_hostMem (s : State) (k : WarpKey) (w : Warp) : (s.putWarp k w).hostMem = s.hostMem := rfl
@[simp] theorem State.putWarp_hostData (s : State) (k : WarpKey) (w : Warp) : (s.putWarp k w).hostData = s.hostData := rfl
@[simp] theorem State.putWarp_irqs (s : State) (k : WarpKey) (w : Warp) : (s.putWarp k w).irqs = s.irqs := rfl
@[simp] theorem State.putWarp_reports (s : State) (k : WarpKey) (w : Warp) : (s.putWarp k w).reports = s.reports := rfl
@[simp] theorem State.putWarp_corrected (s : State) (k : WarpKey) (w : Warp) : (s.putWarp k w).corrected = s.corrected := rfl
@[simp] theorem State.putWarp_softErrors (s : State) (k : WarpKey) (w : Warp) : (s.putWarp k w).softErrors = s.softErrors := rfl
@[simp] theorem State.putWarp_upsets (s : State) (k : WarpKey) (w : Warp) : (s.putWarp k w).upsets = s.upsets := rfl
@[simp] theorem State.putWarp_fes (s : State) (k : WarpKey) (w : Warp) : (s.putWarp k w).fes = s.fes := rfl
@[simp] theorem State.putWarp_vfLink (s : State) (k : WarpKey) (w : Warp) : (s.putWarp k w).vfLink = s.vfLink := rfl
@[simp] theorem State.putWarp_parts (s : State) (k : WarpKey) (w : Warp) : (s.putWarp k w).parts = s.parts := rfl
@[simp] theorem State.putWarp_jobs (s : State) (k : WarpKey) (w : Warp) : (s.putWarp k w).jobs = s.jobs := rfl
@[simp] theorem State.putWarp_tasks (s : State) (k : WarpKey) (w : Warp) : (s.putWarp k w).tasks = s.tasks := rfl
@[simp] theorem State.putWarp_past (s : State) (k : WarpKey) (w : Warp) : (s.putWarp k w).past = s.past := rfl
@[simp] theorem State.putWarp_cores (s : State) (k : WarpKey) (w : Warp) : (s.putWarp k w).cores = s.cores := rfl
@[simp] theorem State.putWarp_clusters (s : State) (k : WarpKey) (w : Warp) : (s.putWarp k w).clusters = s.clusters := rfl
@[simp] theorem State.putWarp_ops (s : State) (k : WarpKey) (w : Warp) : (s.putWarp k w).ops = s.ops := rfl
@[simp] theorem State.putWarp_contribs (s : State) (k : WarpKey) (w : Warp) : (s.putWarp k w).contribs = s.contribs := rfl
@[simp] theorem State.putWarp_hbm (s : State) (k : WarpKey) (w : Warp) : (s.putWarp k w).hbm = s.hbm := rfl
@[simp] theorem State.putWarp_lines (s : State) (k : WarpKey) (w : Warp) : (s.putWarp k w).lines = s.lines := rfl
@[simp] theorem State.putWarp_copies (s : State) (k : WarpKey) (w : Warp) : (s.putWarp k w).copies = s.copies := rfl
@[simp] theorem State.putWarp_l2 (s : State) (k : WarpKey) (w : Warp) : (s.putWarp k w).l2 = s.l2 := rfl
@[simp] theorem State.putWarp_l1 (s : State) (k : WarpKey) (w : Warp) : (s.putWarp k w).l1 = s.l1 := rfl

/-! ## The partition of a number is set -/

@[simp] theorem State.putPart_agenda (s : State) (n : Nat) (p : Part) : (s.putPart n p).agenda = s.agenda := rfl
@[simp] theorem State.putPart_cur (s : State) (n : Nat) (p : Part) : (s.putPart n p).cur = s.cur := rfl
@[simp] theorem State.putPart_dual (s : State) (n : Nat) (p : Part) : (s.putPart n p).dual = s.dual := rfl
@[simp] theorem State.putPart_fresh (s : State) (n : Nat) (p : Part) : (s.putPart n p).fresh = s.fresh := rfl
@[simp] theorem State.putPart_draws (s : State) (n : Nat) (p : Part) : (s.putPart n p).draws = s.draws := rfl
@[simp] theorem State.putPart_gtime (s : State) (n : Nat) (p : Part) : (s.putPart n p).gtime = s.gtime := rfl
@[simp] theorem State.putPart_wall (s : State) (n : Nat) (p : Part) : (s.putPart n p).wall = s.wall := rfl
@[simp] theorem State.putPart_skew0 (s : State) (n : Nat) (p : Part) : (s.putPart n p).skew0 = s.skew0 := rfl
@[simp] theorem State.putPart_skew1 (s : State) (n : Nat) (p : Part) : (s.putPart n p).skew1 = s.skew1 := rfl
@[simp] theorem State.putPart_boot (s : State) (n : Nat) (p : Part) : (s.putPart n p).boot = s.boot := rfl
@[simp] theorem State.putPart_clPres (s : State) (n : Nat) (p : Part) : (s.putPart n p).clPres = s.clPres := rfl
@[simp] theorem State.putPart_chPres (s : State) (n : Nat) (p : Part) : (s.putPart n p).chPres = s.chPres := rfl
@[simp] theorem State.putPart_chRetired (s : State) (n : Nat) (p : Part) : (s.putPart n p).chRetired = s.chRetired := rfl
@[simp] theorem State.putPart_secFused (s : State) (n : Nat) (p : Part) : (s.putPart n p).secFused = s.secFused := rfl
@[simp] theorem State.putPart_staging (s : State) (n : Nat) (p : Part) : (s.putPart n p).staging = s.staging := rfl
@[simp] theorem State.putPart_measurement (s : State) (n : Nat) (p : Part) : (s.putPart n p).measurement = s.measurement := rfl
@[simp] theorem State.putPart_report (s : State) (n : Nat) (p : Part) : (s.putPart n p).report = s.report := rfl
@[simp] theorem State.putPart_secVer (s : State) (n : Nat) (p : Part) : (s.putPart n p).secVer = s.secVer := rfl
@[simp] theorem State.putPart_mbReq (s : State) (n : Nat) (p : Part) : (s.putPart n p).mbReq = s.mbReq := rfl
@[simp] theorem State.putPart_mbResp (s : State) (n : Nat) (p : Part) : (s.putPart n p).mbResp = s.mbResp := rfl
@[simp] theorem State.putPart_mbBusy (s : State) (n : Nat) (p : Part) : (s.putPart n p).mbBusy = s.mbBusy := rfl
@[simp] theorem State.putPart_fwReq (s : State) (n : Nat) (p : Part) : (s.putPart n p).fwReq = s.fwReq := rfl
@[simp] theorem State.putPart_fwResp (s : State) (n : Nat) (p : Part) : (s.putPart n p).fwResp = s.fwResp := rfl
@[simp] theorem State.putPart_fwBusy (s : State) (n : Nat) (p : Part) : (s.putPart n p).fwBusy = s.fwBusy := rfl
@[simp] theorem State.putPart_pwrcap (s : State) (n : Nat) (p : Part) : (s.putPart n p).pwrcap = s.pwrcap := rfl
@[simp] theorem State.putPart_watts (s : State) (n : Nat) (p : Part) : (s.putPart n p).watts = s.watts := rfl
@[simp] theorem State.putPart_grants (s : State) (n : Nat) (p : Part) : (s.putPart n p).grants = s.grants := rfl
@[simp] theorem State.putPart_idle (s : State) (n : Nat) (p : Part) : (s.putPart n p).idle = s.idle := rfl
@[simp] theorem State.putPart_emergency (s : State) (n : Nat) (p : Part) : (s.putPart n p).emergency = s.emergency := rfl
@[simp] theorem State.putPart_hot0 (s : State) (n : Nat) (p : Part) : (s.putPart n p).hot0 = s.hot0 := rfl
@[simp] theorem State.putPart_hot1 (s : State) (n : Nat) (p : Part) : (s.putPart n p).hot1 = s.hot1 := rfl
@[simp] theorem State.putPart_portsDown (s : State) (n : Nat) (p : Part) : (s.putPart n p).portsDown = s.portsDown := rfl
@[simp] theorem State.putPart_gatedPeers (s : State) (n : Nat) (p : Part) : (s.putPart n p).gatedPeers = s.gatedPeers := rfl
@[simp] theorem State.putPart_regaining (s : State) (n : Nat) (p : Part) : (s.putPart n p).regaining = s.regaining := rfl
@[simp] theorem State.putPart_timeSrc (s : State) (n : Nat) (p : Part) : (s.putPart n p).timeSrc = s.timeSrc := rfl
@[simp] theorem State.putPart_tLast (s : State) (n : Nat) (p : Part) : (s.putPart n p).tLast = s.tLast := rfl
@[simp] theorem State.putPart_lastPtp (s : State) (n : Nat) (p : Part) : (s.putPart n p).lastPtp = s.lastPtp := rfl
@[simp] theorem State.putPart_lastFabric (s : State) (n : Nat) (p : Part) : (s.putPart n p).lastFabric = s.lastFabric := rfl
@[simp] theorem State.putPart_lastPtm (s : State) (n : Nat) (p : Part) : (s.putPart n p).lastPtm = s.lastPtm := rfl
@[simp] theorem State.putPart_slew (s : State) (n : Nat) (p : Part) : (s.putPart n p).slew = s.slew := rfl
@[simp] theorem State.putPart_offset (s : State) (n : Nat) (p : Part) : (s.putPart n p).offset = s.offset := rfl
@[simp] theorem State.putPart_hPeers (s : State) (n : Nat) (p : Part) : (s.putPart n p).hPeers = s.hPeers := rfl
@[simp] theorem State.putPart_crossHarvest (s : State) (n : Nat) (p : Part) : (s.putPart n p).crossHarvest = s.crossHarvest := rfl
@[simp] theorem State.putPart_scrubQ (s : State) (n : Nat) (p : Part) : (s.putPart n p).scrubQ = s.scrubQ := rfl
@[simp] theorem State.putPart_cleanPool (s : State) (n : Nat) (p : Part) : (s.putPart n p).cleanPool = s.cleanPool := rfl
@[simp] theorem State.putPart_scrubbed (s : State) (n : Nat) (p : Part) : (s.putPart n p).scrubbed = s.scrubbed := rfl
@[simp] theorem State.putPart_hostMem (s : State) (n : Nat) (p : Part) : (s.putPart n p).hostMem = s.hostMem := rfl
@[simp] theorem State.putPart_hostData (s : State) (n : Nat) (p : Part) : (s.putPart n p).hostData = s.hostData := rfl
@[simp] theorem State.putPart_irqs (s : State) (n : Nat) (p : Part) : (s.putPart n p).irqs = s.irqs := rfl
@[simp] theorem State.putPart_reports (s : State) (n : Nat) (p : Part) : (s.putPart n p).reports = s.reports := rfl
@[simp] theorem State.putPart_corrected (s : State) (n : Nat) (p : Part) : (s.putPart n p).corrected = s.corrected := rfl
@[simp] theorem State.putPart_softErrors (s : State) (n : Nat) (p : Part) : (s.putPart n p).softErrors = s.softErrors := rfl
@[simp] theorem State.putPart_upsets (s : State) (n : Nat) (p : Part) : (s.putPart n p).upsets = s.upsets := rfl
@[simp] theorem State.putPart_fes (s : State) (n : Nat) (p : Part) : (s.putPart n p).fes = s.fes := rfl
@[simp] theorem State.putPart_vfLink (s : State) (n : Nat) (p : Part) : (s.putPart n p).vfLink = s.vfLink := rfl
@[simp] theorem State.putPart_jobs (s : State) (n : Nat) (p : Part) : (s.putPart n p).jobs = s.jobs := rfl
@[simp] theorem State.putPart_tasks (s : State) (n : Nat) (p : Part) : (s.putPart n p).tasks = s.tasks := rfl
@[simp] theorem State.putPart_past (s : State) (n : Nat) (p : Part) : (s.putPart n p).past = s.past := rfl
@[simp] theorem State.putPart_warps (s : State) (n : Nat) (p : Part) : (s.putPart n p).warps = s.warps := rfl
@[simp] theorem State.putPart_cores (s : State) (n : Nat) (p : Part) : (s.putPart n p).cores = s.cores := rfl
@[simp] theorem State.putPart_clusters (s : State) (n : Nat) (p : Part) : (s.putPart n p).clusters = s.clusters := rfl
@[simp] theorem State.putPart_ops (s : State) (n : Nat) (p : Part) : (s.putPart n p).ops = s.ops := rfl
@[simp] theorem State.putPart_contribs (s : State) (n : Nat) (p : Part) : (s.putPart n p).contribs = s.contribs := rfl
@[simp] theorem State.putPart_hbm (s : State) (n : Nat) (p : Part) : (s.putPart n p).hbm = s.hbm := rfl
@[simp] theorem State.putPart_lines (s : State) (n : Nat) (p : Part) : (s.putPart n p).lines = s.lines := rfl
@[simp] theorem State.putPart_copies (s : State) (n : Nat) (p : Part) : (s.putPart n p).copies = s.copies := rfl
@[simp] theorem State.putPart_l2 (s : State) (n : Nat) (p : Part) : (s.putPart n p).l2 = s.l2 := rfl
@[simp] theorem State.putPart_l1 (s : State) (n : Nat) (p : Part) : (s.putPart n p).l1 = s.l1 := rfl

/-! ## A task is set -/

@[simp] theorem State.setTask_agenda (s : State) (t : Task) : (s.setTask t).agenda = s.agenda := rfl
@[simp] theorem State.setTask_cur (s : State) (t : Task) : (s.setTask t).cur = s.cur := rfl
@[simp] theorem State.setTask_dual (s : State) (t : Task) : (s.setTask t).dual = s.dual := rfl
@[simp] theorem State.setTask_fresh (s : State) (t : Task) : (s.setTask t).fresh = s.fresh := rfl
@[simp] theorem State.setTask_draws (s : State) (t : Task) : (s.setTask t).draws = s.draws := rfl
@[simp] theorem State.setTask_gtime (s : State) (t : Task) : (s.setTask t).gtime = s.gtime := rfl
@[simp] theorem State.setTask_wall (s : State) (t : Task) : (s.setTask t).wall = s.wall := rfl
@[simp] theorem State.setTask_skew0 (s : State) (t : Task) : (s.setTask t).skew0 = s.skew0 := rfl
@[simp] theorem State.setTask_skew1 (s : State) (t : Task) : (s.setTask t).skew1 = s.skew1 := rfl
@[simp] theorem State.setTask_boot (s : State) (t : Task) : (s.setTask t).boot = s.boot := rfl
@[simp] theorem State.setTask_clPres (s : State) (t : Task) : (s.setTask t).clPres = s.clPres := rfl
@[simp] theorem State.setTask_chPres (s : State) (t : Task) : (s.setTask t).chPres = s.chPres := rfl
@[simp] theorem State.setTask_chRetired (s : State) (t : Task) : (s.setTask t).chRetired = s.chRetired := rfl
@[simp] theorem State.setTask_secFused (s : State) (t : Task) : (s.setTask t).secFused = s.secFused := rfl
@[simp] theorem State.setTask_staging (s : State) (t : Task) : (s.setTask t).staging = s.staging := rfl
@[simp] theorem State.setTask_measurement (s : State) (t : Task) : (s.setTask t).measurement = s.measurement := rfl
@[simp] theorem State.setTask_report (s : State) (t : Task) : (s.setTask t).report = s.report := rfl
@[simp] theorem State.setTask_secVer (s : State) (t : Task) : (s.setTask t).secVer = s.secVer := rfl
@[simp] theorem State.setTask_mbReq (s : State) (t : Task) : (s.setTask t).mbReq = s.mbReq := rfl
@[simp] theorem State.setTask_mbResp (s : State) (t : Task) : (s.setTask t).mbResp = s.mbResp := rfl
@[simp] theorem State.setTask_mbBusy (s : State) (t : Task) : (s.setTask t).mbBusy = s.mbBusy := rfl
@[simp] theorem State.setTask_fwReq (s : State) (t : Task) : (s.setTask t).fwReq = s.fwReq := rfl
@[simp] theorem State.setTask_fwResp (s : State) (t : Task) : (s.setTask t).fwResp = s.fwResp := rfl
@[simp] theorem State.setTask_fwBusy (s : State) (t : Task) : (s.setTask t).fwBusy = s.fwBusy := rfl
@[simp] theorem State.setTask_pwrcap (s : State) (t : Task) : (s.setTask t).pwrcap = s.pwrcap := rfl
@[simp] theorem State.setTask_watts (s : State) (t : Task) : (s.setTask t).watts = s.watts := rfl
@[simp] theorem State.setTask_grants (s : State) (t : Task) : (s.setTask t).grants = s.grants := rfl
@[simp] theorem State.setTask_idle (s : State) (t : Task) : (s.setTask t).idle = s.idle := rfl
@[simp] theorem State.setTask_emergency (s : State) (t : Task) : (s.setTask t).emergency = s.emergency := rfl
@[simp] theorem State.setTask_hot0 (s : State) (t : Task) : (s.setTask t).hot0 = s.hot0 := rfl
@[simp] theorem State.setTask_hot1 (s : State) (t : Task) : (s.setTask t).hot1 = s.hot1 := rfl
@[simp] theorem State.setTask_portsDown (s : State) (t : Task) : (s.setTask t).portsDown = s.portsDown := rfl
@[simp] theorem State.setTask_gatedPeers (s : State) (t : Task) : (s.setTask t).gatedPeers = s.gatedPeers := rfl
@[simp] theorem State.setTask_regaining (s : State) (t : Task) : (s.setTask t).regaining = s.regaining := rfl
@[simp] theorem State.setTask_timeSrc (s : State) (t : Task) : (s.setTask t).timeSrc = s.timeSrc := rfl
@[simp] theorem State.setTask_tLast (s : State) (t : Task) : (s.setTask t).tLast = s.tLast := rfl
@[simp] theorem State.setTask_lastPtp (s : State) (t : Task) : (s.setTask t).lastPtp = s.lastPtp := rfl
@[simp] theorem State.setTask_lastFabric (s : State) (t : Task) : (s.setTask t).lastFabric = s.lastFabric := rfl
@[simp] theorem State.setTask_lastPtm (s : State) (t : Task) : (s.setTask t).lastPtm = s.lastPtm := rfl
@[simp] theorem State.setTask_slew (s : State) (t : Task) : (s.setTask t).slew = s.slew := rfl
@[simp] theorem State.setTask_offset (s : State) (t : Task) : (s.setTask t).offset = s.offset := rfl
@[simp] theorem State.setTask_hPeers (s : State) (t : Task) : (s.setTask t).hPeers = s.hPeers := rfl
@[simp] theorem State.setTask_crossHarvest (s : State) (t : Task) : (s.setTask t).crossHarvest = s.crossHarvest := rfl
@[simp] theorem State.setTask_scrubQ (s : State) (t : Task) : (s.setTask t).scrubQ = s.scrubQ := rfl
@[simp] theorem State.setTask_cleanPool (s : State) (t : Task) : (s.setTask t).cleanPool = s.cleanPool := rfl
@[simp] theorem State.setTask_scrubbed (s : State) (t : Task) : (s.setTask t).scrubbed = s.scrubbed := rfl
@[simp] theorem State.setTask_hostMem (s : State) (t : Task) : (s.setTask t).hostMem = s.hostMem := rfl
@[simp] theorem State.setTask_hostData (s : State) (t : Task) : (s.setTask t).hostData = s.hostData := rfl
@[simp] theorem State.setTask_irqs (s : State) (t : Task) : (s.setTask t).irqs = s.irqs := rfl
@[simp] theorem State.setTask_reports (s : State) (t : Task) : (s.setTask t).reports = s.reports := rfl
@[simp] theorem State.setTask_corrected (s : State) (t : Task) : (s.setTask t).corrected = s.corrected := rfl
@[simp] theorem State.setTask_softErrors (s : State) (t : Task) : (s.setTask t).softErrors = s.softErrors := rfl
@[simp] theorem State.setTask_upsets (s : State) (t : Task) : (s.setTask t).upsets = s.upsets := rfl
@[simp] theorem State.setTask_fes (s : State) (t : Task) : (s.setTask t).fes = s.fes := rfl
@[simp] theorem State.setTask_vfLink (s : State) (t : Task) : (s.setTask t).vfLink = s.vfLink := rfl
@[simp] theorem State.setTask_parts (s : State) (t : Task) : (s.setTask t).parts = s.parts := rfl
@[simp] theorem State.setTask_jobs (s : State) (t : Task) : (s.setTask t).jobs = s.jobs := rfl
@[simp] theorem State.setTask_past (s : State) (t : Task) : (s.setTask t).past = s.past := rfl
@[simp] theorem State.setTask_warps (s : State) (t : Task) : (s.setTask t).warps = s.warps := rfl
@[simp] theorem State.setTask_cores (s : State) (t : Task) : (s.setTask t).cores = s.cores := rfl
@[simp] theorem State.setTask_clusters (s : State) (t : Task) : (s.setTask t).clusters = s.clusters := rfl
@[simp] theorem State.setTask_ops (s : State) (t : Task) : (s.setTask t).ops = s.ops := rfl
@[simp] theorem State.setTask_contribs (s : State) (t : Task) : (s.setTask t).contribs = s.contribs := rfl
@[simp] theorem State.setTask_hbm (s : State) (t : Task) : (s.setTask t).hbm = s.hbm := rfl
@[simp] theorem State.setTask_lines (s : State) (t : Task) : (s.setTask t).lines = s.lines := rfl
@[simp] theorem State.setTask_copies (s : State) (t : Task) : (s.setTask t).copies = s.copies := rfl
@[simp] theorem State.setTask_l2 (s : State) (t : Task) : (s.setTask t).l2 = s.l2 := rfl
@[simp] theorem State.setTask_l1 (s : State) (t : Task) : (s.setTask t).l1 = s.l1 := rfl

/-! ## A core is set -/

@[simp] theorem State.setCore_agenda (s : State) (c : CoreKey) (x : Core) : (s.setCore c x).agenda = s.agenda := rfl
@[simp] theorem State.setCore_cur (s : State) (c : CoreKey) (x : Core) : (s.setCore c x).cur = s.cur := rfl
@[simp] theorem State.setCore_dual (s : State) (c : CoreKey) (x : Core) : (s.setCore c x).dual = s.dual := rfl
@[simp] theorem State.setCore_fresh (s : State) (c : CoreKey) (x : Core) : (s.setCore c x).fresh = s.fresh := rfl
@[simp] theorem State.setCore_draws (s : State) (c : CoreKey) (x : Core) : (s.setCore c x).draws = s.draws := rfl
@[simp] theorem State.setCore_gtime (s : State) (c : CoreKey) (x : Core) : (s.setCore c x).gtime = s.gtime := rfl
@[simp] theorem State.setCore_wall (s : State) (c : CoreKey) (x : Core) : (s.setCore c x).wall = s.wall := rfl
@[simp] theorem State.setCore_skew0 (s : State) (c : CoreKey) (x : Core) : (s.setCore c x).skew0 = s.skew0 := rfl
@[simp] theorem State.setCore_skew1 (s : State) (c : CoreKey) (x : Core) : (s.setCore c x).skew1 = s.skew1 := rfl
@[simp] theorem State.setCore_boot (s : State) (c : CoreKey) (x : Core) : (s.setCore c x).boot = s.boot := rfl
@[simp] theorem State.setCore_clPres (s : State) (c : CoreKey) (x : Core) : (s.setCore c x).clPres = s.clPres := rfl
@[simp] theorem State.setCore_chPres (s : State) (c : CoreKey) (x : Core) : (s.setCore c x).chPres = s.chPres := rfl
@[simp] theorem State.setCore_chRetired (s : State) (c : CoreKey) (x : Core) : (s.setCore c x).chRetired = s.chRetired := rfl
@[simp] theorem State.setCore_secFused (s : State) (c : CoreKey) (x : Core) : (s.setCore c x).secFused = s.secFused := rfl
@[simp] theorem State.setCore_staging (s : State) (c : CoreKey) (x : Core) : (s.setCore c x).staging = s.staging := rfl
@[simp] theorem State.setCore_measurement (s : State) (c : CoreKey) (x : Core) : (s.setCore c x).measurement = s.measurement := rfl
@[simp] theorem State.setCore_report (s : State) (c : CoreKey) (x : Core) : (s.setCore c x).report = s.report := rfl
@[simp] theorem State.setCore_secVer (s : State) (c : CoreKey) (x : Core) : (s.setCore c x).secVer = s.secVer := rfl
@[simp] theorem State.setCore_mbReq (s : State) (c : CoreKey) (x : Core) : (s.setCore c x).mbReq = s.mbReq := rfl
@[simp] theorem State.setCore_mbResp (s : State) (c : CoreKey) (x : Core) : (s.setCore c x).mbResp = s.mbResp := rfl
@[simp] theorem State.setCore_mbBusy (s : State) (c : CoreKey) (x : Core) : (s.setCore c x).mbBusy = s.mbBusy := rfl
@[simp] theorem State.setCore_fwReq (s : State) (c : CoreKey) (x : Core) : (s.setCore c x).fwReq = s.fwReq := rfl
@[simp] theorem State.setCore_fwResp (s : State) (c : CoreKey) (x : Core) : (s.setCore c x).fwResp = s.fwResp := rfl
@[simp] theorem State.setCore_fwBusy (s : State) (c : CoreKey) (x : Core) : (s.setCore c x).fwBusy = s.fwBusy := rfl
@[simp] theorem State.setCore_pwrcap (s : State) (c : CoreKey) (x : Core) : (s.setCore c x).pwrcap = s.pwrcap := rfl
@[simp] theorem State.setCore_watts (s : State) (c : CoreKey) (x : Core) : (s.setCore c x).watts = s.watts := rfl
@[simp] theorem State.setCore_grants (s : State) (c : CoreKey) (x : Core) : (s.setCore c x).grants = s.grants := rfl
@[simp] theorem State.setCore_idle (s : State) (c : CoreKey) (x : Core) : (s.setCore c x).idle = s.idle := rfl
@[simp] theorem State.setCore_emergency (s : State) (c : CoreKey) (x : Core) : (s.setCore c x).emergency = s.emergency := rfl
@[simp] theorem State.setCore_hot0 (s : State) (c : CoreKey) (x : Core) : (s.setCore c x).hot0 = s.hot0 := rfl
@[simp] theorem State.setCore_hot1 (s : State) (c : CoreKey) (x : Core) : (s.setCore c x).hot1 = s.hot1 := rfl
@[simp] theorem State.setCore_portsDown (s : State) (c : CoreKey) (x : Core) : (s.setCore c x).portsDown = s.portsDown := rfl
@[simp] theorem State.setCore_gatedPeers (s : State) (c : CoreKey) (x : Core) : (s.setCore c x).gatedPeers = s.gatedPeers := rfl
@[simp] theorem State.setCore_regaining (s : State) (c : CoreKey) (x : Core) : (s.setCore c x).regaining = s.regaining := rfl
@[simp] theorem State.setCore_timeSrc (s : State) (c : CoreKey) (x : Core) : (s.setCore c x).timeSrc = s.timeSrc := rfl
@[simp] theorem State.setCore_tLast (s : State) (c : CoreKey) (x : Core) : (s.setCore c x).tLast = s.tLast := rfl
@[simp] theorem State.setCore_lastPtp (s : State) (c : CoreKey) (x : Core) : (s.setCore c x).lastPtp = s.lastPtp := rfl
@[simp] theorem State.setCore_lastFabric (s : State) (c : CoreKey) (x : Core) : (s.setCore c x).lastFabric = s.lastFabric := rfl
@[simp] theorem State.setCore_lastPtm (s : State) (c : CoreKey) (x : Core) : (s.setCore c x).lastPtm = s.lastPtm := rfl
@[simp] theorem State.setCore_slew (s : State) (c : CoreKey) (x : Core) : (s.setCore c x).slew = s.slew := rfl
@[simp] theorem State.setCore_offset (s : State) (c : CoreKey) (x : Core) : (s.setCore c x).offset = s.offset := rfl
@[simp] theorem State.setCore_hPeers (s : State) (c : CoreKey) (x : Core) : (s.setCore c x).hPeers = s.hPeers := rfl
@[simp] theorem State.setCore_crossHarvest (s : State) (c : CoreKey) (x : Core) : (s.setCore c x).crossHarvest = s.crossHarvest := rfl
@[simp] theorem State.setCore_scrubQ (s : State) (c : CoreKey) (x : Core) : (s.setCore c x).scrubQ = s.scrubQ := rfl
@[simp] theorem State.setCore_cleanPool (s : State) (c : CoreKey) (x : Core) : (s.setCore c x).cleanPool = s.cleanPool := rfl
@[simp] theorem State.setCore_scrubbed (s : State) (c : CoreKey) (x : Core) : (s.setCore c x).scrubbed = s.scrubbed := rfl
@[simp] theorem State.setCore_hostMem (s : State) (c : CoreKey) (x : Core) : (s.setCore c x).hostMem = s.hostMem := rfl
@[simp] theorem State.setCore_hostData (s : State) (c : CoreKey) (x : Core) : (s.setCore c x).hostData = s.hostData := rfl
@[simp] theorem State.setCore_irqs (s : State) (c : CoreKey) (x : Core) : (s.setCore c x).irqs = s.irqs := rfl
@[simp] theorem State.setCore_reports (s : State) (c : CoreKey) (x : Core) : (s.setCore c x).reports = s.reports := rfl
@[simp] theorem State.setCore_corrected (s : State) (c : CoreKey) (x : Core) : (s.setCore c x).corrected = s.corrected := rfl
@[simp] theorem State.setCore_softErrors (s : State) (c : CoreKey) (x : Core) : (s.setCore c x).softErrors = s.softErrors := rfl
@[simp] theorem State.setCore_upsets (s : State) (c : CoreKey) (x : Core) : (s.setCore c x).upsets = s.upsets := rfl
@[simp] theorem State.setCore_fes (s : State) (c : CoreKey) (x : Core) : (s.setCore c x).fes = s.fes := rfl
@[simp] theorem State.setCore_vfLink (s : State) (c : CoreKey) (x : Core) : (s.setCore c x).vfLink = s.vfLink := rfl
@[simp] theorem State.setCore_parts (s : State) (c : CoreKey) (x : Core) : (s.setCore c x).parts = s.parts := rfl
@[simp] theorem State.setCore_jobs (s : State) (c : CoreKey) (x : Core) : (s.setCore c x).jobs = s.jobs := rfl
@[simp] theorem State.setCore_tasks (s : State) (c : CoreKey) (x : Core) : (s.setCore c x).tasks = s.tasks := rfl
@[simp] theorem State.setCore_past (s : State) (c : CoreKey) (x : Core) : (s.setCore c x).past = s.past := rfl
@[simp] theorem State.setCore_warps (s : State) (c : CoreKey) (x : Core) : (s.setCore c x).warps = s.warps := rfl
@[simp] theorem State.setCore_clusters (s : State) (c : CoreKey) (x : Core) : (s.setCore c x).clusters = s.clusters := rfl
@[simp] theorem State.setCore_ops (s : State) (c : CoreKey) (x : Core) : (s.setCore c x).ops = s.ops := rfl
@[simp] theorem State.setCore_contribs (s : State) (c : CoreKey) (x : Core) : (s.setCore c x).contribs = s.contribs := rfl
@[simp] theorem State.setCore_hbm (s : State) (c : CoreKey) (x : Core) : (s.setCore c x).hbm = s.hbm := rfl
@[simp] theorem State.setCore_lines (s : State) (c : CoreKey) (x : Core) : (s.setCore c x).lines = s.lines := rfl
@[simp] theorem State.setCore_copies (s : State) (c : CoreKey) (x : Core) : (s.setCore c x).copies = s.copies := rfl
@[simp] theorem State.setCore_l2 (s : State) (c : CoreKey) (x : Core) : (s.setCore c x).l2 = s.l2 := rfl
@[simp] theorem State.setCore_l1 (s : State) (c : CoreKey) (x : Core) : (s.setCore c x).l1 = s.l1 := rfl

/-! ## A cluster is set -/

@[simp] theorem State.setCluster_agenda (s : State) (k : Nat) (x : Cluster) : (s.setCluster k x).agenda = s.agenda := rfl
@[simp] theorem State.setCluster_cur (s : State) (k : Nat) (x : Cluster) : (s.setCluster k x).cur = s.cur := rfl
@[simp] theorem State.setCluster_dual (s : State) (k : Nat) (x : Cluster) : (s.setCluster k x).dual = s.dual := rfl
@[simp] theorem State.setCluster_fresh (s : State) (k : Nat) (x : Cluster) : (s.setCluster k x).fresh = s.fresh := rfl
@[simp] theorem State.setCluster_draws (s : State) (k : Nat) (x : Cluster) : (s.setCluster k x).draws = s.draws := rfl
@[simp] theorem State.setCluster_gtime (s : State) (k : Nat) (x : Cluster) : (s.setCluster k x).gtime = s.gtime := rfl
@[simp] theorem State.setCluster_wall (s : State) (k : Nat) (x : Cluster) : (s.setCluster k x).wall = s.wall := rfl
@[simp] theorem State.setCluster_skew0 (s : State) (k : Nat) (x : Cluster) : (s.setCluster k x).skew0 = s.skew0 := rfl
@[simp] theorem State.setCluster_skew1 (s : State) (k : Nat) (x : Cluster) : (s.setCluster k x).skew1 = s.skew1 := rfl
@[simp] theorem State.setCluster_boot (s : State) (k : Nat) (x : Cluster) : (s.setCluster k x).boot = s.boot := rfl
@[simp] theorem State.setCluster_clPres (s : State) (k : Nat) (x : Cluster) : (s.setCluster k x).clPres = s.clPres := rfl
@[simp] theorem State.setCluster_chPres (s : State) (k : Nat) (x : Cluster) : (s.setCluster k x).chPres = s.chPres := rfl
@[simp] theorem State.setCluster_chRetired (s : State) (k : Nat) (x : Cluster) : (s.setCluster k x).chRetired = s.chRetired := rfl
@[simp] theorem State.setCluster_secFused (s : State) (k : Nat) (x : Cluster) : (s.setCluster k x).secFused = s.secFused := rfl
@[simp] theorem State.setCluster_staging (s : State) (k : Nat) (x : Cluster) : (s.setCluster k x).staging = s.staging := rfl
@[simp] theorem State.setCluster_measurement (s : State) (k : Nat) (x : Cluster) : (s.setCluster k x).measurement = s.measurement := rfl
@[simp] theorem State.setCluster_report (s : State) (k : Nat) (x : Cluster) : (s.setCluster k x).report = s.report := rfl
@[simp] theorem State.setCluster_secVer (s : State) (k : Nat) (x : Cluster) : (s.setCluster k x).secVer = s.secVer := rfl
@[simp] theorem State.setCluster_mbReq (s : State) (k : Nat) (x : Cluster) : (s.setCluster k x).mbReq = s.mbReq := rfl
@[simp] theorem State.setCluster_mbResp (s : State) (k : Nat) (x : Cluster) : (s.setCluster k x).mbResp = s.mbResp := rfl
@[simp] theorem State.setCluster_mbBusy (s : State) (k : Nat) (x : Cluster) : (s.setCluster k x).mbBusy = s.mbBusy := rfl
@[simp] theorem State.setCluster_fwReq (s : State) (k : Nat) (x : Cluster) : (s.setCluster k x).fwReq = s.fwReq := rfl
@[simp] theorem State.setCluster_fwResp (s : State) (k : Nat) (x : Cluster) : (s.setCluster k x).fwResp = s.fwResp := rfl
@[simp] theorem State.setCluster_fwBusy (s : State) (k : Nat) (x : Cluster) : (s.setCluster k x).fwBusy = s.fwBusy := rfl
@[simp] theorem State.setCluster_pwrcap (s : State) (k : Nat) (x : Cluster) : (s.setCluster k x).pwrcap = s.pwrcap := rfl
@[simp] theorem State.setCluster_watts (s : State) (k : Nat) (x : Cluster) : (s.setCluster k x).watts = s.watts := rfl
@[simp] theorem State.setCluster_grants (s : State) (k : Nat) (x : Cluster) : (s.setCluster k x).grants = s.grants := rfl
@[simp] theorem State.setCluster_idle (s : State) (k : Nat) (x : Cluster) : (s.setCluster k x).idle = s.idle := rfl
@[simp] theorem State.setCluster_emergency (s : State) (k : Nat) (x : Cluster) : (s.setCluster k x).emergency = s.emergency := rfl
@[simp] theorem State.setCluster_hot0 (s : State) (k : Nat) (x : Cluster) : (s.setCluster k x).hot0 = s.hot0 := rfl
@[simp] theorem State.setCluster_hot1 (s : State) (k : Nat) (x : Cluster) : (s.setCluster k x).hot1 = s.hot1 := rfl
@[simp] theorem State.setCluster_portsDown (s : State) (k : Nat) (x : Cluster) : (s.setCluster k x).portsDown = s.portsDown := rfl
@[simp] theorem State.setCluster_gatedPeers (s : State) (k : Nat) (x : Cluster) : (s.setCluster k x).gatedPeers = s.gatedPeers := rfl
@[simp] theorem State.setCluster_regaining (s : State) (k : Nat) (x : Cluster) : (s.setCluster k x).regaining = s.regaining := rfl
@[simp] theorem State.setCluster_timeSrc (s : State) (k : Nat) (x : Cluster) : (s.setCluster k x).timeSrc = s.timeSrc := rfl
@[simp] theorem State.setCluster_tLast (s : State) (k : Nat) (x : Cluster) : (s.setCluster k x).tLast = s.tLast := rfl
@[simp] theorem State.setCluster_lastPtp (s : State) (k : Nat) (x : Cluster) : (s.setCluster k x).lastPtp = s.lastPtp := rfl
@[simp] theorem State.setCluster_lastFabric (s : State) (k : Nat) (x : Cluster) : (s.setCluster k x).lastFabric = s.lastFabric := rfl
@[simp] theorem State.setCluster_lastPtm (s : State) (k : Nat) (x : Cluster) : (s.setCluster k x).lastPtm = s.lastPtm := rfl
@[simp] theorem State.setCluster_slew (s : State) (k : Nat) (x : Cluster) : (s.setCluster k x).slew = s.slew := rfl
@[simp] theorem State.setCluster_offset (s : State) (k : Nat) (x : Cluster) : (s.setCluster k x).offset = s.offset := rfl
@[simp] theorem State.setCluster_hPeers (s : State) (k : Nat) (x : Cluster) : (s.setCluster k x).hPeers = s.hPeers := rfl
@[simp] theorem State.setCluster_crossHarvest (s : State) (k : Nat) (x : Cluster) : (s.setCluster k x).crossHarvest = s.crossHarvest := rfl
@[simp] theorem State.setCluster_scrubQ (s : State) (k : Nat) (x : Cluster) : (s.setCluster k x).scrubQ = s.scrubQ := rfl
@[simp] theorem State.setCluster_cleanPool (s : State) (k : Nat) (x : Cluster) : (s.setCluster k x).cleanPool = s.cleanPool := rfl
@[simp] theorem State.setCluster_scrubbed (s : State) (k : Nat) (x : Cluster) : (s.setCluster k x).scrubbed = s.scrubbed := rfl
@[simp] theorem State.setCluster_hostMem (s : State) (k : Nat) (x : Cluster) : (s.setCluster k x).hostMem = s.hostMem := rfl
@[simp] theorem State.setCluster_hostData (s : State) (k : Nat) (x : Cluster) : (s.setCluster k x).hostData = s.hostData := rfl
@[simp] theorem State.setCluster_irqs (s : State) (k : Nat) (x : Cluster) : (s.setCluster k x).irqs = s.irqs := rfl
@[simp] theorem State.setCluster_reports (s : State) (k : Nat) (x : Cluster) : (s.setCluster k x).reports = s.reports := rfl
@[simp] theorem State.setCluster_corrected (s : State) (k : Nat) (x : Cluster) : (s.setCluster k x).corrected = s.corrected := rfl
@[simp] theorem State.setCluster_softErrors (s : State) (k : Nat) (x : Cluster) : (s.setCluster k x).softErrors = s.softErrors := rfl
@[simp] theorem State.setCluster_upsets (s : State) (k : Nat) (x : Cluster) : (s.setCluster k x).upsets = s.upsets := rfl
@[simp] theorem State.setCluster_fes (s : State) (k : Nat) (x : Cluster) : (s.setCluster k x).fes = s.fes := rfl
@[simp] theorem State.setCluster_vfLink (s : State) (k : Nat) (x : Cluster) : (s.setCluster k x).vfLink = s.vfLink := rfl
@[simp] theorem State.setCluster_parts (s : State) (k : Nat) (x : Cluster) : (s.setCluster k x).parts = s.parts := rfl
@[simp] theorem State.setCluster_jobs (s : State) (k : Nat) (x : Cluster) : (s.setCluster k x).jobs = s.jobs := rfl
@[simp] theorem State.setCluster_tasks (s : State) (k : Nat) (x : Cluster) : (s.setCluster k x).tasks = s.tasks := rfl
@[simp] theorem State.setCluster_past (s : State) (k : Nat) (x : Cluster) : (s.setCluster k x).past = s.past := rfl
@[simp] theorem State.setCluster_warps (s : State) (k : Nat) (x : Cluster) : (s.setCluster k x).warps = s.warps := rfl
@[simp] theorem State.setCluster_cores (s : State) (k : Nat) (x : Cluster) : (s.setCluster k x).cores = s.cores := rfl
@[simp] theorem State.setCluster_ops (s : State) (k : Nat) (x : Cluster) : (s.setCluster k x).ops = s.ops := rfl
@[simp] theorem State.setCluster_contribs (s : State) (k : Nat) (x : Cluster) : (s.setCluster k x).contribs = s.contribs := rfl
@[simp] theorem State.setCluster_hbm (s : State) (k : Nat) (x : Cluster) : (s.setCluster k x).hbm = s.hbm := rfl
@[simp] theorem State.setCluster_lines (s : State) (k : Nat) (x : Cluster) : (s.setCluster k x).lines = s.lines := rfl
@[simp] theorem State.setCluster_copies (s : State) (k : Nat) (x : Cluster) : (s.setCluster k x).copies = s.copies := rfl
@[simp] theorem State.setCluster_l2 (s : State) (k : Nat) (x : Cluster) : (s.setCluster k x).l2 = s.l2 := rfl
@[simp] theorem State.setCluster_l1 (s : State) (k : Nat) (x : Cluster) : (s.setCluster k x).l1 = s.l1 := rfl

/-! ## What is found after an update -/

@[simp] theorem State.warp_putWarp_same (s : State) (k : WarpKey) (w : Warp) : (s.putWarp k w).warp k = some w := by
  simp [State.warp, State.putWarp]
theorem State.warp_putWarp_ne (s : State) {k x : WarpKey} (w : Warp) (h : x ≠ k) : (s.putWarp k w).warp x = s.warp x := by
  simp [State.warp, State.putWarp, Tab.find_set_ne _ _ h]
@[simp] theorem State.part_putWarp (s : State) (k : WarpKey) (w : Warp) (n : Nat) : (s.putWarp k w).part n = s.part n := rfl
@[simp] theorem State.task_putWarp (s : State) (k : WarpKey) (w : Warp) (n : Nat) : (s.putWarp k w).task n = s.task n := rfl
@[simp] theorem State.core_putWarp (s : State) (k : WarpKey) (w : Warp) (c : CoreKey) : (s.putWarp k w).core c = s.core c := rfl
@[simp] theorem State.cluster_putWarp (s : State) (k : WarpKey) (w : Warp) (n : Nat) : (s.putWarp k w).cluster n = s.cluster n := rfl
@[simp] theorem State.part_putPart_same (s : State) (n : Nat) (p : Part) : (s.putPart n p).part n = some p := by
  simp [State.part, State.putPart]
theorem State.part_putPart_ne (s : State) {n x : Nat} (p : Part) (h : x ≠ n) : (s.putPart n p).part x = s.part x := by
  simp [State.part, State.putPart, Tab.find_set_ne _ _ h]
@[simp] theorem State.warp_putPart (s : State) (n : Nat) (p : Part) (k : WarpKey) : (s.putPart n p).warp k = s.warp k := rfl
@[simp] theorem State.core_setCore_same (s : State) (c : CoreKey) (x : Core) : (s.setCore c x).core c = x := by
  simp [State.core, State.setCore]
theorem State.core_setCore_ne (s : State) {c d : CoreKey} (x : Core) (h : d ≠ c) : (s.setCore c x).core d = s.core d := by
  simp [State.core, State.setCore, Tab.find_set_ne _ _ h]
@[simp] theorem State.warp_setCore (s : State) (c : CoreKey) (x : Core) (k : WarpKey) : (s.setCore c x).warp k = s.warp k := rfl
@[simp] theorem State.part_setCore (s : State) (c : CoreKey) (x : Core) (n : Nat) : (s.setCore c x).part n = s.part n := rfl
@[simp] theorem State.cluster_setCluster_same (s : State) (k : Nat) (x : Cluster) : (s.setCluster k x).cluster k = x := by
  simp [State.cluster, State.setCluster]
theorem State.cluster_setCluster_ne (s : State) {k n : Nat} (x : Cluster) (h : n ≠ k) : (s.setCluster k x).cluster n = s.cluster n := by
  simp [State.cluster, State.setCluster, Tab.find_set_ne _ _ h]
@[simp] theorem State.warp_setCluster (s : State) (n : Nat) (x : Cluster) (k : WarpKey) : (s.setCluster n x).warp k = s.warp k := rfl

/-! ## A warp, a path, a partition changed where it stands -/

/-- The warp of the key is what the function makes of it. -/
theorem State.onWarp_eq {s : State} {k : WarpKey} {w : Warp} (h : s.warp k = some w) (f : Warp → Warp) :
    s.onWarp k f = s.putWarp k (f w) := by simp [State.onWarp, h]
/-- Only the table of warps is changed. -/
theorem State.onWarp_only (s : State) (k : WarpKey) (f : Warp → Warp) :
    s.onWarp k f = { s with warps := (s.onWarp k f).warps } := by
  unfold State.onWarp; split <;> rfl
theorem State.onWarp_same {s : State} {k : WarpKey} {w : Warp} (h : s.warp k = some w) (f : Warp → Warp) :
    (s.onWarp k f).warp k = some (f w) := by simp [State.onWarp_eq h]
theorem State.onWarp_ne (s : State) {k x : WarpKey} (f : Warp → Warp) (h : x ≠ k) : (s.onWarp k f).warp x = s.warp x := by
  unfold State.onWarp; split
  · exact State.warp_putWarp_ne _ _ h
  · rfl
/-- The partition of the number is what the function makes of it. -/
theorem State.onPart_eq {s : State} {n : Nat} {p : Part} (h : s.part n = some p) (f : Part → Part) :
    s.onPart n f = s.putPart n (f p) := by simp [State.onPart, h]

/-- In a list of paths, the one of its number replaced is the one found. -/
theorem find_setPath {p q : Path} {paths : List Path} (h : paths.find? (·.pid == p.pid) = some q) :
    (paths.map (fun x => if x.pid == p.pid then p else x)).find? (·.pid == p.pid) = some p := by
  induction paths with
  | nil => simp at h
  | cons x xs ih =>
    by_cases hx : x.pid = p.pid
    · simp [hx]
    · have e : (x.pid == p.pid) = false := by simpa using hx
      simp only [List.map_cons, List.find?_cons, e] at h ⊢
      simpa [e] using ih h
/-- A path set is the path found. -/
theorem Warp.path_setPath_same {w : Warp} {p q : Path} (h : w.path p.pid = some q) : (w.setPath p).path p.pid = some p :=
  find_setPath h
theorem Warp.path_setPath_at {w : Warp} {p q : Path} {n : Nat} (h : w.path n = some q) (e : p.pid = n) :
    (w.setPath p).path n = some p := by subst e; exact Warp.path_setPath_same h
/-- Every other path stands. -/
theorem Warp.path_setPath_ne {w : Warp} {p : Path} {n : Nat} (h : n ≠ p.pid) : (w.setPath p).path n = w.path n := by
  simp only [Warp.path, Warp.setPath, List.find?_map]
  induction w.paths with
  | nil => rfl
  | cons x xs ih =>
    simp only [List.find?_cons, Function.comp_apply]
    by_cases hx : x.pid = p.pid
    · have e1 : (p.pid == n) = false := by simpa using (Ne.symm h)
      have e2 : (x.pid == n) = false := by rw [hx]; exact e1
      simpa [hx, e1, e2] using ih
    · by_cases hn : x.pid = n
      · simp [hn, h]
      · have e2 : (x.pid == n) = false := by simpa using hn
        simpa [hx, e2] using ih
/-- Only the paths of the warp are changed. -/
theorem Warp.setPath_only (w : Warp) (p : Path) : w.setPath p = { w with paths := (w.setPath p).paths } := rfl
/-- The number of a path found. -/
theorem Warp.path_pid {w : Warp} {n : Nat} {p : Path} (h : w.path n = some p) : p.pid = n := by
  simpa using List.find?_some h

/-- The path is what the function makes of it. -/
theorem State.onPath_eq {s : State} {k : WarpKey} {w : Warp} {n : Nat} {p : Path} (h : s.warp k = some w) (hp : w.path n = some p)
    (f : Path → Path) : s.onPath k n f = s.putWarp k (w.setPath (f p)) := by
  simp [State.onPath, State.onWarp_eq h, hp]

end Sys2Proof.Machine
end

