-- ==== Sys2Proof/Laws/Commit.lean ====
section
/-! SUPPORT. What an ordinary issue and the completion of an instruction do: the context, gathering where nothing is
wanting, the writes of the destinations, the advance. -/

namespace Sys2Proof.Machine

/-! ## The context -/

/-- What the issuing context is. -/
theorem State.issuing_spec {s : State} {h : Hdr} {b : Bool} {c : Ctx} (hc : s.issuing h b = some c) :
    s.warp c.k = some c.w ∧ c.w.path c.pid = some c.p ∧ c.x = c.p.pc ∧ c.h = h ∧ c.act = c.p.lns &&& ~~~c.w.exited
    ∧ c.rd = s.dual.getD (s.readable c.w) ∧ c.priv = c.p.privileged
    ∧ c.wr = c.act &&& (if b then Mask.all else c.rd.guard h.g1 &&& c.rd.guard h.g2) := by
  unfold State.issuing at hc
  split at hc
  · cases hc
  · split at hc
    · cases hc
    · split at hc
      · cases hc
      · rename_i k pid _ _ w hw _ p hp
        cases hc
        exact ⟨hw, hp, rfl, rfl, rfl, rfl, rfl, rfl⟩

/-- A written lane exists. -/
theorem Mask.lowest_spec {m : Mask} (h : m ≠ 0) : ∃ l, m.lowest = some l ∧ m.has l = true := by
  unfold Mask.lowest
  cases e : lanes.find? (fun l => m.has l) with
  | some l => exact ⟨l, rfl, by simpa using List.find?_some e⟩
  | none =>
    exfalso
    apply h
    apply BitVec.eq_of_getLsbD_eq
    intro i hi
    have := List.find?_eq_none.mp e ⟨i, hi⟩ (List.mem_finRange _)
    simpa [Mask.has] using this

/-- The lowest written lane of a context is one. -/
theorem Ctx.low_written {c : Ctx} (h : c.wr ≠ 0) : c.wr.has c.low = true := by
  obtain ⟨l, e, hl⟩ := Mask.lowest_spec h
  simpa [Ctx.low, e] using hl

/-- An instruction that issues in the ordinary way has its own effect. -/
theorem State.issueWith_of {s : State} {i : Instr} {h : Hdr} {always : Bool} {role : Option (BitVec 2)} {c : Ctx}
    {idle body : Ctx → State → State} (hi : Issues s i always role c) (hh : i.hdr = h) (he : i.encoded = true) :
    s.issueWith i h always role idle body = .next (body c s) := by
  subst hh
  unfold State.issueWith
  obtain ⟨ctx, mode, calm, written, hr, allowed, owner, range⟩ := hi
  unfold Instr.encoded at he
  cases hf : i.form with
  | none => simp [hf] at he
  | some f =>
    rw [ctx]
    simp only
    have m : c.forbids f i = false := by
      unfold Ctx.forbids
      rw [allowed]
      cases hp : c.priv with
      | true => simp
      | false =>
        have : i.forHandlers ≠ true := fun e => by simpa [hp] using mode e
        simp only [Instr.forHandlers, hf, ne_eq, Bool.not_eq_true, Bool.or_eq_false_iff] at this
        simp [this.1, this.2]
    rw [m]
    have z : (if s.debugOn c.w then s.hazard c i else none) = none := by
      split
      · exact calm (by assumption)
      · rfl
    rw [z]
    have w : (c.wr == 0) = false := by simpa using written
    have r : c.roleLacks i role = none := by
      unfold Ctx.roleLacks
      have o : (i.ownersOnly && c.w.inHarvest) = false := by
        cases e : i.ownersOnly
        · rfl
        · simp [owner e]
      rw [o]
      cases role with
      | none => rfl
      | some r => have := hr r rfl; subst this; simp [Option.filter]
    have g : f.beyond c.w.nregs = none := by simpa [Instr.within, hf] using range
    simp only [Bool.false_eq_true, if_false, w, r, g]

/-! ## Gathering -/

theorem addNeed_length (l : List (Nat × Bool)) (x : Nat × Bool) : (addNeed l x).length ≤ l.length + 1 := by
  unfold addNeed; split <;> simp

theorem addNeed_reload {l : List (Nat × Bool)} {x : Nat × Bool} (h : ∀ y ∈ l, y.2 = false) (hx : x.2 = false) :
    ∀ y ∈ addNeed l x, y.2 = false := by
  intro y hy
  unfold addNeed at hy
  split at hy
  · simp only [List.mem_map] at hy
    obtain ⟨z, hz, e⟩ := hy
    split at e
    · subst e; simp [h z hz, hx]
    · subst e; exact h z hz
  · cases List.mem_cons.mp hy with
    | inl e => subst e; exact hx
    | inr e => exact h y e

theorem mem_insertBy {α : Type} {le : α → α → Bool} {x y : α} {l : List α} : y ∈ insertBy le x l ↔ y = x ∨ y ∈ l := by
  induction l with
  | nil => simp [insertBy]
  | cons z l ih =>
    unfold insertBy
    split
    · simp
    · simp only [List.mem_cons, ih]; tauto

theorem mem_sortBy {α : Type} {le : α → α → Bool} {y : α} {l : List α} : y ∈ sortBy le l ↔ y ∈ l := by
  induction l with
  | nil => simp [sortBy]
  | cons z l ih => simp [sortBy, mem_insertBy, ih]

theorem length_insertBy {α : Type} (le : α → α → Bool) (x : α) (l : List α) : (insertBy le x l).length = l.length + 1 := by
  induction l with
  | nil => rfl
  | cons z l ih => unfold insertBy; split <;> simp [ih]

theorem length_sortBy {α : Type} (le : α → α → Bool) (l : List α) : (sortBy le l).length = l.length := by
  induction l with
  | nil => rfl
  | cons z l ih => simp [sortBy, length_insertBy, ih]

/-- A resident destination needs no reload. -/
theorem State.destNeedIn_reload {s : State} {c : Ctx} {wr : Mask} {d : Dest} {x : Nat × Bool}
    (hd : ∀ n, d.num = some n → ∀ h : n < 128, c.w.regs[n].spl = false) (e : s.destNeedIn c wr d = some x) : x.2 = false := by
  unfold State.destNeedIn at e
  split at e
  · cases e
  · rename_i n hn
    split at e
    · rename_i hlt
      have := hd n hn hlt.1
      split at e
      · cases e
      · split at e
        · cases e
        · simp only [this, Bool.false_eq_true, if_false] at e
          split at e
          · cases e
          · cases e; rfl
    · cases e

theorem State.destNeed_reload {s : State} {c : Ctx} {wr : Mask} {d : Dest} {x : Nat × Bool}
    (hd : ∀ n, d.num = some n → ∀ h : n < 128, c.w.regs[n].spl = false) (e : s.destNeed c wr d = some x) : x.2 = false := by
  unfold State.destNeed at e
  cases a : s.destNeedIn c wr d with
  | some y => rw [a, Option.some_or] at e; cases e; exact State.destNeedIn_reload hd a
  | none => rw [a, Option.none_or] at e; exact State.destNeedIn_reload hd e

/-- The needs of an instruction whose registers are resident: no reload, and no more than its destinations. -/
theorem State.needs_spec {s : State} {c : Ctx} {reads : List Nat} {wr : Mask} {dests : List Dest}
    (hr : ∀ n ∈ reads, ∀ h : n < 128, c.w.regs[n].spl = false)
    (hd : ∀ d ∈ dests, ∀ n, d.num = some n → ∀ h : n < 128, c.w.regs[n].spl = false) :
    (s.needs c reads wr dests).length ≤ dests.length ∧ ∀ y ∈ s.needs c reads wr dests, y.2 = false := by
  have ha : (reads.filterMap (fun n => if h : n < 128 then (if c.w.regs[n].spl then some (n, true) else none) else none)) = [] := by
    rw [List.filterMap_eq_nil_iff]
    intro n hn
    split
    · rename_i h; simp [hr n hn h]
    · rfl
  have key : ∀ (ds : List Dest) (acc : List (Nat × Bool)), (∀ d ∈ ds, d ∈ dests) → (∀ y ∈ acc, y.2 = false) →
      ((ds.filterMap (s.destNeed c wr)).foldl addNeed acc).length ≤ acc.length + ds.length ∧
      ∀ y ∈ (ds.filterMap (s.destNeed c wr)).foldl addNeed acc, y.2 = false := by
    intro ds
    induction ds with
    | nil => intro acc _ h; exact ⟨by simp, h⟩
    | cons d ds ih =>
      intro acc hm h
      have hm' : ∀ d ∈ ds, d ∈ dests := fun e he => hm e (List.mem_cons_of_mem _ he)
      simp only [List.filterMap_cons]
      cases e : s.destNeed c wr d with
      | none => have := ih acc hm' h; exact ⟨by simp only [List.length_cons]; omega, this.2⟩
      | some x =>
        have hx : x.2 = false := State.destNeed_reload (hd d (hm d (List.mem_cons_self ..))) e
        simp only [List.foldl_cons]
        have := ih (addNeed acc x) hm' (addNeed_reload h hx)
        have l := addNeed_length acc x
        exact ⟨by simp only [List.length_cons]; omega, this.2⟩
  have := key dests [] (fun _ h => h) (by simp)
  unfold State.needs
  simp only [ha, List.nil_append, length_sortBy]
  refine ⟨by simpa using this.1, fun y hy => this.2 y (mem_sortBy.mp hy)⟩

/-- Gathering where nothing is wanting: no state is changed. -/
theorem State.gather_roomy {s : State} {i : Instr} {c : Ctx} (hw : s.warp c.k = some c.w) (hR : Roomy s i c) (named : List Nat) :
    ∀ (needs : List (Nat × Bool)) (taken : List (Nat × Nat)), (∀ y ∈ needs, y.2 = false) →
      needs.length + taken.length ≤ 8 → ∃ t, s.gather c.k c.priv c.x named needs taken = (s, .ok t) := by
  intro needs
  induction needs with
  | nil => intro taken _ _; exact ⟨taken, rfl⟩
  | cons y needs ih =>
    intro taken hn hl
    obtain ⟨n, r⟩ := y
    have hr : r = false := hn (n, r) (List.mem_cons_self ..)
    subst hr
    have hj : taken.length < 8 := by simp only [List.length_cons] at hl; omega
    have hline : ∃ l, s.takeLine c.k c.priv c.x named taken n needs.length = (s, .ok l) := by
      unfold State.takeLine
      rw [hw, Option.bind_some]
      cases hpl : c.w.place with
      | none => exact ⟨0, rfl⟩
      | some pl =>
        have := hR.lines taken.length hj
        have hpool : c.pool = pl.core := by unfold Ctx.pool; rw [hpl]; rfl
        rw [hpool] at this
        rw [Option.map_some]
        simp only
        rw [if_pos]
        · exact ⟨_, rfl⟩
        · rcases this with h | ⟨h, g⟩
          · simp [h]
          · rcases g with g | g
            · simp [h, g]
            · have : ¬ 30 ≤ c.w.wuse + taken.length := by omega
              simp [h, this]
    obtain ⟨l, hl'⟩ := hline
    simp only [State.gather, hl', Bool.false_eq_true, if_false]
    exact ih ((n, l) :: taken) (fun y hy => hn y (List.mem_cons_of_mem _ hy)) (by simp only [List.length_cons] at hl ⊢; omega)

/-! ## The writes of the destinations -/

/-- What a destination makes of a warp. -/
def Warp.wrote (wr : Mask) (taken : List (Nat × Nat)) (w : Warp) (d : Dest) : Warp :=
  match d.spec with
  | .v m =>
    let n := m.toNat + d.reg
    if h : n < 128 then
      let r := w.regs[n]
      match mergeReg wr w.exited d (r.val, r.tags) with
      | none => w
      | some (v, t) =>
        let line := if v.shape == .w then (match taken.find? (·.1 == n) with | some (_, l) => l | none => r.line) else 0
        w.setReg n { val := v, tags := t, spl := false, line := line, used := r.used, dirty := true }
    else w
  | .k m => w.onFrame (fun f => { f with
      ks := Vector.ofFn (fun (i : Fin 8) => if i.val == m.toNat + d.reg then d.x[(wr.lowest.getD 0).val] else f.ks[i.val]) })
  | _ => w

theorem State.onWarp_id {s : State} {k : WarpKey} {w : Warp} (h : s.warp k = some w) {t : Tab WarpKey Warp}
    (ht : t = s.warps) : t.set k w = s.warps := by
  subst ht
  unfold State.warp at h
  revert h
  induction s.warps with
  | nil => intro h; simp [Tab.find] at h
  | cons c l ih =>
    obtain ⟨x, y⟩ := c
    intro h
    by_cases e : x = k
    · subst e; simp [Tab.find] at h; simp [Tab.set, h]
    · simp [Tab.find, e] at h; simp [Tab.set, e, ih h]

/-- A warp set to itself changes nothing. -/
theorem State.putWarp_self {s : State} {k : WarpKey} {w : Warp} (h : s.warp k = some w) : s.putWarp k w = s := by
  unfold State.putWarp
  rw [State.onWarp_id h rfl]

theorem State.putWarp_putWarp (s : State) (k : WarpKey) (v w : Warp) : (s.putWarp k v).putWarp k w = s.putWarp k w := by
  unfold State.putWarp
  simp only
  congr 1
  induction s.warps with
  | nil => simp [Tab.set]
  | cons c l ih =>
    obtain ⟨x, y⟩ := c
    by_cases e : x = k <;> simp [Tab.set, e, ih]

/-- A destination is written in the warp alone. -/
theorem State.writeDest_eq {s : State} {k : WarpKey} {w : Warp} {wr : Mask} (h : s.warp k = some w) (hwr : wr ≠ 0)
    (taken : List (Nat × Nat)) (d : Dest) : s.writeDest k wr taken d = s.putWarp k (w.wrote wr taken d) := by
  have z : (wr == 0) = false := by simpa using hwr
  obtain ⟨sp, reg, sh, x, tags⟩ := d
  unfold State.writeDest
  rw [z]
  cases sp <;> simp only [Bool.false_eq_true, if_false, Warp.wrote, State.onWarp_eq h, State.putWarp_self h]
  all_goals rfl

/-- Several destinations, one after the other. -/
theorem State.writeDests_eq {k : WarpKey} {wr : Mask} (hwr : wr ≠ 0) (taken : List (Nat × Nat)) :
    ∀ (ds : List Dest) {s : State} {w : Warp}, s.warp k = some w →
      ds.foldl (fun s d => s.writeDest k wr taken d) s = s.putWarp k (ds.foldl (Warp.wrote wr taken) w) := by
  intro ds
  induction ds with
  | nil => intro s w h; exact (State.putWarp_self h).symm
  | cons d ds ih =>
    intro s w h
    simp only [List.foldl_cons]
    rw [State.writeDest_eq h hwr, ih (State.warp_putWarp_same ..), State.putWarp_putWarp]

/-- The lanes of a set of lanes. -/
theorem Mask.has_and (a b : Mask) (l : Lane) : Mask.has (a &&& b) l = (a.has l && b.has l) := by simp [Mask.has]
theorem Mask.has_or (a b : Mask) (l : Lane) : Mask.has (a ||| b) l = (a.has l || b.has l) := by simp [Mask.has]
theorem Mask.has_not (a : Mask) (l : Lane) : Mask.has (~~~a) l = !a.has l := by simp [Mask.has]
theorem Mask.has_zero (l : Lane) : Mask.has 0 l = false := by simp [Mask.has]
theorem Mask.has_all (l : Lane) : Mask.has Mask.all l = true := by
  unfold Mask.has Mask.all; rw [BitVec.getLsbD_allOnes]; exact decide_eq_true l.isLt

theorem Mask.has_foldl (f : Lane → Bool) (ls : List Lane) : ∀ (m : Mask) (l : Lane),
    Mask.has (ls.foldl (fun m l => if f l then m ||| BitVec.twoPow 32 l.val else m) m) l = (m.has l || (ls.contains l && f l)) := by
  induction ls with
  | nil => intro m l; simp
  | cons x ls ih =>
    intro m l
    simp only [List.foldl_cons, ih]
    by_cases e : l = x
    · subst e
      cases hf : f l
      · simp
      · have : Mask.has (m ||| BitVec.twoPow 32 l.val) l = true := by simp [Mask.has]
        simp [this]
    · have e' : l.val ≠ x.val := fun h => e (Fin.ext h)
      have c : (x :: ls).contains l = ls.contains l := by simp [e]
      rw [c]
      split
      · have : Mask.has (m ||| BitVec.twoPow 32 x.val) l = m.has l := by
          simp only [Mask.has, BitVec.getLsbD_or, BitVec.getLsbD_twoPow]
          have : decide (x.val = l.val) = false := by simpa using Ne.symm e'
          simp [this]
        rw [this]
      · rfl

/-- The set of the lanes for which a test holds. -/
theorem Mask.has_of (f : Lane → Bool) (l : Lane) : Mask.has (Mask.of f) l = f l := by
  unfold Mask.of
  rw [Mask.has_foldl]
  have : lanes.contains l = true := by simp [lanes]
  rw [this, Mask.has_zero]; simp

/-- A result has in every written lane the value its shape gives there. -/
def Dest.fits (wr : Mask) (d : Dest) : Prop :=
  ∀ l, wr.has l = true → (Val.make d.shape (wr.lowest.getD 0) d.x).at l = d.x[l.val]

theorem Val.make_w (l0 l : Lane) (x : Line) : (Val.make .w l0 x).at l = x[l.val] := rfl

theorem Dest.fits_w {wr : Mask} {sp : Spec} {r : Nat} {x : Line} {t : Mask} : Dest.fits wr ⟨sp, r, .w, x, t⟩ := fun _ _ => rfl

theorem Dest.fits_u {wr : Mask} {sp : Spec} {r : Nat} {x : Line} {t : Mask}
    (h : ∀ l, wr.has l = true → x[(wr.lowest.getD 0).val] = x[l.val]) : Dest.fits wr ⟨sp, r, .u, x, t⟩ := h

theorem spreadTags_has {wr exited tags : Mask} {l : Lane} (h : wr.has l = true) :
    (spreadTags wr exited tags).has l = tags.has l := by
  have a : ∀ t : Bool, (if t then exited &&& ~~~wr else (0 : Mask)).has l = false := by
    intro t; cases t
    · exact Mask.has_zero l
    · simp [Mask.has_and, Mask.has_not, h]
  unfold spreadTags
  simp only [Mask.has_or, Mask.has_and, h, Bool.and_true]
  rw [a, Bool.or_false]

theorem wset_ne {wr exited : Mask} (h : wr ≠ 0) : wset wr exited = wr ||| exited := by
  have : (wr == 0) = false := by simpa using h
  unfold wset; rw [this]; rfl

theorem keepOut {exited wr : Mask} {l : Lane} (t : Bool) (h : exited.has l = false) :
    (if t then exited &&& ~~~wr else (0 : Mask)).has l = false := by
  cases t
  · exact Mask.has_zero l
  · simp [Mask.has_and, h]

/-- THE PARTIAL-MASK WRITE (02 R48), lane by lane. -/
theorem mergeReg_spec {wr exited : Mask} {d : Dest} {old : Val × Mask} (hwr : wr ≠ 0) (hf : d.fits wr) :
    (∀ l, wr.has l = true → ((mergeReg wr exited d old).getD old).1.at l = d.x[l.val]
      ∧ ((mergeReg wr exited d old).getD old).2.has l = d.tags.has l) ∧
    (∀ l, wr.has l = false → exited.has l = false → ((mergeReg wr exited d old).getD old).1.at l = old.1.at l
      ∧ ((mergeReg wr exited d old).getD old).2.has l = old.2.has l) := by
  have hs := wset_ne (exited := exited) hwr
  have hmake : ∀ l, wr.has l = true →
      (Val.make (if (spreadTags wr exited d.tags == 0 || spreadTags wr exited d.tags == wset wr exited) = true then d.shape else .w)
        (wr.lowest.getD 0) d.x).at l = d.x[l.val] := by
    intro l hl
    split
    · exact hf l hl
    · rfl
  generalize hnew : Val.make
    (if (spreadTags wr exited d.tags == 0 || spreadTags wr exited d.tags == wset wr exited) = true then d.shape else .w)
    (wr.lowest.getD 0) d.x = new at hmake
  by_cases hall : wset wr exited = Mask.all
  · have e : mergeReg wr exited d old = some (new, spreadTags wr exited d.tags) := by
      rw [← hnew]; unfold mergeReg; exact if_pos (by simp [hall])
    rw [e]
    refine ⟨fun l hl => ⟨hmake l hl, spreadTags_has hl⟩, fun l h1 h2 => ?_⟩
    have := congrArg (fun m : Mask => m.has l) (hs.symm.trans hall)
    simp [Mask.has_or, h1, h2, Mask.has_all] at this
  · have hall' : (wset wr exited == Mask.all) = false := by simpa using hall
    have e : mergeReg wr exited d old = if (old.2 == 0 && spreadTags wr exited d.tags == 0 && new.shape != .w
        && old.1 == new) = true then none
        else some (.wide (Line.of (fun l => if (wset wr exited).has l then d.x[l.val] else old.1.at l)),
          (old.2 &&& ~~~(wset wr exited)) ||| spreadTags wr exited d.tags) := by
      rw [← hnew]; unfold mergeReg; exact if_neg (by simp [hall'])
    rw [e]
    split
    · rename_i hcond
      simp only [Bool.and_eq_true, beq_iff_eq] at hcond
      obtain ⟨⟨⟨h1, h2⟩, _⟩, h4⟩ := hcond
      refine ⟨fun l hl => ⟨?_, ?_⟩, fun l _ _ => ⟨rfl, rfl⟩⟩
      · rw [Option.getD_none, h4]; exact hmake l hl
      · have := spreadTags_has (exited := exited) (tags := d.tags) hl
        rw [h2, Mask.has_zero] at this
        rw [Option.getD_none, h1, Mask.has_zero]
        exact this
    · rw [Option.getD_some]
      refine ⟨fun l hl => ⟨?_, ?_⟩, fun l h1 h2 => ⟨?_, ?_⟩⟩
      · simp [Val.at, Line.of, hs, Mask.has_or, hl]
      · simp [Mask.has_or, Mask.has_and, Mask.has_not, hs, hl, spreadTags_has hl]
      · simp [Val.at, Line.of, hs, Mask.has_or, h1, h2]
      · have e : (spreadTags wr exited d.tags).has l = false := by
          unfold spreadTags
          simp only [Mask.has_or, Mask.has_and, h1, Bool.and_false, Bool.false_or]
          exact keepOut _ h2
        simp [Mask.has_or, Mask.has_and, Mask.has_not, hs, h1, h2, e]

/-! ## The warp after the writes -/

/-- The k register of a destination. -/
def Dest.knum (d : Dest) : Option Nat := match d.spec with | .k m => some (m.toNat + d.reg) | _ => none

theorem framesAgree_refl (ks : List Nat) (a : Option Frame) : framesAgree ks a a := by
  cases a with
  | none => trivial
  | some f => exact ⟨rfl, fun _ _ _ => rfl⟩

theorem framesAgree_trans {ks : List Nat} {a b c : Option Frame} (h : framesAgree ks a b) (g : framesAgree ks b c) :
    framesAgree ks a c := by
  cases a with
  | none => cases b with
    | none => exact g
    | some _ => exact h.elim
  | some f => cases b with
    | none => exact h.elim
    | some f' => cases c with
      | none => exact g.elim
      | some f'' =>
        obtain ⟨h1, h2⟩ := h
        obtain ⟨g1, g2⟩ := g
        refine ⟨?_, fun j hj hk => (g2 j hj hk).trans (h2 j hj hk)⟩
        rw [g1, h1]

theorem Warp.path_onFrame (w : Warp) (f : Frame → Frame) (n : Nat) :
    (w.onFrame f).path n = (w.path n).map (fun p => if p.handler then { p with frame := p.frame.map f } else p) := by
  simp only [Warp.path, Warp.onFrame, List.find?_map]
  congr 1
  apply congrArg (fun g => List.find? g w.paths)
  funext p
  simp only [Function.comp_apply]
  split <;> rfl

theorem Warp.setReg_regs_same (w : Warp) {n : Nat} (r : Reg) (h : n < 128) : (w.setReg n r).regs[n] = r := by
  simp [Warp.setReg, h]
theorem Warp.setReg_regs_ne (w : Warp) {n m : Nat} (r : Reg) (h : m < 128) (e : m ≠ n) : (w.setReg n r).regs[m] = w.regs[m] := by
  unfold Warp.setReg
  split
  · simp [Ne.symm e]
  · rfl
theorem Warp.setReg_only (w : Warp) (n : Nat) (r : Reg) : w.setReg n r = { w with regs := (w.setReg n r).regs } := by
  unfold Warp.setReg; split <;> rfl
theorem Warp.setReg_paths (w : Warp) (n : Nat) (r : Reg) : (w.setReg n r).paths = w.paths := by
  unfold Warp.setReg; split <;> rfl

theorem Warp.wrote_none {wr : Mask} {taken : List (Nat × Nat)} {w : Warp} {m : BitVec 7} {reg : Nat} {sh : Shape} {x : Line}
    {tags : Mask} (hm : m.toNat + reg < 128)
    (e : mergeReg wr w.exited ⟨.v m, reg, sh, x, tags⟩ (w.regs[m.toNat + reg].val, w.regs[m.toNat + reg].tags) = none) :
    w.wrote wr taken ⟨.v m, reg, sh, x, tags⟩ = w := by
  unfold Warp.wrote
  simp only
  rw [dif_pos hm, e]
theorem Warp.wrote_some {wr : Mask} {taken : List (Nat × Nat)} {w : Warp} {m : BitVec 7} {reg : Nat} {sh : Shape} {x : Line}
    {tags : Mask} {v : Val} {t : Mask} (hm : m.toNat + reg < 128)
    (e : mergeReg wr w.exited ⟨.v m, reg, sh, x, tags⟩ (w.regs[m.toNat + reg].val, w.regs[m.toNat + reg].tags) = some (v, t)) :
    ∃ line, w.wrote wr taken ⟨.v m, reg, sh, x, tags⟩ = w.setReg (m.toNat + reg)
      { val := v, tags := t, spl := false, line := line, used := w.regs[m.toNat + reg].used, dirty := true } := by
  unfold Warp.wrote
  simp only
  rw [dif_pos hm, e]
  exact ⟨_, rfl⟩

/-- What one destination changes of a warp. -/
theorem Warp.wrote_spec (wr : Mask) (taken : List (Nat × Nat)) (w : Warp) (d : Dest) :
    w.wrote wr taken d = { w with regs := (w.wrote wr taken d).regs, paths := (w.wrote wr taken d).paths }
    ∧ (∀ n (h : n < 128), d.num ≠ some n → (w.wrote wr taken d).regs[n] = w.regs[n])
    ∧ (∀ n q, w.path n = some q → ∃ p, (w.wrote wr taken d).path n = some p ∧ p = { q with frame := p.frame }
        ∧ ∀ ks : List Nat, (∀ j, d.knum = some j → j ∈ ks) → framesAgree ks q.frame p.frame)
    ∧ (∀ j, d.num = some j → (w.wrote wr taken d).paths = w.paths ∧ ∀ h : j < 128,
        ((w.wrote wr taken d).regs[j].val, (w.wrote wr taken d).regs[j].tags)
          = (mergeReg wr w.exited d (w.regs[j].val, w.regs[j].tags)).getD (w.regs[j].val, w.regs[j].tags)) := by
  obtain ⟨sp, reg, sh, x, tags⟩ := d
  cases sp with
  | v m =>
    simp only [Dest.num, Dest.knum, Option.some.injEq]
    by_cases hm : m.toNat + reg < 128
    · cases e : mergeReg wr w.exited ⟨.v m, reg, sh, x, tags⟩ (w.regs[m.toNat + reg].val, w.regs[m.toNat + reg].tags) with
      | none =>
        rw [Warp.wrote_none hm e]
        refine ⟨rfl, fun _ _ _ => rfl, fun n q hq => ⟨q, hq, rfl, fun ks _ => framesAgree_refl ..⟩, fun j hj => ⟨rfl, fun h => ?_⟩⟩
        subst hj; rw [e]; rfl
      | some vt =>
        obtain ⟨v, t⟩ := vt
        obtain ⟨line, e'⟩ := Warp.wrote_some (taken := taken) hm e
        rw [e']
        refine ⟨by rw [Warp.setReg_paths]; exact Warp.setReg_only _ _ _, fun n h hn => Warp.setReg_regs_ne _ _ h (fun e => hn (congrArg some e.symm)), fun n q hq => ⟨q, ?_, rfl,
          fun ks _ => framesAgree_refl ..⟩, fun j hj => ⟨Warp.setReg_paths _ _ _, fun h => ?_⟩⟩
        · unfold Warp.path at hq ⊢; rw [Warp.setReg_paths]; exact hq
        · subst hj; rw [e, Warp.setReg_regs_same _ _ h]; rfl
    · have e' : w.wrote wr taken ⟨.v m, reg, sh, x, tags⟩ = w := by unfold Warp.wrote; exact dif_neg hm
      rw [e']
      refine ⟨rfl, fun _ _ _ => rfl, fun n q hq => ⟨q, hq, rfl, fun ks _ => framesAgree_refl ..⟩, fun j hj => ⟨rfl, fun h => ?_⟩⟩
      omega
  | k m =>
    unfold Warp.wrote
    simp only [Dest.num, Dest.knum, Option.some.injEq]
    refine ⟨rfl, fun _ _ _ => rfl, fun n q hq => ?_, fun j hj => by cases hj⟩
    rw [Warp.path_onFrame, hq]
    refine ⟨_, rfl, ?_, fun ks hk => ?_⟩
    · simp only; split <;> rfl
    · simp only
      split
      · cases q.frame with
        | none => trivial
        | some f =>
          refine ⟨rfl, fun j hj hn => ?_⟩
          have : j ≠ m.toNat + reg := fun e => hn (hk j e.symm)
          simp [this]
      · exact framesAgree_refl ..
  | _ => exact ⟨rfl, fun _ _ _ => rfl, fun n q hq => ⟨q, hq, rfl, fun ks _ => framesAgree_refl ..⟩, fun j hj => by cases hj⟩

/-- What several destinations change of a warp. -/
theorem Warp.wroteAll_spec (wr : Mask) (taken : List (Nat × Nat)) : ∀ (ds : List Dest) (w : Warp),
    ds.foldl (Warp.wrote wr taken) w
      = { w with regs := (ds.foldl (Warp.wrote wr taken) w).regs, paths := (ds.foldl (Warp.wrote wr taken) w).paths }
    ∧ (∀ n (h : n < 128), (∀ d ∈ ds, d.num ≠ some n) → (ds.foldl (Warp.wrote wr taken) w).regs[n] = w.regs[n])
    ∧ (∀ n q, w.path n = some q → ∃ p, (ds.foldl (Warp.wrote wr taken) w).path n = some p ∧ p = { q with frame := p.frame }
        ∧ ∀ ks : List Nat, (∀ d ∈ ds, ∀ j, d.knum = some j → j ∈ ks) → framesAgree ks q.frame p.frame) := by
  intro ds
  induction ds with
  | nil => intro w; exact ⟨rfl, fun _ _ _ => rfl, fun n q hq => ⟨q, hq, rfl, fun ks _ => framesAgree_refl ..⟩⟩
  | cons d ds ih =>
    intro w
    obtain ⟨a1, a2, a3, _⟩ := Warp.wrote_spec wr taken w d
    obtain ⟨b1, b2, b3⟩ := ih (w.wrote wr taken d)
    simp only [List.foldl_cons]
    refine ⟨?_, fun n h hn => ?_, fun n q hq => ?_⟩
    · rw [b1]; rw [a1]
    · rw [b2 n h (fun e he => hn e (List.mem_cons_of_mem _ he)), a2 n h (hn d (List.mem_cons_self ..))]
    · obtain ⟨p, hp, e, f⟩ := a3 n q hq
      obtain ⟨p', hp', e', f'⟩ := b3 n p hp
      refine ⟨p', hp', ?_, fun ks hk => ?_⟩
      · rw [e', e]
      · exact framesAgree_trans (f ks (fun j hj => hk d (List.mem_cons_self ..) j hj))
          (f' ks (fun x hx j hj => hk x (List.mem_cons_of_mem _ hx) j hj))

/-- A v register that is a destination holds what its write makes of it. -/
theorem Warp.wroteAll_got (wr : Mask) (taken : List (Nat × Nat)) {m : BitVec 7} : ∀ (ds : List Dest) (w : Warp),
    (∀ d ∈ ds, d.spec = .v m) → (ds.map (·.reg)).Nodup → ∀ d ∈ ds, ∀ h : m.toNat + d.reg < 128,
    ((ds.foldl (Warp.wrote wr taken) w).regs[m.toNat + d.reg].val, (ds.foldl (Warp.wrote wr taken) w).regs[m.toNat + d.reg].tags)
      = (mergeReg wr w.exited d (w.regs[m.toNat + d.reg].val, w.regs[m.toNat + d.reg].tags)).getD
          (w.regs[m.toNat + d.reg].val, w.regs[m.toNat + d.reg].tags) := by
  intro ds
  induction ds with
  | nil => intro w _ _ d hd; cases hd
  | cons e ds ih =>
    intro w hs hn d hd h
    have hs' : ∀ d ∈ ds, d.spec = .v m := fun x hx => hs x (List.mem_cons_of_mem _ hx)
    simp only [List.map_cons, List.nodup_cons] at hn
    have num : ∀ x ∈ e :: ds, x.num = some (m.toNat + x.reg) := fun x hx => by simp [Dest.num, hs x hx]
    obtain ⟨a1, a2, _, a4⟩ := Warp.wrote_spec wr taken w e
    have ex : (w.wrote wr taken e).exited = w.exited := by rw [a1]
    simp only [List.foldl_cons]
    rcases List.mem_cons.mp hd with rfl | hd'
    · have := (Warp.wroteAll_spec wr taken ds (w.wrote wr taken d)).2.1 (m.toNat + d.reg) h (fun x hx => by
        rw [num x (List.mem_cons_of_mem _ hx)]
        intro q
        have : x.reg = d.reg := by simpa using q
        exact hn.1 (List.mem_map.mpr ⟨x, hx, this⟩))
      rw [this]
      exact (a4 _ (num d (List.mem_cons_self ..))).2 h
    · rw [ih (w.wrote wr taken e) hs' hn.2 d hd' h, ex, a2 _ h]
      rw [num e (List.mem_cons_self ..)]
      intro q
      have : e.reg = d.reg := by simpa using q
      exact hn.1 (this ▸ List.mem_map.mpr ⟨d, hd', rfl⟩)

/-- A k register that is a destination holds the value of the lowest written lane. -/
theorem Warp.wroteAll_ks (wr : Mask) (taken : List (Nat × Nat)) {m : BitVec 3} : ∀ (ds : List Dest) (w : Warp),
    (∀ d ∈ ds, d.spec = .k m) → (ds.map (·.reg)).Nodup → ∀ d ∈ ds, ∀ p ∈ (ds.foldl (Warp.wrote wr taken) w).paths,
    p.handler = true → ∀ f, p.frame = some f → ∀ h : m.toNat + d.reg < 8, f.ks[m.toNat + d.reg] = d.x[(wr.lowest.getD 0).val] := by
  have keep : ∀ (ds : List Dest) (w : Warp) (j : Nat) (v : Word), (∀ d ∈ ds, d.spec = .k m) → (∀ d ∈ ds, m.toNat + d.reg ≠ j) →
      (∀ p ∈ w.paths, p.handler = true → ∀ f, p.frame = some f → ∀ h : j < 8, f.ks[j] = v) →
      ∀ p ∈ (ds.foldl (Warp.wrote wr taken) w).paths, p.handler = true → ∀ f, p.frame = some f → ∀ h : j < 8, f.ks[j] = v := by
    intro ds
    induction ds with
    | nil => intro w j v _ _ h; exact h
    | cons e ds ih =>
      intro w j v hs hj h
      simp only [List.foldl_cons]
      refine ih _ j v (fun d hd => hs d (List.mem_cons_of_mem _ hd)) (fun d hd => hj d (List.mem_cons_of_mem _ hd)) ?_
      intro p hp hh f hf hlt
      have he := hs e (List.mem_cons_self ..)
      obtain ⟨sp, reg, sh, x, tags⟩ := e
      simp only at he
      subst he
      simp only [Warp.wrote, Warp.onFrame, List.mem_map] at hp
      obtain ⟨q, hq, rfl⟩ := hp
      split at hh
      · rename_i hqh
        rw [if_pos hqh] at hf
        cases hqf : q.frame with
        | none => rw [hqf] at hf; cases hf
        | some g =>
          rw [hqf] at hf
          simp only [Option.map_some, Option.some.injEq] at hf
          subst hf
          have : j ≠ m.toNat + reg := Ne.symm (hj _ (List.mem_cons_self ..))
          simpa [this] using h q hq hqh g hqf hlt
      · rename_i hqh
        exact absurd hh hqh
  intro ds
  induction ds with
  | nil => intro w _ _ d hd; cases hd
  | cons e ds ih =>
    intro w hs hn d hd
    simp only [List.map_cons, List.nodup_cons] at hn
    have hs' : ∀ d ∈ ds, d.spec = .k m := fun x hx => hs x (List.mem_cons_of_mem _ hx)
    simp only [List.foldl_cons]
    rcases List.mem_cons.mp hd with rfl | hd'
    · refine keep ds _ _ _ hs' (fun x hx q => ?_) ?_
      · have : x.reg = d.reg := by omega
        exact hn.1 (List.mem_map.mpr ⟨x, hx, this⟩)
      · intro p hp hh f hf hlt
        have he := hs d (List.mem_cons_self ..)
        obtain ⟨sp, reg, sh, x, tags⟩ := d
        simp only at he
        subst he
        simp only [Warp.wrote, Warp.onFrame, List.mem_map] at hp
        obtain ⟨q, hq, rfl⟩ := hp
        split at hh
        · rename_i hqh
          rw [if_pos hqh] at hf
          cases hqf : q.frame with
          | none => rw [hqf] at hf; cases hf
          | some g =>
            rw [hqf] at hf
            simp only [Option.map_some, Option.some.injEq] at hf
            subst hf
            simp
        · rename_i hqh
          exact absurd hh hqh
    · exact ih _ hs' hn.2 d hd'

/-! ## Recency, predicates -/

/-- Counting a use changes nothing but recency. -/
theorem Warp.touch_spec (named : List Nat) (w : Warp) :
    w.touch named = { w with regs := (w.touch named).regs, clock := (w.touch named).clock }
    ∧ ∀ n (h : n < 128), sameReg (w.touch named).regs[n] w.regs[n] := by
  unfold Warp.touch
  simp only
  generalize sortBy (fun x1 x2 => decide (x1 ≤ x2)) named.eraseDups = l
  induction l generalizing w with
  | nil => exact ⟨rfl, fun _ _ => ⟨rfl, rfl, rfl, rfl, rfl⟩⟩
  | cons a l ih =>
    simp only [List.foldl_cons]
    have one : ∀ v : Warp, v = (if h : a < 128 then (if w.regs[a].val.shape == .w && !w.regs[a].spl
          then { w.setReg a { w.regs[a] with used := w.clock } with clock := w.clock + 1 } else w) else w) →
        v = { w with regs := v.regs, clock := v.clock } ∧ ∀ n (h : n < 128), sameReg v.regs[n] w.regs[n] := by
      intro v hv
      subst hv
      split
      · rename_i ha
        split
        · refine ⟨?_, fun n h => ?_⟩
          · rw [Warp.setReg_only]
          · by_cases e : n = a
            · subst e
              have : ({ w.setReg n { w.regs[n] with used := w.clock } with clock := w.clock + 1 } : Warp).regs[n]
                = { w.regs[n] with used := w.clock } := Warp.setReg_regs_same w _ h
              rw [this]; exact ⟨rfl, rfl, rfl, rfl, rfl⟩
            · have : ({ w.setReg a { w.regs[a] with used := w.clock } with clock := w.clock + 1 } : Warp).regs[n]
                = w.regs[n] := Warp.setReg_regs_ne w _ h e
              rw [this]; exact ⟨rfl, rfl, rfl, rfl, rfl⟩
        · exact ⟨rfl, fun _ _ => ⟨rfl, rfl, rfl, rfl, rfl⟩⟩
      · exact ⟨rfl, fun _ _ => ⟨rfl, rfl, rfl, rfl, rfl⟩⟩
    obtain ⟨o1, o2⟩ := one _ rfl
    obtain ⟨i1, i2⟩ := ih (if h : a < 128 then (if w.regs[a].val.shape == .w && !w.regs[a].spl
          then { w.setReg a { w.regs[a] with used := w.clock } with clock := w.clock + 1 } else w) else w)
    refine ⟨?_, fun n h => ?_⟩
    · rw [i1, o1]
    · have := i2 n h
      have := o2 n h
      exact ⟨(i2 n h).1.trans (o2 n h).1, (i2 n h).2.1.trans (o2 n h).2.1, (i2 n h).2.2.1.trans (o2 n h).2.2.1,
        (i2 n h).2.2.2.1.trans (o2 n h).2.2.2.1, (i2 n h).2.2.2.2.trans (o2 n h).2.2.2.2⟩

/-- Writing predicates changes nothing else. -/
theorem Warp.setPreds_spec (wr : Mask) (qs : List (BitVec 3 × Mask)) : ∀ w : Warp,
    qs.foldl (fun (v : Warp) q => v.setPred q.1 (wset wr v.exited) q.2) w
      = { w with preds := (qs.foldl (fun (v : Warp) q => v.setPred q.1 (wset wr v.exited) q.2) w).preds } := by
  induction qs with
  | nil => intro w; rfl
  | cons q qs ih =>
    intro w
    simp only [List.foldl_cons]
    rw [ih]
    unfold Warp.setPred
    split <;> rfl

/-! ## Flags that are raised (15 R327) -/

theorem flags_bit (l : List Flight) : ∀ (x : XFlags) (b : Nat),
    (l.foldl (fun g f => g ||| f.flags) x).getLsbD b = (x.getLsbD b || l.any (fun f => f.flags.getLsbD b)) := by
  induction l with
  | nil => intro x b; simp
  | cons f l ih => intro x b; simp only [List.foldl_cons, ih, List.any_cons, BitVec.getLsbD_or, Bool.or_assoc]

/-- The raised flags, bit by bit. -/
theorem Warp.raised_bit (w : Warp) (b : Nat) :
    w.raised.getLsbD b = (w.xflags.getLsbD b || w.flying.any (fun f => f.flags.getLsbD b)) := flags_bit w.flying w.xflags b

theorem any_parts (p q : Flight → Bool) (l : List Flight) :
    ((l.filter p).any q || (l.filter (fun f => !p f)).any q) = l.any q := by
  induction l with
  | nil => rfl
  | cons f l ih =>
    cases hp : p f <;> cases hq : q f <;> simp_all

/-- Landing raises nothing new. -/
theorem Warp.land_bit (w : Warp) (pos b : Nat) : (w.land pos).raised.getLsbD b = w.raised.getLsbD b := by
  rw [Warp.raised_bit, Warp.raised_bit]
  simp only [Warp.land, flags_bit]
  rw [Bool.or_assoc, any_parts]

/-- THE FLAGS OF AN INSTRUCTION ARE RAISED, at once or as its result lands; of the warp nothing else is changed. -/
theorem State.produce_spec (s : State) (c : Ctx) (wr : Mask) (i : Instr) (ds : List Dest) (ps : List Nat) (flags : XFlags) (w : Warp) :
    s.produce c wr i ds ps flags w = { w with xflags := (s.produce c wr i ds ps flags w).xflags, flying := (s.produce c wr i ds ps flags w).flying }
    ∧ (s.produce c wr i ds ps flags w).raised = w.raised ||| flags := by
  have under : ∀ f : Flight, ∀ l : List Flight, ∀ b, (l.map (·.under f)).any (fun g => g.flags.getLsbD b) = l.any (fun g => g.flags.getLsbD b) := by
    intro f l b
    rw [List.any_map]
    congr 1
    funext g
    simp only [Function.comp_apply, Flight.under]
    split <;> rfl
  have bit : ∀ b, ((w.land (s.posOf c.w c.p)).xflags.getLsbD b || (w.land (s.posOf c.w c.p)).flying.any (fun f => f.flags.getLsbD b))
      = w.raised.getLsbD b := fun b => by rw [← Warp.raised_bit, Warp.land_bit]
  unfold State.produce
  cases i.latency with
  | none =>
    refine ⟨rfl, BitVec.eq_of_getLsbD_eq fun b _ => ?_⟩
    rw [Warp.raised_bit, BitVec.getLsbD_or (x := w.raised), ← bit b]
    simp only [BitVec.getLsbD_or]
    rw [Bool.or_assoc, Bool.or_assoc, Bool.or_comm (flags.getLsbD b)]
  | some l =>
    obtain ⟨scalar, vector⟩ := l
    refine ⟨rfl, BitVec.eq_of_getLsbD_eq fun b _ => ?_⟩
    rw [Warp.raised_bit, BitVec.getLsbD_or (x := w.raised), ← bit b]
    simp only [List.any_cons, under]
    rw [Bool.or_assoc, Bool.or_comm (flags.getLsbD b)]

/-! ## Completion -/

/-- The issuing warp after the writes of an instruction, before its path goes on. -/
structure Wrote (i : Instr) (c : Ctx) (w : Warp) : Prop where
  kept : w = { c.w with regs := w.regs, preds := w.preds, xflags := w.xflags, flying := w.flying, clock := w.clock, paths := w.paths }
  regs : ∀ n, n ∉ i.writes → ∀ h : n < 128, sameReg w.regs[n] c.w.regs[n]
  paths : ∀ n q, c.w.path n = some q → ∃ p, w.path n = some p ∧ framesAgree i.kwrites q.frame p.frame ∧ p = { q with frame := p.frame }

/-- The destinations of an instruction are registers of one specifier, which its positions name. -/
structure Dests (i : Instr) (wr : Mask) (sp : Spec) (ds : List Dest) : Prop where
  spec : ∀ d ∈ ds, d.spec = sp
  regs : (ds.map (·.reg)).Nodup
  few : ds.length ≤ 8
  named : ∀ d ∈ ds, ∀ n, d.num = some n → n ∈ i.names ∧ n ∈ i.writes
  knamed : ∀ d ∈ ds, ∀ n, d.knum = some n → n ∈ i.kwrites
  fits : ∀ d ∈ ds, d.fits wr

theorem Dests.none (i : Instr) (wr : Mask) (sp : Spec) : Dests i wr sp [] := by
  constructor <;> simp

/-- What an instruction reads is named by it. -/
theorem reads_named {i : Instr} {n : Nat} (h : n ∈ i.reads) : n ∈ i.names := by
  unfold Instr.reads at h
  unfold Instr.names
  cases hf : i.form with
  | none => simp [hf] at h
  | some f =>
    rw [hf] at h
    simp only [Form.named] at h ⊢
    have : ∀ l : List Opnd, (∀ o ∈ l, o ∈ f.ops) → n ∈ (l.map f.regsAt).flatten → n ∈ (f.ops.map f.regsAt).flatten := by
      intro l hl hn
      simp only [List.mem_flatten, List.mem_map] at hn ⊢
      obtain ⟨r, ⟨o, ho, rfl⟩, hn⟩ := hn
      exact ⟨_, ⟨o, hl o ho, rfl⟩, hn⟩
    split at h
    · cases h
    · cases h
    · exact this _ (fun o ho => (List.mem_filter.mp ho).1) h

/-- The lanes that fault, of none. -/
theorem Ctx.ok_nil (c : Ctx) : c.ok [] = c.wr := by
  unfold Ctx.ok
  apply BitVec.eq_of_getLsbD_eq
  intro l hl
  have e : (Mask.of (fun l => ([] : List (Lane × Cause)).any (·.1 == l))).getLsbD l = false :=
    Mask.has_of (fun l => ([] : List (Lane × Cause)).any (·.1 == l)) ⟨l, hl⟩
  rw [BitVec.getLsbD_and, BitVec.getLsbD_not, e]
  simp [hl]

theorem State.faultAt_nil (s : State) (c : Ctx) (i : Instr) : s.faultAt c i [] = s.advance c i := rfl

/-- COMPLETION WHERE NO LINE IS WANTING: the destinations and predicates are written, the flags raised, and `fin` goes on
from there. -/
theorem State.commitThen_roomy {s : State} {i : Instr} {c : Ctx} {wr : Mask} {sp : Spec} {ds : List Dest}
    (hw : s.warp c.k = some c.w) (hR : Roomy s i c) (hwr : wr ≠ 0) (hd : Dests i wr sp ds)
    (preds : List (BitVec 3 × Mask)) (flags : XFlags) (fin : State → State) :
    ∃ w, s.commitThen c wr i ds preds flags fin = fin (s.putWarp c.k w) ∧ Wrote i c w
      ∧ w.raised = c.w.raised ||| flags
      ∧ w.preds = (preds.foldl (fun (v : Warp) q => v.setPred q.1 (wset wr v.exited) q.2) c.w).preds
      ∧ (∀ m : BitVec 7, sp = .v m → ∀ d ∈ ds, ∀ h : m.toNat + d.reg < 128, (w.regs[m.toNat + d.reg].val, w.regs[m.toNat + d.reg].tags)
          = (mergeReg wr c.w.exited d (c.w.regs[m.toNat + d.reg].val, c.w.regs[m.toNat + d.reg].tags)).getD
              (c.w.regs[m.toNat + d.reg].val, c.w.regs[m.toNat + d.reg].tags))
      ∧ (∀ m : BitVec 3, sp = .k m → ∀ d ∈ ds, ∀ p ∈ w.paths, p.handler = true → ∀ f, p.frame = some f →
          ∀ h : m.toNat + d.reg < 8, f.ks[m.toNat + d.reg] = d.x[(wr.lowest.getD 0).val]) := by
  have hneeds := State.needs_spec (s := s) (c := c) (reads := i.reads) (wr := wr) (dests := ds)
    (fun n hn h => hR.resident n (reads_named hn) h) (fun d hdm n hn h => hR.resident n (hd.named d hdm n hn).1 h)
  obtain ⟨taken, ht⟩ := State.gather_roomy hw hR i.names
    (s.needs c i.reads wr ds) [] hneeds.2 (by have := hneeds.1; have := hd.few; simp only [List.length_nil]; omega)
  unfold State.commitThen State.putThen
  simp only
  rw [ht]
  simp only
  rw [State.writeDests_eq hwr taken ds hw, State.onWarp_eq (State.warp_putWarp_same ..), State.putWarp_putWarp]
  obtain ⟨a1, a2, a3⟩ := Warp.wroteAll_spec wr taken ds c.w
  generalize hv : ds.foldl (Warp.wrote wr taken) c.w = v at a1 a2 a3 ⊢
  have hx : v.exited = c.w.exited := by rw [a1]
  have hpr : v.preds = c.w.preds := by rw [a1]
  have hra : v.raised = c.w.raised := by rw [a1]; rfl
  obtain ⟨q1, q2⟩ := State.produce_spec (s.putWarp c.k v) c wr i ds (preds.map (·.1.toNat)) flags v
  generalize hg : (s.putWarp c.k v).produce c wr i ds (preds.map (·.1.toNat)) flags v = g at q1 q2 ⊢
  have hp0 := Warp.setPreds_spec wr preds g
  generalize hu : preds.foldl (fun (v : Warp) q => v.setPred q.1 (wset wr v.exited) q.2) g = u at hp0 ⊢
  obtain ⟨t1, t2⟩ := Warp.touch_spec i.uses u
  refine ⟨u.touch i.uses, rfl, ⟨?_, fun n hn h => ?_, fun n q hq => ?_⟩, ?_, ?_, fun m hm d hdm h => ?_, fun m hm d hdm p hpp => ?_⟩
  · rw [t1, hp0, q1, a1]
  · have e := t2 n h
    have e1 : u.regs = v.regs := by rw [hp0, q1]
    have e2 := a2 n h (fun d hdm he => hn (hd.named d hdm n he).2)
    rw [← e2]
    simpa [e1] using e
  · obtain ⟨p, e1, e2, e3⟩ := a3 n q hq
    refine ⟨p, ?_, e3 _ (fun d hdm j hj => hd.knamed d hdm j hj), e2⟩
    unfold Warp.path at e1 ⊢
    rw [t1, hp0, q1]
    exact e1
  · have e2 : (u.touch i.uses).raised = u.raised := by rw [t1]; rfl
    have e3 : u.raised = g.raised := by rw [hp0]; rfl
    rw [e2, e3, q2, hra]
  · have e2 : (u.touch i.uses).preds = u.preds := by rw [t1]
    rw [e2, ← hu]
    have gen : ∀ (qs : List (BitVec 3 × Mask)) (a b : Warp), a.exited = b.exited → a.preds = b.preds →
        (qs.foldl (fun (v : Warp) q => v.setPred q.1 (wset wr v.exited) q.2) a).preds
          = (qs.foldl (fun (v : Warp) q => v.setPred q.1 (wset wr v.exited) q.2) b).preds := by
      intro qs
      induction qs with
      | nil => intro a b _ h; exact h
      | cons q qs ih =>
        intro a b he hp
        simp only [List.foldl_cons]
        apply ih
        · unfold Warp.setPred; split <;> exact he
        · unfold Warp.setPred; rw [hp, he]; split
          · rfl
          · exact hp
    exact gen preds _ _ (by rw [q1]; exact hx) (by rw [q1]; exact hpr)
  · have e := t2 _ h
    have e1 : u.regs = v.regs := by rw [hp0, q1]
    rw [← Warp.wroteAll_got wr taken ds c.w (fun x hx => hm ▸ hd.spec x hx) hd.regs d hdm h, hv]
    rw [e1] at e
    rw [e.1, e.2.1]
  · have e1 : (u.touch i.uses).paths = v.paths := by rw [t1, hp0, q1]
    rw [e1, ← hv] at hpp
    exact Warp.wroteAll_ks wr taken ds c.w (fun x hx => hm ▸ hd.spec x hx) hd.regs d hdm p hpp

/-- The path goes on to the next word: what the warp is after it. -/
theorem State.advance_of {s t : State} {i : Instr} {c : Ctx} {w : Warp} (hp : c.w.path c.pid = some c.p)
    (ht : t.warp c.k = some w) (hg : t.gtime = s.gtime) (hn : t.nextSlot c = s.nextSlot c) (hW : Wrote i c w) :
    ∃ v, t.advance c i = t.putWarp c.k v ∧ Went s i c v ∧ v.raised = w.raised ∧ v.preds = w.preds ∧ v.regs = w.regs
      ∧ (∀ p ∈ v.paths, ∃ q ∈ w.paths, p.handler = q.handler ∧ p.frame = q.frame) := by
  obtain ⟨p, e1, e2, e3⟩ := hW.paths c.pid c.p hp
  have pid : p.pid = c.pid := Warp.path_pid e1
  unfold State.advance
  simp only
  rw [State.onPath_eq ht e1]
  generalize t.nextHolds c i = hs
  refine ⟨_, rfl, ⟨?_, fun n hn h => hW.regs n hn h, ⟨_, Warp.path_setPath_at e1 pid, e2, ?_⟩, fun n hn q hq => ?_⟩,
    rfl, rfl, rfl, fun r hr => ?_⟩
  · have := hW.kept
    simp only [Warp.setPath]
    conv_lhs => rw [this]
  · rw [e3]; rw [hg, hn]
  · obtain ⟨r, f1, f2, f3⟩ := hW.paths n q hq
    exact ⟨r, by rw [Warp.path_setPath_ne (by simpa [pid] using hn)]; exact f1, f2, f3⟩
  · simp only [Warp.setPath, List.mem_map] at hr
    obtain ⟨q, hq, e⟩ := hr
    split at e
    · subst e
      exact ⟨p, List.mem_of_find?_eq_some e1, rfl, rfl⟩
    · subst e; exact ⟨q, hq, rfl, rfl⟩

/-- THE COMPLETION OF AN INSTRUCTION that only writes destinations, predicates and flags. -/
theorem State.commit_completes {s : State} {i : Instr} {c : Ctx} {sp : Spec} {ds : List Dest}
    (hw : s.warp c.k = some c.w) (hp : c.w.path c.pid = some c.p) (hR : Roomy s i c) (hwr : c.wr ≠ 0)
    (hd : Dests i c.wr sp ds) (preds : List (BitVec 3 × Mask)) (flags : XFlags) :
    ∃ w, s.commit c i [] ds preds flags id = s.putWarp c.k w ∧ OnlyWarp s (s.putWarp c.k w) c w ∧ Went s i c w
      ∧ w.raised = c.w.raised ||| flags
      ∧ w.preds = (preds.foldl (fun (v : Warp) q => v.setPred q.1 (wset c.wr v.exited) q.2) c.w).preds
      ∧ ∀ d ∈ ds, Got c w d.spec d.reg (fun l => d.x[l.val]) d.tags.has := by
  unfold State.commit State.commitTo
  rw [Ctx.ok_nil]
  obtain ⟨w, e, hW, hx, hpr, hv, hk⟩ := State.commitThen_roomy hw hR hwr hd preds flags (fun s => (id s).faultAt c i [])
  obtain ⟨v, e', hV, hx', hpr', hr', hp'⟩ := State.advance_of (s := s) (t := s.putWarp c.k w) hp (State.warp_putWarp_same ..) rfl rfl hW
  refine ⟨v, ?_, ⟨rfl, fun k hk => State.warp_putWarp_ne _ _ hk, State.warp_putWarp_same ..⟩, hV, hx'.trans hx, hpr'.trans hpr, ?_⟩
  · rw [e]; simp only [id]; rw [State.faultAt_nil, e', State.putWarp_putWarp]
  · intro d hdm
    have hs := hd.spec d hdm
    have hf := hd.fits d hdm
    unfold Got
    split
    · rename_i m he
      intro h
      have := hv m (by rw [← hs, he]) d hdm h
      have sp := mergeReg_spec (exited := c.w.exited) (old := (c.w.regs[m.toNat + d.reg].val, c.w.regs[m.toNat + d.reg].tags)) hwr hf
      rw [← this] at sp
      rw [hr']
      exact sp
    · rename_i m he
      intro p hpp hh f hff h
      obtain ⟨q, hq, q1, q2⟩ := hp' p hpp
      exact hk m (by rw [← hs, he]) d hdm q hq (q1 ▸ hh) f (q2 ▸ hff) h
    · trivial

end Sys2Proof.Machine
end

