-- ==== Sys2Proof/Laws/Encoding.lean ====
section
/-! SUPPORT. The word of a form taken apart gives its fields back; the code of every operand and modifier read back; what
is left to show that a word decodes to its instruction. -/

namespace Sys2Proof

/-! ## Parts of a word -/

/-- The low bits of two strings put together are those of the lower one. -/
theorem setWidth_low {v w k : Nat} (x : BitVec v) (y : BitVec w) (h : k ≤ w) : (x ++ y).setWidth k = y.setWidth k := by
  apply BitVec.eq_of_getLsbD_eq
  intro i hi
  have : i < w := by omega
  simp [BitVec.getLsbD_append, hi, this]

theorem getLsbD_low {v w i : Nat} (x : BitVec v) (y : BitVec w) (h : i < w) : (x ++ y).getLsbD i = y.getLsbD i := by
  simp [BitVec.getLsbD_append, h]

theorem getLsbD_high {v w i : Nat} (x : BitVec v) (y : BitVec w) (h : w ≤ i) : (x ++ y).getLsbD i = x.getLsbD (i - w) := by
  have : ¬ i < w := by omega
  simp [BitVec.getLsbD_append, this]

theorem guardOf_bits (g : Guard) : guardOf g.bits = g := by
  obtain ⟨n, p⟩ := g
  cases n <;> revert p <;> decide

/-- A word taken apart. -/
theorem Raw.of_word (f : Form) : Raw.of f.word = ⟨f.opc, f.mod, f.d, f.a, f.b, f.low, f.hdr⟩ := by
  obtain ⟨⟨g1, g2, stall, yld, bnd, hold, ch⟩, opc, mod, d, a, b, low, q1, q2, q3⟩ := f
  have e : (⟨⟨g1, g2, stall, yld, bnd, hold, ch⟩, opc, mod, d, a, b, low, q1, q2, q3⟩ : Form).word
    = opc ++ mod ++ d ++ a ++ b ++ low
      ++ (g1.bits ++ g2.bits ++ stall ++ BitVec.ofBool yld ++ BitVec.ofBool bnd ++ hold ++ ch) := rfl
  have b1 : (BitVec.ofBool yld).getLsbD 0 = yld := by cases yld <;> rfl
  have b2 : (BitVec.ofBool bnd).getLsbD 0 = bnd := by cases bnd <;> rfl
  have k1 : (opc ++ mod ++ d ++ a ++ b ++ low
      ++ (g1.bits ++ g2.bits ++ stall ++ BitVec.ofBool yld ++ BitVec.ofBool bnd ++ hold ++ ch)).extractLsb' 86 10 = opc := by
    simp (disch := decide) only [BitVec.extractLsb'_append_eq_of_add_le, BitVec.extractLsb'_append_eq_of_le]
    exact BitVec.extractLsb'_eq_self
  have k2 : (opc ++ mod ++ d ++ a ++ b ++ low
      ++ (g1.bits ++ g2.bits ++ stall ++ BitVec.ofBool yld ++ BitVec.ofBool bnd ++ hold ++ ch)).extractLsb' 78 8 = mod := by
    simp (disch := decide) only [BitVec.extractLsb'_append_eq_of_add_le, BitVec.extractLsb'_append_eq_of_le]
    exact BitVec.extractLsb'_eq_self
  have k3 : (opc ++ mod ++ d ++ a ++ b ++ low
      ++ (g1.bits ++ g2.bits ++ stall ++ BitVec.ofBool yld ++ BitVec.ofBool bnd ++ hold ++ ch)).extractLsb' 70 8 = d := by
    simp (disch := decide) only [BitVec.extractLsb'_append_eq_of_add_le, BitVec.extractLsb'_append_eq_of_le]
    exact BitVec.extractLsb'_eq_self
  have k4 : (opc ++ mod ++ d ++ a ++ b ++ low
      ++ (g1.bits ++ g2.bits ++ stall ++ BitVec.ofBool yld ++ BitVec.ofBool bnd ++ hold ++ ch)).extractLsb' 62 8 = a := by
    simp (disch := decide) only [BitVec.extractLsb'_append_eq_of_add_le, BitVec.extractLsb'_append_eq_of_le]
    exact BitVec.extractLsb'_eq_self
  have k5 : (opc ++ mod ++ d ++ a ++ b ++ low
      ++ (g1.bits ++ g2.bits ++ stall ++ BitVec.ofBool yld ++ BitVec.ofBool bnd ++ hold ++ ch)).extractLsb' 54 8 = b := by
    simp (disch := decide) only [BitVec.extractLsb'_append_eq_of_add_le, BitVec.extractLsb'_append_eq_of_le]
    exact BitVec.extractLsb'_eq_self
  have k6 : (opc ++ mod ++ d ++ a ++ b ++ low
      ++ (g1.bits ++ g2.bits ++ stall ++ BitVec.ofBool yld ++ BitVec.ofBool bnd ++ hold ++ ch)).extractLsb' 20 34 = low := by
    simp (disch := decide) only [BitVec.extractLsb'_append_eq_of_add_le, BitVec.extractLsb'_append_eq_of_le]
    exact BitVec.extractLsb'_eq_self
  have k7 : (opc ++ mod ++ d ++ a ++ b ++ low
      ++ (g1.bits ++ g2.bits ++ stall ++ BitVec.ofBool yld ++ BitVec.ofBool bnd ++ hold ++ ch)).extractLsb' 16 4 = g1.bits := by
    simp (disch := decide) only [BitVec.extractLsb'_append_eq_of_add_le, BitVec.extractLsb'_append_eq_of_le]
    exact BitVec.extractLsb'_eq_self
  have k8 : (opc ++ mod ++ d ++ a ++ b ++ low
      ++ (g1.bits ++ g2.bits ++ stall ++ BitVec.ofBool yld ++ BitVec.ofBool bnd ++ hold ++ ch)).extractLsb' 12 4 = g2.bits := by
    simp (disch := decide) only [BitVec.extractLsb'_append_eq_of_add_le, BitVec.extractLsb'_append_eq_of_le]
    exact BitVec.extractLsb'_eq_self
  have k9 : (opc ++ mod ++ d ++ a ++ b ++ low
      ++ (g1.bits ++ g2.bits ++ stall ++ BitVec.ofBool yld ++ BitVec.ofBool bnd ++ hold ++ ch)).extractLsb' 8 4 = stall := by
    simp (disch := decide) only [BitVec.extractLsb'_append_eq_of_add_le, BitVec.extractLsb'_append_eq_of_le]
    exact BitVec.extractLsb'_eq_self
  have k12 : (opc ++ mod ++ d ++ a ++ b ++ low
      ++ (g1.bits ++ g2.bits ++ stall ++ BitVec.ofBool yld ++ BitVec.ofBool bnd ++ hold ++ ch)).extractLsb' 3 3 = hold := by
    simp (disch := decide) only [BitVec.extractLsb'_append_eq_of_add_le, BitVec.extractLsb'_append_eq_of_le]
    exact BitVec.extractLsb'_eq_self
  have k10 : (opc ++ mod ++ d ++ a ++ b ++ low
      ++ (g1.bits ++ g2.bits ++ stall ++ BitVec.ofBool yld ++ BitVec.ofBool bnd ++ hold ++ ch)).getLsbD 7 = yld := by
    simp (disch := decide) only [getLsbD_low, getLsbD_high]
    exact b1
  have k11 : (opc ++ mod ++ d ++ a ++ b ++ low
      ++ (g1.bits ++ g2.bits ++ stall ++ BitVec.ofBool yld ++ BitVec.ofBool bnd ++ hold ++ ch)).getLsbD 6 = bnd := by
    simp (disch := decide) only [getLsbD_low, getLsbD_high]
    exact b2
  have k13 : (opc ++ mod ++ d ++ a ++ b ++ low
      ++ (g1.bits ++ g2.bits ++ stall ++ BitVec.ofBool yld ++ BitVec.ofBool bnd ++ hold ++ ch)).setWidth 3 = ch := by
    simp (disch := decide) only [setWidth_low, BitVec.setWidth_eq]
  unfold Raw.of
  rw [e]
  exact congr (congr (congr (congr (congr (congr (congrArg Raw.mk k1) k2) k3) k4) k5) k6)
    (congr (congr (congr (congr (congr (congr (congrArg Hdr.mk ((congrArg guardOf k7).trans (guardOf_bits g1)))
      ((congrArg guardOf k8).trans (guardOf_bits g2))) k9) k10) k11) k12) k13)

/-! ## Codes -/

@[simp] theorem Spec.ofBits_bits (s : Spec) : Spec.ofBits s.bits = s := by
  cases s with
  | v n => revert n; decide
  | k n => revert n; decide
  | p n => revert n; decide
  | _ => decide

theorem Ty.ofCode_code (t : Ty) : Ty.ofCode t.code = some t := by cases t <;> rfl
theorem Rnd.ofCode_code (t : Rnd) : Rnd.ofCode t.code = some t := by cases t <;> rfl
theorem Scope.ofCode_code (t : Scope) : Scope.ofCode t.code = some t := by cases t <;> rfl
theorem Order.ofCode_code (t : Order) : Order.ofCode t.code = some t := by cases t <;> rfl
theorem Space.ofCode_code (t : Space) : Space.ofCode t.code = some t := by cases t <;> rfl
@[simp] theorem Cond.ofCode_code (t : Cond) : Cond.ofCode t.code = some t := by cases t <;> rfl
@[simp] theorem FCond.ofCode_code (t : FCond) : FCond.ofCode t.code = some t := by cases t <;> rfl
theorem AtomOp.ofCode_code (t : AtomOp) : AtomOp.ofCode t.code = some t := by cases t <;> rfl
@[simp] theorem RedOp.ofCode_code (t : RedOp) : RedOp.ofCode t.code = some t := by cases t <;> rfl
@[simp] theorem PsetOp.ofCode_code (t : PsetOp) : PsetOp.ofCode t.code = some t := by cases t <;> rfl
@[simp] theorem VoteVar.ofCode_code (t : VoteVar) : VoteVar.ofCode t.code = Option.some t := by cases t <;> rfl
@[simp] theorem ShflVar.ofCode_code (t : ShflVar) : ShflVar.ofCode t.code = some t := by cases t <;> rfl
@[simp] theorem MnxVar.ofCode_code (t : MnxVar) : MnxVar.ofCode t.code = some t := by cases t <;> rfl
theorem CntClass.ofCode_code (t : CntClass) : CntClass.ofCode t.code = t := by cases t <;> rfl
theorem SrcWin.ofCode_code (t : SrcWin) : SrcWin.ofCode t.code = some t := by cases t <;> rfl
theorem DstWin.ofCode_code (t : DstWin) : DstWin.ofCode t.code = t := by cases t <;> rfl
theorem AccFmt.ofCode_code (t : AccFmt) : AccFmt.ofCode t.code = some t := by cases t <;> rfl
theorem DrainFmt.ofCode_code (t : DrainFmt) : DrainFmt.ofCode t.code = t := by cases t <;> rfl
theorem Fmt.ofCode_code (t : Fmt) : Fmt.ofCode t.code = some t := by cases t <;> rfl

theorem pe_bits (hi : BitVec 30) (pe : Option (BitVec 3)) :
    (if (hi ++ peBits pe).getLsbD 3 then some ((hi ++ peBits pe).setWidth 3) else none) = pe := by
  rw [getLsbD_low _ _ (by decide), setWidth_low _ _ (by decide)]
  cases pe with
  | none => rfl
  | some n => revert n; decide

/-- A predicate number stands in the low bits of its field. -/
@[simp] theorem pnum_read (n : BitVec 3) : (n.setWidth 8).setWidth 3 = n := by revert n; decide
@[simp] theorem slot_read (n : BitVec 6) : (n.setWidth 8).setWidth 6 = n := by revert n; decide
@[simp] theorem psel_read (n : BitVec 3) : (Spec.p n).bits.setWidth 3 = n := by revert n; decide

/-! ## What is left to show -/

/-- A word decodes to its instruction, where its fields build it. -/
theorem decode_of_build {i : Instr} {f : Form} (hf : i.form = some f) (hw : i.wf = true)
    (hb : build ⟨f.opc, f.mod, f.d, f.a, f.b, f.low, f.hdr⟩ = some (some i)) : decode (encode i) = .ok i := by
  have e : encode i = f.word := by unfold encode; rw [hf]
  unfold Instr.wf at hw
  rw [hf] at hw
  simp only [Bool.and_eq_true] at hw
  obtain ⟨⟨⟨h1, h2⟩, h3⟩, h4⟩ := hw
  rw [e]
  unfold decode
  simp only
  rw [Raw.of_word, hb]
  simp only
  rw [hf]
  simp only [h1, h3, h4, Bool.not_true, Bool.false_eq_true, if_false]
  have r : ∀ b : Bool, (⟨f.hdr, f.opc, f.mod, f.d, f.a, f.b, f.low, b, f.ops, f.hint⟩ : Form).specsOk = true := fun _ => h2
  simp only [r, Bool.not_true, Bool.false_eq_true, if_false, bne_self_eq_false]

end Sys2Proof
end

