-- ==== Sys2Proof/Laws/PerInstr.lean ====
section
/-! SUPPORT. For every instruction that carries a word: the word its fields make decodes to it, with every operand and
modifier at every value its entry accepts (13 R262-R286, 22 R423). One lemma for each constructor. -/

set_option linter.unusedSimpArgs false

namespace Sys2Proof

/-! ## The fields of each layout -/

theorem wide_low {v w k : Nat} (x : BitVec v) (y : BitVec w) (h : k = w) : (x ++ y).setWidth k = y.setWidth k :=
  setWidth_low x y (by omega)

@[simp] theorem modInt_ty (t : Ty) (sat : Bool) (v : BitVec 3) : Ty.ofCode ((modInt t sat v).extractLsb' 4 4) = some t := by
  cases t <;> cases sat <;> revert v <;> decide
@[simp] theorem modInt_sat (t : Ty) (sat : Bool) (v : BitVec 3) : (modInt t sat v)[3] = sat := by
  cases t <;> cases sat <;> revert v <;> decide
@[simp] theorem modInt_var (t : Ty) (sat : Bool) (v : BitVec 3) : (modInt t sat v).setWidth 3 = v := by
  unfold modInt; rw [setWidth_low _ _ (by decide)]; simp
@[simp] theorem modFloat_rnd (r : Rnd) (v : BitVec 3) : Rnd.ofCode ((modFloat r v).extractLsb' 5 3) = some r := by
  cases r <;> revert v <;> decide
@[simp] theorem modFloat_var (r : Rnd) (v : BitVec 3) : (modFloat r v).extractLsb' 2 3 = v := by
  cases r <;> revert v <;> decide
@[simp] theorem modFloat_zero (r : Rnd) (v : BitVec 3) : (modFloat r v).setWidth 2 = 0#2 := by
  cases r <;> revert v <;> decide
@[simp] theorem modConv_ty (t : Ty) (sat : Bool) (r : Rnd) : Ty.ofCode ((modConv t sat r).extractLsb' 4 4) = some t := by
  cases t <;> cases sat <;> cases r <;> decide
@[simp] theorem modConv_sat (t : Ty) (sat : Bool) (r : Rnd) : (modConv t sat r)[3] = sat := by
  cases t <;> cases sat <;> cases r <;> decide
@[simp] theorem modConv_rnd (t : Ty) (sat : Bool) (r : Rnd) : Rnd.ofCode ((modConv t sat r).setWidth 3) = some r := by
  cases t <;> cases sat <;> cases r <;> decide
@[simp] theorem modPred_ty (t : Ty) (v : BitVec 4) : Ty.ofCode ((modPred t v).extractLsb' 4 4) = some t := by
  cases t <;> revert v <;> decide
@[simp] theorem modPred_var (t : Ty) (v : BitVec 4) : (modPred t v).setWidth 4 = v := by
  unfold modPred; rw [setWidth_low _ _ (by decide)]; simp
@[simp] theorem modPred_var3 (t : Ty) (v : BitVec 4) : (modPred t v).setWidth 3 = v.setWidth 3 := by
  unfold modPred; rw [setWidth_low _ _ (by decide)]
@[simp] theorem modMem_scope (s : Scope) (o : Order) (bc : Bool) : Scope.ofCode ((modMem s o bc).extractLsb' 4 4) = some s := by
  cases s <;> cases o <;> cases bc <;> rfl
@[simp] theorem modMem_ord (s : Scope) (o : Order) (bc : Bool) : Order.ofCode ((modMem s o bc).extractLsb' 1 3) = some o := by
  cases s <;> cases o <;> cases bc <;> rfl
@[simp] theorem modMem_bc (s : Scope) (o : Order) (bc : Bool) : (modMem s o bc)[0] = bc := by
  cases s <;> cases o <;> cases bc <;> rfl
@[simp] theorem modEng_scope (s : Scope) (v : BitVec 4) : Scope.ofCode ((modEng s v).extractLsb' 4 4) = some s := by
  cases s <;> revert v <;> decide
@[simp] theorem modEng_var (s : Scope) (v : BitVec 4) : (modEng s v).setWidth 4 = v := by
  unfold modEng; rw [setWidth_low _ _ (by decide)]; simp
@[simp] theorem modEng_var3 (s : Scope) (v : BitVec 4) : (modEng s v).setWidth 3 = v.setWidth 3 := by
  unfold modEng; rw [setWidth_low _ _ (by decide)]
@[simp] theorem modEng_var2 (s : Scope) (v : BitVec 4) : (modEng s v).setWidth 2 = v.setWidth 2 := by
  unfold modEng; rw [setWidth_low _ _ (by decide)]
@[simp] theorem modEng_hi2 (s : Scope) (v : BitVec 4) : (modEng s v).extractLsb' 2 2 = v.extractLsb' 2 2 := by
  cases s <;> revert v <;> decide
@[simp] theorem modEng_mid2 (s : Scope) (v : BitVec 4) : (modEng s v).extractLsb' 1 2 = v.extractLsb' 1 2 := by
  cases s <;> revert v <;> decide
@[simp] theorem modEng_hi3 (s : Scope) (v : BitVec 4) : (modEng s v).extractLsb' 1 3 = v.extractLsb' 1 3 := by
  cases s <;> revert v <;> decide
@[simp] theorem modEng_bit0 (s : Scope) (v : BitVec 4) : (modEng s v)[0] = v[0] := by cases s <;> revert v <;> decide
@[simp] theorem modEng_bit2 (s : Scope) (v : BitVec 4) : (modEng s v)[2] = v[2] := by cases s <;> revert v <;> decide
@[simp] theorem modEng_bit3 (s : Scope) (v : BitVec 4) : (modEng s v)[3] = v[3] := by cases s <;> revert v <;> decide
@[simp] theorem rrr_c (c : BitVec 8) (pe : Option (BitVec 3)) : (rrrLow c pe).extractLsb' 10 8 = c := by
  unfold rrrLow
  simp (disch := decide) only [BitVec.extractLsb'_append_eq_of_add_le, BitVec.extractLsb'_append_eq_of_le]
  exact BitVec.extractLsb'_eq_self
@[simp] theorem rrr_pe (c : BitVec 8) (pe : Option (BitVec 3)) :
    (if (rrrLow c pe)[3] = true then some ((rrrLow c pe).setWidth 3) else none) = pe := pe_bits _ pe
@[simp] theorem mem_space (m : MemArg) (disp : BitVec 24) (t : Ty) :
    Space.ofCode ((memLow m disp t).extractLsb' 4 3) = some m.space := by
  unfold memLow
  simp (disch := decide) only [BitVec.extractLsb'_append_eq_of_add_le, BitVec.extractLsb'_append_eq_of_le]
  rw [show m.space.code.extractLsb' (4 - 4) 3 = m.space.code from BitVec.extractLsb'_eq_self]
  exact Space.ofCode_code _
@[simp] theorem mem_sh (m : MemArg) (disp : BitVec 24) (t : Ty) : (memLow m disp t).extractLsb' 7 3 = m.sh := by
  unfold memLow
  simp (disch := decide) only [BitVec.extractLsb'_append_eq_of_add_le, BitVec.extractLsb'_append_eq_of_le]
  exact BitVec.extractLsb'_eq_self
@[simp] theorem mem_disp (m : MemArg) (disp : BitVec 24) (t : Ty) : (memLow m disp t).extractLsb' 10 24 = disp := by
  unfold memLow
  simp (disch := decide) only [BitVec.extractLsb'_append_eq_of_add_le, BitVec.extractLsb'_append_eq_of_le]
  exact BitVec.extractLsb'_eq_self
@[simp] theorem mem_ty (m : MemArg) (disp : BitVec 24) (t : Ty) : Ty.ofCode ((memLow m disp t).setWidth 4) = some t := by
  unfold memLow; rw [setWidth_low _ _ (by decide), BitVec.setWidth_eq]; exact Ty.ofCode_code t
@[simp] theorem memC_space (m : MemArg) (disp : BitVec 16) (c : Spec) (t : Ty) :
    Space.ofCode ((memCLow m disp c t).extractLsb' 4 3) = some m.space := by
  unfold memCLow
  simp (disch := decide) only [BitVec.extractLsb'_append_eq_of_add_le, BitVec.extractLsb'_append_eq_of_le]
  rw [show m.space.code.extractLsb' (4 - 4) 3 = m.space.code from BitVec.extractLsb'_eq_self]
  exact Space.ofCode_code _
@[simp] theorem memC_sh (m : MemArg) (disp : BitVec 16) (c : Spec) (t : Ty) :
    (memCLow m disp c t).extractLsb' 7 3 = m.sh := by
  unfold memCLow
  simp (disch := decide) only [BitVec.extractLsb'_append_eq_of_add_le, BitVec.extractLsb'_append_eq_of_le]
  exact BitVec.extractLsb'_eq_self
@[simp] theorem memC_c (m : MemArg) (disp : BitVec 16) (c : Spec) (t : Ty) :
    (memCLow m disp c t).extractLsb' 10 8 = c.bits := by
  unfold memCLow
  simp (disch := decide) only [BitVec.extractLsb'_append_eq_of_add_le, BitVec.extractLsb'_append_eq_of_le]
  exact BitVec.extractLsb'_eq_self
@[simp] theorem memC_disp (m : MemArg) (disp : BitVec 16) (c : Spec) (t : Ty) :
    (memCLow m disp c t).extractLsb' 18 16 = disp := by
  unfold memCLow
  simp (disch := decide) only [BitVec.extractLsb'_append_eq_of_add_le, BitVec.extractLsb'_append_eq_of_le]
  exact BitVec.extractLsb'_eq_self
@[simp] theorem memC_ty (m : MemArg) (disp : BitVec 16) (c : Spec) (t : Ty) :
    Ty.ofCode ((memCLow m disp c t).setWidth 4) = some t := by
  unfold memCLow; rw [setWidth_low _ _ (by decide), BitVec.setWidth_eq]; exact Ty.ofCode_code t
@[simp] theorem eng_e (e f c : BitVec 8) (m : EngArg) : (engLow e f c m).extractLsb' 26 8 = e := by
  unfold engLow
  simp (disch := decide) only [BitVec.extractLsb'_append_eq_of_add_le, BitVec.extractLsb'_append_eq_of_le]
  exact BitVec.extractLsb'_eq_self
@[simp] theorem eng_f (e f c : BitVec 8) (m : EngArg) : (engLow e f c m).extractLsb' 18 8 = f := by
  unfold engLow
  simp (disch := decide) only [BitVec.extractLsb'_append_eq_of_add_le, BitVec.extractLsb'_append_eq_of_le]
  exact BitVec.extractLsb'_eq_self
@[simp] theorem eng_c (e f c : BitVec 8) (m : EngArg) : (engLow e f c m).extractLsb' 10 8 = c := by
  unfold engLow
  simp (disch := decide) only [BitVec.extractLsb'_append_eq_of_add_le, BitVec.extractLsb'_append_eq_of_le]
  exact BitVec.extractLsb'_eq_self
@[simp] theorem eng_sh (e f c : BitVec 8) (m : EngArg) : (engLow e f c m).extractLsb' 7 3 = m.sh := by
  unfold engLow
  simp (disch := decide) only [BitVec.extractLsb'_append_eq_of_add_le, BitVec.extractLsb'_append_eq_of_le]
  exact BitVec.extractLsb'_eq_self
@[simp] theorem eng_disp (e f c : BitVec 8) (m : EngArg) : (engLow e f c m).setWidth 7 = m.disp := by
  unfold engLow; rw [setWidth_low _ _ (by decide), BitVec.setWidth_eq]
theorem barVar_bit (bar : Option Spec) (v : BitVec 3) : (barVar bar ++ v)[3] = bar.isSome := by
  cases bar with
  | none => revert v; decide
  | some s => change (1#1 ++ v)[3] = true; revert v; decide
@[simp] theorem bar_read (bar : Option Spec) (v : BitVec 3) :
    (if (barVar bar ++ v)[3] = true then some (Spec.ofBits (barBits bar)) else none) = bar := by
  rw [barVar_bit]
  cases bar with
  | none => rfl
  | some s => simp [barBits, Spec.ofBits_bits]

@[simp] theorem low_2 (x : BitVec 2) : (0#32 ++ x).setWidth 2 = x := by
  rw [setWidth_low _ _ (by decide), BitVec.setWidth_eq]
@[simp] theorem low_6 (x : BitVec 6) : (0#28 ++ x).setWidth 6 = x := by
  rw [setWidth_low _ _ (by decide), BitVec.setWidth_eq]
@[simp] theorem low_8 (x : BitVec 8) : (0#26 ++ x).setWidth 8 = x := by
  rw [setWidth_low _ _ (by decide), BitVec.setWidth_eq]
@[simp] theorem low_12 (x : BitVec 12) : (0#22 ++ x).setWidth 12 = x := by
  rw [setWidth_low _ _ (by decide), BitVec.setWidth_eq]
@[simp] theorem low_16 (x : BitVec 16) : (0#18 ++ x).setWidth 16 = x := by
  rw [setWidth_low _ _ (by decide), BitVec.setWidth_eq]
@[simp] theorem low_20 (x : BitVec 20) : (0#14 ++ x).setWidth 20 = x := by
  rw [setWidth_low _ _ (by decide), BitVec.setWidth_eq]
@[simp] theorem low_32 (x : BitVec 32) : (0#2 ++ x).setWidth 32 = x := by
  rw [setWidth_low _ _ (by decide), BitVec.setWidth_eq]

@[simp] theorem flag3 (x : Bool) : ((if x = true then 1#3 else 0#3) == 1#3) = x := by cases x <;> rfl
@[simp] theorem flag4 (x : Bool) : ((if x = true then 1#4 else 0#4) == 1#4) = x := by cases x <;> rfl
@[simp] theorem flag8 (x : Bool) : ((if x = true then 1#8 else 0#8) == 1#8) = x := by cases x <;> rfl
@[simp] theorem fclass_mod : modFloat .rn 0#3 = 0#8 := by decide
@[simp] theorem wide_bit (x : Bool) (c : RedOp) : (BitVec.ofBool x ++ c.code)[3] = x := by cases x <;> cases c <;> decide
@[simp] theorem wide_code (x : BitVec 1) (c : RedOp) : (x ++ c.code).setWidth 3 = c.code := by cases c <;> revert x <;> decide
@[simp] theorem wide_zero (c : RedOp) : (0#1 ++ c.code)[3] = false := by cases c <;> decide
@[simp] theorem window_src (d : DstWin) (s : SrcWin) : SrcWin.ofCode ((d.code ++ s.code).setWidth 2) = some s := by
  cases d <;> cases s <;> decide
@[simp] theorem window_dst (d : DstWin) (s : SrcWin) : DstWin.ofCode ((d.code ++ s.code).extractLsb' 2 2) = d := by
  cases d <;> cases s <;> decide
@[simp] theorem bar_acc (x : BitVec 1) (c : AccFmt) (y : Bool) :
    AccFmt.ofCode ((x ++ c.code ++ BitVec.ofBool y).extractLsb' 1 2) = some c := by
  cases c <;> cases y <;> revert x <;> decide
@[simp] theorem bar_acc_bf (x : BitVec 1) (c : AccFmt) (y : Bool) : (x ++ c.code ++ BitVec.ofBool y)[0] = y := by
  cases c <;> cases y <;> revert x <;> decide
@[simp] theorem bar_acc_bar (bar : Option Spec) (v : BitVec 2) (w : BitVec 1) :
    (barVar bar ++ v ++ w)[3] = bar.isSome := by
  cases bar with
  | none => revert v w; decide
  | some s => change (1#1 ++ v ++ w)[3] = true; revert v w; decide
@[simp] theorem bar_drain_bar (bar : Option Spec) (v : BitVec 1) (w : BitVec 2) :
    (barVar bar ++ v ++ w)[3] = bar.isSome := by
  cases bar with
  | none => revert v w; decide
  | some s => change (1#1 ++ v ++ w)[3] = true; revert v w; decide
@[simp] theorem bar_some (bar : Option Spec) :
    (if bar.isSome = true then some (Spec.ofBits (barBits bar)) else none) = bar := by
  cases bar with
  | none => rfl
  | some s => simp [barBits, Spec.ofBits_bits]
@[simp] theorem drain_fmt (x y : BitVec 1) (c : DrainFmt) : DrainFmt.ofCode ((x ++ y ++ c.code).setWidth 2) = c := by
  cases c <;> revert x y <;> decide
@[simp] theorem drain_t (x : BitVec 1) (y : Bool) (c : DrainFmt) : (x ++ BitVec.ofBool y ++ c.code)[2] = y := by
  cases c <;> cases y <;> revert x <;> decide
theorem eng_rnd (r : Rnd) (acc : AccFmt) (f c : BitVec 8) (m : EngArg) :
    (engLow (r.code ++ acc.code ++ 0#3) f c m).extractLsb' 31 3 = r.code := by
  unfold engLow
  simp (disch := decide) only [BitVec.extractLsb'_append_eq_of_add_le, BitVec.extractLsb'_append_eq_of_le]
  exact BitVec.extractLsb'_eq_self
theorem eng_acc (r : Rnd) (acc : AccFmt) (f c : BitVec 8) (m : EngArg) :
    (engLow (r.code ++ acc.code ++ 0#3) f c m).extractLsb' 29 2 = acc.code := by
  unfold engLow
  simp (disch := decide) only [BitVec.extractLsb'_append_eq_of_add_le, BitVec.extractLsb'_append_eq_of_le]
  exact BitVec.extractLsb'_eq_self
@[simp] theorem eng_pnum (p : BitVec 3) (f c : BitVec 8) (m : EngArg) :
    (engLow (p.setWidth 8) f c m).extractLsb' 26 3 = p := by
  unfold engLow
  simp (disch := decide) only [BitVec.extractLsb'_append_eq_of_add_le, BitVec.extractLsb'_append_eq_of_le]
  revert p; decide
@[simp] theorem zero_bit2 (x : BitVec 1) (c : AccFmt) : (x ++ 0#1 ++ c.code)[2] = false := by
  cases c <;> revert x <;> decide
@[simp] theorem zero_fmt (x : BitVec 1) (c : AccFmt) : AccFmt.ofCode ((x ++ 0#1 ++ c.code).setWidth 2) = some c := by
  cases c <;> revert x <;> decide
@[simp] theorem table_bit2 (x : BitVec 1) (c : SrcWin) : (x ++ 0#1 ++ c.code)[2] = false := by
  cases c <;> revert x <;> decide
@[simp] theorem table_src (x : BitVec 1) (c : SrcWin) : SrcWin.ofCode ((x ++ 0#1 ++ c.code).setWidth 2) = some c := by
  cases c <;> revert x <;> decide
@[simp] theorem sp_bit (sp : Bool) : (BitVec.ofBool sp ++ 0#3)[3] = sp := by cases sp <;> decide
@[simp] theorem sp_low (sp : Bool) : (BitVec.ofBool sp ++ 0#3).setWidth 3 = 0#3 := by cases sp <;> decide
@[simp] theorem full_bit (x : Bool) : (0#3 ++ BitVec.ofBool x)[0] = x := by cases x <;> decide
@[simp] theorem full_high (x : Bool) : (0#3 ++ BitVec.ofBool x).extractLsb' 1 3 = 0#3 := by cases x <;> decide
@[simp] theorem arr_bit3 (sp : Bool) (n : BitVec 1) : (BitVec.ofBool sp ++ 0#2 ++ n)[3] = sp := by
  cases sp <;> revert n <;> decide
@[simp] theorem arr_bit0 (sp : Bool) (n : BitVec 1) : (BitVec.ofBool sp ++ 0#2 ++ n)[0] = n[0] := by
  cases sp <;> revert n <;> decide
@[simp] theorem arr_mid (sp : Bool) (n : BitVec 1) : (BitVec.ofBool sp ++ 0#2 ++ n).extractLsb' 1 2 = 0#2 := by
  cases sp <;> revert n <;> decide
theorem arr_imm (n : BitVec 24) (sh : BitVec 3) (disp : BitVec 7) : (n ++ sh ++ disp).extractLsb' 10 24 = n := by
  simp (disch := decide) only [BitVec.extractLsb'_append_eq_of_add_le, BitVec.extractLsb'_append_eq_of_le]
  exact BitVec.extractLsb'_eq_self
theorem arr_reg (e : Spec) (sh : BitVec 3) (disp : BitVec 7) :
    (e.bits ++ 0#16 ++ sh ++ disp).extractLsb' 26 8 = e.bits := by
  simp (disch := decide) only [BitVec.extractLsb'_append_eq_of_add_le, BitVec.extractLsb'_append_eq_of_le]
  exact BitVec.extractLsb'_eq_self
@[simp] theorem arr_sh (n : BitVec 24) (sh : BitVec 3) (disp : BitVec 7) : (n ++ sh ++ disp).extractLsb' 7 3 = sh := by
  simp (disch := decide) only [BitVec.extractLsb'_append_eq_of_add_le, BitVec.extractLsb'_append_eq_of_le]
  exact BitVec.extractLsb'_eq_self
@[simp] theorem arr_disp (n : BitVec 24) (sh : BitVec 3) (disp : BitVec 7) : (n ++ sh ++ disp).setWidth 7 = disp := by
  rw [setWidth_low _ _ (by decide), BitVec.setWidth_eq]
@[simp] theorem cls_high (c : CntClass) : (0#2 ++ c.code).extractLsb' 2 2 = 0#2 := by cases c <;> decide
@[simp] theorem cls_code (c : CntClass) : CntClass.ofCode ((0#2 ++ c.code).setWidth 2) = c := by cases c <;> decide
@[simp] theorem sel_high (x : BitVec 3) : (0#1 ++ x)[3] = false := by revert x; decide
@[simp] theorem sel_low (x : BitVec 3) : (0#1 ++ x).setWidth 3 = x := by revert x; decide
@[simp] theorem get_high (x : BitVec 3) : (0#5 ++ x).extractLsb' 3 5 = 0#5 := by revert x; decide
@[simp] theorem get_low (x : BitVec 3) : (0#5 ++ x).setWidth 3 = x := by revert x; decide
@[simp] theorem tst_high (x : BitVec 6) : (0#2 ++ x).extractLsb' 6 2 = 0#2 := by revert x; decide
@[simp] theorem tst_low (x : BitVec 6) : (0#2 ++ x).setWidth 6 = x := by revert x; decide
theorem capnar_mod (fmt : Option Fmt) (pitch : Option (BitVec 16)) (l : Bool) :
    ∃ x : BitVec 4, modCapnar fmt pitch l
      = x ++ BitVec.ofBool fmt.isSome ++ BitVec.ofBool pitch.isSome ++ BitVec.ofBool l ++ 0#1 := ⟨_, rfl⟩
@[simp] theorem capnar_bit0 (fmt : Option Fmt) (pitch : Option (BitVec 16)) (l : Bool) :
    (modCapnar fmt pitch l)[0] = false := by
  obtain ⟨x, e⟩ := capnar_mod fmt pitch l
  rw [e]; clear e; generalize fmt.isSome = f; generalize pitch.isSome = p
  cases f <;> cases p <;> cases l <;> revert x <;> decide
@[simp] theorem capnar_l (fmt : Option Fmt) (pitch : Option (BitVec 16)) (l : Bool) : (modCapnar fmt pitch l)[1] = l := by
  obtain ⟨x, e⟩ := capnar_mod fmt pitch l
  rw [e]; clear e; generalize fmt.isSome = f; generalize pitch.isSome = p
  cases f <;> cases p <;> cases l <;> revert x <;> decide
@[simp] theorem capnar_pitch (fmt : Option Fmt) (pitch : Option (BitVec 16)) (l : Bool) :
    (modCapnar fmt pitch l)[2] = pitch.isSome := by
  obtain ⟨x, e⟩ := capnar_mod fmt pitch l
  rw [e]; clear e; generalize fmt.isSome = f; generalize pitch.isSome = p
  cases f <;> cases p <;> cases l <;> revert x <;> decide
@[simp] theorem capnar_fmt (fmt : Option Fmt) (pitch : Option (BitVec 16)) (l : Bool) :
    (if (modCapnar fmt pitch l)[3] = true then
        Option.map some (Fmt.ofCode (BitVec.extractLsb' 4 4 (modCapnar fmt pitch l)))
      else if BitVec.extractLsb' 4 4 (modCapnar fmt pitch l) = 0#4 then some none else none) = some fmt := by
  have e : ∀ (p l : Bool) (fmt : Option Fmt), (if ((match fmt with | some f => f.code | none => 0#4) ++ BitVec.ofBool fmt.isSome
        ++ BitVec.ofBool p ++ BitVec.ofBool l ++ 0#1)[3] = true then
        Option.map some (Fmt.ofCode (((match fmt with | some f => f.code | none => 0#4) ++ BitVec.ofBool fmt.isSome
        ++ BitVec.ofBool p ++ BitVec.ofBool l ++ 0#1).extractLsb' 4 4))
      else if ((match fmt with | some f => f.code | none => 0#4) ++ BitVec.ofBool fmt.isSome
        ++ BitVec.ofBool p ++ BitVec.ofBool l ++ 0#1).extractLsb' 4 4 = 0#4 then some none else none) = some fmt := by
    intro p l fmt
    cases fmt with
    | none => cases p <;> cases l <;> decide
    | some f => cases f <;> cases p <;> cases l <;> decide
  exact e pitch.isSome l fmt
@[simp] theorem capnar_bits (p : BitVec 16) (c : BitVec 8) (y : BitVec 4) :
    (p ++ c ++ 0#6 ++ y).extractLsb' 18 16 = p := by
  simp (disch := decide) only [BitVec.extractLsb'_append_eq_of_add_le, BitVec.extractLsb'_append_eq_of_le]
  exact BitVec.extractLsb'_eq_self
@[simp] theorem capnar_c (p : BitVec 16) (c : BitVec 8) (y : BitVec 4) :
    (p ++ c ++ 0#6 ++ y).extractLsb' 10 8 = c := by
  simp (disch := decide) only [BitVec.extractLsb'_append_eq_of_add_le, BitVec.extractLsb'_append_eq_of_le]
  exact BitVec.extractLsb'_eq_self
@[simp] theorem capnar_pe (p : BitVec 16) (c : BitVec 8) (pe : Option (BitVec 3)) :
    (if (p ++ c ++ 0#6 ++ peBits pe)[3] = true then some ((p ++ c ++ 0#6 ++ peBits pe).setWidth 3) else none) = pe :=
  pe_bits _ pe
theorem waitmem_class (c : Cond) : (0x290#10 + c.code.setWidth 10).extractLsb' 7 3 = 5#3 := by cases c <;> decide
theorem atom_class (c : AtomOp) : (0x2A0#10 + c.code.setWidth 10).extractLsb' 7 3 = 5#3 := by cases c <;> decide
theorem red_class (c : AtomOp) : (0x2C0#10 + c.code.setWidth 10).extractLsb' 7 3 = 5#3 := by cases c <;> decide



theorem build_int {o : BitVec 10} {m d a b : BitVec 8} {low : BitVec 34} {h : Hdr} (ho : o.extractLsb' 7 3 = 0#3) :
    build ⟨o, m, d, a, b, low, h⟩ = buildInt ⟨o, m, d, a, b, low, h⟩ := by
  unfold build; dsimp only; rw [ho]; rfl

theorem build_float {o : BitVec 10} {m d a b : BitVec 8} {low : BitVec 34} {h : Hdr} (ho : o.extractLsb' 7 3 = 1#3) :
    build ⟨o, m, d, a, b, low, h⟩ = buildFloat ⟨o, m, d, a, b, low, h⟩ := by
  unfold build; dsimp only; rw [ho]; rfl

theorem build_conv {o : BitVec 10} {m d a b : BitVec 8} {low : BitVec 34} {h : Hdr} (ho : o.extractLsb' 7 3 = 2#3) :
    build ⟨o, m, d, a, b, low, h⟩ = buildConv ⟨o, m, d, a, b, low, h⟩ := by
  unfold build; dsimp only; rw [ho]; rfl

theorem build_pred {o : BitVec 10} {m d a b : BitVec 8} {low : BitVec 34} {h : Hdr} (ho : o.extractLsb' 7 3 = 3#3) :
    build ⟨o, m, d, a, b, low, h⟩ = buildPred ⟨o, m, d, a, b, low, h⟩ := by
  unfold build; dsimp only; rw [ho]; rfl

theorem build_ctl {o : BitVec 10} {m d a b : BitVec 8} {low : BitVec 34} {h : Hdr} (ho : o.extractLsb' 7 3 = 4#3) :
    build ⟨o, m, d, a, b, low, h⟩ = buildCtl ⟨o, m, d, a, b, low, h⟩ := by
  unfold build; dsimp only; rw [ho]; rfl

theorem build_mem {o : BitVec 10} {m d a b : BitVec 8} {low : BitVec 34} {h : Hdr} (ho : o.extractLsb' 7 3 = 5#3) :
    build ⟨o, m, d, a, b, low, h⟩ = buildMem ⟨o, m, d, a, b, low, h⟩ := by
  unfold build; dsimp only; rw [ho]; rfl

theorem build_eng {o : BitVec 10} {m d a b : BitVec 8} {low : BitVec 34} {h : Hdr} (ho : o.extractLsb' 7 3 = 6#3) :
    build ⟨o, m, d, a, b, low, h⟩ = buildEng ⟨o, m, d, a, b, low, h⟩ := by
  unfold build; dsimp only; rw [ho]; rfl

theorem build_sys {o : BitVec 10} {m d a b : BitVec 8} {low : BitVec 34} {h : Hdr} (ho : o.extractLsb' 7 3 = 7#3) :
    build ⟨o, m, d, a, b, low, h⟩ = buildSys ⟨o, m, d, a, b, low, h⟩ := by
  unfold build; dsimp only; rw [ho]; rfl

namespace Laws.Encoded

/-- An instruction with a word, well formed, is what its word decodes to. -/
def Statement (i : Instr) : Prop := i.encoded = true → i.wf = true → decode (encode i) = .ok i

theorem iadd (h : Hdr) (t : Ty) (sat : Bool) (d a b : Spec) : Statement (.iadd h t sat d a b) := by
  intro _ hw
  refine decode_of_build rfl hw ((build_int (o := 0x001#10) (by decide)).trans ?_)
  conv => lhs; whnf
  refine congrArg some ?_
  simp [Raw.ty, Raw.sat, Raw.var3, Raw.var4, Raw.sd, Raw.sa, Raw.sb, Raw.sc, Raw.se, Raw.sf, Raw.rndF, Raw.varF,
    Raw.rndC, Raw.scope, Raw.ord, Raw.pe, Raw.mem, Raw.memTy, Raw.eng, Raw.bar, Raw.dstWin, Raw.capFmt, Sys2Proof.need]

theorem iaddImm (h : Hdr) (t : Ty) (sat : Bool) (d a : Spec) (imm : BitVec 34) : Statement (.iaddImm h t sat d a imm) := by
  intro _ hw
  refine decode_of_build rfl hw ((build_int (o := 0x041#10) (by decide)).trans ?_)
  conv => lhs; whnf
  refine congrArg some ?_
  simp [Raw.ty, Raw.sat, Raw.var3, Raw.var4, Raw.sd, Raw.sa, Raw.sb, Raw.sc, Raw.se, Raw.sf, Raw.rndF, Raw.varF,
    Raw.rndC, Raw.scope, Raw.ord, Raw.pe, Raw.mem, Raw.memTy, Raw.eng, Raw.bar, Raw.dstWin, Raw.capFmt, Sys2Proof.need]

theorem isub (h : Hdr) (t : Ty) (sat : Bool) (d a b : Spec) : Statement (.isub h t sat d a b) := by
  intro _ hw
  refine decode_of_build rfl hw ((build_int (o := 0x002#10) (by decide)).trans ?_)
  conv => lhs; whnf
  refine congrArg some ?_
  simp [Raw.ty, Raw.sat, Raw.var3, Raw.var4, Raw.sd, Raw.sa, Raw.sb, Raw.sc, Raw.se, Raw.sf, Raw.rndF, Raw.varF,
    Raw.rndC, Raw.scope, Raw.ord, Raw.pe, Raw.mem, Raw.memTy, Raw.eng, Raw.bar, Raw.dstWin, Raw.capFmt, Sys2Proof.need]

theorem isubImm (h : Hdr) (t : Ty) (sat : Bool) (d a : Spec) (imm : BitVec 34) : Statement (.isubImm h t sat d a imm) := by
  intro _ hw
  refine decode_of_build rfl hw ((build_int (o := 0x042#10) (by decide)).trans ?_)
  conv => lhs; whnf
  refine congrArg some ?_
  simp [Raw.ty, Raw.sat, Raw.var3, Raw.var4, Raw.sd, Raw.sa, Raw.sb, Raw.sc, Raw.se, Raw.sf, Raw.rndF, Raw.varF,
    Raw.rndC, Raw.scope, Raw.ord, Raw.pe, Raw.mem, Raw.memTy, Raw.eng, Raw.bar, Raw.dstWin, Raw.capFmt, Sys2Proof.need]

theorem imul (h : Hdr) (t : Ty) (sat : Bool) (d a b : Spec) : Statement (.imul h t sat d a b) := by
  intro _ hw
  refine decode_of_build rfl hw ((build_int (o := 0x003#10) (by decide)).trans ?_)
  conv => lhs; whnf
  refine congrArg some ?_
  simp [Raw.ty, Raw.sat, Raw.var3, Raw.var4, Raw.sd, Raw.sa, Raw.sb, Raw.sc, Raw.se, Raw.sf, Raw.rndF, Raw.varF,
    Raw.rndC, Raw.scope, Raw.ord, Raw.pe, Raw.mem, Raw.memTy, Raw.eng, Raw.bar, Raw.dstWin, Raw.capFmt, Sys2Proof.need]

theorem imulImm (h : Hdr) (t : Ty) (sat : Bool) (d a : Spec) (imm : BitVec 34) : Statement (.imulImm h t sat d a imm) := by
  intro _ hw
  refine decode_of_build rfl hw ((build_int (o := 0x043#10) (by decide)).trans ?_)
  conv => lhs; whnf
  refine congrArg some ?_
  simp [Raw.ty, Raw.sat, Raw.var3, Raw.var4, Raw.sd, Raw.sa, Raw.sb, Raw.sc, Raw.se, Raw.sf, Raw.rndF, Raw.varF,
    Raw.rndC, Raw.scope, Raw.ord, Raw.pe, Raw.mem, Raw.memTy, Raw.eng, Raw.bar, Raw.dstWin, Raw.capFmt, Sys2Proof.need]

theorem imulh (h : Hdr) (t : Ty) (d a b : Spec) : Statement (.imulh h t d a b) := by
  intro _ hw
  refine decode_of_build rfl hw ((build_int (o := 0x004#10) (by decide)).trans ?_)
  conv => lhs; whnf
  refine congrArg some ?_
  simp [Raw.ty, Raw.sat, Raw.var3, Raw.var4, Raw.sd, Raw.sa, Raw.sb, Raw.sc, Raw.se, Raw.sf, Raw.rndF, Raw.varF,
    Raw.rndC, Raw.scope, Raw.ord, Raw.pe, Raw.mem, Raw.memTy, Raw.eng, Raw.bar, Raw.dstWin, Raw.capFmt, Sys2Proof.need]

theorem imulhImm (h : Hdr) (t : Ty) (d a : Spec) (imm : BitVec 34) : Statement (.imulhImm h t d a imm) := by
  intro _ hw
  refine decode_of_build rfl hw ((build_int (o := 0x044#10) (by decide)).trans ?_)
  conv => lhs; whnf
  refine congrArg some ?_
  simp [Raw.ty, Raw.sat, Raw.var3, Raw.var4, Raw.sd, Raw.sa, Raw.sb, Raw.sc, Raw.se, Raw.sf, Raw.rndF, Raw.varF,
    Raw.rndC, Raw.scope, Raw.ord, Raw.pe, Raw.mem, Raw.memTy, Raw.eng, Raw.bar, Raw.dstWin, Raw.capFmt, Sys2Proof.need]

theorem imad (h : Hdr) (t : Ty) (sat : Bool) (d a b c : Spec) : Statement (.imad h t sat d a b c) := by
  intro _ hw
  refine decode_of_build rfl hw ((build_int (o := 0x005#10) (by decide)).trans ?_)
  conv => lhs; whnf
  refine congrArg some ?_
  simp [Raw.ty, Raw.sat, Raw.var3, Raw.var4, Raw.sd, Raw.sa, Raw.sb, Raw.sc, Raw.se, Raw.sf, Raw.rndF, Raw.varF,
    Raw.rndC, Raw.scope, Raw.ord, Raw.pe, Raw.mem, Raw.memTy, Raw.eng, Raw.bar, Raw.dstWin, Raw.capFmt, Sys2Proof.need]

theorem imadImm (h : Hdr) (t : Ty) (sat : Bool) (d a b : Spec) (imm : BitVec 34) : Statement (.imadImm h t sat d a b imm) := by
  intro _ hw
  refine decode_of_build rfl hw ((build_int (o := 0x045#10) (by decide)).trans ?_)
  conv => lhs; whnf
  refine congrArg some ?_
  simp [Raw.ty, Raw.sat, Raw.var3, Raw.var4, Raw.sd, Raw.sa, Raw.sb, Raw.sc, Raw.se, Raw.sf, Raw.rndF, Raw.varF,
    Raw.rndC, Raw.scope, Raw.ord, Raw.pe, Raw.mem, Raw.memTy, Raw.eng, Raw.bar, Raw.dstWin, Raw.capFmt, Sys2Proof.need]

theorem imadw (h : Hdr) (t : Ty) (d a b c : Spec) : Statement (.imadw h t d a b c) := by
  intro _ hw
  refine decode_of_build rfl hw ((build_int (o := 0x006#10) (by decide)).trans ?_)
  conv => lhs; whnf
  refine congrArg some ?_
  simp [Raw.ty, Raw.sat, Raw.var3, Raw.var4, Raw.sd, Raw.sa, Raw.sb, Raw.sc, Raw.se, Raw.sf, Raw.rndF, Raw.varF,
    Raw.rndC, Raw.scope, Raw.ord, Raw.pe, Raw.mem, Raw.memTy, Raw.eng, Raw.bar, Raw.dstWin, Raw.capFmt, Sys2Proof.need]

theorem imadwImm (h : Hdr) (t : Ty) (d a b : Spec) (imm : BitVec 34) : Statement (.imadwImm h t d a b imm) := by
  intro _ hw
  refine decode_of_build rfl hw ((build_int (o := 0x046#10) (by decide)).trans ?_)
  conv => lhs; whnf
  refine congrArg some ?_
  simp [Raw.ty, Raw.sat, Raw.var3, Raw.var4, Raw.sd, Raw.sa, Raw.sb, Raw.sc, Raw.se, Raw.sf, Raw.rndF, Raw.varF,
    Raw.rndC, Raw.scope, Raw.ord, Raw.pe, Raw.mem, Raw.memTy, Raw.eng, Raw.bar, Raw.dstWin, Raw.capFmt, Sys2Proof.need]

theorem iadd64 (h : Hdr) (t : Ty) (d a b : Spec) : Statement (.iadd64 h t d a b) := by
  intro _ hw
  refine decode_of_build rfl hw ((build_int (o := 0x007#10) (by decide)).trans ?_)
  conv => lhs; whnf
  refine congrArg some ?_
  simp [Raw.ty, Raw.sat, Raw.var3, Raw.var4, Raw.sd, Raw.sa, Raw.sb, Raw.sc, Raw.se, Raw.sf, Raw.rndF, Raw.varF,
    Raw.rndC, Raw.scope, Raw.ord, Raw.pe, Raw.mem, Raw.memTy, Raw.eng, Raw.bar, Raw.dstWin, Raw.capFmt, Sys2Proof.need]

theorem iadd64Imm (h : Hdr) (t : Ty) (d a : Spec) (imm : BitVec 34) : Statement (.iadd64Imm h t d a imm) := by
  intro _ hw
  refine decode_of_build rfl hw ((build_int (o := 0x047#10) (by decide)).trans ?_)
  conv => lhs; whnf
  refine congrArg some ?_
  simp [Raw.ty, Raw.sat, Raw.var3, Raw.var4, Raw.sd, Raw.sa, Raw.sb, Raw.sc, Raw.se, Raw.sf, Raw.rndF, Raw.varF,
    Raw.rndC, Raw.scope, Raw.ord, Raw.pe, Raw.mem, Raw.memTy, Raw.eng, Raw.bar, Raw.dstWin, Raw.capFmt, Sys2Proof.need]

theorem imad64 (h : Hdr) (t : Ty) (d a b c : Spec) : Statement (.imad64 h t d a b c) := by
  intro _ hw
  refine decode_of_build rfl hw ((build_int (o := 0x008#10) (by decide)).trans ?_)
  conv => lhs; whnf
  refine congrArg some ?_
  simp [Raw.ty, Raw.sat, Raw.var3, Raw.var4, Raw.sd, Raw.sa, Raw.sb, Raw.sc, Raw.se, Raw.sf, Raw.rndF, Raw.varF,
    Raw.rndC, Raw.scope, Raw.ord, Raw.pe, Raw.mem, Raw.memTy, Raw.eng, Raw.bar, Raw.dstWin, Raw.capFmt, Sys2Proof.need]

theorem imin (h : Hdr) (t : Ty) (d a b : Spec) : Statement (.imin h t d a b) := by
  intro _ hw
  refine decode_of_build rfl hw ((build_int (o := 0x009#10) (by decide)).trans ?_)
  conv => lhs; whnf
  refine congrArg some ?_
  simp [Raw.ty, Raw.sat, Raw.var3, Raw.var4, Raw.sd, Raw.sa, Raw.sb, Raw.sc, Raw.se, Raw.sf, Raw.rndF, Raw.varF,
    Raw.rndC, Raw.scope, Raw.ord, Raw.pe, Raw.mem, Raw.memTy, Raw.eng, Raw.bar, Raw.dstWin, Raw.capFmt, Sys2Proof.need]

theorem iminImm (h : Hdr) (t : Ty) (d a : Spec) (imm : BitVec 34) : Statement (.iminImm h t d a imm) := by
  intro _ hw
  refine decode_of_build rfl hw ((build_int (o := 0x049#10) (by decide)).trans ?_)
  conv => lhs; whnf
  refine congrArg some ?_
  simp [Raw.ty, Raw.sat, Raw.var3, Raw.var4, Raw.sd, Raw.sa, Raw.sb, Raw.sc, Raw.se, Raw.sf, Raw.rndF, Raw.varF,
    Raw.rndC, Raw.scope, Raw.ord, Raw.pe, Raw.mem, Raw.memTy, Raw.eng, Raw.bar, Raw.dstWin, Raw.capFmt, Sys2Proof.need]

theorem imax (h : Hdr) (t : Ty) (d a b : Spec) : Statement (.imax h t d a b) := by
  intro _ hw
  refine decode_of_build rfl hw ((build_int (o := 0x00A#10) (by decide)).trans ?_)
  conv => lhs; whnf
  refine congrArg some ?_
  simp [Raw.ty, Raw.sat, Raw.var3, Raw.var4, Raw.sd, Raw.sa, Raw.sb, Raw.sc, Raw.se, Raw.sf, Raw.rndF, Raw.varF,
    Raw.rndC, Raw.scope, Raw.ord, Raw.pe, Raw.mem, Raw.memTy, Raw.eng, Raw.bar, Raw.dstWin, Raw.capFmt, Sys2Proof.need]

theorem imaxImm (h : Hdr) (t : Ty) (d a : Spec) (imm : BitVec 34) : Statement (.imaxImm h t d a imm) := by
  intro _ hw
  refine decode_of_build rfl hw ((build_int (o := 0x04A#10) (by decide)).trans ?_)
  conv => lhs; whnf
  refine congrArg some ?_
  simp [Raw.ty, Raw.sat, Raw.var3, Raw.var4, Raw.sd, Raw.sa, Raw.sb, Raw.sc, Raw.se, Raw.sf, Raw.rndF, Raw.varF,
    Raw.rndC, Raw.scope, Raw.ord, Raw.pe, Raw.mem, Raw.memTy, Raw.eng, Raw.bar, Raw.dstWin, Raw.capFmt, Sys2Proof.need]

theorem iabs (h : Hdr) (sat : Bool) (d a : Spec) : Statement (.iabs h sat d a) := by
  intro _ hw
  refine decode_of_build rfl hw ((build_int (o := 0x00B#10) (by decide)).trans ?_)
  conv => lhs; whnf
  refine congrArg some ?_
  simp [Raw.ty, Raw.sat, Raw.var3, Raw.var4, Raw.sd, Raw.sa, Raw.sb, Raw.sc, Raw.se, Raw.sf, Raw.rndF, Raw.varF,
    Raw.rndC, Raw.scope, Raw.ord, Raw.pe, Raw.mem, Raw.memTy, Raw.eng, Raw.bar, Raw.dstWin, Raw.capFmt, Sys2Proof.need]

theorem ineg (h : Hdr) (t : Ty) (sat : Bool) (d a : Spec) : Statement (.ineg h t sat d a) := by
  intro _ hw
  refine decode_of_build rfl hw ((build_int (o := 0x00C#10) (by decide)).trans ?_)
  conv => lhs; whnf
  refine congrArg some ?_
  simp [Raw.ty, Raw.sat, Raw.var3, Raw.var4, Raw.sd, Raw.sa, Raw.sb, Raw.sc, Raw.se, Raw.sf, Raw.rndF, Raw.varF,
    Raw.rndC, Raw.scope, Raw.ord, Raw.pe, Raw.mem, Raw.memTy, Raw.eng, Raw.bar, Raw.dstWin, Raw.capFmt, Sys2Proof.need]

theorem isad (h : Hdr) (t : Ty) (d a b c : Spec) : Statement (.isad h t d a b c) := by
  intro _ hw
  refine decode_of_build rfl hw ((build_int (o := 0x00D#10) (by decide)).trans ?_)
  conv => lhs; whnf
  refine congrArg some ?_
  simp [Raw.ty, Raw.sat, Raw.var3, Raw.var4, Raw.sd, Raw.sa, Raw.sb, Raw.sc, Raw.se, Raw.sf, Raw.rndF, Raw.varF,
    Raw.rndC, Raw.scope, Raw.ord, Raw.pe, Raw.mem, Raw.memTy, Raw.eng, Raw.bar, Raw.dstWin, Raw.capFmt, Sys2Proof.need]

theorem isadImm (h : Hdr) (t : Ty) (d a b : Spec) (imm : BitVec 34) : Statement (.isadImm h t d a b imm) := by
  intro _ hw
  refine decode_of_build rfl hw ((build_int (o := 0x04D#10) (by decide)).trans ?_)
  conv => lhs; whnf
  refine congrArg some ?_
  simp [Raw.ty, Raw.sat, Raw.var3, Raw.var4, Raw.sd, Raw.sa, Raw.sb, Raw.sc, Raw.se, Raw.sf, Raw.rndF, Raw.varF,
    Raw.rndC, Raw.scope, Raw.ord, Raw.pe, Raw.mem, Raw.memTy, Raw.eng, Raw.bar, Raw.dstWin, Raw.capFmt, Sys2Proof.need]

theorem and (h : Hdr) (d a b : Spec) : Statement (.and h d a b) := by
  intro _ hw
  refine decode_of_build rfl hw ((build_int (o := 0x00E#10) (by decide)).trans ?_)
  conv => lhs; whnf
  refine congrArg some ?_
  simp [Raw.ty, Raw.sat, Raw.var3, Raw.var4, Raw.sd, Raw.sa, Raw.sb, Raw.sc, Raw.se, Raw.sf, Raw.rndF, Raw.varF,
    Raw.rndC, Raw.scope, Raw.ord, Raw.pe, Raw.mem, Raw.memTy, Raw.eng, Raw.bar, Raw.dstWin, Raw.capFmt, Sys2Proof.need]

theorem andImm (h : Hdr) (d a : Spec) (imm : BitVec 34) : Statement (.andImm h d a imm) := by
  intro _ hw
  refine decode_of_build rfl hw ((build_int (o := 0x04E#10) (by decide)).trans ?_)
  conv => lhs; whnf
  refine congrArg some ?_
  simp [Raw.ty, Raw.sat, Raw.var3, Raw.var4, Raw.sd, Raw.sa, Raw.sb, Raw.sc, Raw.se, Raw.sf, Raw.rndF, Raw.varF,
    Raw.rndC, Raw.scope, Raw.ord, Raw.pe, Raw.mem, Raw.memTy, Raw.eng, Raw.bar, Raw.dstWin, Raw.capFmt, Sys2Proof.need]

theorem or (h : Hdr) (d a b : Spec) : Statement (.or h d a b) := by
  intro _ hw
  refine decode_of_build rfl hw ((build_int (o := 0x00F#10) (by decide)).trans ?_)
  conv => lhs; whnf
  refine congrArg some ?_
  simp [Raw.ty, Raw.sat, Raw.var3, Raw.var4, Raw.sd, Raw.sa, Raw.sb, Raw.sc, Raw.se, Raw.sf, Raw.rndF, Raw.varF,
    Raw.rndC, Raw.scope, Raw.ord, Raw.pe, Raw.mem, Raw.memTy, Raw.eng, Raw.bar, Raw.dstWin, Raw.capFmt, Sys2Proof.need]

theorem orImm (h : Hdr) (d a : Spec) (imm : BitVec 34) : Statement (.orImm h d a imm) := by
  intro _ hw
  refine decode_of_build rfl hw ((build_int (o := 0x04F#10) (by decide)).trans ?_)
  conv => lhs; whnf
  refine congrArg some ?_
  simp [Raw.ty, Raw.sat, Raw.var3, Raw.var4, Raw.sd, Raw.sa, Raw.sb, Raw.sc, Raw.se, Raw.sf, Raw.rndF, Raw.varF,
    Raw.rndC, Raw.scope, Raw.ord, Raw.pe, Raw.mem, Raw.memTy, Raw.eng, Raw.bar, Raw.dstWin, Raw.capFmt, Sys2Proof.need]

theorem xor (h : Hdr) (d a b : Spec) : Statement (.xor h d a b) := by
  intro _ hw
  refine decode_of_build rfl hw ((build_int (o := 0x010#10) (by decide)).trans ?_)
  conv => lhs; whnf
  refine congrArg some ?_
  simp [Raw.ty, Raw.sat, Raw.var3, Raw.var4, Raw.sd, Raw.sa, Raw.sb, Raw.sc, Raw.se, Raw.sf, Raw.rndF, Raw.varF,
    Raw.rndC, Raw.scope, Raw.ord, Raw.pe, Raw.mem, Raw.memTy, Raw.eng, Raw.bar, Raw.dstWin, Raw.capFmt, Sys2Proof.need]

theorem xorImm (h : Hdr) (d a : Spec) (imm : BitVec 34) : Statement (.xorImm h d a imm) := by
  intro _ hw
  refine decode_of_build rfl hw ((build_int (o := 0x050#10) (by decide)).trans ?_)
  conv => lhs; whnf
  refine congrArg some ?_
  simp [Raw.ty, Raw.sat, Raw.var3, Raw.var4, Raw.sd, Raw.sa, Raw.sb, Raw.sc, Raw.se, Raw.sf, Raw.rndF, Raw.varF,
    Raw.rndC, Raw.scope, Raw.ord, Raw.pe, Raw.mem, Raw.memTy, Raw.eng, Raw.bar, Raw.dstWin, Raw.capFmt, Sys2Proof.need]

theorem andn (h : Hdr) (d a b : Spec) : Statement (.andn h d a b) := by
  intro _ hw
  refine decode_of_build rfl hw ((build_int (o := 0x011#10) (by decide)).trans ?_)
  conv => lhs; whnf
  refine congrArg some ?_
  simp [Raw.ty, Raw.sat, Raw.var3, Raw.var4, Raw.sd, Raw.sa, Raw.sb, Raw.sc, Raw.se, Raw.sf, Raw.rndF, Raw.varF,
    Raw.rndC, Raw.scope, Raw.ord, Raw.pe, Raw.mem, Raw.memTy, Raw.eng, Raw.bar, Raw.dstWin, Raw.capFmt, Sys2Proof.need]

theorem andnImm (h : Hdr) (d a : Spec) (imm : BitVec 34) : Statement (.andnImm h d a imm) := by
  intro _ hw
  refine decode_of_build rfl hw ((build_int (o := 0x051#10) (by decide)).trans ?_)
  conv => lhs; whnf
  refine congrArg some ?_
  simp [Raw.ty, Raw.sat, Raw.var3, Raw.var4, Raw.sd, Raw.sa, Raw.sb, Raw.sc, Raw.se, Raw.sf, Raw.rndF, Raw.varF,
    Raw.rndC, Raw.scope, Raw.ord, Raw.pe, Raw.mem, Raw.memTy, Raw.eng, Raw.bar, Raw.dstWin, Raw.capFmt, Sys2Proof.need]

theorem not (h : Hdr) (d a : Spec) : Statement (.not h d a) := by
  intro _ hw
  refine decode_of_build rfl hw ((build_int (o := 0x012#10) (by decide)).trans ?_)
  conv => lhs; whnf
  refine congrArg some ?_
  simp [Raw.ty, Raw.sat, Raw.var3, Raw.var4, Raw.sd, Raw.sa, Raw.sb, Raw.sc, Raw.se, Raw.sf, Raw.rndF, Raw.varF,
    Raw.rndC, Raw.scope, Raw.ord, Raw.pe, Raw.mem, Raw.memTy, Raw.eng, Raw.bar, Raw.dstWin, Raw.capFmt, Sys2Proof.need]

theorem shl (h : Hdr) (d a b : Spec) : Statement (.shl h d a b) := by
  intro _ hw
  refine decode_of_build rfl hw ((build_int (o := 0x013#10) (by decide)).trans ?_)
  conv => lhs; whnf
  refine congrArg some ?_
  simp [Raw.ty, Raw.sat, Raw.var3, Raw.var4, Raw.sd, Raw.sa, Raw.sb, Raw.sc, Raw.se, Raw.sf, Raw.rndF, Raw.varF,
    Raw.rndC, Raw.scope, Raw.ord, Raw.pe, Raw.mem, Raw.memTy, Raw.eng, Raw.bar, Raw.dstWin, Raw.capFmt, Sys2Proof.need]

theorem shlImm (h : Hdr) (d a : Spec) (imm : BitVec 34) : Statement (.shlImm h d a imm) := by
  intro _ hw
  refine decode_of_build rfl hw ((build_int (o := 0x053#10) (by decide)).trans ?_)
  conv => lhs; whnf
  refine congrArg some ?_
  simp [Raw.ty, Raw.sat, Raw.var3, Raw.var4, Raw.sd, Raw.sa, Raw.sb, Raw.sc, Raw.se, Raw.sf, Raw.rndF, Raw.varF,
    Raw.rndC, Raw.scope, Raw.ord, Raw.pe, Raw.mem, Raw.memTy, Raw.eng, Raw.bar, Raw.dstWin, Raw.capFmt, Sys2Proof.need]

theorem shr (h : Hdr) (d a b : Spec) : Statement (.shr h d a b) := by
  intro _ hw
  refine decode_of_build rfl hw ((build_int (o := 0x014#10) (by decide)).trans ?_)
  conv => lhs; whnf
  refine congrArg some ?_
  simp [Raw.ty, Raw.sat, Raw.var3, Raw.var4, Raw.sd, Raw.sa, Raw.sb, Raw.sc, Raw.se, Raw.sf, Raw.rndF, Raw.varF,
    Raw.rndC, Raw.scope, Raw.ord, Raw.pe, Raw.mem, Raw.memTy, Raw.eng, Raw.bar, Raw.dstWin, Raw.capFmt, Sys2Proof.need]

theorem shrImm (h : Hdr) (d a : Spec) (imm : BitVec 34) : Statement (.shrImm h d a imm) := by
  intro _ hw
  refine decode_of_build rfl hw ((build_int (o := 0x054#10) (by decide)).trans ?_)
  conv => lhs; whnf
  refine congrArg some ?_
  simp [Raw.ty, Raw.sat, Raw.var3, Raw.var4, Raw.sd, Raw.sa, Raw.sb, Raw.sc, Raw.se, Raw.sf, Raw.rndF, Raw.varF,
    Raw.rndC, Raw.scope, Raw.ord, Raw.pe, Raw.mem, Raw.memTy, Raw.eng, Raw.bar, Raw.dstWin, Raw.capFmt, Sys2Proof.need]

theorem sar (h : Hdr) (d a b : Spec) : Statement (.sar h d a b) := by
  intro _ hw
  refine decode_of_build rfl hw ((build_int (o := 0x015#10) (by decide)).trans ?_)
  conv => lhs; whnf
  refine congrArg some ?_
  simp [Raw.ty, Raw.sat, Raw.var3, Raw.var4, Raw.sd, Raw.sa, Raw.sb, Raw.sc, Raw.se, Raw.sf, Raw.rndF, Raw.varF,
    Raw.rndC, Raw.scope, Raw.ord, Raw.pe, Raw.mem, Raw.memTy, Raw.eng, Raw.bar, Raw.dstWin, Raw.capFmt, Sys2Proof.need]

theorem sarImm (h : Hdr) (d a : Spec) (imm : BitVec 34) : Statement (.sarImm h d a imm) := by
  intro _ hw
  refine decode_of_build rfl hw ((build_int (o := 0x055#10) (by decide)).trans ?_)
  conv => lhs; whnf
  refine congrArg some ?_
  simp [Raw.ty, Raw.sat, Raw.var3, Raw.var4, Raw.sd, Raw.sa, Raw.sb, Raw.sc, Raw.se, Raw.sf, Raw.rndF, Raw.varF,
    Raw.rndC, Raw.scope, Raw.ord, Raw.pe, Raw.mem, Raw.memTy, Raw.eng, Raw.bar, Raw.dstWin, Raw.capFmt, Sys2Proof.need]

theorem rotl (h : Hdr) (d a b : Spec) : Statement (.rotl h d a b) := by
  intro _ hw
  refine decode_of_build rfl hw ((build_int (o := 0x016#10) (by decide)).trans ?_)
  conv => lhs; whnf
  refine congrArg some ?_
  simp [Raw.ty, Raw.sat, Raw.var3, Raw.var4, Raw.sd, Raw.sa, Raw.sb, Raw.sc, Raw.se, Raw.sf, Raw.rndF, Raw.varF,
    Raw.rndC, Raw.scope, Raw.ord, Raw.pe, Raw.mem, Raw.memTy, Raw.eng, Raw.bar, Raw.dstWin, Raw.capFmt, Sys2Proof.need]

theorem rotlImm (h : Hdr) (d a : Spec) (imm : BitVec 34) : Statement (.rotlImm h d a imm) := by
  intro _ hw
  refine decode_of_build rfl hw ((build_int (o := 0x056#10) (by decide)).trans ?_)
  conv => lhs; whnf
  refine congrArg some ?_
  simp [Raw.ty, Raw.sat, Raw.var3, Raw.var4, Raw.sd, Raw.sa, Raw.sb, Raw.sc, Raw.se, Raw.sf, Raw.rndF, Raw.varF,
    Raw.rndC, Raw.scope, Raw.ord, Raw.pe, Raw.mem, Raw.memTy, Raw.eng, Raw.bar, Raw.dstWin, Raw.capFmt, Sys2Proof.need]

theorem popc (h : Hdr) (d a : Spec) : Statement (.popc h d a) := by
  intro _ hw
  refine decode_of_build rfl hw ((build_int (o := 0x019#10) (by decide)).trans ?_)
  conv => lhs; whnf
  refine congrArg some ?_
  simp [Raw.ty, Raw.sat, Raw.var3, Raw.var4, Raw.sd, Raw.sa, Raw.sb, Raw.sc, Raw.se, Raw.sf, Raw.rndF, Raw.varF,
    Raw.rndC, Raw.scope, Raw.ord, Raw.pe, Raw.mem, Raw.memTy, Raw.eng, Raw.bar, Raw.dstWin, Raw.capFmt, Sys2Proof.need]

theorem clz (h : Hdr) (d a : Spec) : Statement (.clz h d a) := by
  intro _ hw
  refine decode_of_build rfl hw ((build_int (o := 0x01A#10) (by decide)).trans ?_)
  conv => lhs; whnf
  refine congrArg some ?_
  simp [Raw.ty, Raw.sat, Raw.var3, Raw.var4, Raw.sd, Raw.sa, Raw.sb, Raw.sc, Raw.se, Raw.sf, Raw.rndF, Raw.varF,
    Raw.rndC, Raw.scope, Raw.ord, Raw.pe, Raw.mem, Raw.memTy, Raw.eng, Raw.bar, Raw.dstWin, Raw.capFmt, Sys2Proof.need]

theorem brev (h : Hdr) (d a : Spec) : Statement (.brev h d a) := by
  intro _ hw
  refine decode_of_build rfl hw ((build_int (o := 0x01B#10) (by decide)).trans ?_)
  conv => lhs; whnf
  refine congrArg some ?_
  simp [Raw.ty, Raw.sat, Raw.var3, Raw.var4, Raw.sd, Raw.sa, Raw.sb, Raw.sc, Raw.se, Raw.sf, Raw.rndF, Raw.varF,
    Raw.rndC, Raw.scope, Raw.ord, Raw.pe, Raw.mem, Raw.memTy, Raw.eng, Raw.bar, Raw.dstWin, Raw.capFmt, Sys2Proof.need]

theorem bfx (h : Hdr) (t : Ty) (d a b : Spec) : Statement (.bfx h t d a b) := by
  intro _ hw
  refine decode_of_build rfl hw ((build_int (o := 0x017#10) (by decide)).trans ?_)
  conv => lhs; whnf
  refine congrArg some ?_
  simp [Raw.ty, Raw.sat, Raw.var3, Raw.var4, Raw.sd, Raw.sa, Raw.sb, Raw.sc, Raw.se, Raw.sf, Raw.rndF, Raw.varF,
    Raw.rndC, Raw.scope, Raw.ord, Raw.pe, Raw.mem, Raw.memTy, Raw.eng, Raw.bar, Raw.dstWin, Raw.capFmt, Sys2Proof.need]

theorem bfxImm (h : Hdr) (t : Ty) (d a : Spec) (imm : BitVec 34) : Statement (.bfxImm h t d a imm) := by
  intro _ hw
  refine decode_of_build rfl hw ((build_int (o := 0x057#10) (by decide)).trans ?_)
  conv => lhs; whnf
  refine congrArg some ?_
  simp [Raw.ty, Raw.sat, Raw.var3, Raw.var4, Raw.sd, Raw.sa, Raw.sb, Raw.sc, Raw.se, Raw.sf, Raw.rndF, Raw.varF,
    Raw.rndC, Raw.scope, Raw.ord, Raw.pe, Raw.mem, Raw.memTy, Raw.eng, Raw.bar, Raw.dstWin, Raw.capFmt, Sys2Proof.need]

theorem bfi (h : Hdr) (d a b c : Spec) : Statement (.bfi h d a b c) := by
  intro _ hw
  refine decode_of_build rfl hw ((build_int (o := 0x018#10) (by decide)).trans ?_)
  conv => lhs; whnf
  refine congrArg some ?_
  simp [Raw.ty, Raw.sat, Raw.var3, Raw.var4, Raw.sd, Raw.sa, Raw.sb, Raw.sc, Raw.se, Raw.sf, Raw.rndF, Raw.varF,
    Raw.rndC, Raw.scope, Raw.ord, Raw.pe, Raw.mem, Raw.memTy, Raw.eng, Raw.bar, Raw.dstWin, Raw.capFmt, Sys2Proof.need]

theorem bfiImm (h : Hdr) (d a b : Spec) (imm : BitVec 34) : Statement (.bfiImm h d a b imm) := by
  intro _ hw
  refine decode_of_build rfl hw ((build_int (o := 0x058#10) (by decide)).trans ?_)
  conv => lhs; whnf
  refine congrArg some ?_
  simp [Raw.ty, Raw.sat, Raw.var3, Raw.var4, Raw.sd, Raw.sa, Raw.sb, Raw.sc, Raw.se, Raw.sf, Raw.rndF, Raw.varF,
    Raw.rndC, Raw.scope, Raw.ord, Raw.pe, Raw.mem, Raw.memTy, Raw.eng, Raw.bar, Raw.dstWin, Raw.capFmt, Sys2Proof.need]

theorem bsel (h : Hdr) (d a b c : Spec) : Statement (.bsel h d a b c) := by
  intro _ hw
  refine decode_of_build rfl hw ((build_int (o := 0x01C#10) (by decide)).trans ?_)
  conv => lhs; whnf
  refine congrArg some ?_
  simp [Raw.ty, Raw.sat, Raw.var3, Raw.var4, Raw.sd, Raw.sa, Raw.sb, Raw.sc, Raw.se, Raw.sf, Raw.rndF, Raw.varF,
    Raw.rndC, Raw.scope, Raw.ord, Raw.pe, Raw.mem, Raw.memTy, Raw.eng, Raw.bar, Raw.dstWin, Raw.capFmt, Sys2Proof.need]

theorem bselImm (h : Hdr) (d a b : Spec) (sel : BitVec 20) : Statement (.bselImm h d a b sel) := by
  intro _ hw
  refine decode_of_build rfl hw ((build_int (o := 0x05C#10) (by decide)).trans ?_)
  conv => lhs; whnf
  refine congrArg some ?_
  simp [Raw.ty, Raw.sat, Raw.var3, Raw.var4, Raw.sd, Raw.sa, Raw.sb, Raw.sc, Raw.se, Raw.sf, Raw.rndF, Raw.varF,
    Raw.rndC, Raw.scope, Raw.ord, Raw.pe, Raw.mem, Raw.memTy, Raw.eng, Raw.bar, Raw.dstWin, Raw.capFmt, Sys2Proof.need]

theorem icmp (h : Hdr) (cond : Cond) (t : Ty) (pd : BitVec 3) (a b : Spec) : Statement (.icmp h cond t pd a b) := by
  intro _ hw
  refine decode_of_build rfl hw ((build_int (o := 0x01D#10) (by decide)).trans ?_)
  conv => lhs; whnf
  refine congrArg some ?_
  simp [Raw.ty, Raw.sat, Raw.var3, Raw.var4, Raw.sd, Raw.sa, Raw.sb, Raw.sc, Raw.se, Raw.sf, Raw.rndF, Raw.varF,
    Raw.rndC, Raw.scope, Raw.ord, Raw.pe, Raw.mem, Raw.memTy, Raw.eng, Raw.bar, Raw.dstWin, Raw.capFmt, Sys2Proof.need]

theorem icmpImm (h : Hdr) (cond : Cond) (t : Ty) (pd : BitVec 3) (a : Spec) (imm : BitVec 34) : Statement (.icmpImm h cond t pd a imm) := by
  intro _ hw
  refine decode_of_build rfl hw ((build_int (o := 0x05D#10) (by decide)).trans ?_)
  conv => lhs; whnf
  refine congrArg some ?_
  simp [Raw.ty, Raw.sat, Raw.var3, Raw.var4, Raw.sd, Raw.sa, Raw.sb, Raw.sc, Raw.se, Raw.sf, Raw.rndF, Raw.varF,
    Raw.rndC, Raw.scope, Raw.ord, Raw.pe, Raw.mem, Raw.memTy, Raw.eng, Raw.bar, Raw.dstWin, Raw.capFmt, Sys2Proof.need]

theorem isel (h : Hdr) (d : Spec) (p : BitVec 3) (b c : Spec) : Statement (.isel h d p b c) := by
  intro _ hw
  refine decode_of_build rfl hw ((build_int (o := 0x01E#10) (by decide)).trans ?_)
  conv => lhs; whnf
  refine congrArg some ?_
  simp [Raw.ty, Raw.sat, Raw.var3, Raw.var4, Raw.sd, Raw.sa, Raw.sb, Raw.sc, Raw.se, Raw.sf, Raw.rndF, Raw.varF,
    Raw.rndC, Raw.scope, Raw.ord, Raw.pe, Raw.mem, Raw.memTy, Raw.eng, Raw.bar, Raw.dstWin, Raw.capFmt, Sys2Proof.need]

theorem iselImm (h : Hdr) (d : Spec) (p : BitVec 3) (b : Spec) (imm : BitVec 34) : Statement (.iselImm h d p b imm) := by
  intro _ hw
  refine decode_of_build rfl hw ((build_int (o := 0x05E#10) (by decide)).trans ?_)
  conv => lhs; whnf
  refine congrArg some ?_
  simp [Raw.ty, Raw.sat, Raw.var3, Raw.var4, Raw.sd, Raw.sa, Raw.sb, Raw.sc, Raw.se, Raw.sf, Raw.rndF, Raw.varF,
    Raw.rndC, Raw.scope, Raw.ord, Raw.pe, Raw.mem, Raw.memTy, Raw.eng, Raw.bar, Raw.dstWin, Raw.capFmt, Sys2Proof.need]

theorem mov (h : Hdr) (t : Ty) (d a : Spec) : Statement (.mov h t d a) := by
  intro _ hw
  refine decode_of_build rfl hw ((build_int (o := 0x01F#10) (by decide)).trans ?_)
  conv => lhs; whnf
  refine congrArg some ?_
  simp [Raw.ty, Raw.sat, Raw.var3, Raw.var4, Raw.sd, Raw.sa, Raw.sb, Raw.sc, Raw.se, Raw.sf, Raw.rndF, Raw.varF,
    Raw.rndC, Raw.scope, Raw.ord, Raw.pe, Raw.mem, Raw.memTy, Raw.eng, Raw.bar, Raw.dstWin, Raw.capFmt, Sys2Proof.need]

theorem movi (h : Hdr) (t : Ty) (d : Spec) (imm : BitVec 34) : Statement (.movi h t d imm) := by
  intro _ hw
  refine decode_of_build rfl hw ((build_int (o := 0x05F#10) (by decide)).trans ?_)
  conv => lhs; whnf
  refine congrArg some ?_
  simp [Raw.ty, Raw.sat, Raw.var3, Raw.var4, Raw.sd, Raw.sa, Raw.sb, Raw.sc, Raw.se, Raw.sf, Raw.rndF, Raw.varF,
    Raw.rndC, Raw.scope, Raw.ord, Raw.pe, Raw.mem, Raw.memTy, Raw.eng, Raw.bar, Raw.dstWin, Raw.capFmt, Sys2Proof.need]

theorem lea (h : Hdr) (sh : BitVec 3) (d a b : Spec) : Statement (.lea h sh d a b) := by
  intro _ hw
  refine decode_of_build rfl hw ((build_int (o := 0x020#10) (by decide)).trans ?_)
  conv => lhs; whnf
  refine congrArg some ?_
  simp [Raw.ty, Raw.sat, Raw.var3, Raw.var4, Raw.sd, Raw.sa, Raw.sb, Raw.sc, Raw.se, Raw.sf, Raw.rndF, Raw.varF,
    Raw.rndC, Raw.scope, Raw.ord, Raw.pe, Raw.mem, Raw.memTy, Raw.eng, Raw.bar, Raw.dstWin, Raw.capFmt, Sys2Proof.need]

theorem leaImm (h : Hdr) (sh : BitVec 3) (d a : Spec) (imm : BitVec 34) : Statement (.leaImm h sh d a imm) := by
  intro _ hw
  refine decode_of_build rfl hw ((build_int (o := 0x060#10) (by decide)).trans ?_)
  conv => lhs; whnf
  refine congrArg some ?_
  simp [Raw.ty, Raw.sat, Raw.var3, Raw.var4, Raw.sd, Raw.sa, Raw.sb, Raw.sc, Raw.se, Raw.sf, Raw.rndF, Raw.varF,
    Raw.rndC, Raw.scope, Raw.ord, Raw.pe, Raw.mem, Raw.memTy, Raw.eng, Raw.bar, Raw.dstWin, Raw.capFmt, Sys2Proof.need]

theorem fadd (h : Hdr) (r : Rnd) (d a b : Spec) : Statement (.fadd h r d a b) := by
  intro _ hw
  refine decode_of_build rfl hw ((build_float (o := 0x081#10) (by decide)).trans ?_)
  conv => lhs; whnf
  refine congrArg some ?_
  simp [Raw.ty, Raw.sat, Raw.var3, Raw.var4, Raw.sd, Raw.sa, Raw.sb, Raw.sc, Raw.se, Raw.sf, Raw.rndF, Raw.varF,
    Raw.rndC, Raw.scope, Raw.ord, Raw.pe, Raw.mem, Raw.memTy, Raw.eng, Raw.bar, Raw.dstWin, Raw.capFmt, Sys2Proof.need]

theorem faddImm (h : Hdr) (r : Rnd) (d a : Spec) (imm : Word) : Statement (.faddImm h r d a imm) := by
  intro _ hw
  refine decode_of_build rfl hw ((build_float (o := 0x0C1#10) (by decide)).trans ?_)
  conv => lhs; whnf
  refine congrArg some ?_
  simp [Raw.ty, Raw.sat, Raw.var3, Raw.var4, Raw.sd, Raw.sa, Raw.sb, Raw.sc, Raw.se, Raw.sf, Raw.rndF, Raw.varF,
    Raw.rndC, Raw.scope, Raw.ord, Raw.pe, Raw.mem, Raw.memTy, Raw.eng, Raw.bar, Raw.dstWin, Raw.capFmt, Sys2Proof.need]

theorem fsub (h : Hdr) (r : Rnd) (d a b : Spec) : Statement (.fsub h r d a b) := by
  intro _ hw
  refine decode_of_build rfl hw ((build_float (o := 0x082#10) (by decide)).trans ?_)
  conv => lhs; whnf
  refine congrArg some ?_
  simp [Raw.ty, Raw.sat, Raw.var3, Raw.var4, Raw.sd, Raw.sa, Raw.sb, Raw.sc, Raw.se, Raw.sf, Raw.rndF, Raw.varF,
    Raw.rndC, Raw.scope, Raw.ord, Raw.pe, Raw.mem, Raw.memTy, Raw.eng, Raw.bar, Raw.dstWin, Raw.capFmt, Sys2Proof.need]

theorem fsubImm (h : Hdr) (r : Rnd) (d a : Spec) (imm : Word) : Statement (.fsubImm h r d a imm) := by
  intro _ hw
  refine decode_of_build rfl hw ((build_float (o := 0x0C2#10) (by decide)).trans ?_)
  conv => lhs; whnf
  refine congrArg some ?_
  simp [Raw.ty, Raw.sat, Raw.var3, Raw.var4, Raw.sd, Raw.sa, Raw.sb, Raw.sc, Raw.se, Raw.sf, Raw.rndF, Raw.varF,
    Raw.rndC, Raw.scope, Raw.ord, Raw.pe, Raw.mem, Raw.memTy, Raw.eng, Raw.bar, Raw.dstWin, Raw.capFmt, Sys2Proof.need]

theorem fmul (h : Hdr) (r : Rnd) (d a b : Spec) : Statement (.fmul h r d a b) := by
  intro _ hw
  refine decode_of_build rfl hw ((build_float (o := 0x083#10) (by decide)).trans ?_)
  conv => lhs; whnf
  refine congrArg some ?_
  simp [Raw.ty, Raw.sat, Raw.var3, Raw.var4, Raw.sd, Raw.sa, Raw.sb, Raw.sc, Raw.se, Raw.sf, Raw.rndF, Raw.varF,
    Raw.rndC, Raw.scope, Raw.ord, Raw.pe, Raw.mem, Raw.memTy, Raw.eng, Raw.bar, Raw.dstWin, Raw.capFmt, Sys2Proof.need]

theorem fmulImm (h : Hdr) (r : Rnd) (d a : Spec) (imm : Word) : Statement (.fmulImm h r d a imm) := by
  intro _ hw
  refine decode_of_build rfl hw ((build_float (o := 0x0C3#10) (by decide)).trans ?_)
  conv => lhs; whnf
  refine congrArg some ?_
  simp [Raw.ty, Raw.sat, Raw.var3, Raw.var4, Raw.sd, Raw.sa, Raw.sb, Raw.sc, Raw.se, Raw.sf, Raw.rndF, Raw.varF,
    Raw.rndC, Raw.scope, Raw.ord, Raw.pe, Raw.mem, Raw.memTy, Raw.eng, Raw.bar, Raw.dstWin, Raw.capFmt, Sys2Proof.need]

theorem ffma (h : Hdr) (r : Rnd) (d a b c : Spec) : Statement (.ffma h r d a b c) := by
  intro _ hw
  refine decode_of_build rfl hw ((build_float (o := 0x084#10) (by decide)).trans ?_)
  conv => lhs; whnf
  refine congrArg some ?_
  simp [Raw.ty, Raw.sat, Raw.var3, Raw.var4, Raw.sd, Raw.sa, Raw.sb, Raw.sc, Raw.se, Raw.sf, Raw.rndF, Raw.varF,
    Raw.rndC, Raw.scope, Raw.ord, Raw.pe, Raw.mem, Raw.memTy, Raw.eng, Raw.bar, Raw.dstWin, Raw.capFmt, Sys2Proof.need]

theorem ffmaImm (h : Hdr) (r : Rnd) (d a b : Spec) (imm : Word) : Statement (.ffmaImm h r d a b imm) := by
  intro _ hw
  refine decode_of_build rfl hw ((build_float (o := 0x0C4#10) (by decide)).trans ?_)
  conv => lhs; whnf
  refine congrArg some ?_
  simp [Raw.ty, Raw.sat, Raw.var3, Raw.var4, Raw.sd, Raw.sa, Raw.sb, Raw.sc, Raw.se, Raw.sf, Raw.rndF, Raw.varF,
    Raw.rndC, Raw.scope, Raw.ord, Raw.pe, Raw.mem, Raw.memTy, Raw.eng, Raw.bar, Raw.dstWin, Raw.capFmt, Sys2Proof.need]

theorem fscl (h : Hdr) (r : Rnd) (d a b : Spec) : Statement (.fscl h r d a b) := by
  intro _ hw
  refine decode_of_build rfl hw ((build_float (o := 0x089#10) (by decide)).trans ?_)
  conv => lhs; whnf
  refine congrArg some ?_
  simp [Raw.ty, Raw.sat, Raw.var3, Raw.var4, Raw.sd, Raw.sa, Raw.sb, Raw.sc, Raw.se, Raw.sf, Raw.rndF, Raw.varF,
    Raw.rndC, Raw.scope, Raw.ord, Raw.pe, Raw.mem, Raw.memTy, Raw.eng, Raw.bar, Raw.dstWin, Raw.capFmt, Sys2Proof.need]

theorem fsclImm (h : Hdr) (r : Rnd) (d a : Spec) (imm : Word) : Statement (.fsclImm h r d a imm) := by
  intro _ hw
  refine decode_of_build rfl hw ((build_float (o := 0x0C9#10) (by decide)).trans ?_)
  conv => lhs; whnf
  refine congrArg some ?_
  simp [Raw.ty, Raw.sat, Raw.var3, Raw.var4, Raw.sd, Raw.sa, Raw.sb, Raw.sc, Raw.se, Raw.sf, Raw.rndF, Raw.varF,
    Raw.rndC, Raw.scope, Raw.ord, Raw.pe, Raw.mem, Raw.memTy, Raw.eng, Raw.bar, Raw.dstWin, Raw.capFmt, Sys2Proof.need]

theorem fmin (h : Hdr) (num : Bool) (d a b : Spec) : Statement (.fmin h num d a b) := by
  intro _ hw
  refine decode_of_build rfl hw ((build_float (o := 0x085#10) (by decide)).trans ?_)
  conv => lhs; whnf
  refine congrArg some ?_
  simp [Raw.ty, Raw.sat, Raw.var3, Raw.var4, Raw.sd, Raw.sa, Raw.sb, Raw.sc, Raw.se, Raw.sf, Raw.rndF, Raw.varF,
    Raw.rndC, Raw.scope, Raw.ord, Raw.pe, Raw.mem, Raw.memTy, Raw.eng, Raw.bar, Raw.dstWin, Raw.capFmt, Sys2Proof.need]

theorem fminImm (h : Hdr) (num : Bool) (d a : Spec) (imm : Word) : Statement (.fminImm h num d a imm) := by
  intro _ hw
  refine decode_of_build rfl hw ((build_float (o := 0x0C5#10) (by decide)).trans ?_)
  conv => lhs; whnf
  refine congrArg some ?_
  simp [Raw.ty, Raw.sat, Raw.var3, Raw.var4, Raw.sd, Raw.sa, Raw.sb, Raw.sc, Raw.se, Raw.sf, Raw.rndF, Raw.varF,
    Raw.rndC, Raw.scope, Raw.ord, Raw.pe, Raw.mem, Raw.memTy, Raw.eng, Raw.bar, Raw.dstWin, Raw.capFmt, Sys2Proof.need]

theorem fmax (h : Hdr) (num : Bool) (d a b : Spec) : Statement (.fmax h num d a b) := by
  intro _ hw
  refine decode_of_build rfl hw ((build_float (o := 0x086#10) (by decide)).trans ?_)
  conv => lhs; whnf
  refine congrArg some ?_
  simp [Raw.ty, Raw.sat, Raw.var3, Raw.var4, Raw.sd, Raw.sa, Raw.sb, Raw.sc, Raw.se, Raw.sf, Raw.rndF, Raw.varF,
    Raw.rndC, Raw.scope, Raw.ord, Raw.pe, Raw.mem, Raw.memTy, Raw.eng, Raw.bar, Raw.dstWin, Raw.capFmt, Sys2Proof.need]

theorem fmaxImm (h : Hdr) (num : Bool) (d a : Spec) (imm : Word) : Statement (.fmaxImm h num d a imm) := by
  intro _ hw
  refine decode_of_build rfl hw ((build_float (o := 0x0C6#10) (by decide)).trans ?_)
  conv => lhs; whnf
  refine congrArg some ?_
  simp [Raw.ty, Raw.sat, Raw.var3, Raw.var4, Raw.sd, Raw.sa, Raw.sb, Raw.sc, Raw.se, Raw.sf, Raw.rndF, Raw.varF,
    Raw.rndC, Raw.scope, Raw.ord, Raw.pe, Raw.mem, Raw.memTy, Raw.eng, Raw.bar, Raw.dstWin, Raw.capFmt, Sys2Proof.need]

theorem fcmp (h : Hdr) (cond : FCond) (pd : BitVec 3) (a b : Spec) : Statement (.fcmp h cond pd a b) := by
  intro _ hw
  refine decode_of_build rfl hw ((build_float (o := 0x087#10) (by decide)).trans ?_)
  conv => lhs; whnf
  refine congrArg some ?_
  simp [Raw.ty, Raw.sat, Raw.var3, Raw.var4, Raw.sd, Raw.sa, Raw.sb, Raw.sc, Raw.se, Raw.sf, Raw.rndF, Raw.varF,
    Raw.rndC, Raw.scope, Raw.ord, Raw.pe, Raw.mem, Raw.memTy, Raw.eng, Raw.bar, Raw.dstWin, Raw.capFmt, Sys2Proof.need]

theorem fcmpImm (h : Hdr) (cond : FCond) (pd : BitVec 3) (a : Spec) (imm : Word) : Statement (.fcmpImm h cond pd a imm) := by
  intro _ hw
  refine decode_of_build rfl hw ((build_float (o := 0x0C7#10) (by decide)).trans ?_)
  conv => lhs; whnf
  refine congrArg some ?_
  simp [Raw.ty, Raw.sat, Raw.var3, Raw.var4, Raw.sd, Raw.sa, Raw.sb, Raw.sc, Raw.se, Raw.sf, Raw.rndF, Raw.varF,
    Raw.rndC, Raw.scope, Raw.ord, Raw.pe, Raw.mem, Raw.memTy, Raw.eng, Raw.bar, Raw.dstWin, Raw.capFmt, Sys2Proof.need]

theorem fclass (h : Hdr) (d a : Spec) : Statement (.fclass h d a) := by
  intro _ hw
  refine decode_of_build rfl hw ((build_float (o := 0x088#10) (by decide)).trans ?_)
  conv => lhs; whnf
  refine congrArg some ?_
  simp [Raw.ty, Raw.sat, Raw.var3, Raw.var4, Raw.sd, Raw.sa, Raw.sb, Raw.sc, Raw.se, Raw.sf, Raw.rndF, Raw.varF,
    Raw.rndC, Raw.scope, Raw.ord, Raw.pe, Raw.mem, Raw.memTy, Raw.eng, Raw.bar, Raw.dstWin, Raw.capFmt, Sys2Proof.need]

theorem hadd2 (h : Hdr) (sub : Bool) (r : Rnd) (d a b : Spec) : Statement (.hadd2 h sub r d a b) := by
  intro _ hw
  refine decode_of_build rfl hw ((build_float (o := 0x08A#10) (by decide)).trans ?_)
  conv => lhs; whnf
  refine congrArg some ?_
  simp [Raw.ty, Raw.sat, Raw.var3, Raw.var4, Raw.sd, Raw.sa, Raw.sb, Raw.sc, Raw.se, Raw.sf, Raw.rndF, Raw.varF,
    Raw.rndC, Raw.scope, Raw.ord, Raw.pe, Raw.mem, Raw.memTy, Raw.eng, Raw.bar, Raw.dstWin, Raw.capFmt, Sys2Proof.need]

theorem hadd2Imm (h : Hdr) (sub : Bool) (r : Rnd) (d a : Spec) (imm : Word) : Statement (.hadd2Imm h sub r d a imm) := by
  intro _ hw
  refine decode_of_build rfl hw ((build_float (o := 0x0CA#10) (by decide)).trans ?_)
  conv => lhs; whnf
  refine congrArg some ?_
  simp [Raw.ty, Raw.sat, Raw.var3, Raw.var4, Raw.sd, Raw.sa, Raw.sb, Raw.sc, Raw.se, Raw.sf, Raw.rndF, Raw.varF,
    Raw.rndC, Raw.scope, Raw.ord, Raw.pe, Raw.mem, Raw.memTy, Raw.eng, Raw.bar, Raw.dstWin, Raw.capFmt, Sys2Proof.need]

theorem hmul2 (h : Hdr) (r : Rnd) (d a b : Spec) : Statement (.hmul2 h r d a b) := by
  intro _ hw
  refine decode_of_build rfl hw ((build_float (o := 0x08B#10) (by decide)).trans ?_)
  conv => lhs; whnf
  refine congrArg some ?_
  simp [Raw.ty, Raw.sat, Raw.var3, Raw.var4, Raw.sd, Raw.sa, Raw.sb, Raw.sc, Raw.se, Raw.sf, Raw.rndF, Raw.varF,
    Raw.rndC, Raw.scope, Raw.ord, Raw.pe, Raw.mem, Raw.memTy, Raw.eng, Raw.bar, Raw.dstWin, Raw.capFmt, Sys2Proof.need]

theorem hmul2Imm (h : Hdr) (r : Rnd) (d a : Spec) (imm : Word) : Statement (.hmul2Imm h r d a imm) := by
  intro _ hw
  refine decode_of_build rfl hw ((build_float (o := 0x0CB#10) (by decide)).trans ?_)
  conv => lhs; whnf
  refine congrArg some ?_
  simp [Raw.ty, Raw.sat, Raw.var3, Raw.var4, Raw.sd, Raw.sa, Raw.sb, Raw.sc, Raw.se, Raw.sf, Raw.rndF, Raw.varF,
    Raw.rndC, Raw.scope, Raw.ord, Raw.pe, Raw.mem, Raw.memTy, Raw.eng, Raw.bar, Raw.dstWin, Raw.capFmt, Sys2Proof.need]

theorem hfma2 (h : Hdr) (r : Rnd) (d a b c : Spec) : Statement (.hfma2 h r d a b c) := by
  intro _ hw
  refine decode_of_build rfl hw ((build_float (o := 0x08C#10) (by decide)).trans ?_)
  conv => lhs; whnf
  refine congrArg some ?_
  simp [Raw.ty, Raw.sat, Raw.var3, Raw.var4, Raw.sd, Raw.sa, Raw.sb, Raw.sc, Raw.se, Raw.sf, Raw.rndF, Raw.varF,
    Raw.rndC, Raw.scope, Raw.ord, Raw.pe, Raw.mem, Raw.memTy, Raw.eng, Raw.bar, Raw.dstWin, Raw.capFmt, Sys2Proof.need]

theorem hfma2Imm (h : Hdr) (r : Rnd) (d a b : Spec) (imm : Word) : Statement (.hfma2Imm h r d a b imm) := by
  intro _ hw
  refine decode_of_build rfl hw ((build_float (o := 0x0CC#10) (by decide)).trans ?_)
  conv => lhs; whnf
  refine congrArg some ?_
  simp [Raw.ty, Raw.sat, Raw.var3, Raw.var4, Raw.sd, Raw.sa, Raw.sb, Raw.sc, Raw.se, Raw.sf, Raw.rndF, Raw.varF,
    Raw.rndC, Raw.scope, Raw.ord, Raw.pe, Raw.mem, Raw.memTy, Raw.eng, Raw.bar, Raw.dstWin, Raw.capFmt, Sys2Proof.need]

theorem badd2 (h : Hdr) (sub : Bool) (r : Rnd) (d a b : Spec) : Statement (.badd2 h sub r d a b) := by
  intro _ hw
  refine decode_of_build rfl hw ((build_float (o := 0x08D#10) (by decide)).trans ?_)
  conv => lhs; whnf
  refine congrArg some ?_
  simp [Raw.ty, Raw.sat, Raw.var3, Raw.var4, Raw.sd, Raw.sa, Raw.sb, Raw.sc, Raw.se, Raw.sf, Raw.rndF, Raw.varF,
    Raw.rndC, Raw.scope, Raw.ord, Raw.pe, Raw.mem, Raw.memTy, Raw.eng, Raw.bar, Raw.dstWin, Raw.capFmt, Sys2Proof.need]

theorem badd2Imm (h : Hdr) (sub : Bool) (r : Rnd) (d a : Spec) (imm : Word) : Statement (.badd2Imm h sub r d a imm) := by
  intro _ hw
  refine decode_of_build rfl hw ((build_float (o := 0x0CD#10) (by decide)).trans ?_)
  conv => lhs; whnf
  refine congrArg some ?_
  simp [Raw.ty, Raw.sat, Raw.var3, Raw.var4, Raw.sd, Raw.sa, Raw.sb, Raw.sc, Raw.se, Raw.sf, Raw.rndF, Raw.varF,
    Raw.rndC, Raw.scope, Raw.ord, Raw.pe, Raw.mem, Raw.memTy, Raw.eng, Raw.bar, Raw.dstWin, Raw.capFmt, Sys2Proof.need]

theorem bmul2 (h : Hdr) (r : Rnd) (d a b : Spec) : Statement (.bmul2 h r d a b) := by
  intro _ hw
  refine decode_of_build rfl hw ((build_float (o := 0x08E#10) (by decide)).trans ?_)
  conv => lhs; whnf
  refine congrArg some ?_
  simp [Raw.ty, Raw.sat, Raw.var3, Raw.var4, Raw.sd, Raw.sa, Raw.sb, Raw.sc, Raw.se, Raw.sf, Raw.rndF, Raw.varF,
    Raw.rndC, Raw.scope, Raw.ord, Raw.pe, Raw.mem, Raw.memTy, Raw.eng, Raw.bar, Raw.dstWin, Raw.capFmt, Sys2Proof.need]

theorem bmul2Imm (h : Hdr) (r : Rnd) (d a : Spec) (imm : Word) : Statement (.bmul2Imm h r d a imm) := by
  intro _ hw
  refine decode_of_build rfl hw ((build_float (o := 0x0CE#10) (by decide)).trans ?_)
  conv => lhs; whnf
  refine congrArg some ?_
  simp [Raw.ty, Raw.sat, Raw.var3, Raw.var4, Raw.sd, Raw.sa, Raw.sb, Raw.sc, Raw.se, Raw.sf, Raw.rndF, Raw.varF,
    Raw.rndC, Raw.scope, Raw.ord, Raw.pe, Raw.mem, Raw.memTy, Raw.eng, Raw.bar, Raw.dstWin, Raw.capFmt, Sys2Proof.need]

theorem bfma2 (h : Hdr) (r : Rnd) (d a b c : Spec) : Statement (.bfma2 h r d a b c) := by
  intro _ hw
  refine decode_of_build rfl hw ((build_float (o := 0x08F#10) (by decide)).trans ?_)
  conv => lhs; whnf
  refine congrArg some ?_
  simp [Raw.ty, Raw.sat, Raw.var3, Raw.var4, Raw.sd, Raw.sa, Raw.sb, Raw.sc, Raw.se, Raw.sf, Raw.rndF, Raw.varF,
    Raw.rndC, Raw.scope, Raw.ord, Raw.pe, Raw.mem, Raw.memTy, Raw.eng, Raw.bar, Raw.dstWin, Raw.capFmt, Sys2Proof.need]

theorem bfma2Imm (h : Hdr) (r : Rnd) (d a b : Spec) (imm : Word) : Statement (.bfma2Imm h r d a b imm) := by
  intro _ hw
  refine decode_of_build rfl hw ((build_float (o := 0x0CF#10) (by decide)).trans ?_)
  conv => lhs; whnf
  refine congrArg some ?_
  simp [Raw.ty, Raw.sat, Raw.var3, Raw.var4, Raw.sd, Raw.sa, Raw.sb, Raw.sc, Raw.se, Raw.sf, Raw.rndF, Raw.varF,
    Raw.rndC, Raw.scope, Raw.ord, Raw.pe, Raw.mem, Raw.memTy, Raw.eng, Raw.bar, Raw.dstWin, Raw.capFmt, Sys2Proof.need]

theorem hmnx2 (h : Hdr) (var : MnxVar) (d a b : Spec) : Statement (.hmnx2 h var d a b) := by
  intro _ hw
  refine decode_of_build rfl hw ((build_float (o := 0x090#10) (by decide)).trans ?_)
  conv => lhs; whnf
  refine congrArg some ?_
  simp [Raw.ty, Raw.sat, Raw.var3, Raw.var4, Raw.sd, Raw.sa, Raw.sb, Raw.sc, Raw.se, Raw.sf, Raw.rndF, Raw.varF,
    Raw.rndC, Raw.scope, Raw.ord, Raw.pe, Raw.mem, Raw.memTy, Raw.eng, Raw.bar, Raw.dstWin, Raw.capFmt, Sys2Proof.need]

theorem hmnx2Imm (h : Hdr) (var : MnxVar) (d a : Spec) (imm : Word) : Statement (.hmnx2Imm h var d a imm) := by
  intro _ hw
  refine decode_of_build rfl hw ((build_float (o := 0x0D0#10) (by decide)).trans ?_)
  conv => lhs; whnf
  refine congrArg some ?_
  simp [Raw.ty, Raw.sat, Raw.var3, Raw.var4, Raw.sd, Raw.sa, Raw.sb, Raw.sc, Raw.se, Raw.sf, Raw.rndF, Raw.varF,
    Raw.rndC, Raw.scope, Raw.ord, Raw.pe, Raw.mem, Raw.memTy, Raw.eng, Raw.bar, Raw.dstWin, Raw.capFmt, Sys2Proof.need]

theorem f2i (h : Hdr) (t : Ty) (r : Rnd) (d a : Spec) : Statement (.f2i h t r d a) := by
  intro _ hw
  refine decode_of_build rfl hw ((build_conv (o := 0x101#10) (by decide)).trans ?_)
  conv => lhs; whnf
  refine congrArg some ?_
  simp [Raw.ty, Raw.sat, Raw.var3, Raw.var4, Raw.sd, Raw.sa, Raw.sb, Raw.sc, Raw.se, Raw.sf, Raw.rndF, Raw.varF,
    Raw.rndC, Raw.scope, Raw.ord, Raw.pe, Raw.mem, Raw.memTy, Raw.eng, Raw.bar, Raw.dstWin, Raw.capFmt, Sys2Proof.need]

theorem f2iFh (h : Hdr) (t : Ty) (r : Rnd) (d a : Spec) : Statement (.f2iFh h t r d a) := by
  intro _ hw
  refine decode_of_build rfl hw ((build_conv (o := 0x102#10) (by decide)).trans ?_)
  conv => lhs; whnf
  refine congrArg some ?_
  simp [Raw.ty, Raw.sat, Raw.var3, Raw.var4, Raw.sd, Raw.sa, Raw.sb, Raw.sc, Raw.se, Raw.sf, Raw.rndF, Raw.varF,
    Raw.rndC, Raw.scope, Raw.ord, Raw.pe, Raw.mem, Raw.memTy, Raw.eng, Raw.bar, Raw.dstWin, Raw.capFmt, Sys2Proof.need]

theorem f2iFb (h : Hdr) (t : Ty) (r : Rnd) (d a : Spec) : Statement (.f2iFb h t r d a) := by
  intro _ hw
  refine decode_of_build rfl hw ((build_conv (o := 0x103#10) (by decide)).trans ?_)
  conv => lhs; whnf
  refine congrArg some ?_
  simp [Raw.ty, Raw.sat, Raw.var3, Raw.var4, Raw.sd, Raw.sa, Raw.sb, Raw.sc, Raw.se, Raw.sf, Raw.rndF, Raw.varF,
    Raw.rndC, Raw.scope, Raw.ord, Raw.pe, Raw.mem, Raw.memTy, Raw.eng, Raw.bar, Raw.dstWin, Raw.capFmt, Sys2Proof.need]

theorem i2f (h : Hdr) (t : Ty) (r : Rnd) (d a : Spec) : Statement (.i2f h t r d a) := by
  intro _ hw
  refine decode_of_build rfl hw ((build_conv (o := 0x104#10) (by decide)).trans ?_)
  conv => lhs; whnf
  refine congrArg some ?_
  simp [Raw.ty, Raw.sat, Raw.var3, Raw.var4, Raw.sd, Raw.sa, Raw.sb, Raw.sc, Raw.se, Raw.sf, Raw.rndF, Raw.varF,
    Raw.rndC, Raw.scope, Raw.ord, Raw.pe, Raw.mem, Raw.memTy, Raw.eng, Raw.bar, Raw.dstWin, Raw.capFmt, Sys2Proof.need]

theorem i2fU (h : Hdr) (t : Ty) (r : Rnd) (d a : Spec) : Statement (.i2fU h t r d a) := by
  intro _ hw
  refine decode_of_build rfl hw ((build_conv (o := 0x105#10) (by decide)).trans ?_)
  conv => lhs; whnf
  refine congrArg some ?_
  simp [Raw.ty, Raw.sat, Raw.var3, Raw.var4, Raw.sd, Raw.sa, Raw.sb, Raw.sc, Raw.se, Raw.sf, Raw.rndF, Raw.varF,
    Raw.rndC, Raw.scope, Raw.ord, Raw.pe, Raw.mem, Raw.memTy, Raw.eng, Raw.bar, Raw.dstWin, Raw.capFmt, Sys2Proof.need]

theorem i2fL (h : Hdr) (t : Ty) (r : Rnd) (d a : Spec) : Statement (.i2fL h t r d a) := by
  intro _ hw
  refine decode_of_build rfl hw ((build_conv (o := 0x106#10) (by decide)).trans ?_)
  conv => lhs; whnf
  refine congrArg some ?_
  simp [Raw.ty, Raw.sat, Raw.var3, Raw.var4, Raw.sd, Raw.sa, Raw.sb, Raw.sc, Raw.se, Raw.sf, Raw.rndF, Raw.varF,
    Raw.rndC, Raw.scope, Raw.ord, Raw.pe, Raw.mem, Raw.memTy, Raw.eng, Raw.bar, Raw.dstWin, Raw.capFmt, Sys2Proof.need]

theorem i2fUl (h : Hdr) (t : Ty) (r : Rnd) (d a : Spec) : Statement (.i2fUl h t r d a) := by
  intro _ hw
  refine decode_of_build rfl hw ((build_conv (o := 0x107#10) (by decide)).trans ?_)
  conv => lhs; whnf
  refine congrArg some ?_
  simp [Raw.ty, Raw.sat, Raw.var3, Raw.var4, Raw.sd, Raw.sa, Raw.sb, Raw.sc, Raw.se, Raw.sf, Raw.rndF, Raw.varF,
    Raw.rndC, Raw.scope, Raw.ord, Raw.pe, Raw.mem, Raw.memTy, Raw.eng, Raw.bar, Raw.dstWin, Raw.capFmt, Sys2Proof.need]

theorem fcvt (h : Hdr) (t : Ty) (r : Rnd) (d a : Spec) : Statement (.fcvt h t r d a) := by
  intro _ hw
  refine decode_of_build rfl hw ((build_conv (o := 0x108#10) (by decide)).trans ?_)
  conv => lhs; whnf
  refine congrArg some ?_
  simp [Raw.ty, Raw.sat, Raw.var3, Raw.var4, Raw.sd, Raw.sa, Raw.sb, Raw.sc, Raw.se, Raw.sf, Raw.rndF, Raw.varF,
    Raw.rndC, Raw.scope, Raw.ord, Raw.pe, Raw.mem, Raw.memTy, Raw.eng, Raw.bar, Raw.dstWin, Raw.capFmt, Sys2Proof.need]

theorem fcvtFh (h : Hdr) (t : Ty) (r : Rnd) (d a : Spec) : Statement (.fcvtFh h t r d a) := by
  intro _ hw
  refine decode_of_build rfl hw ((build_conv (o := 0x109#10) (by decide)).trans ?_)
  conv => lhs; whnf
  refine congrArg some ?_
  simp [Raw.ty, Raw.sat, Raw.var3, Raw.var4, Raw.sd, Raw.sa, Raw.sb, Raw.sc, Raw.se, Raw.sf, Raw.rndF, Raw.varF,
    Raw.rndC, Raw.scope, Raw.ord, Raw.pe, Raw.mem, Raw.memTy, Raw.eng, Raw.bar, Raw.dstWin, Raw.capFmt, Sys2Proof.need]

theorem fcvtFb (h : Hdr) (t : Ty) (r : Rnd) (d a : Spec) : Statement (.fcvtFb h t r d a) := by
  intro _ hw
  refine decode_of_build rfl hw ((build_conv (o := 0x10A#10) (by decide)).trans ?_)
  conv => lhs; whnf
  refine congrArg some ?_
  simp [Raw.ty, Raw.sat, Raw.var3, Raw.var4, Raw.sd, Raw.sa, Raw.sb, Raw.sc, Raw.se, Raw.sf, Raw.rndF, Raw.varF,
    Raw.rndC, Raw.scope, Raw.ord, Raw.pe, Raw.mem, Raw.memTy, Raw.eng, Raw.bar, Raw.dstWin, Raw.capFmt, Sys2Proof.need]

theorem f2f8E4m3 (h : Hdr) (sat : Bool) (r : Rnd) (d a b c : Spec) : Statement (.f2f8E4m3 h sat r d a b c) := by
  intro _ hw
  refine decode_of_build rfl hw ((build_conv (o := 0x10B#10) (by decide)).trans ?_)
  conv => lhs; whnf
  refine congrArg some ?_
  simp [Raw.ty, Raw.sat, Raw.var3, Raw.var4, Raw.sd, Raw.sa, Raw.sb, Raw.sc, Raw.se, Raw.sf, Raw.rndF, Raw.varF,
    Raw.rndC, Raw.scope, Raw.ord, Raw.pe, Raw.mem, Raw.memTy, Raw.eng, Raw.bar, Raw.dstWin, Raw.capFmt, Sys2Proof.need]

theorem f2f8E5m2 (h : Hdr) (sat : Bool) (r : Rnd) (d a b c : Spec) : Statement (.f2f8E5m2 h sat r d a b c) := by
  intro _ hw
  refine decode_of_build rfl hw ((build_conv (o := 0x10C#10) (by decide)).trans ?_)
  conv => lhs; whnf
  refine congrArg some ?_
  simp [Raw.ty, Raw.sat, Raw.var3, Raw.var4, Raw.sd, Raw.sa, Raw.sb, Raw.sc, Raw.se, Raw.sf, Raw.rndF, Raw.varF,
    Raw.rndC, Raw.scope, Raw.ord, Raw.pe, Raw.mem, Raw.memTy, Raw.eng, Raw.bar, Raw.dstWin, Raw.capFmt, Sys2Proof.need]

theorem f82fE4m3 (h : Hdr) (r : Rnd) (d a b c : Spec) : Statement (.f82fE4m3 h r d a b c) := by
  intro _ hw
  refine decode_of_build rfl hw ((build_conv (o := 0x10D#10) (by decide)).trans ?_)
  conv => lhs; whnf
  refine congrArg some ?_
  simp [Raw.ty, Raw.sat, Raw.var3, Raw.var4, Raw.sd, Raw.sa, Raw.sb, Raw.sc, Raw.se, Raw.sf, Raw.rndF, Raw.varF,
    Raw.rndC, Raw.scope, Raw.ord, Raw.pe, Raw.mem, Raw.memTy, Raw.eng, Raw.bar, Raw.dstWin, Raw.capFmt, Sys2Proof.need]

theorem f82fE5m2 (h : Hdr) (r : Rnd) (d a b c : Spec) : Statement (.f82fE5m2 h r d a b c) := by
  intro _ hw
  refine decode_of_build rfl hw ((build_conv (o := 0x10E#10) (by decide)).trans ?_)
  conv => lhs; whnf
  refine congrArg some ?_
  simp [Raw.ty, Raw.sat, Raw.var3, Raw.var4, Raw.sd, Raw.sa, Raw.sb, Raw.sc, Raw.se, Raw.sf, Raw.rndF, Raw.varF,
    Raw.rndC, Raw.scope, Raw.ord, Raw.pe, Raw.mem, Raw.memTy, Raw.eng, Raw.bar, Raw.dstWin, Raw.capFmt, Sys2Proof.need]

theorem frnd (h : Hdr) (r : Rnd) (d a : Spec) : Statement (.frnd h r d a) := by
  intro _ hw
  refine decode_of_build rfl hw ((build_conv (o := 0x10F#10) (by decide)).trans ?_)
  conv => lhs; whnf
  refine congrArg some ?_
  simp [Raw.ty, Raw.sat, Raw.var3, Raw.var4, Raw.sd, Raw.sa, Raw.sb, Raw.sc, Raw.se, Raw.sf, Raw.rndF, Raw.varF,
    Raw.rndC, Raw.scope, Raw.ord, Raw.pe, Raw.mem, Raw.memTy, Raw.eng, Raw.bar, Raw.dstWin, Raw.capFmt, Sys2Proof.need]

theorem frcp (h : Hdr) (d a : Spec) : Statement (.frcp h d a) := by
  intro _ hw
  refine decode_of_build rfl hw ((build_conv (o := 0x110#10) (by decide)).trans ?_)
  conv => lhs; whnf
  refine congrArg some ?_
  simp [Raw.ty, Raw.sat, Raw.var3, Raw.var4, Raw.sd, Raw.sa, Raw.sb, Raw.sc, Raw.se, Raw.sf, Raw.rndF, Raw.varF,
    Raw.rndC, Raw.scope, Raw.ord, Raw.pe, Raw.mem, Raw.memTy, Raw.eng, Raw.bar, Raw.dstWin, Raw.capFmt, Sys2Proof.need]

theorem frsq (h : Hdr) (d a : Spec) : Statement (.frsq h d a) := by
  intro _ hw
  refine decode_of_build rfl hw ((build_conv (o := 0x111#10) (by decide)).trans ?_)
  conv => lhs; whnf
  refine congrArg some ?_
  simp [Raw.ty, Raw.sat, Raw.var3, Raw.var4, Raw.sd, Raw.sa, Raw.sb, Raw.sc, Raw.se, Raw.sf, Raw.rndF, Raw.varF,
    Raw.rndC, Raw.scope, Raw.ord, Raw.pe, Raw.mem, Raw.memTy, Raw.eng, Raw.bar, Raw.dstWin, Raw.capFmt, Sys2Proof.need]

theorem fsqrt (h : Hdr) (d a : Spec) : Statement (.fsqrt h d a) := by
  intro _ hw
  refine decode_of_build rfl hw ((build_conv (o := 0x112#10) (by decide)).trans ?_)
  conv => lhs; whnf
  refine congrArg some ?_
  simp [Raw.ty, Raw.sat, Raw.var3, Raw.var4, Raw.sd, Raw.sa, Raw.sb, Raw.sc, Raw.se, Raw.sf, Raw.rndF, Raw.varF,
    Raw.rndC, Raw.scope, Raw.ord, Raw.pe, Raw.mem, Raw.memTy, Raw.eng, Raw.bar, Raw.dstWin, Raw.capFmt, Sys2Proof.need]

theorem fexp2 (h : Hdr) (d a : Spec) : Statement (.fexp2 h d a) := by
  intro _ hw
  refine decode_of_build rfl hw ((build_conv (o := 0x113#10) (by decide)).trans ?_)
  conv => lhs; whnf
  refine congrArg some ?_
  simp [Raw.ty, Raw.sat, Raw.var3, Raw.var4, Raw.sd, Raw.sa, Raw.sb, Raw.sc, Raw.se, Raw.sf, Raw.rndF, Raw.varF,
    Raw.rndC, Raw.scope, Raw.ord, Raw.pe, Raw.mem, Raw.memTy, Raw.eng, Raw.bar, Raw.dstWin, Raw.capFmt, Sys2Proof.need]

theorem flog2 (h : Hdr) (d a : Spec) : Statement (.flog2 h d a) := by
  intro _ hw
  refine decode_of_build rfl hw ((build_conv (o := 0x114#10) (by decide)).trans ?_)
  conv => lhs; whnf
  refine congrArg some ?_
  simp [Raw.ty, Raw.sat, Raw.var3, Raw.var4, Raw.sd, Raw.sa, Raw.sb, Raw.sc, Raw.se, Raw.sf, Raw.rndF, Raw.varF,
    Raw.rndC, Raw.scope, Raw.ord, Raw.pe, Raw.mem, Raw.memTy, Raw.eng, Raw.bar, Raw.dstWin, Raw.capFmt, Sys2Proof.need]

theorem fsin (h : Hdr) (d a : Spec) : Statement (.fsin h d a) := by
  intro _ hw
  refine decode_of_build rfl hw ((build_conv (o := 0x115#10) (by decide)).trans ?_)
  conv => lhs; whnf
  refine congrArg some ?_
  simp [Raw.ty, Raw.sat, Raw.var3, Raw.var4, Raw.sd, Raw.sa, Raw.sb, Raw.sc, Raw.se, Raw.sf, Raw.rndF, Raw.varF,
    Raw.rndC, Raw.scope, Raw.ord, Raw.pe, Raw.mem, Raw.memTy, Raw.eng, Raw.bar, Raw.dstWin, Raw.capFmt, Sys2Proof.need]

theorem fcos (h : Hdr) (d a : Spec) : Statement (.fcos h d a) := by
  intro _ hw
  refine decode_of_build rfl hw ((build_conv (o := 0x116#10) (by decide)).trans ?_)
  conv => lhs; whnf
  refine congrArg some ?_
  simp [Raw.ty, Raw.sat, Raw.var3, Raw.var4, Raw.sd, Raw.sa, Raw.sb, Raw.sc, Raw.se, Raw.sf, Raw.rndF, Raw.varF,
    Raw.rndC, Raw.scope, Raw.ord, Raw.pe, Raw.mem, Raw.memTy, Raw.eng, Raw.bar, Raw.dstWin, Raw.capFmt, Sys2Proof.need]

theorem ftanh (h : Hdr) (d a : Spec) : Statement (.ftanh h d a) := by
  intro _ hw
  refine decode_of_build rfl hw ((build_conv (o := 0x117#10) (by decide)).trans ?_)
  conv => lhs; whnf
  refine congrArg some ?_
  simp [Raw.ty, Raw.sat, Raw.var3, Raw.var4, Raw.sd, Raw.sa, Raw.sb, Raw.sc, Raw.se, Raw.sf, Raw.rndF, Raw.varF,
    Raw.rndC, Raw.scope, Raw.ord, Raw.pe, Raw.mem, Raw.memTy, Raw.eng, Raw.bar, Raw.dstWin, Raw.capFmt, Sys2Proof.need]

theorem pset (h : Hdr) (op : PsetOp) (pd : BitVec 3) (a b : Spec) : Statement (.pset h op pd a b) := by
  intro _ hw
  refine decode_of_build rfl hw ((build_pred (o := 0x181#10) (by decide)).trans ?_)
  conv => lhs; whnf
  refine congrArg some ?_
  simp [Raw.ty, Raw.sat, Raw.var3, Raw.var4, Raw.sd, Raw.sa, Raw.sb, Raw.sc, Raw.se, Raw.sf, Raw.rndF, Raw.varF,
    Raw.rndC, Raw.scope, Raw.ord, Raw.pe, Raw.mem, Raw.memTy, Raw.eng, Raw.bar, Raw.dstWin, Raw.capFmt, Sys2Proof.need]

theorem pmov (h : Hdr) (bit : Bool) (pd : BitVec 3) (a : Spec) : Statement (.pmov h bit pd a) := by
  intro _ hw
  refine decode_of_build rfl hw ((build_pred (o := 0x182#10) (by decide)).trans ?_)
  conv => lhs; whnf
  refine congrArg some ?_
  simp [Raw.ty, Raw.sat, Raw.var3, Raw.var4, Raw.sd, Raw.sa, Raw.sb, Raw.sc, Raw.se, Raw.sf, Raw.rndF, Raw.varF,
    Raw.rndC, Raw.scope, Raw.ord, Raw.pe, Raw.mem, Raw.memTy, Raw.eng, Raw.bar, Raw.dstWin, Raw.capFmt, Sys2Proof.need]

theorem vote (h : Hdr) (var : VoteVar) (d : Spec) (pe : Option (BitVec 3)) (a : Spec) (p : BitVec 3) : Statement (.vote h var d pe a p) := by
  intro _ hw
  refine decode_of_build rfl hw ((build_pred (o := 0x183#10) (by decide)).trans ?_)
  conv => lhs; whnf
  refine congrArg some ?_
  simp [Raw.ty, Raw.sat, Raw.var3, Raw.var4, Raw.sd, Raw.sa, Raw.sb, Raw.sc, Raw.se, Raw.sf, Raw.rndF, Raw.varF,
    Raw.rndC, Raw.scope, Raw.ord, Raw.pe, Raw.mem, Raw.memTy, Raw.eng, Raw.bar, Raw.dstWin, Raw.capFmt, Sys2Proof.need]

theorem shfl (h : Hdr) (t : Ty) (var : ShflVar) (d : Spec) (pe : Option (BitVec 3)) (a b c : Spec) : Statement (.shfl h t var d pe a b c) := by
  intro _ hw
  refine decode_of_build rfl hw ((build_pred (o := 0x184#10) (by decide)).trans ?_)
  conv => lhs; whnf
  refine congrArg some ?_
  simp [Raw.ty, Raw.sat, Raw.var3, Raw.var4, Raw.sd, Raw.sa, Raw.sb, Raw.sc, Raw.se, Raw.sf, Raw.rndF, Raw.varF,
    Raw.rndC, Raw.scope, Raw.ord, Raw.pe, Raw.mem, Raw.memTy, Raw.eng, Raw.bar, Raw.dstWin, Raw.capFmt, Sys2Proof.need]

theorem bcast (h : Hdr) (t : Ty) (d : Spec) (pe : Option (BitVec 3)) (a b c : Spec) : Statement (.bcast h t d pe a b c) := by
  intro _ hw
  refine decode_of_build rfl hw ((build_pred (o := 0x185#10) (by decide)).trans ?_)
  conv => lhs; whnf
  refine congrArg some ?_
  simp [Raw.ty, Raw.sat, Raw.var3, Raw.var4, Raw.sd, Raw.sa, Raw.sb, Raw.sc, Raw.se, Raw.sf, Raw.rndF, Raw.varF,
    Raw.rndC, Raw.scope, Raw.ord, Raw.pe, Raw.mem, Raw.memTy, Raw.eng, Raw.bar, Raw.dstWin, Raw.capFmt, Sys2Proof.need]

theorem redx (h : Hdr) (t : Ty) (op : RedOp) (d : Spec) (pe : Option (BitVec 3)) (a b : Spec) : Statement (.redx h t op d pe a b) := by
  intro _ hw
  refine decode_of_build rfl hw ((build_pred (o := 0x186#10) (by decide)).trans ?_)
  conv => lhs; whnf
  refine congrArg some ?_
  simp [Raw.ty, Raw.sat, Raw.var3, Raw.var4, Raw.sd, Raw.sa, Raw.sb, Raw.sc, Raw.se, Raw.sf, Raw.rndF, Raw.varF,
    Raw.rndC, Raw.scope, Raw.ord, Raw.pe, Raw.mem, Raw.memTy, Raw.eng, Raw.bar, Raw.dstWin, Raw.capFmt, Sys2Proof.need]

theorem scanx (h : Hdr) (t : Ty) (excl : Bool) (op : RedOp) (d : Spec) (pe : Option (BitVec 3)) (a b : Spec) : Statement (.scanx h t excl op d pe a b) := by
  intro _ hw
  refine decode_of_build rfl hw ((build_pred (o := 0x187#10) (by decide)).trans ?_)
  conv => lhs; whnf
  refine congrArg some ?_
  simp [Raw.ty, Raw.sat, Raw.var3, Raw.var4, Raw.sd, Raw.sa, Raw.sb, Raw.sc, Raw.se, Raw.sf, Raw.rndF, Raw.varF,
    Raw.rndC, Raw.scope, Raw.ord, Raw.pe, Raw.mem, Raw.memTy, Raw.eng, Raw.bar, Raw.dstWin, Raw.capFmt, Sys2Proof.need]

theorem matchx (h : Hdr) (t : Ty) (d : Spec) (pe : Option (BitVec 3)) (a b : Spec) : Statement (.matchx h t d pe a b) := by
  intro _ hw
  refine decode_of_build rfl hw ((build_pred (o := 0x188#10) (by decide)).trans ?_)
  conv => lhs; whnf
  refine congrArg some ?_
  simp [Raw.ty, Raw.sat, Raw.var3, Raw.var4, Raw.sd, Raw.sa, Raw.sb, Raw.sc, Raw.se, Raw.sf, Raw.rndF, Raw.varF,
    Raw.rndC, Raw.scope, Raw.ord, Raw.pe, Raw.mem, Raw.memTy, Raw.eng, Raw.bar, Raw.dstWin, Raw.capFmt, Sys2Proof.need]

theorem shq (h : Hdr) (d a : Spec) : Statement (.shq h d a) := by
  intro _ hw
  refine decode_of_build rfl hw ((build_pred (o := 0x189#10) (by decide)).trans ?_)
  conv => lhs; whnf
  refine congrArg some ?_
  simp [Raw.ty, Raw.sat, Raw.var3, Raw.var4, Raw.sd, Raw.sa, Raw.sb, Raw.sc, Raw.se, Raw.sf, Raw.rndF, Raw.varF,
    Raw.rndC, Raw.scope, Raw.ord, Raw.pe, Raw.mem, Raw.memTy, Raw.eng, Raw.bar, Raw.dstWin, Raw.capFmt, Sys2Proof.need]

theorem sha (h : Hdr) (a : Spec) (shape : BitVec 2) : Statement (.sha h a shape) := by
  intro _ hw
  refine decode_of_build rfl hw ((build_pred (o := 0x18A#10) (by decide)).trans ?_)
  conv => lhs; whnf
  refine congrArg some ?_
  simp [Raw.ty, Raw.sat, Raw.var3, Raw.var4, Raw.sd, Raw.sa, Raw.sb, Raw.sc, Raw.se, Raw.sf, Raw.rndF, Raw.varF,
    Raw.rndC, Raw.scope, Raw.ord, Raw.pe, Raw.mem, Raw.memTy, Raw.eng, Raw.bar, Raw.dstWin, Raw.capFmt, Sys2Proof.need]

theorem shf (h : Hdr) (d a : Spec) (shape : BitVec 2) : Statement (.shf h d a shape) := by
  intro _ hw
  refine decode_of_build rfl hw ((build_pred (o := 0x18B#10) (by decide)).trans ?_)
  conv => lhs; whnf
  refine congrArg some ?_
  simp [Raw.ty, Raw.sat, Raw.var3, Raw.var4, Raw.sd, Raw.sa, Raw.sb, Raw.sc, Raw.se, Raw.sf, Raw.rndF, Raw.varF,
    Raw.rndC, Raw.scope, Raw.ord, Raw.pe, Raw.mem, Raw.memTy, Raw.eng, Raw.bar, Raw.dstWin, Raw.capFmt, Sys2Proof.need]

theorem shrsv (h : Hdr) (pd : BitVec 3) (n : BitVec 8) : Statement (.shrsv h pd n) := by
  intro _ hw
  refine decode_of_build rfl hw ((build_pred (o := 0x18C#10) (by decide)).trans ?_)
  conv => lhs; whnf
  refine congrArg some ?_
  simp [Raw.ty, Raw.sat, Raw.var3, Raw.var4, Raw.sd, Raw.sa, Raw.sb, Raw.sc, Raw.se, Raw.sf, Raw.rndF, Raw.varF,
    Raw.rndC, Raw.scope, Raw.ord, Raw.pe, Raw.mem, Raw.memTy, Raw.eng, Raw.bar, Raw.dstWin, Raw.capFmt, Sys2Proof.need]

theorem bra (h : Hdr) (off : BitVec 34) : Statement (.bra h off) := by
  intro _ hw
  refine decode_of_build rfl hw ((build_ctl (o := 0x201#10) (by decide)).trans ?_)
  conv => lhs; whnf
  refine congrArg some ?_
  simp [Raw.ty, Raw.sat, Raw.var3, Raw.var4, Raw.sd, Raw.sa, Raw.sb, Raw.sc, Raw.se, Raw.sf, Raw.rndF, Raw.varF,
    Raw.rndC, Raw.scope, Raw.ord, Raw.pe, Raw.mem, Raw.memTy, Raw.eng, Raw.bar, Raw.dstWin, Raw.capFmt, Sys2Proof.need]

theorem brx (h : Hdr) (a : Spec) : Statement (.brx h a) := by
  intro _ hw
  refine decode_of_build rfl hw ((build_ctl (o := 0x202#10) (by decide)).trans ?_)
  conv => lhs; whnf
  refine congrArg some ?_
  simp [Raw.ty, Raw.sat, Raw.var3, Raw.var4, Raw.sd, Raw.sa, Raw.sb, Raw.sc, Raw.se, Raw.sf, Raw.rndF, Raw.varF,
    Raw.rndC, Raw.scope, Raw.ord, Raw.pe, Raw.mem, Raw.memTy, Raw.eng, Raw.bar, Raw.dstWin, Raw.capFmt, Sys2Proof.need]

theorem call (h : Hdr) (d : Spec) (off : BitVec 34) : Statement (.call h d off) := by
  intro _ hw
  refine decode_of_build rfl hw ((build_ctl (o := 0x203#10) (by decide)).trans ?_)
  conv => lhs; whnf
  refine congrArg some ?_
  simp [Raw.ty, Raw.sat, Raw.var3, Raw.var4, Raw.sd, Raw.sa, Raw.sb, Raw.sc, Raw.se, Raw.sf, Raw.rndF, Raw.varF,
    Raw.rndC, Raw.scope, Raw.ord, Raw.pe, Raw.mem, Raw.memTy, Raw.eng, Raw.bar, Raw.dstWin, Raw.capFmt, Sys2Proof.need]

theorem callx (h : Hdr) (d a : Spec) : Statement (.callx h d a) := by
  intro _ hw
  refine decode_of_build rfl hw ((build_ctl (o := 0x204#10) (by decide)).trans ?_)
  conv => lhs; whnf
  refine congrArg some ?_
  simp [Raw.ty, Raw.sat, Raw.var3, Raw.var4, Raw.sd, Raw.sa, Raw.sb, Raw.sc, Raw.se, Raw.sf, Raw.rndF, Raw.varF,
    Raw.rndC, Raw.scope, Raw.ord, Raw.pe, Raw.mem, Raw.memTy, Raw.eng, Raw.bar, Raw.dstWin, Raw.capFmt, Sys2Proof.need]

theorem ret (h : Hdr) (a : Spec) : Statement (.ret h a) := by
  intro _ hw
  refine decode_of_build rfl hw ((build_ctl (o := 0x205#10) (by decide)).trans ?_)
  conv => lhs; whnf
  refine congrArg some ?_
  simp [Raw.ty, Raw.sat, Raw.var3, Raw.var4, Raw.sd, Raw.sa, Raw.sb, Raw.sc, Raw.se, Raw.sf, Raw.rndF, Raw.varF,
    Raw.rndC, Raw.scope, Raw.ord, Raw.pe, Raw.mem, Raw.memTy, Raw.eng, Raw.bar, Raw.dstWin, Raw.capFmt, Sys2Proof.need]

theorem join (h : Hdr) (a : Spec) : Statement (.join h a) := by
  intro _ hw
  refine decode_of_build rfl hw ((build_ctl (o := 0x206#10) (by decide)).trans ?_)
  conv => lhs; whnf
  refine congrArg some ?_
  simp [Raw.ty, Raw.sat, Raw.var3, Raw.var4, Raw.sd, Raw.sa, Raw.sb, Raw.sc, Raw.se, Raw.sf, Raw.rndF, Raw.varF,
    Raw.rndC, Raw.scope, Raw.ord, Raw.pe, Raw.mem, Raw.memTy, Raw.eng, Raw.bar, Raw.dstWin, Raw.capFmt, Sys2Proof.need]

theorem joinImm (h : Hdr) (m : Word) : Statement (.joinImm h m) := by
  intro _ hw
  refine decode_of_build rfl hw ((build_ctl (o := 0x246#10) (by decide)).trans ?_)
  conv => lhs; whnf
  refine congrArg some ?_
  simp [Raw.ty, Raw.sat, Raw.var3, Raw.var4, Raw.sd, Raw.sa, Raw.sb, Raw.sc, Raw.se, Raw.sf, Raw.rndF, Raw.varF,
    Raw.rndC, Raw.scope, Raw.ord, Raw.pe, Raw.mem, Raw.memTy, Raw.eng, Raw.bar, Raw.dstWin, Raw.capFmt, Sys2Proof.need]

theorem exit (h : Hdr) : Statement (.exit h) := by
  intro _ hw
  refine decode_of_build rfl hw ((build_ctl (o := 0x207#10) (by decide)).trans ?_)
  conv => lhs; whnf
  refine congrArg some ?_
  simp [Raw.ty, Raw.sat, Raw.var3, Raw.var4, Raw.sd, Raw.sa, Raw.sb, Raw.sc, Raw.se, Raw.sf, Raw.rndF, Raw.varF,
    Raw.rndC, Raw.scope, Raw.ord, Raw.pe, Raw.mem, Raw.memTy, Raw.eng, Raw.bar, Raw.dstWin, Raw.capFmt, Sys2Proof.need]

theorem exitSucc (h : Hdr) (a : Spec) : Statement (.exitSucc h a) := by
  intro _ hw
  refine decode_of_build rfl hw ((build_ctl (o := 0x207#10) (by decide)).trans ?_)
  conv => lhs; whnf
  refine congrArg some ?_
  simp [Raw.ty, Raw.sat, Raw.var3, Raw.var4, Raw.sd, Raw.sa, Raw.sb, Raw.sc, Raw.se, Raw.sf, Raw.rndF, Raw.varF,
    Raw.rndC, Raw.scope, Raw.ord, Raw.pe, Raw.mem, Raw.memTy, Raw.eng, Raw.bar, Raw.dstWin, Raw.capFmt, Sys2Proof.need]

theorem yield (h : Hdr) : Statement (.yield h) := by
  intro _ hw
  refine decode_of_build rfl hw ((build_ctl (o := 0x208#10) (by decide)).trans ?_)
  conv => lhs; whnf
  refine congrArg some ?_
  simp [Raw.ty, Raw.sat, Raw.var3, Raw.var4, Raw.sd, Raw.sa, Raw.sb, Raw.sc, Raw.se, Raw.sf, Raw.rndF, Raw.varF,
    Raw.rndC, Raw.scope, Raw.ord, Raw.pe, Raw.mem, Raw.memTy, Raw.eng, Raw.bar, Raw.dstWin, Raw.capFmt, Sys2Proof.need]

theorem sleept (h : Hdr) (a : Spec) : Statement (.sleept h a) := by
  intro _ hw
  refine decode_of_build rfl hw ((build_ctl (o := 0x209#10) (by decide)).trans ?_)
  conv => lhs; whnf
  refine congrArg some ?_
  simp [Raw.ty, Raw.sat, Raw.var3, Raw.var4, Raw.sd, Raw.sa, Raw.sb, Raw.sc, Raw.se, Raw.sf, Raw.rndF, Raw.varF,
    Raw.rndC, Raw.scope, Raw.ord, Raw.pe, Raw.mem, Raw.memTy, Raw.eng, Raw.bar, Raw.dstWin, Raw.capFmt, Sys2Proof.need]

theorem nop (h : Hdr) : Statement (.nop h) := by
  intro _ hw
  refine decode_of_build rfl hw ((build_ctl (o := 0x20A#10) (by decide)).trans ?_)
  conv => lhs; whnf
  refine congrArg some ?_
  simp [Raw.ty, Raw.sat, Raw.var3, Raw.var4, Raw.sd, Raw.sa, Raw.sb, Raw.sc, Raw.se, Raw.sf, Raw.rndF, Raw.varF,
    Raw.rndC, Raw.scope, Raw.ord, Raw.pe, Raw.mem, Raw.memTy, Raw.eng, Raw.bar, Raw.dstWin, Raw.capFmt, Sys2Proof.need]

theorem trap (h : Hdr) (code : Word) : Statement (.trap h code) := by
  intro _ hw
  refine decode_of_build rfl hw ((build_ctl (o := 0x20B#10) (by decide)).trans ?_)
  conv => lhs; whnf
  refine congrArg some ?_
  simp [Raw.ty, Raw.sat, Raw.var3, Raw.var4, Raw.sd, Raw.sa, Raw.sb, Raw.sc, Raw.se, Raw.sf, Raw.rndF, Raw.varF,
    Raw.rndC, Raw.scope, Raw.ord, Raw.pe, Raw.mem, Raw.memTy, Raw.eng, Raw.bar, Raw.dstWin, Raw.capFmt, Sys2Proof.need]

theorem brkpt (h : Hdr) (code : Word) : Statement (.brkpt h code) := by
  intro _ hw
  refine decode_of_build rfl hw ((build_ctl (o := 0x20C#10) (by decide)).trans ?_)
  conv => lhs; whnf
  refine congrArg some ?_
  simp [Raw.ty, Raw.sat, Raw.var3, Raw.var4, Raw.sd, Raw.sa, Raw.sb, Raw.sc, Raw.se, Raw.sf, Raw.rndF, Raw.varF,
    Raw.rndC, Raw.scope, Raw.ord, Raw.pe, Raw.mem, Raw.memTy, Raw.eng, Raw.bar, Raw.dstWin, Raw.capFmt, Sys2Proof.need]

theorem ld (h : Hdr) (scope : Scope) (ord : Order) (bc : Bool) (t : Ty) (d : Spec) (m : MemArg) (disp : BitVec 24) : Statement (.ld h scope ord bc t d m disp) := by
  intro _ hw
  refine decode_of_build rfl hw ((build_mem (o := 0x281#10) (by decide)).trans ?_)
  conv => lhs; whnf
  refine congrArg some ?_
  simp [Raw.ty, Raw.sat, Raw.var3, Raw.var4, Raw.sd, Raw.sa, Raw.sb, Raw.sc, Raw.se, Raw.sf, Raw.rndF, Raw.varF,
    Raw.rndC, Raw.scope, Raw.ord, Raw.pe, Raw.mem, Raw.memTy, Raw.eng, Raw.bar, Raw.dstWin, Raw.capFmt, Sys2Proof.need]

theorem st (h : Hdr) (scope : Scope) (ord : Order) (t : Ty) (d : Spec) (m : MemArg) (disp : BitVec 24) : Statement (.st h scope ord t d m disp) := by
  intro _ hw
  refine decode_of_build rfl hw ((build_mem (o := 0x282#10) (by decide)).trans ?_)
  conv => lhs; whnf
  refine congrArg some ?_
  simp [Raw.ty, Raw.sat, Raw.var3, Raw.var4, Raw.sd, Raw.sa, Raw.sb, Raw.sc, Raw.se, Raw.sf, Raw.rndF, Raw.varF,
    Raw.rndC, Raw.scope, Raw.ord, Raw.pe, Raw.mem, Raw.memTy, Raw.eng, Raw.bar, Raw.dstWin, Raw.capFmt, Sys2Proof.need]

theorem ldc (h : Hdr) (scope : Scope) (ord : Order) (bc : Bool) (d : Spec) (m : MemArg) (disp : BitVec 24) : Statement (.ldc h scope ord bc d m disp) := by
  intro _ hw
  refine decode_of_build rfl hw ((build_mem (o := 0x283#10) (by decide)).trans ?_)
  conv => lhs; whnf
  refine congrArg some ?_
  simp [Raw.ty, Raw.sat, Raw.var3, Raw.var4, Raw.sd, Raw.sa, Raw.sb, Raw.sc, Raw.se, Raw.sf, Raw.rndF, Raw.varF,
    Raw.rndC, Raw.scope, Raw.ord, Raw.pe, Raw.mem, Raw.memTy, Raw.eng, Raw.bar, Raw.dstWin, Raw.capFmt, Sys2Proof.need]

theorem stc (h : Hdr) (scope : Scope) (ord : Order) (d : Spec) (m : MemArg) (disp : BitVec 24) : Statement (.stc h scope ord d m disp) := by
  intro _ hw
  refine decode_of_build rfl hw ((build_mem (o := 0x284#10) (by decide)).trans ?_)
  conv => lhs; whnf
  refine congrArg some ?_
  simp [Raw.ty, Raw.sat, Raw.var3, Raw.var4, Raw.sd, Raw.sa, Raw.sb, Raw.sc, Raw.se, Raw.sf, Raw.rndF, Raw.varF,
    Raw.rndC, Raw.scope, Raw.ord, Raw.pe, Raw.mem, Raw.memTy, Raw.eng, Raw.bar, Raw.dstWin, Raw.capFmt, Sys2Proof.need]

theorem atom (h : Hdr) (scope : Scope) (ord : Order) (op : AtomOp) (t : Ty) (d : Spec) (m : MemArg) (disp : BitVec 16) (c : Spec) : Statement (.atom h scope ord op t d m disp c) := by
  intro _ hw
  refine decode_of_build rfl hw ((build_mem (atom_class op)).trans ?_)
  cases op <;>
    (  conv => lhs; whnf
       refine congrArg some ?_
       simp [Raw.ty, Raw.sat, Raw.sd, Raw.sa, Raw.sb, Raw.sc, Raw.scope, Raw.ord, Raw.mem, Raw.memTy, Sys2Proof.need, AtomOp.code, AtomOp.ofCode])


theorem red (h : Hdr) (scope : Scope) (ord : Order) (op : AtomOp) (t : Ty) (d : Spec) (m : MemArg) (disp : BitVec 24) : Statement (.red h scope ord op t d m disp) := by
  intro _ hw
  have hop : op ≠ .exch ∧ op ≠ .cas := by
    simp only [Instr.wf, Instr.form, Bool.and_eq_true, bne_iff_ne] at hw
    exact ⟨hw.1.1.1.1.1.1.2, hw.1.1.1.1.1.2⟩
  refine decode_of_build rfl hw ((build_mem (red_class op)).trans ?_)
  cases op <;>
    first
    | exact absurd rfl hop.1
    | exact absurd rfl hop.2
    | (conv => lhs; whnf
       refine congrArg some ?_
       simp [Raw.ty, Raw.sat, Raw.sd, Raw.sa, Raw.sb, Raw.sc, Raw.scope, Raw.ord, Raw.mem, Raw.memTy, Sys2Proof.need, AtomOp.code, AtomOp.ofCode])


theorem fence (h : Hdr) (scope : Scope) (ord : Order) : Statement (.fence h scope ord) := by
  intro _ hw
  refine decode_of_build rfl hw ((build_mem (o := 0x285#10) (by decide)).trans ?_)
  conv => lhs; whnf
  refine congrArg some ?_
  simp [Raw.ty, Raw.sat, Raw.var3, Raw.var4, Raw.sd, Raw.sa, Raw.sb, Raw.sc, Raw.se, Raw.sf, Raw.rndF, Raw.varF,
    Raw.rndC, Raw.scope, Raw.ord, Raw.pe, Raw.mem, Raw.memTy, Raw.eng, Raw.bar, Raw.dstWin, Raw.capFmt, Sys2Proof.need]

theorem waitmem (h : Hdr) (scope : Scope) (ord : Order) (cond : Cond) (t : Ty) (d : Spec) (m : MemArg) (disp : BitVec 24) : Statement (.waitmem h scope ord cond t d m disp) := by
  intro _ hw
  refine decode_of_build rfl hw ((build_mem (waitmem_class cond)).trans ?_)
  cases cond <;>
    (  conv => lhs; whnf
       refine congrArg some ?_
       simp [Raw.ty, Raw.sat, Raw.sd, Raw.sa, Raw.sb, Raw.sc, Raw.scope, Raw.ord, Raw.mem, Raw.memTy, Sys2Proof.need, Cond.code, Cond.ofCode])


theorem pin (h : Hdr) (pd : BitVec 3) (m : MemArg) (disp : BitVec 24) : Statement (.pin h pd m disp) := by
  intro _ hw
  refine decode_of_build rfl hw ((build_mem (o := 0x287#10) (by decide)).trans ?_)
  conv => lhs; whnf
  refine congrArg some ?_
  simp [Raw.ty, Raw.sat, Raw.var3, Raw.var4, Raw.sd, Raw.sa, Raw.sb, Raw.sc, Raw.se, Raw.sf, Raw.rndF, Raw.varF,
    Raw.rndC, Raw.scope, Raw.ord, Raw.pe, Raw.mem, Raw.memTy, Raw.eng, Raw.bar, Raw.dstWin, Raw.capFmt, Sys2Proof.need]

theorem unpin (h : Hdr) (m : MemArg) (disp : BitVec 24) : Statement (.unpin h m disp) := by
  intro _ hw
  refine decode_of_build rfl hw ((build_mem (o := 0x288#10) (by decide)).trans ?_)
  conv => lhs; whnf
  refine congrArg some ?_
  simp [Raw.ty, Raw.sat, Raw.var3, Raw.var4, Raw.sd, Raw.sa, Raw.sb, Raw.sc, Raw.se, Raw.sf, Raw.rndF, Raw.varF,
    Raw.rndC, Raw.scope, Raw.ord, Raw.pe, Raw.mem, Raw.memTy, Raw.eng, Raw.bar, Raw.dstWin, Raw.capFmt, Sys2Proof.need]

theorem pref (h : Hdr) (m : MemArg) (disp : BitVec 24) : Statement (.pref h m disp) := by
  intro _ hw
  refine decode_of_build rfl hw ((build_mem (o := 0x289#10) (by decide)).trans ?_)
  conv => lhs; whnf
  refine congrArg some ?_
  simp [Raw.ty, Raw.sat, Raw.var3, Raw.var4, Raw.sd, Raw.sa, Raw.sb, Raw.sc, Raw.se, Raw.sf, Raw.rndF, Raw.varF,
    Raw.rndC, Raw.scope, Raw.ord, Raw.pe, Raw.mem, Raw.memTy, Raw.eng, Raw.bar, Raw.dstWin, Raw.capFmt, Sys2Proof.need]

theorem icinv (h : Hdr) (m : MemArg) (disp : BitVec 24) : Statement (.icinv h m disp) := by
  intro _ hw
  refine decode_of_build rfl hw ((build_mem (o := 0x28A#10) (by decide)).trans ?_)
  conv => lhs; whnf
  refine congrArg some ?_
  simp [Raw.ty, Raw.sat, Raw.var3, Raw.var4, Raw.sd, Raw.sa, Raw.sb, Raw.sc, Raw.se, Raw.sf, Raw.rndF, Raw.varF,
    Raw.rndC, Raw.scope, Raw.ord, Raw.pe, Raw.mem, Raw.memTy, Raw.eng, Raw.bar, Raw.dstWin, Raw.capFmt, Sys2Proof.need]

theorem capnar (h : Hdr) (fmt : Option Fmt) (pitch : Option (BitVec 16)) (l : Bool) (d : Spec) (pe : Option (BitVec 3)) (a b c : Spec) : Statement (.capnar h fmt pitch l d pe a b c) := by
  intro _ hw
  cases pitch <;>
  (refine decode_of_build rfl hw ((build_mem (o := 0x28B#10) (by decide)).trans ?_)
   conv => lhs; whnf
   refine congrArg some ?_
   simp [Raw.ty, Raw.sat, Raw.var3, Raw.var4, Raw.sd, Raw.sa, Raw.sb, Raw.sc, Raw.se, Raw.sf, Raw.rndF, Raw.varF,
     Raw.rndC, Raw.scope, Raw.ord, Raw.pe, Raw.mem, Raw.memTy, Raw.eng, Raw.bar, Raw.dstWin, Raw.capFmt, Sys2Proof.need])

theorem capperm (h : Hdr) (d a : Spec) (mask : BitVec 8) : Statement (.capperm h d a mask) := by
  intro _ hw
  refine decode_of_build rfl hw ((build_mem (o := 0x28C#10) (by decide)).trans ?_)
  conv => lhs; whnf
  refine congrArg some ?_
  simp [Raw.ty, Raw.sat, Raw.var3, Raw.var4, Raw.sd, Raw.sa, Raw.sb, Raw.sc, Raw.se, Raw.sf, Raw.rndF, Raw.varF,
    Raw.rndC, Raw.scope, Raw.ord, Raw.pe, Raw.mem, Raw.memTy, Raw.eng, Raw.bar, Raw.dstWin, Raw.capFmt, Sys2Proof.need]

theorem capget (h : Hdr) (sel : BitVec 3) (d a : Spec) : Statement (.capget h sel d a) := by
  intro _ hw
  refine decode_of_build rfl hw ((build_mem (o := 0x28D#10) (by decide)).trans ?_)
  conv => lhs; whnf
  refine congrArg some ?_
  simp [Raw.ty, Raw.sat, Raw.var3, Raw.var4, Raw.sd, Raw.sa, Raw.sb, Raw.sc, Raw.se, Raw.sf, Raw.rndF, Raw.varF,
    Raw.rndC, Raw.scope, Raw.ord, Raw.pe, Raw.mem, Raw.memTy, Raw.eng, Raw.bar, Raw.dstWin, Raw.capFmt, Sys2Proof.need]

theorem captst (h : Hdr) (need : BitVec 6) (pd : BitVec 3) (a b c : Spec) : Statement (.captst h need pd a b c) := by
  intro _ hw
  refine decode_of_build rfl hw ((build_mem (o := 0x28E#10) (by decide)).trans ?_)
  conv => lhs; whnf
  refine congrArg some ?_
  simp [Raw.ty, Raw.sat, Raw.var3, Raw.var4, Raw.sd, Raw.sa, Raw.sb, Raw.sc, Raw.se, Raw.sf, Raw.rndF, Raw.varF,
    Raw.rndC, Raw.scope, Raw.ord, Raw.pe, Raw.mem, Raw.memTy, Raw.eng, Raw.bar, Raw.dstWin, Raw.capFmt, Sys2Proof.need]

theorem cpy (h : Hdr) (scope : Scope) (src : SrcWin) (dst : DstWin) (m : EngArg) : Statement (.cpy h scope src dst m) := by
  intro _ hw
  refine decode_of_build rfl hw ((build_eng (o := 0x301#10) (by decide)).trans ?_)
  conv => lhs; whnf
  refine congrArg some ?_
  simp [Raw.ty, Raw.sat, Raw.var3, Raw.var4, Raw.sd, Raw.sa, Raw.sb, Raw.sc, Raw.se, Raw.sf, Raw.rndF, Raw.varF,
    Raw.rndC, Raw.scope, Raw.ord, Raw.pe, Raw.mem, Raw.memTy, Raw.eng, Raw.bar, Raw.dstWin, Raw.capFmt, Sys2Proof.need]

theorem cpyg (h : Hdr) (scope : Scope) (src : SrcWin) (dst : DstWin) (m : EngArg) (e : Spec) : Statement (.cpyg h scope src dst m e) := by
  intro _ hw
  refine decode_of_build rfl hw ((build_eng (o := 0x302#10) (by decide)).trans ?_)
  conv => lhs; whnf
  refine congrArg some ?_
  simp [Raw.ty, Raw.sat, Raw.var3, Raw.var4, Raw.sd, Raw.sa, Raw.sb, Raw.sc, Raw.se, Raw.sf, Raw.rndF, Raw.varF,
    Raw.rndC, Raw.scope, Raw.ord, Raw.pe, Raw.mem, Raw.memTy, Raw.eng, Raw.bar, Raw.dstWin, Raw.capFmt, Sys2Proof.need]

theorem coll (h : Hdr) (scope : Scope) (src : SrcWin) (dst : DstWin) (m : EngArg) (e : Spec) : Statement (.coll h scope src dst m e) := by
  intro _ hw
  refine decode_of_build rfl hw ((build_eng (o := 0x303#10) (by decide)).trans ?_)
  conv => lhs; whnf
  refine congrArg some ?_
  simp [Raw.ty, Raw.sat, Raw.var3, Raw.var4, Raw.sd, Raw.sa, Raw.sb, Raw.sc, Raw.se, Raw.sf, Raw.rndF, Raw.varF,
    Raw.rndC, Raw.scope, Raw.ord, Raw.pe, Raw.mem, Raw.memTy, Raw.eng, Raw.bar, Raw.dstWin, Raw.capFmt, Sys2Proof.need]

theorem mma (h : Hdr) (scope : Scope) (bf : Bool) (acc : AccFmt) (bar : Option Spec) (slot : BitVec 6) (m : EngArg) (e f : Spec) : Statement (.mma h scope bf acc bar slot m e f) := by
  intro _ hw
  have hf : bf = true → f = .v 0 := by
    intro hb
    subst hb
    simp [Instr.wf, Instr.form] at hw
    exact hw.1.1.1.2
  refine decode_of_build rfl hw ((build_eng (o := 0x304#10) (by decide)).trans ?_)
  conv => lhs; whnf
  refine congrArg some ?_
  simp [Raw.sa, Raw.sb, Raw.sc, Raw.se, Raw.sf, Raw.scope, Raw.eng, Raw.bar]
  cases bf with
  | false => simp
  | true => simp [hf rfl]

theorem mdrain (h : Hdr) (scope : Scope) (fmt : DrainFmt) (t : Bool) (bar : Option Spec) (slot : BitVec 6) (a : Spec) (r : Rnd) (acc : AccFmt) : Statement (.mdrain h scope fmt t bar slot a r acc) := by
  intro _ hw
  refine decode_of_build rfl hw ((build_eng (o := 0x305#10) (by decide)).trans ?_)
  conv => lhs; whnf
  refine congrArg some ?_
  simp [Raw.ty, Raw.sat, Raw.var3, Raw.var4, Raw.sd, Raw.sa, Raw.sb, Raw.sc, Raw.se, Raw.sf, Raw.rndF, Raw.varF,
    Raw.rndC, Raw.scope, Raw.ord, Raw.pe, Raw.mem, Raw.memTy, Raw.eng, Raw.bar, Raw.dstWin, Raw.capFmt, Sys2Proof.need, eng_rnd, eng_acc, Rnd.ofCode_code, AccFmt.ofCode_code]

theorem mzero (h : Hdr) (scope : Scope) (fmt : AccFmt) (bar : Option Spec) (slot : BitVec 6) : Statement (.mzero h scope fmt bar slot) := by
  intro _ hw
  refine decode_of_build rfl hw ((build_eng (o := 0x306#10) (by decide)).trans ?_)
  conv => lhs; whnf
  refine congrArg some ?_
  simp [Raw.ty, Raw.sat, Raw.var3, Raw.var4, Raw.sd, Raw.sa, Raw.sb, Raw.sc, Raw.se, Raw.sf, Raw.rndF, Raw.varF,
    Raw.rndC, Raw.scope, Raw.ord, Raw.pe, Raw.mem, Raw.memTy, Raw.eng, Raw.bar, Raw.dstWin, Raw.capFmt, Sys2Proof.need]

theorem wtload (h : Hdr) (scope : Scope) (src : SrcWin) (bar : Option Spec) (tbl : BitVec 3) (m : EngArg) : Statement (.wtload h scope src bar tbl m) := by
  intro _ hw
  refine decode_of_build rfl hw ((build_eng (o := 0x307#10) (by decide)).trans ?_)
  conv => lhs; whnf
  refine congrArg some ?_
  simp [Raw.ty, Raw.sat, Raw.var3, Raw.var4, Raw.sd, Raw.sa, Raw.sb, Raw.sc, Raw.se, Raw.sf, Raw.rndF, Raw.varF,
    Raw.rndC, Raw.scope, Raw.ord, Raw.pe, Raw.mem, Raw.memTy, Raw.eng, Raw.bar, Raw.dstWin, Raw.capFmt, Sys2Proof.need]

theorem widx (h : Hdr) (a b : Spec) : Statement (.widx h a b) := by
  intro _ hw
  refine decode_of_build rfl hw ((build_eng (o := 0x308#10) (by decide)).trans ?_)
  conv => lhs; whnf
  refine congrArg some ?_
  simp [Raw.ty, Raw.sat, Raw.var3, Raw.var4, Raw.sd, Raw.sa, Raw.sb, Raw.sc, Raw.se, Raw.sf, Raw.rndF, Raw.varF,
    Raw.rndC, Raw.scope, Raw.ord, Raw.pe, Raw.mem, Raw.memTy, Raw.eng, Raw.bar, Raw.dstWin, Raw.capFmt, Sys2Proof.need]

theorem barinit (h : Hdr) (sp : Bool) (m : EngArg) (e f : Spec) : Statement (.barinit h sp m e f) := by
  intro _ hw
  refine decode_of_build rfl hw ((build_eng (o := 0x309#10) (by decide)).trans ?_)
  conv => lhs; whnf
  refine congrArg some ?_
  simp [Raw.ty, Raw.sat, Raw.var3, Raw.var4, Raw.sd, Raw.sa, Raw.sb, Raw.sc, Raw.se, Raw.sf, Raw.rndF, Raw.varF,
    Raw.rndC, Raw.scope, Raw.ord, Raw.pe, Raw.mem, Raw.memTy, Raw.eng, Raw.bar, Raw.dstWin, Raw.capFmt, Sys2Proof.need]

theorem bararr (h : Hdr) (scope : Scope) (sp : Bool) (n : BarCount) (m : EngArg) : Statement (.bararr h scope sp n m) := by
  intro _ hw
  cases n <;>
  (refine decode_of_build rfl hw ((build_eng (o := 0x30A#10) (by decide)).trans ?_)
   conv => lhs; whnf
   refine congrArg some ?_
   simp [Raw.ty, Raw.sat, Raw.var3, Raw.var4, Raw.sd, Raw.sa, Raw.sb, Raw.sc, Raw.se, Raw.sf, Raw.rndF, Raw.varF,
     Raw.rndC, Raw.scope, Raw.ord, Raw.pe, Raw.mem, Raw.memTy, Raw.eng, Raw.bar, Raw.dstWin, Raw.capFmt, Sys2Proof.need, BarCount.var, BarCount.bits, arr_imm, arr_reg])

theorem barwait (h : Hdr) (sp : Bool) (m : EngArg) (e : Spec) : Statement (.barwait h sp m e) := by
  intro _ hw
  refine decode_of_build rfl hw ((build_eng (o := 0x30B#10) (by decide)).trans ?_)
  conv => lhs; whnf
  refine congrArg some ?_
  simp [Raw.ty, Raw.sat, Raw.var3, Raw.var4, Raw.sd, Raw.sa, Raw.sb, Raw.sc, Raw.se, Raw.sf, Raw.rndF, Raw.varF,
    Raw.rndC, Raw.scope, Raw.ord, Raw.pe, Raw.mem, Raw.memTy, Raw.eng, Raw.bar, Raw.dstWin, Raw.capFmt, Sys2Proof.need]

theorem bartst (h : Hdr) (sp : Bool) (d : Spec) (m : EngArg) : Statement (.bartst h sp d m) := by
  intro _ hw
  refine decode_of_build rfl hw ((build_eng (o := 0x30C#10) (by decide)).trans ?_)
  conv => lhs; whnf
  refine congrArg some ?_
  simp [Raw.ty, Raw.sat, Raw.var3, Raw.var4, Raw.sd, Raw.sa, Raw.sb, Raw.sc, Raw.se, Raw.sf, Raw.rndF, Raw.varF,
    Raw.rndC, Raw.scope, Raw.ord, Raw.pe, Raw.mem, Raw.memTy, Raw.eng, Raw.bar, Raw.dstWin, Raw.capFmt, Sys2Proof.need]

theorem rngget (h : Hdr) (full : Bool) (d : Spec) (pe : BitVec 3) (m : EngArg) : Statement (.rngget h full d pe m) := by
  intro _ hw
  refine decode_of_build rfl hw ((build_eng (o := 0x30E#10) (by decide)).trans ?_)
  conv => lhs; whnf
  refine congrArg some ?_
  simp [Raw.ty, Raw.sat, Raw.var3, Raw.var4, Raw.sd, Raw.sa, Raw.sb, Raw.sc, Raw.se, Raw.sf, Raw.rndF, Raw.varF,
    Raw.rndC, Raw.scope, Raw.ord, Raw.pe, Raw.mem, Raw.memTy, Raw.eng, Raw.bar, Raw.dstWin, Raw.capFmt, Sys2Proof.need]

theorem rngput (h : Hdr) (full : Bool) (m : EngArg) (e : Spec) : Statement (.rngput h full m e) := by
  intro _ hw
  refine decode_of_build rfl hw ((build_eng (o := 0x30F#10) (by decide)).trans ?_)
  conv => lhs; whnf
  refine congrArg some ?_
  simp [Raw.ty, Raw.sat, Raw.var3, Raw.var4, Raw.sd, Raw.sa, Raw.sb, Raw.sc, Raw.se, Raw.sf, Raw.rndF, Raw.varF,
    Raw.rndC, Raw.scope, Raw.ord, Raw.pe, Raw.mem, Raw.memTy, Raw.eng, Raw.bar, Raw.dstWin, Raw.capFmt, Sys2Proof.need]

theorem rngclose (h : Hdr) (m : EngArg) : Statement (.rngclose h m) := by
  intro _ hw
  refine decode_of_build rfl hw ((build_eng (o := 0x310#10) (by decide)).trans ?_)
  conv => lhs; whnf
  refine congrArg some ?_
  simp [Raw.ty, Raw.sat, Raw.var3, Raw.var4, Raw.sd, Raw.sa, Raw.sb, Raw.sc, Raw.se, Raw.sf, Raw.rndF, Raw.varF,
    Raw.rndC, Raw.scope, Raw.ord, Raw.pe, Raw.mem, Raw.memTy, Raw.eng, Raw.bar, Raw.dstWin, Raw.capFmt, Sys2Proof.need]

theorem waitcnt (h : Hdr) (cls : CntClass) (n : BitVec 6) : Statement (.waitcnt h cls n) := by
  intro _ hw
  refine decode_of_build rfl hw ((build_eng (o := 0x30D#10) (by decide)).trans ?_)
  conv => lhs; whnf
  refine congrArg some ?_
  simp [Raw.ty, Raw.sat, Raw.var3, Raw.var4, Raw.sd, Raw.sa, Raw.sb, Raw.sc, Raw.se, Raw.sf, Raw.rndF, Raw.varF,
    Raw.rndC, Raw.scope, Raw.ord, Raw.pe, Raw.mem, Raw.memTy, Raw.eng, Raw.bar, Raw.dstWin, Raw.capFmt, Sys2Proof.need]

theorem tbar (h : Hdr) : Statement (.tbar h) := by
  intro _ hw
  refine decode_of_build rfl hw ((build_eng (o := 0x311#10) (by decide)).trans ?_)
  conv => lhs; whnf
  refine congrArg some ?_
  simp [Raw.ty, Raw.sat, Raw.var3, Raw.var4, Raw.sd, Raw.sa, Raw.sb, Raw.sc, Raw.se, Raw.sf, Raw.rndF, Raw.varF,
    Raw.rndC, Raw.scope, Raw.ord, Raw.pe, Raw.mem, Raw.memTy, Raw.eng, Raw.bar, Raw.dstWin, Raw.capFmt, Sys2Proof.need]

theorem tspawn (h : Hdr) (a b : Spec) : Statement (.tspawn h a b) := by
  intro _ hw
  refine decode_of_build rfl hw ((build_eng (o := 0x312#10) (by decide)).trans ?_)
  conv => lhs; whnf
  refine congrArg some ?_
  simp [Raw.ty, Raw.sat, Raw.var3, Raw.var4, Raw.sd, Raw.sa, Raw.sb, Raw.sc, Raw.se, Raw.sf, Raw.rndF, Raw.varF,
    Raw.rndC, Raw.scope, Raw.ord, Raw.pe, Raw.mem, Raw.memTy, Raw.eng, Raw.bar, Raw.dstWin, Raw.capFmt, Sys2Proof.need]

theorem evsig (h : Hdr) (a : Spec) (name : BitVec 16) : Statement (.evsig h a name) := by
  intro _ hw
  refine decode_of_build rfl hw ((build_eng (o := 0x313#10) (by decide)).trans ?_)
  conv => lhs; whnf
  refine congrArg some ?_
  simp [Raw.ty, Raw.sat, Raw.var3, Raw.var4, Raw.sd, Raw.sa, Raw.sb, Raw.sc, Raw.se, Raw.sf, Raw.rndF, Raw.varF,
    Raw.rndC, Raw.scope, Raw.ord, Raw.pe, Raw.mem, Raw.memTy, Raw.eng, Raw.bar, Raw.dstWin, Raw.capFmt, Sys2Proof.need]

theorem evwait (h : Hdr) (a : Spec) (name : BitVec 16) : Statement (.evwait h a name) := by
  intro _ hw
  refine decode_of_build rfl hw ((build_eng (o := 0x314#10) (by decide)).trans ?_)
  conv => lhs; whnf
  refine congrArg some ?_
  simp [Raw.ty, Raw.sat, Raw.var3, Raw.var4, Raw.sd, Raw.sa, Raw.sb, Raw.sc, Raw.se, Raw.sf, Raw.rndF, Raw.varF,
    Raw.rndC, Raw.scope, Raw.ord, Raw.pe, Raw.mem, Raw.memTy, Raw.eng, Raw.bar, Raw.dstWin, Raw.capFmt, Sys2Proof.need]

theorem rdtime (h : Hdr) (d : Spec) : Statement (.rdtime h d) := by
  intro _ hw
  refine decode_of_build rfl hw ((build_eng (o := 0x315#10) (by decide)).trans ?_)
  conv => lhs; whnf
  refine congrArg some ?_
  simp [Raw.ty, Raw.sat, Raw.var3, Raw.var4, Raw.sd, Raw.sa, Raw.sb, Raw.sc, Raw.se, Raw.sf, Raw.rndF, Raw.varF,
    Raw.rndC, Raw.scope, Raw.ord, Raw.pe, Raw.mem, Raw.memTy, Raw.eng, Raw.bar, Raw.dstWin, Raw.capFmt, Sys2Proof.need]

theorem rdid (h : Hdr) (sel : BitVec 4) (d : Spec) : Statement (.rdid h sel d) := by
  intro _ hw
  refine decode_of_build rfl hw ((build_eng (o := 0x316#10) (by decide)).trans ?_)
  conv => lhs; whnf
  refine congrArg some ?_
  simp [Raw.ty, Raw.sat, Raw.var3, Raw.var4, Raw.sd, Raw.sa, Raw.sb, Raw.sc, Raw.se, Raw.sf, Raw.rndF, Raw.varF,
    Raw.rndC, Raw.scope, Raw.ord, Raw.pe, Raw.mem, Raw.memTy, Raw.eng, Raw.bar, Raw.dstWin, Raw.capFmt, Sys2Proof.need]

theorem rdcnt (h : Hdr) (sel : BitVec 3) (d : Spec) : Statement (.rdcnt h sel d) := by
  intro _ hw
  refine decode_of_build rfl hw ((build_eng (o := 0x317#10) (by decide)).trans ?_)
  conv => lhs; whnf
  refine congrArg some ?_
  simp [Raw.ty, Raw.sat, Raw.var3, Raw.var4, Raw.sd, Raw.sa, Raw.sb, Raw.sc, Raw.se, Raw.sf, Raw.rndF, Raw.varF,
    Raw.rndC, Raw.scope, Raw.ord, Raw.pe, Raw.mem, Raw.memTy, Raw.eng, Raw.bar, Raw.dstWin, Raw.capFmt, Sys2Proof.need]

theorem hvlend (h : Hdr) (pd : BitVec 3) (m : EngArg) (e : Spec) : Statement (.hvlend h pd m e) := by
  intro _ hw
  refine decode_of_build rfl hw ((build_eng (o := 0x318#10) (by decide)).trans ?_)
  conv => lhs; whnf
  refine congrArg some ?_
  simp [Raw.ty, Raw.sat, Raw.var3, Raw.var4, Raw.sd, Raw.sa, Raw.sb, Raw.sc, Raw.se, Raw.sf, Raw.rndF, Raw.varF,
    Raw.rndC, Raw.scope, Raw.ord, Raw.pe, Raw.mem, Raw.memTy, Raw.eng, Raw.bar, Raw.dstWin, Raw.capFmt, Sys2Proof.need]

theorem hvstat (h : Hdr) (d : Spec) : Statement (.hvstat h d) := by
  intro _ hw
  refine decode_of_build rfl hw ((build_eng (o := 0x319#10) (by decide)).trans ?_)
  conv => lhs; whnf
  refine congrArg some ?_
  simp [Raw.ty, Raw.sat, Raw.var3, Raw.var4, Raw.sd, Raw.sa, Raw.sb, Raw.sc, Raw.se, Raw.sf, Raw.rndF, Raw.varF,
    Raw.rndC, Raw.scope, Raw.ord, Raw.pe, Raw.mem, Raw.memTy, Raw.eng, Raw.bar, Raw.dstWin, Raw.capFmt, Sys2Proof.need]

theorem xret (h : Hdr) : Statement (.xret h) := by
  intro _ hw
  refine decode_of_build rfl hw ((build_sys (o := 0x381#10) (by decide)).trans ?_)
  conv => lhs; whnf
  refine congrArg some ?_
  simp [Raw.ty, Raw.sat, Raw.var3, Raw.var4, Raw.sd, Raw.sa, Raw.sb, Raw.sc, Raw.se, Raw.sf, Raw.rndF, Raw.varF,
    Raw.rndC, Raw.scope, Raw.ord, Raw.pe, Raw.mem, Raw.memTy, Raw.eng, Raw.bar, Raw.dstWin, Raw.capFmt, Sys2Proof.need]

theorem mfx (h : Hdr) (reg : BitVec 12) (d : Spec) : Statement (.mfx h reg d) := by
  intro _ hw
  refine decode_of_build rfl hw ((build_sys (o := 0x382#10) (by decide)).trans ?_)
  conv => lhs; whnf
  refine congrArg some ?_
  simp [Raw.ty, Raw.sat, Raw.var3, Raw.var4, Raw.sd, Raw.sa, Raw.sb, Raw.sc, Raw.se, Raw.sf, Raw.rndF, Raw.varF,
    Raw.rndC, Raw.scope, Raw.ord, Raw.pe, Raw.mem, Raw.memTy, Raw.eng, Raw.bar, Raw.dstWin, Raw.capFmt, Sys2Proof.need]

theorem mtx (h : Hdr) (reg : BitVec 12) (a : Spec) : Statement (.mtx h reg a) := by
  intro _ hw
  refine decode_of_build rfl hw ((build_sys (o := 0x383#10) (by decide)).trans ?_)
  conv => lhs; whnf
  refine congrArg some ?_
  simp [Raw.ty, Raw.sat, Raw.var3, Raw.var4, Raw.sd, Raw.sa, Raw.sb, Raw.sc, Raw.se, Raw.sf, Raw.rndF, Raw.varF,
    Raw.rndC, Raw.scope, Raw.ord, Raw.pe, Raw.mem, Raw.memTy, Raw.eng, Raw.bar, Raw.dstWin, Raw.capFmt, Sys2Proof.need]

theorem tlbinv (h : Hdr) (ctx : Bool) (a b c : Spec) : Statement (.tlbinv h ctx a b c) := by
  intro _ hw
  refine decode_of_build rfl hw ((build_sys (o := 0x384#10) (by decide)).trans ?_)
  conv => lhs; whnf
  refine congrArg some ?_
  simp [Raw.ty, Raw.sat, Raw.var3, Raw.var4, Raw.sd, Raw.sa, Raw.sb, Raw.sc, Raw.se, Raw.sf, Raw.rndF, Raw.varF,
    Raw.rndC, Raw.scope, Raw.ord, Raw.pe, Raw.mem, Raw.memTy, Raw.eng, Raw.bar, Raw.dstWin, Raw.capFmt, Sys2Proof.need]

theorem caproot (h : Hdr) (d a : Spec) : Statement (.caproot h d a) := by
  intro _ hw
  refine decode_of_build rfl hw ((build_sys (o := 0x385#10) (by decide)).trans ?_)
  conv => lhs; whnf
  refine congrArg some ?_
  simp [Raw.ty, Raw.sat, Raw.var3, Raw.var4, Raw.sd, Raw.sa, Raw.sb, Raw.sc, Raw.se, Raw.sf, Raw.rndF, Raw.varF,
    Raw.rndC, Raw.scope, Raw.ord, Raw.pe, Raw.mem, Raw.memTy, Raw.eng, Raw.bar, Raw.dstWin, Raw.capFmt, Sys2Proof.need]

theorem ckpt (h : Hdr) : Statement (.ckpt h) := by
  intro _ hw
  refine decode_of_build rfl hw ((build_sys (o := 0x386#10) (by decide)).trans ?_)
  conv => lhs; whnf
  refine congrArg some ?_
  simp [Raw.ty, Raw.sat, Raw.var3, Raw.var4, Raw.sd, Raw.sa, Raw.sb, Raw.sc, Raw.se, Raw.sf, Raw.rndF, Raw.varF,
    Raw.rndC, Raw.scope, Raw.ord, Raw.pe, Raw.mem, Raw.memTy, Raw.eng, Raw.bar, Raw.dstWin, Raw.capFmt, Sys2Proof.need]

theorem halt (h : Hdr) : Statement (.halt h) := by
  intro _ hw
  refine decode_of_build rfl hw ((build_sys (o := 0x387#10) (by decide)).trans ?_)
  conv => lhs; whnf
  refine congrArg some ?_
  simp [Raw.ty, Raw.sat, Raw.var3, Raw.var4, Raw.sd, Raw.sa, Raw.sb, Raw.sc, Raw.se, Raw.sf, Raw.rndF, Raw.varF,
    Raw.rndC, Raw.scope, Raw.ord, Raw.pe, Raw.mem, Raw.memTy, Raw.eng, Raw.bar, Raw.dstWin, Raw.capFmt, Sys2Proof.need]

theorem crossLaneComplete (w : WarpKey) (x : VA) : Statement (.crossLaneComplete w x) := by
  intro h0; cases h0

theorem joinRelease (w : WarpKey) (x : VA) : Statement (.joinRelease w x) := by
  intro h0; cases h0

theorem yieldExpiry (w : WarpKey) (pid : Nat) : Statement (.yieldExpiry w pid) := by
  intro h0; cases h0

theorem sleeptRelease (w : WarpKey) (pid : Nat) : Statement (.sleeptRelease w pid) := by
  intro h0; cases h0

theorem waitmemSatisfied (w : WarpKey) (entry : Nat) : Statement (.waitmemSatisfied w entry) := by
  intro h0; cases h0

theorem waitmemPoll (w : WarpKey) (entry : Nat) : Statement (.waitmemPoll w entry) := by
  intro h0; cases h0

theorem storePerform (w : WarpKey) (entry : Nat) (lns : Mask) : Statement (.storePerform w entry lns) := by
  intro h0; cases h0

theorem atomicPerform (w : WarpKey) (entry : Nat) (lns : Mask) : Statement (.atomicPerform w entry lns) := by
  intro h0; cases h0

theorem loadReturn (w : WarpKey) (entry : Nat) : Statement (.loadReturn w entry) := by
  intro h0; cases h0

theorem storeAcknowledge (w : WarpKey) (entry : Nat) : Statement (.storeAcknowledge w entry) := by
  intro h0; cases h0

theorem remoteLoadBlock (w : WarpKey) (pid : Nat) : Statement (.remoteLoadBlock w pid) := by
  intro h0; cases h0

theorem pageWalk (part : Nat) (ctx : BitVec 6) (va : VA) (write : Bool) : Statement (.pageWalk part ctx va write) := by
  intro h0; cases h0

theorem targetGatedRetry (w : WarpKey) (entry : Nat) : Statement (.targetGatedRetry w entry) := by
  intro h0; cases h0

theorem engineOpStart (op : Nat) (eng : Bool) : Statement (.engineOpStart op eng) := by
  intro h0; cases h0

theorem matrixGrant (cluster : BitVec 5) : Statement (.matrixGrant cluster) := by
  intro h0; cases h0

theorem collectiveContribution (part : Nat) (set : BitVec 8) (k : Nat) (pos : BitVec 8) (cols : BitVec 16) (data : List Word) : Statement (.collectiveContribution part set k pos cols data) := by
  intro h0; cases h0

theorem engineOpComplete (op : Nat) : Statement (.engineOpComplete op) := by
  intro h0; cases h0

theorem barwaitRelease (w : WarpKey) (pid : Nat) : Statement (.barwaitRelease w pid) := by
  intro h0; cases h0

theorem rnggetWake (w : WarpKey) (pid : Nat) : Statement (.rnggetWake w pid) := by
  intro h0; cases h0

theorem waitcntRelease (w : WarpKey) (pid : Nat) : Statement (.waitcntRelease w pid) := by
  intro h0; cases h0

theorem tbarComplete (task team : Nat) : Statement (.tbarComplete task team) := by
  intro h0; cases h0

theorem evwaitRelease (w : WarpKey) (pid : Nat) : Statement (.evwaitRelease w pid) := by
  intro h0; cases h0

theorem runFetch (w : WarpKey) (pid : Nat) : Statement (.runFetch w pid) := by
  intro h0; cases h0

theorem turnArbitration (cluster : BitVec 5) (core : BitVec 7) : Statement (.turnArbitration cluster core) := by
  intro h0; cases h0

theorem warpLeaveSlot (w : WarpKey) : Statement (.warpLeaveSlot w) := by
  intro h0; cases h0

theorem eventRecordApply (cluster : BitVec 5) : Statement (.eventRecordApply cluster) := by
  intro h0; cases h0

theorem schedulingRound (part : Nat) : Statement (.schedulingRound part) := by
  intro h0; cases h0

theorem evictionSaveComplete (task : Nat) : Statement (.evictionSaveComplete task) := by
  intro h0; cases h0

theorem harvestPlacement (cluster : BitVec 5) (core : BitVec 7) : Statement (.harvestPlacement cluster core) := by
  intro h0; cases h0

theorem harvestRevocation (cluster : BitVec 5) (core : BitVec 7) : Statement (.harvestRevocation cluster core) := by
  intro h0; cases h0

theorem checkpointStart (part : Nat) : Statement (.checkpointStart part) := by
  intro h0; cases h0

theorem checkpointCommit (part : Nat) : Statement (.checkpointCommit part) := by
  intro h0; cases h0

theorem checkpointFailure (part : Nat) : Statement (.checkpointFailure part) := by
  intro h0; cases h0

theorem sliceEndRollback (part : Nat) (nextPart : Option Nat) (lost : List Nat) : Statement (.sliceEndRollback part nextPart lost) := by
  intro h0; cases h0

theorem powerMeasurement (watts : Nat) (meters : List Meter) : Statement (.powerMeasurement watts meters) := by
  intro h0; cases h0

theorem railChange (cluster : BitVec 5) : Statement (.railChange cluster) := by
  intro h0; cases h0

theorem thermalLimit (die : Bool) : Statement (.thermalLimit die) := by
  intro h0; cases h0

theorem thermalStop (die : Bool) : Statement (.thermalStop die) := by
  intro h0; cases h0

theorem clusterRetirement (cluster : BitVec 5) : Statement (.clusterRetirement cluster) := by
  intro h0; cases h0

theorem channelRetirement (ch : BitVec 8) : Statement (.channelRetirement ch) := by
  intro h0; cases h0

theorem timeCorrection (src : TimeSrc) (offset : Int) (peers : TimeExchange) : Statement (.timeCorrection src offset peers) := by
  intro h0; cases h0

theorem timeSourceLost (src : TimeSrc) : Statement (.timeSourceLost src) := by
  intro h0; cases h0

theorem scrubUnit (unit : Nat) : Statement (.scrubUnit unit) := by
  intro h0; cases h0

theorem powerUp : Statement .powerUp := by
  intro h0; cases h0

theorem reset : Statement .reset := by
  intro h0; cases h0

theorem ident : Statement .ident := by
  intro h0; cases h0

theorem settime (v : DWord) : Statement (.settime v) := by
  intro h0; cases h0

theorem loadseg (host : DWord) (off len : Nat) : Statement (.loadseg host off len) := by
  intro h0; cases h0

theorem verify (len : Nat) : Statement (.verify len) := by
  intro h0; cases h0

theorem start : Statement .start := by
  intro h0; cases h0

theorem attest (nonce : BitVec 384) : Statement (.attest nonce) := by
  intro h0; cases h0

theorem partitionCreate (a : PartArg) : Statement (.partitionCreate a) := by
  intro h0; cases h0

theorem partitionDestroy (part : Nat) : Statement (.partitionDestroy part) := by
  intro h0; cases h0

theorem memoryRelease (part : Nat) (units : List Nat) : Statement (.memoryRelease part units) := by
  intro h0; cases h0

theorem ctxset (part : Nat) (ctx : Nat) (root : DWord) (pinq : Nat) (hentry : DWord) : Statement (.ctxset part ctx root pinq hentry) := by
  intro h0; cases h0

theorem ctxdel (part : Nat) (ctx : Nat) : Statement (.ctxdel part ctx) := by
  intro h0; cases h0

theorem frontEndRangeSet (fe : BitVec 4) (lo hi : BitVec 5) : Statement (.frontEndRangeSet fe lo hi) := by
  intro h0; cases h0

theorem traceBufferSet (part : Nat) (base : DWord) (size : Nat) (mask : BitVec 16) : Statement (.traceBufferSet part base size mask) := by
  intro h0; cases h0

theorem debugModeSet (part : Nat) (on : Bool) : Statement (.debugModeSet part on) := by
  intro h0; cases h0

theorem debugRelease (w : WarpKey) (xpc : Option DWord) (xstat : Option Word) (ks : List (BitVec 3 × Word)) : Statement (.debugRelease w xpc xstat ks) := by
  intro h0; cases h0

theorem railVote (part : Nat) (cluster : BitVec 5) (r : Rail) : Statement (.railVote part cluster r) := by
  intro h0; cases h0

theorem feNop (fe : BitVec 4) : Statement (.feNop fe) := by
  intro h0; cases h0

theorem launch (fe : BitVec 4) : Statement (.launch fe) := by
  intro h0; cases h0

theorem grant (fe : BitVec 4) : Statement (.grant fe) := by
  intro h0; cases h0

theorem feEvsig (fe : BitVec 4) : Statement (.feEvsig fe) := by
  intro h0; cases h0

theorem evreset (fe : BitVec 4) : Statement (.evreset fe) := by
  intro h0; cases h0

theorem cntread (fe : BitVec 4) : Statement (.cntread fe) := by
  intro h0; cases h0

theorem drain (fe : BitVec 4) : Statement (.drain fe) := by
  intro h0; cases h0

theorem xtload (fe : BitVec 4) : Statement (.xtload fe) := by
  intro h0; cases h0

theorem tailWrite (fe : FnBlock) (v : Word) : Statement (.tailWrite fe v) := by
  intro h0; cases h0

theorem qenWrite (fe : FnBlock) (v : Word) : Statement (.qenWrite fe v) := by
  intro h0; cases h0

theorem cheadWrite (fe : FnBlock) (v : Word) : Statement (.cheadWrite fe v) := by
  intro h0; cases h0

theorem pwrcapWrite (v : FnWord) : Statement (.pwrcapWrite v) := by
  intro h0; cases h0

theorem registerWrite (r : HostReg) (v : DWord) : Statement (.registerWrite r v) := by
  intro h0; cases h0

theorem hostBar2Access (fn : Fn) (pa : Nat) (bytes : Option (List Byte)) (len : Nat) : Statement (.hostBar2Access fn pa bytes len) := by
  intro h0; cases h0

theorem loadServed (w : WarpKey) (entry : Nat) (lns : Mask) : Statement (.loadServed w entry lns) := by
  intro h0; cases h0

theorem releaseWaitElapsed (w : WarpKey) (entry : Nat) : Statement (.releaseWaitElapsed w entry) := by
  intro h0; cases h0

theorem powerGate (unit : Gateable) (gate : Bool) : Statement (.powerGate unit gate) := by
  intro h0; cases h0

theorem fabricPortDown (port : Nat) (down : Bool) : Statement (.fabricPortDown port down) := by
  intro h0; cases h0

theorem belowJunctionLimit (die : Bool) : Statement (.belowJunctionLimit die) := by
  intro h0; cases h0

theorem powerRemoved : Statement .powerRemoved := by
  intro h0; cases h0

end Laws.Encoded

end Sys2Proof
end

