-- ==== Sys2Proof/Tests/Slice0.lean ====
section
/-! SUPPORT. The model's own tests: ill-formed terms that the checks refuse, words that the spec writes out or that are
written from its encoding tables, single steps on small states with results taken from the spec's examples, and for each
statement states that meet its hypotheses. -/

set_option linter.unusedVariables false
set_option Elab.async false

namespace Sys2Proof.Tests

open Sys2Proof Sys2Proof.Machine

/-! ## Ill-formed terms (13 R266-R285, 22 R423) -/

/-- A header with no guard and nothing else. -/
def hd : Hdr := ⟨⟨false, 7⟩, ⟨false, 7⟩, 0, false, false, 0, 0⟩

theorem test_wf_iadd : (Instr.iadd hd .b32 false (.v 4) (.v 5) (.v 6)).wf = true := by decide +kernel
/-- SAT stands with .i32 and .n32 only (14 R290). -/
theorem test_ill_modifier : (Instr.iadd hd .b32 true (.v 4) (.v 5) (.v 6)).wf = false := by decide +kernel
/-- A TYPE code that the instruction does not accept (14 R290). -/
theorem test_ill_type : (Instr.iadd hd .f32 false (.v 4) (.v 5) (.v 6)).wf = false := by decide +kernel
/-- A pair begins at an even register (07 R153). -/
theorem test_ill_pair : (Instr.iadd64 hd .b64 (.v 5) (.v 6) (.v 8)).wf = false := by decide +kernel
/-- A quad begins at a register divisible by four (13 R266). -/
theorem test_ill_quad : (Instr.capperm hd (.v 6) (.v 8) 1).wf = false := by decide +kernel
/-- lid is no destination (13 R267). -/
theorem test_ill_destination : (Instr.iadd hd .b32 false .lid (.v 5) (.v 6)).wf = false := by decide +kernel
/-- A cache hint code above 5 is reserved (13 R275). -/
theorem test_ill_hint : (Instr.ld { hd with ch := 6 } .device .acq false .b32 (.v 8) ⟨.v 4, .z, 0, .glob⟩ 0).wf = false := by decide +kernel
/-- A hint where the instruction takes none (13 R275). -/
theorem test_ill_hint_elsewhere : (Instr.iadd { hd with ch := 1 } .b32 false (.v 4) (.v 5) (.v 6)).wf = false := by decide +kernel
/-- A hold bit for a position that reads no source (13 R285). -/
theorem test_ill_hold : (Instr.not { hd with hold := 1 } (.v 4) (.v 5)).wf = false := by decide +kernel
/-- A bit that no field of NOP holds (14 R322, 22 R423). -/
theorem test_ill_unused : decode (encode (.nop hd) ||| 0x100000#96) = .error .unused := by decide +kernel
/-- An OPC that stands for no instruction (13 R283). -/
theorem test_ill_opc : decode (0x3FF#10 ++ 0#66 ++ 0x77000#20) = .error .opc := by decide +kernel
/-- The zero word is no instruction. -/
theorem test_ill_zero : decodeTableWord 96 0 = none := by decide +kernel

/-! ## Words (13 R263-R286): OPC, MOD, D, A, B, C or IMM34, guards, STALL, YLD, BND, HOLD, CH -/

/-- `IADD.i32` with saturation: OPC 0x001, TYPE 1 and SAT in MOD. -/
theorem test_word_iadd : decode (0x001#10 ++ 0x18#8 ++ 0x04#8 ++ 0x05#8 ++ 0x06#8 ++ 0#34 ++ 0x77000#20)
    = .ok (.iadd hd .i32 true (.v 4) (.v 5) (.v 6)) := by decide +kernel
/-- `ICMP.lt.n32 p1, v32, v33 | s=3` (14 R297). -/
theorem test_word_icmp : decode 0x074880480840000000077300#96 = .ok (.icmp { hd with stall := 3 } .lt .n32 1 (.v 32) (.v 33)) := by
  decide +kernel
/-- `FMUL.f32.rz v16, v17, 0x3F00_0000 | s=1` (15 R329). -/
theorem test_word_fmul : decode 0x30C804044003F00000077100#96 = .ok (.fmulImm { hd with stall := 1 } .rz (.v 16) (.v 17) 0x3F000000) := by
  decide +kernel
/-- `F2F8.e4m3.sat` (15 R340). -/
theorem test_word_f2f8 : decode 0x42C20B0A0A40000A80077000#96 = .ok (.f2f8E4m3 hd true .rn (.v 44) (.v 40) (.v 41) (.v 42)) := by
  decide +kernel
/-- `SHFL.swap` with a result predicate (14 R305). -/
theorem test_word_shfl : decode 0x6100CA4A0A80000AC0B77040#96
    = .ok (.shfl { hd with bnd := true } .b32 .swap (.v 41) (some 3) (.v 40) (.v 42) (.v 43)) := by decide +kernel
/-- `(p1) BRA loop | b`, four instructions back (14 R297). -/
theorem test_word_bra : decode 0x80400000003FFFFFFFC17040#96 = .ok (.bra { hd with g1 := ⟨false, 1⟩, bnd := true } 0x3FFFFFFFC) := by
  decide +kernel
/-- `LD.glob.acq.device.bcast.b32 v52, [c4]` (13 R268). -/
theorem test_word_ld : decode 0xA05CCD043C00000004077040#96
    = .ok (.ld { hd with bnd := true } .device .acq true .b32 (.v 52) ⟨.v 16, .z, 0, .glob⟩ 0) := by decide +kernel
/-- `ATOM.glob.acqrel.device.cas.b64` (16 R351). -/
theorem test_word_atom : decode 0xA9DD8A030880000B04377040#96
    = .ok (.atom { hd with bnd := true } .device .acqrel .cas .b64 (.v 40) ⟨.v 12, .v 34, 0, .glob⟩ 0 (.v 44)) := by decide +kernel
/-- `MFX k0, 0x000 | s=3` (21 R413). -/
theorem test_word_mfx : decode 0xE08020000000000000077300#96 = .ok (.mfx { hd with stall := 3 } 0 (.k 0)) := by decide +kernel
/-- `XRET | b` (21 R416). -/
theorem test_word_xret : decode 0xE04000000000000000077040#96 = .ok (.xret { hd with bnd := true }) := by decide +kernel
/-- IADD with SAT and .b32 fails the test of its modifier, DETAIL 2 (22 R423). -/
theorem test_word_illegal : decode 0x004201014180000000077000#96 = .error .mod ∧ IllegalWord.mod.detail = 2 := by decide +kernel
/-- The bytes of XRET in memory (21 R416). -/
theorem test_bytes_xret : Insn.toBytes 0xE04000000000000000077040#96
    = [0x40, 0x70, 0x07, 0x00, 0x00, 0x00, 0x00, 0x00, 0x00, 0x00, 0x40, 0xE0] := by decide +kernel
/-- Every instruction that carries a word reads back from it (13 R262-R286). -/
theorem test_family_encoded : (Instr.nop hd).encoded = true ∧ decode (encode (.nop hd)) = .ok (.nop hd) := by decide +kernel

/-! ## The small state -/

/-- The warp. -/
def key : WarpKey := ⟨0, 0, 0⟩
/-- A path of all lanes at 0x10000. -/
def path (frame : Option Frame) : Path :=
  { pid := 0, lns := Mask.all, pc := 0x10000, run := [], begun := false, runId := 0, behind := [], holds := [], wait := .none
    frame := frame, retry := none, since := 0, remote := false, stall := 0 }
/-- A frame of a handler. -/
def frame : Frame := { id := 50, xpc := 0x20000, xaddr := 0, xcause := 0x20, xstat := 0, xmask := Mask.all, ks := Vector.replicate 8 0 }
/-- A uniform register. -/
def reg (x : Word) (tagged : Bool) : Reg :=
  { val := .uni x, tags := if tagged then Mask.all else 0, spl := false, line := 0, used := 0, dirty := false }
/-- The registers of a quad. -/
def quad (q : CapBits) : List Reg :=
  [reg (q.extractLsb' 0 32) true, reg (q.extractLsb' 32 32) true, reg (q.extractLsb' 64 32) true, reg (q.extractLsb' 96 32) true]
/-- c1: 4 KiB of a window with every right; c2: the same of global memory; c3: a sealed peer set; then v16 to v27. -/
def regs (xs : List Word) : Vector Reg 128 :=
  ⟨⟨((List.replicate 4 Reg.zero ++ quad (capMake 0 0 0 0x1000 0x3F 0) ++ quad (capMake 0x1000 0 0 0x1000 0x7F 0)
      ++ quad (capMake 0x1000 0 0 0x200 0xC1 5) ++ xs.map (fun x => reg x false)) ++ List.replicate 112 Reg.zero).take 128⟩, by simp [quad]⟩
/-- The warp with a path, a role and the registers from v16 on. -/
def warp (p : Path) (role : BitVec 2) (xs : List Word) : Warp :=
  { key := key, part := 0, place := some ⟨⟨0, 0⟩, 0⟩, role := role, nregs := 128, wres := 64, plim := 4, nback := 0, pbase := 0
    regs := regs xs, preds := Vector.replicate 7 0, xflags := 0, flying := [], seen := [], wspill := 0, cntCopy := 0, cntGather := 0, cntMma := 0, cntColl := 0, hzn := 0
    exited := 0, paths := [p], defers := [], imp := none, queue := [], clock := 1, ended := false, harvest := false
    parked := false, revs := 0, lentMap := false }
/-- The partition's quotas: cluster 0, unit 0, channel 0. -/
def arg (sliced : Bool) : PartArg :=
  { sliced := sliced, clusters := 1, l2col0 := 1, l2col1 := 1, chcol0 := 2, chcol1 := 2, units := [0], channels := 1, floor := 0
    ports := 0, fes := [⟨0, 0, 0, 0⟩], vfs := [], lloc := some 0, lrem := some 0, flease := some 0, fskew := some 0, ckint := some 100, slice := 1000
    pool := 0, poolLen := 0, overflow := 2 ^ 24 }
/-- The partition, with a handler at 0x40000 and its first GiB mapped onto its first unit. -/
def part (debug : Bool) : Part :=
  { Part.create 0 (arg false) [0] (BitVec.allOnes 32) (BitVec.allOnes 256) with
    debug := debug, windows := [(0, ⟨0x00080000, 0x00080000⟩)], ctxs := [(0, { root := 0x2000, pinq := 0, hentry := 0x40000, fills := 0, wbacks := 0 })]
    tlb := [{ ctx := 0, base := 0, size := 2 ^ 30, walk := .page 0 (2 ^ 30) true true true, leaf := 0x2000, dset := true }] }
/-- The crew's task, with windows of 4 KiB. -/
def task : Task :=
  { Task.queued 0 0 1 0 (TaskRec.of 0) (KDesc.of 0) with
    phase := .running, shrLen := 4096, scrLen := 4096, scr := [.empty], tslot := 2, cores := [0], admseq := 1 }
/-- The state. -/
def stateOf (w : Warp) (debug : Bool) : State :=
  { State.reset with
    boot := .run, fresh := 100, gtime := 5000, cur := some (key, 0), warps := [(key, w)], parts := [(0, part debug)], tasks := [(0, task)]
    jobs := [(1, { id := 1, part := 0, fe := 0, ctx := 0, seq := 7, irq := false, status := 0, err := none, hzn := 0 })]
    cores := [(⟨0, 0⟩, { Core.fresh with turn := some ⟨key, 0, none, false⟩ })]
    clusters := [(0, Cluster.fresh)] }
/-- The context in which an instruction issues. -/
def ctxOf (w : Warp) (p : Path) (h : Hdr) : Ctx :=
  { k := key, pid := 0, w := w, rd := w, p := p, x := 0x10000, h := h, act := Mask.all, wr := Mask.all, priv := p.frame.isSome }

/-- Every lane writes: the instruction after the step, by its warp. -/
def after (i : Instr) (s : State) : Option Warp := match exec i s with | .next t => t.warp key | _ => none
/-- A register's word in a lane after the step. -/
def got (i : Instr) (s : State) (n : Fin 128) (l : Lane) : Option Word := (after i s).map (fun w => w.regs[n].val.at l)
/-- The user state with v16 on. -/
def su (xs : List Word) : State := stateOf (warp (path none) 0 xs) false

/-! ## Single steps: results from the spec's examples -/

/-- BFX.i32 of 0x0000_0F80 by 0x0000_0804 (14 R293). -/
theorem test_bfx_sign : got (.bfx hd .i32 (.v 30) (.v 16) (.v 17)) (su [0x0F80, 0x0804]) 30 0 = some 0xFFFFFFF8 := by decide +kernel
theorem test_bfx_plain : got (.bfx hd .i32 (.v 30) (.v 16) (.v 17)) (su [0xF0A0, 0x0804]) 30 0 = some 0x0000000A := by decide +kernel
/-- BSEL with selector 0x0000_0443 reverses the bytes; 0x0008_C420 extends the sign of byte 1 (14 R294). -/
theorem test_bsel_reverse : got (.bselImm hd (.v 30) (.v 16) (.v 17) 0x00443) (su [0x11223344, 0]) 30 0 = some 0x44332211 := by decide +kernel
theorem test_bsel_sign : got (.bselImm hd (.v 30) (.v 16) (.v 17) 0x8C420) (su [0x11228344, 0]) 30 0 = some 0xFFFF8344 := by decide +kernel
/-- A count of 32 gives 0 (14 R292). -/
theorem test_shl_all : got (.shl hd (.v 30) (.v 16) (.v 17)) (su [5, 32]) 30 0 = some 0 := by decide +kernel
theorem test_sar_all : got (.sar hd (.v 30) (.v 16) (.v 17)) (su [0x80000000, 77]) 30 0 = some 0xFFFFFFFF := by decide +kernel
/-- The exact sum clamped to the range of .i32 (14 R290). -/
theorem test_iadd_clamps : got (.iadd hd .i32 true (.v 30) (.v 16) (.v 17)) (su [0x7FFFFFFF, 1]) 30 0 = some 0x7FFFFFFF := by decide +kernel
theorem test_iadd_wraps : got (.iadd hd .b32 false (.v 30) (.v 16) (.v 17)) (su [0xFFFFFFFF, 1]) 30 31 = some 0 := by decide +kernel
/-- IABS of the most negative number (14 R290). -/
theorem test_iabs_least : got (.iabs hd true (.v 30) (.v 16)) (su [0x80000000]) 30 0 = some 0x7FFFFFFF := by decide +kernel
/-- The destination is also a source (13 R266). -/
theorem test_isub_same : got (.isub hd .b32 false (.v 16) (.v 17) (.v 16)) (su [3, 10]) 16 0 = some 7 := by decide +kernel
/-- IMADW: the exact 64-bit product of signed words (14 R291). -/
theorem test_imadw_signed : got (.imadw hd .i32 (.v 30) (.v 16) (.v 17) .z) (su [0xFFFFFFFF, 2]) 31 0 = some 0xFFFFFFFF := by decide +kernel
/-- lid in lane 9; the affine sum of two uniform values is uniform (02 R41). -/
theorem test_mov_lid : got (.mov hd .b32 (.v 30) .lid) (su []) 30 9 = some 9 := by decide +kernel
/-- 1.0 / 2 under FMUL.rz by 0x3F00_0000. -/
theorem test_fmul_half : got (.fmulImm hd .rz (.v 30) (.v 16) 0x3F000000) (su [0x3F800000]) 30 0 = some 0x3F000000 := by decide +kernel
/-- FADD of infinities of both signs is the canonical NaN, with INVALID (07 R158). -/
theorem test_fadd_nan : (after (.fadd hd .rn (.v 30) (.v 16) (.v 17)) (su [0x7F800000, 0xFF800000])).map (fun w => (w.regs[30].val.at 0, w.raised))
    = some (0x7FC00000, 0x10) := by decide +kernel
/-- +0 lies above −0 for FMIN (15 R330). -/
theorem test_fmin_zero : got (.fmin hd false (.v 30) (.v 16) (.v 17)) (su [0, 0x80000000]) 30 0 = some 0x80000000 := by decide +kernel
/-- FRCP of zero: infinity, with DIVZERO (15 R342). -/
theorem test_frcp_zero : (after (.frcp hd (.v 30) (.v 16)) (su [0])).map (fun w => (w.regs[30].val.at 0, w.raised)) = some (0x7F800000, 0x08) := by
  decide +kernel
/-- F2I of a NaN (07 R161). -/
theorem test_f2i_nan : (after (.f2i hd .i32 .rz (.v 30) (.v 16)) (su [0x7FC00000])).map (·.raised) = some 0x10 := by decide +kernel
/-- CAPTST asks for every right named and for the extent (16 R362). -/
theorem test_captst_edge : (after (.captst hd 0x3F 2 (.v 4) (.v 16) (.v 17)) (su [0xFFF, 1])).map (fun w => w.preds[2]) = some 0xFFFFFFFF := by
  decide +kernel
theorem test_captst_beyond : (after (.captst hd 0x3F 2 (.v 4) (.v 16) (.v 17)) (su [0xFFF, 2])).map (fun w => w.preds[2]) = some 0 := by
  decide +kernel
/-- CAPNAR narrows the length and keeps the tag (16 R359). -/
theorem test_capnar : got (.capnar hd none none false (.v 32) (some 1) (.v 4) (.v 16) (.v 17)) (su [0x100, 0x80]) 34 0 = some 0x80 := by decide +kernel
/-- TRAP enters the handler with cause 0x20, to resume at X + 12 (14 R323). -/
theorem test_trap : (after (.trap hd 5) (su [])).map (fun w => w.paths.map (fun p => (p.pc, p.frame.map (fun f => (f.xpc, f.xcause, f.xstat)))))
    = some [(0x40000, some (0x1000C, 0x20, 5))] := by decide +kernel
/-- A privileged instruction of a user path traps with cause 0x02 (13 R284). -/
theorem test_privilege : (after (.mfx hd 0 (.v 30)) (su [])).map (fun w => w.paths.map (fun p => p.frame.map (·.xcause))) = some [some 0x02] := by
  decide +kernel
/-- MFX reads XPC into a pair (17 R390). -/
theorem test_mfx : (match exec (.mfx hd 0 (.v 30)) (stateOf (warp (path (some frame)) 0 []) false) with
    | .next t => (t.warp key).map (fun w => w.regs[30].val.at 0) | _ => none) = some 0x20000 := by decide +kernel
/-- A guard that holds in no lane: nothing but the pc (13 R270). -/
theorem test_guard_off : (after (.iadd { hd with g1 := ⟨true, 7⟩ } .b32 false (.v 30) (.v 16) (.v 17)) (su [1, 2])).map
    (fun w => (w.regs[30].val.at 0, w.paths.map (·.pc))) = some (0, [0x1000C]) := by decide +kernel
/-- EXIT of every lane ends the warp (14 R318). -/
theorem test_exit : (after (.exit hd) (su [])).map (fun w => (w.ended, w.exited, w.paths)) = some (true, Mask.all, []) := by decide +kernel
/-- BRA to the address offset after X + 12 (14 R316). -/
theorem test_bra : (after (.bra hd 2) (su [])).map (fun w => w.paths.map (·.pc)) = some [0x10024] := by decide +kernel

/-! ## States that meet the hypotheses of the statements -/

/-- An instruction issues in the ordinary way with its lines there: the checks beside the context. -/
def okIssue (s : State) (i : Instr) (always : Bool) (role : Option (BitVec 2)) (c : Ctx) : Bool :=
  (!i.forHandlers || c.priv) && (!s.debugOn c.w || (s.hazard c i).isNone) && c.wr != 0
    && (match role with | some r => r == c.w.role | none => true) && !i.barred && (!i.ownersOnly || !c.w.inHarvest) && i.within c.w.nregs && c.w.regs.toList.all (fun r => !r.spl)
    && decide (c.w.wuse + 7 < c.w.wres)

theorem okIssue_issues {s : State} {i : Instr} {always : Bool} {role : Option (BitVec 2)} {c : Ctx} (h : okIssue s i always role c = true)
    (a : s.issuing i.hdr always = some c := by rfl) : Issues s i always role c := by
  simp only [okIssue, Bool.and_eq_true, bne_iff_ne, ne_eq, decide_eq_true_eq] at h
  obtain ⟨⟨⟨⟨⟨⟨⟨⟨b, d⟩, e⟩, f⟩, m⟩, n⟩, g⟩, -⟩, -⟩ := h
  refine ⟨a, fun hp => ?_, fun hd => ?_, e, fun r hr => ?_, by simpa using m, fun ho => ?_, g⟩
  · simpa [hp] using b
  · simpa [hd] using d
  · subst hr; simpa using f
  · simpa [ho] using n

theorem okIssue_roomy {s : State} {i : Instr} {always : Bool} {role : Option (BitVec 2)} {c : Ctx} (h : okIssue s i always role c = true) :
    Roomy s i c := by
  simp only [okIssue, Bool.and_eq_true, decide_eq_true_eq, List.all_eq_true, Bool.not_eq_true'] at h
  obtain ⟨⟨-, a⟩, b⟩ := h
  exact ⟨fun n _ hn => a _ (by simp), fun j hj => .inl (by omega)⟩

/-- A triple whose second part is empty. -/
theorem noFaults {α β γ : Type} {x : α × List β × γ} (h : x.2.1 = []) : x = (x.1, [], x.2.2) := by
  obtain ⟨a, b, c⟩ := x; cases h; rfl

/-- The user's warp, its context; that of a role; that of a handler. -/
def wu (xs : List Word) : Warp := warp (path none) 0 xs
def cu (xs : List Word) : Ctx := ctxOf (wu xs) (path none) hd
def sr (role : BitVec 2) (xs : List Word) : State := stateOf (warp (path none) role xs) false
def cr (role : BitVec 2) (xs : List Word) : Ctx := ctxOf (warp (path none) role xs) (path none) hd
def sp (xs : List Word) : State := stateOf (warp (path (some frame)) 0 xs) false
def cp (xs : List Word) : Ctx := ctxOf (warp (path (some frame)) 0 xs) (path (some frame)) hd

theorem witness_IntegerArithmetic_sums : ∃ s i c d x, Issues s i false none c ∧ Roomy s i c ∧ sumRow s c i = some (d, x) :=
  have h : okIssue (su [0xFFFFFFFF, 1]) (.iadd hd .i32 true (.v 30) (.v 16) (.v 17)) false none (cu [0xFFFFFFFF, 1]) = true := by decide +kernel
  ⟨_, _, _, _, _, okIssue_issues h, okIssue_roomy h, rfl⟩
theorem witness_IntegerArithmetic_long : ∃ s i c d x, Issues s i false none c ∧ Roomy s i c ∧ longRow s c i = some (d, x) :=
  have h : okIssue (su [1, 2]) (.imadw hd .i32 (.v 126) (.v 16) (.v 17) .z) false none (cu [1, 2]) = true := by decide +kernel
  ⟨_, _, _, _, _, okIssue_issues h, okIssue_roomy h, rfl⟩
theorem witness_LogicAndFields_logic : ∃ s i c d x, Issues s i false none c ∧ Roomy s i c ∧ logicRow s c i = some (d, x) :=
  have h : okIssue (su [1, 32]) (.shl hd (.v 30) (.v 16) (.v 17)) false none (cu [1, 32]) = true := by decide +kernel
  ⟨_, _, _, _, _, okIssue_issues h, okIssue_roomy h, rfl⟩
theorem witness_LogicAndFields_fields : ∃ s i c d r, Issues s i false none c ∧ Roomy s i c ∧ bitsRow s c i = some (d, r) :=
  have h : okIssue (su [1, 0x2020]) (.bfx hd .i32 (.v 30) (.v 16) (.v 17)) false none (cu [1, 0x2020]) = true := by decide +kernel
  ⟨_, _, _, _, _, okIssue_issues h, okIssue_roomy h, rfl⟩
theorem witness_PredicateResults : ∃ s i c n f, Issues s i false none c ∧ Roomy s i c ∧ predRow s c i = some (n, f) :=
  have h : okIssue (su [1, 2]) (.icmp hd .lt .i32 7 (.v 16) (.v 17)) false none (cu [1, 2]) = true := by decide +kernel
  ⟨_, _, _, _, _, okIssue_issues h, okIssue_roomy h, rfl⟩
theorem witness_MovesAndAddresses : ∃ s i c d xs, Issues s i false none c ∧ Roomy s i c ∧ moveRow s c i = some (d, xs) :=
  have h : okIssue (su [1, 2]) (.mov hd .b64 (.v 30) (.v 16)) false none (cu [1, 2]) = true := by decide +kernel
  ⟨_, _, _, _, _, okIssue_issues h, okIssue_roomy h, rfl⟩
theorem witness_FloatArithmetic_values : ∃ s i c d x, Issues s i false none c ∧ Roomy s i c ∧ floatRow s c i = some (d, x) :=
  have h : okIssue (su [0x7F7FFFFF, 0x7F7FFFFF]) (.fadd hd .ru (.v 30) (.v 16) (.v 17)) false none (cu [0x7F7FFFFF, 0x7F7FFFFF]) = true := by
    decide +kernel
  ⟨_, _, _, _, _, okIssue_issues h, okIssue_roomy h, rfl⟩
theorem witness_FloatArithmetic_compare : ∃ s i c n f g, Issues s i false none c ∧ Roomy s i c ∧ fcmpRow s c i = some (n, f, g) :=
  have h : okIssue (su [0x7FC00000, 0]) (.fcmp hd .nan 0 (.v 16) (.v 17)) false none (cu [0x7FC00000, 0]) = true := by decide +kernel
  ⟨_, _, _, _, _, _, okIssue_issues h, okIssue_roomy h, rfl⟩
theorem witness_PackedArithmetic : ∃ s i c d x, Issues s i false none c ∧ Roomy s i c ∧ packedRow s c i = some (d, x) :=
  have h : okIssue (su [0x7BFF7BFF, 1]) (.hadd2 hd true .rn (.v 30) (.v 16) (.v 17)) false none (cu [0x7BFF7BFF, 1]) = true := by decide +kernel
  ⟨_, _, _, _, _, okIssue_issues h, okIssue_roomy h, rfl⟩
theorem witness_Conversions_toInteger : ∃ s i c f t r d a, Issues s i false none c ∧ Roomy s i c ∧ f2iRow i = some (f, t, r, d, a) :=
  have h : okIssue (su [0x5F000000]) (.f2i hd .i64 .rz (.v 30) (.v 16)) false none (cu [0x5F000000]) = true := by decide +kernel
  ⟨_, _, _, _, _, _, _, _, okIssue_issues h, okIssue_roomy h, rfl⟩
theorem witness_Conversions_others : ∃ s i c d x, Issues s i false none c ∧ Roomy s i c ∧ convertRow s c i = some (d, x) :=
  have h : okIssue (su [0x7F7FFFFF]) (.fcvt hd .f16 .rn (.v 30) (.v 16)) false none (cu [0x7F7FFFFF]) = true := by decide +kernel
  ⟨_, _, _, _, _, okIssue_issues h, okIssue_roomy h, rfl⟩
theorem witness_StochasticRounding_f2f8 : ∃ s i c f sat r d a b e, Issues s i false none c ∧ Roomy s i c ∧ f2f8Row i = some (f, sat, r, d, a, b, e) :=
  have h : okIssue (su [1, 2]) (.f2f8E4m3 hd true .rs (.v 30) (.v 16) (.v 17) .z) false none (cu [1, 2]) = true := by decide +kernel
  ⟨_, _, _, _, _, _, _, _, _, _, okIssue_issues h, okIssue_roomy h, rfl⟩
theorem witness_StochasticRounding_fcvt : ∃ (s : State) (i : Instr) (c : Ctx) (f : FFmt) (t : Ty) (d a : Spec), Issues s i false none c ∧ Roomy s i c ∧
    ((∃ h, i = .fcvt h t .rs d a ∧ f = .f32) ∨ (∃ h, i = .fcvtFh h t .rs d a ∧ f = .f16) ∨ (∃ h, i = .fcvtFb h t .rs d a ∧ f = .bf16)) :=
  have h : okIssue (su [1]) (.fcvt hd .f16 .rs (.v 30) (.v 16)) false none (cu [1]) = true := by decide +kernel
  ⟨_, _, _, _, _, _, _, okIssue_issues h, okIssue_roomy h, .inl ⟨_, rfl, rfl⟩⟩
/-- A special function of v16 can issue, and the tables give its value in lane 0. -/
def SpecialMet (i : Instr) : Prop := ∃ s c d x v, Issues s i false none c ∧ Roomy s i c ∧ specialRow s c i = some (d, x) ∧
  specialEntry i (s.word c .a (.v 16) 0) = some v
theorem specialMet (a : Word) (i : Instr) (d : Spec) (x : Lane → FVal) (v : FVal) (h : okIssue (su [a]) i false none (cu [a]) = true)
    (hi : (su [a]).issuing i.hdr false = some (cu [a])) (hr : specialRow (su [a]) (cu [a]) i = some (d, x))
    (hv : specialEntry i ((su [a]).word (cu [a]) .a (.v 16) 0) = some v) : SpecialMet i :=
  ⟨_, _, _, _, _, okIssue_issues h hi, okIssue_roomy h, hr, hv⟩
/-- 1/2 = 0.5; 1/√−0 = −∞; √4 = 2; 2^3 = 8; log2 8 = 3; sin of a magnitude of 2^22; cos 0 = 1; tanh of −∞ (07 R163, R164). -/
theorem witness_SpecialFunctions_recip : SpecialMet (.frcp hd (.v 30) (.v 16)) ∧ SpecialMet (.frsq hd (.v 30) (.v 16)) :=
  ⟨specialMet 0x40000000 _ _ _ (0x3F000000, 0) (by decide +kernel) rfl rfl (by decide +kernel),
    specialMet 0x80000000 _ _ _ (0xFF800000, XFlags.divzero) (by decide +kernel) rfl rfl (by decide +kernel)⟩
theorem witness_SpecialFunctions_root : SpecialMet (.fsqrt hd (.v 30) (.v 16)) ∧ SpecialMet (.fexp2 hd (.v 30) (.v 16)) :=
  ⟨specialMet 0x40800000 _ _ _ (0x40000000, 0) (by decide +kernel) rfl rfl (by decide +kernel),
    specialMet 0x40400000 _ _ _ (0x41000000, 0) (by decide +kernel) rfl rfl (by decide +kernel)⟩
theorem witness_SpecialFunctions_log : SpecialMet (.flog2 hd (.v 30) (.v 16)) ∧ SpecialMet (.fsin hd (.v 30) (.v 16)) :=
  ⟨specialMet 0x41000000 _ _ _ (0x40400000, 0) (by decide +kernel) rfl rfl (by decide +kernel),
    specialMet 0x4A800000 _ _ _ (0x7FC00000, XFlags.invalid) (by decide +kernel) rfl rfl (by decide +kernel)⟩
theorem witness_SpecialFunctions_cos : SpecialMet (.fcos hd (.v 30) (.v 16)) ∧ SpecialMet (.ftanh hd (.v 30) (.v 16)) :=
  ⟨specialMet 0 _ _ _ (0x3F800000, 0) (by decide +kernel) rfl rfl (by decide +kernel),
    specialMet 0xFF800000 _ _ _ (0xBF800000, 0) (by decide +kernel) rfl rfl (by decide +kernel)⟩

/-- A trap can be taken by the user's path. -/
theorem canTrap (xs : List Word) (x : DWord) (h : x.toNat % 4 = 0 ∧ x.toNat < 2 ^ 57) (debug : Bool)
    (hf : ∀ pl, (wu xs).place = some pl → (stateOf (wu xs) debug).framesHeld pl.core < 8) : CanTrap (stateOf (wu xs) debug) (cu xs) x :=
  ⟨rfl, rfl, hf, h, by show (0 : Nat) < 100; decide⟩

theorem frames0 : (su []).framesHeld ⟨0, 0⟩ < 8 := by decide +kernel
theorem frames1 : (stateOf (wu []) true).framesHeld ⟨0, 0⟩ < 8 := by decide +kernel
theorem trap0 : CanTrap (su []) (cu []) 0x10000 := canTrap [] _ (by decide) false (fun _ e => by cases e; exact frames0)
theorem trap12 : CanTrap (su []) (cu []) 0x1000C := canTrap [] _ (by decide) false (fun _ e => by cases e; exact frames0)
theorem trapDebug : CanTrap (stateOf (wu []) true) (cu []) 0x1000C := canTrap [] _ (by decide) true (fun _ e => by cases e; exact frames1)
theorem handler0 : (su []).handlerOf (wu []) ≠ 0 := by decide +kernel

theorem witness_ShapeInstructions_report : ∃ s c h d a, Issues s (.shq h d a) false none c ∧ Roomy s (.shq h d a) c :=
  have h : okIssue (su [1]) (.shq hd (.v 30) .lid) false none (cu [1]) = true := by decide +kernel
  ⟨_, _, _, _, _, okIssue_issues h, okIssue_roomy h⟩
theorem witness_ShapeInstructions_assert : ∃ (s : State) (c : Ctx) (h : Hdr) (a : Spec) (shape : BitVec 2),
    Issues s (.sha h a shape) false none c ∧ widthOf c a ≤ shape.toNat :=
  have h : okIssue (su []) (.sha hd .lid 1) false none (cu []) = true := by decide +kernel
  ⟨_, _, _, _, _, okIssue_issues h, by decide +kernel⟩
theorem witness_ShapeInstructions_force : ∃ s c h d a shape, Issues s (.shf h d a shape) false none c ∧ Roomy s (.shf h d a shape) c ∧ shape ≠ 3#2 :=
  have h : okIssue (su [1]) (.shf hd (.v 30) .lid 2) false none (cu [1]) = true := by decide +kernel
  ⟨_, _, _, _, _, _, okIssue_issues h, okIssue_roomy h, by decide⟩
theorem witness_ShapeInstructions_trap : ∃ (s : State) (c : Ctx) (h : Hdr) (a : Spec) (shape : BitVec 2), Issues s (.sha h a shape) false none c ∧
    shape.toNat < widthOf c a ∧ CanTrap s c (c.x.setWidth 64) ∧ s.handlerOf c.w ≠ 0 :=
  have h : okIssue (su []) (.sha hd .lid 0) false none (cu []) = true := by decide +kernel
  ⟨_, _, _, _, _, okIssue_issues h, by decide +kernel, trap0, handler0⟩
theorem witness_LineReservation : ∃ s c h pd n, Issues s (.shrsv h pd n) false none c :=
  have h : okIssue (su []) (.shrsv hd 0 255) false none (cu []) = true := by decide +kernel
  ⟨_, _, _, _, _, okIssue_issues h⟩

/-! ### Lanes and paths -/

/-- VOTE.every over v16 as the mask. -/
def vote : Instr := .vote hd .every (.v 30) none (.v 16) 7

theorem witness_CrossLaneArrival : ∃ (s : State) (i : Instr) (c : Ctx) (a : Spec) (srcs : List (Pos × Spec × Nat)),
    crossSources i = some (a, srcs) ∧ s.issuing i.hdr false = some c ∧ (i.forHandlers = true → c.priv = true) ∧
    i.barred = false ∧
    (s.debugOn c.w = true → s.hazard c i = none) ∧ (c.wr ≠ 0 → i.within c.w.nregs = true) ∧
    (∀ n, n ∈ i.reads → ∀ h : n < 128, c.w.regs[n].spl = false) :=
  have h : okIssue (su [0xFFFFFFFF]) vote false none (cu [0xFFFFFFFF]) = true := by decide +kernel
  have hi := okIssue_issues h
  ⟨_, vote, _, _, _, rfl, hi.ctx, hi.mode, hi.allowed, hi.calm, fun _ => hi.range, fun n hn => (okIssue_roomy h).resident n (by revert n; decide)⟩

/-- A path that waits at a cross-lane instruction. -/
def waiting (i : Instr) : Path :=
  { path none with wait := .cross i (Vector.replicate 32 0xFFFFFFFF) Mask.all [Vector.replicate 32 0x3F800000] }

theorem crossDue (i : Instr) (h : i = vote ∨ i = .redx hd .f32 .add (.v 30) none (.v 16) (.v 17)) :
    CrossDue (warp (waiting i) 0 []) 0x10000 false i 0xFFFFFFFF 1 (waiting i) [] := by
  rcases h with rfl | rfl
  · exact ⟨rfl, by decide +kernel, by decide +kernel, by unfold Warp.namedApart; decide, by decide +kernel, by decide +kernel, by decide +kernel⟩
  · exact ⟨rfl, by decide +kernel, by decide +kernel, by unfold Warp.namedApart; decide, by decide +kernel, by decide +kernel, by decide +kernel⟩

/-- The registers of the joined warp are there. -/
theorem roomyJoined (i : Instr) (s : State) (c : Ctx) (h : c.w.regs.toList.all (fun r => !r.spl) = true) (h2 : c.w.wuse + 7 < c.w.wres) :
    Roomy s i c := by
  simp only [List.all_eq_true, Bool.not_eq_true'] at h
  exact ⟨fun n _ hn => h _ (by simp), fun j hj => .inl (by omega)⟩

theorem witness_CrossLaneCompletion : ∃ (s : State) (k : WarpKey) (x : VA) (i : Instr) (M : Mask) (n : Nat) (p : Path) (rest : List Path) (w : Warp)
    (d : Spec) (pe : Option (BitVec 3)) (xs : List (Lane → Word)) (g : Lane → Bool),
    s.warp k = some w ∧ CrossDue w x false i M n p rest ∧ Roomy (s.putWarp k (joinedCtx k w x false p rest i.hdr).w) i (joinedCtx k w x false p rest i.hdr) ∧
    crossRow (suppliedAt w x false M n) i = some (d, pe, xs, g) :=
  ⟨stateOf (warp (waiting vote) 0 []) false, key, 0x10000, vote, 0xFFFFFFFF, 1, _, _, _, _, _, _, _, rfl, crossDue _ (.inl rfl),
    roomyJoined _ _ _ (by decide +kernel) (by decide +kernel), rfl⟩
theorem witness_CrossLaneFloat : ∃ (s : State) (k : WarpKey) (x : VA) (i : Instr) (M : Mask) (n : Nat) (p : Path) (rest : List Path) (w : Warp)
    (d : Spec) (pe : Option (BitVec 3)) (y : Lane → FVal),
    s.warp k = some w ∧ CrossDue w x false i M n p rest ∧ Roomy (s.putWarp k (joinedCtx k w x false p rest i.hdr).w) i (joinedCtx k w x false p rest i.hdr) ∧
    crossFloat (suppliedAt w x false M n) i = some (d, pe, y) :=
  ⟨stateOf (warp (waiting (.redx hd .f32 .add (.v 30) none (.v 16) (.v 17))) 0 []) false, key, 0x10000, _, 0xFFFFFFFF, 1, _, _, _, _, _, _, rfl,
    crossDue _ (.inr rfl), roomyJoined _ _ _ (by decide +kernel) (by decide +kernel), rfl⟩

theorem witness_Branches_taken : ∃ s i c tgt, Issues s i false none c ∧ Roomy s i c ∧ i.wf = true ∧ branchRow s c i = some tgt ∧
    ∀ l, c.wr.has l = true → targetTaken i (tgt l) :=
  have h : okIssue (su [0xFFFFFFFC, 0x01FFFFFF]) (.brx hd (.v 16)) false none (cu [0xFFFFFFFC, 0x01FFFFFF]) = true := by decide +kernel
  ⟨_, _, _, _, okIssue_issues h, okIssue_roomy h, by decide +kernel, rfl, fun l _ => by unfold targetTaken; revert l; decide +kernel⟩
theorem witness_Branches_trap : ∃ (s : State) (i : Instr) (c : Ctx) (tgt : Lane → DWord) (a : DWord), Issues s i false none c ∧ Roomy s i c ∧
    i.wf = true ∧ branchRow s c i = some tgt ∧ (∀ l, c.wr.has l = true → tgt l = a) ∧ ¬ targetTaken i a ∧
    CanTrap s c (c.x.setWidth 64) ∧ s.handlerOf c.w ≠ 0 :=
  have h : okIssue (su [2, 0]) (.brx hd (.v 16)) false none (cu [2, 0]) = true := by decide +kernel
  ⟨su [2, 0], _, _, _, 2, okIssue_issues h, okIssue_roomy h, by decide +kernel, rfl, fun l _ => by revert l; decide +kernel,
    by unfold targetTaken; decide, canTrap _ _ (by decide) false (fun _ e => by cases e; decide +kernel), by decide +kernel⟩

/-- A path that waits at a JOIN of lanes 0 to 31. -/
def joining : Path := { path none with wait := .join Mask.all }

theorem witness_Joins_arrive : ∃ s i c m, Issues s i true none c ∧ Roomy s i c ∧ c.w.namedApart ∧
    ((∃ h a, i = .join h a ∧ m = fun l => s.word c .a a l) ∨ (∃ h y, i = .joinImm h y ∧ m = fun _ => y)) :=
  have h : okIssue (su []) (.joinImm hd 0xFFFFFFFF) true none (cu []) = true := by decide +kernel
  ⟨_, _, _, fun _ => 0xFFFFFFFF, okIssue_issues h, okIssue_roomy h, by unfold Warp.namedApart; decide, .inr ⟨_, _, rfl, rfl⟩⟩
theorem witness_Joins_release : ∃ s k x v, State.warp s k = some v ∧ v.namedApart ∧ JoinMet v x false ∧ ¬ JoinMet v x true :=
  ⟨stateOf (warp joining 0 []) false, key, 0x10000, _, rfl, by unfold Warp.namedApart; decide, by unfold JoinMet; decide +kernel⟩
theorem witness_Exits : ∃ (s : State) (i : Instr) (c : Ctx) (named : List Succ), Issues s i false none c ∧ Roomy s i c ∧
    ((∃ h, i = .exit h ∧ named = []) ∨ (∃ h a, i = .exitSucc h a ∧ named = (lanes.filter c.wr.has).map (fun l =>
      { who := c.k, lane := l.val, addr := s.pairAt c .a a l, ended := false }))) ∧
    (c.priv = true ∨ c.w.imp = none) ∧ (c.p.frame = none ∨ (c.p.wait = .none ∧ c.p.lns &&& ~~~c.wr ≠ 0)) :=
  have h : okIssue (su [0x3000, 0]) (.exitSucc hd (.v 16)) false none (cu [0x3000, 0]) = true := by decide +kernel
  ⟨_, _, _, _, okIssue_issues h, okIssue_roomy h, .inr ⟨_, _, rfl, rfl⟩, .inr rfl, .inl rfl⟩
theorem witness_YieldAndSleep_yield : ∃ s c h, Issues s (.yield h) false none c :=
  have h : okIssue (su []) (.yield hd) false none (cu []) = true := by decide +kernel
  ⟨_, _, _, okIssue_issues h⟩
theorem witness_YieldAndSleep_sleep : ∃ (s : State) (c : Ctx) (h : Hdr) (a : Spec) (m : Nat), Issues s (.sleept h a) false none c ∧
    Roomy s (.sleept h a) c ∧ (∀ l, c.wr.has l = true → (s.pairAt c .a a l).toNat ≤ m) ∧ ∃ l, c.wr.has l = true ∧ (s.pairAt c .a a l).toNat = m :=
  have h : okIssue (su [5001, 0]) (.sleept hd (.v 16)) false none (cu [5001, 0]) = true := by decide +kernel
  ⟨_, _, _, _, 5001, okIssue_issues h, okIssue_roomy h, fun l _ => by revert l; decide +kernel, 0, by decide +kernel, by decide +kernel⟩
theorem witness_TrapAndBreakpoint_trap : ∃ (s : State) (c : Ctx) (h : Hdr) (code : Word), Issues s (.trap h code) false none c ∧
    CanTrap s c (c.x.setWidth 64 + 12) ∧ s.handlerOf c.w ≠ 0 :=
  have h : okIssue (su []) (.trap hd 5) false none (cu []) = true := by decide +kernel
  ⟨_, _, _, _, okIssue_issues h, trap12, handler0⟩
theorem witness_TrapAndBreakpoint_agent : ∃ (s : State) (c : Ctx) (h : Hdr) (code : Word), Issues s (.brkpt h code) false none c ∧
    s.debugOn c.w = true ∧ CanTrap s c (c.x.setWidth 64 + 12) :=
  have h : okIssue (stateOf (wu []) true) (.brkpt hd 5) false none (cu []) = true := by decide +kernel
  ⟨_, _, _, _, okIssue_issues h, by decide +kernel, trapDebug⟩
theorem witness_TrapAndBreakpoint_plain : ∃ (s : State) (c : Ctx) (h : Hdr) (code : Word), Issues s (.brkpt h code) false none c ∧
    s.debugOn c.w = false :=
  have h : okIssue (su []) (.brkpt hd 5) false none (cu []) = true := by decide +kernel
  ⟨_, _, _, _, okIssue_issues h, by decide +kernel⟩

/-- The state of a waiting path. -/
def sw (wait : Wait) : State := stateOf (warp { path none with wait := wait } 0 []) false

theorem witness_WaitsEnd_yield : ∃ (s : State) (k : WarpKey) (n : Nat) (w : Warp) (p : Path) (since : Nat) (turned : Bool), s.warp k = some w ∧
    w.path n = some p ∧ p.wait = .yield since turned ∧ (turned = true ∨ since + 64 * 20 ≤ s.clockOf w) :=
  ⟨{ sw (.yield 0 false) with wall := 5000 }, key, 0, _, _, 0, false, rfl, rfl, rfl, .inr (by decide +kernel)⟩
theorem witness_WaitsEnd_sleep : ∃ (s : State) (k : WarpKey) (n : Nat) (w : Warp) (p : Path) (at' : DWord), s.warp k = some w ∧ w.path n = some p ∧
    w.place ≠ none ∧ p.wait = .sleep at' ∧ at'.toNat ≤ s.nowAt w :=
  ⟨sw (.sleep 5000), key, 0, _, _, 5000, rfl, rfl, by decide, rfl, by decide +kernel⟩


/-! ### Memory -/

/-- A triple of equal parts. -/
theorem pairNone {α β : Type} {x : α × Option β} (h : x.2 = none) : x = (x.1, none) := by
  obtain ⟨a, b⟩ := x; cases h; rfl

/-- The hypotheses of MemoryIssue are met by an instruction. -/
def MemoryIssueMet (i : Instr) : Prop :=
  ∃ (s u : State) (c : Ctx) (r : AccessRow) (accs : List Acc),
    Issues s i false none c ∧ Roomy s i c ∧ accessRow s c i = some r ∧ r.m.space ≠ .priv ∧ c.w.queue.length < 64 ∧
    r.form s c = (u, [], accs) ∧ (u.fxWaits c (r.entry u c i accs) = false ∨ ∃ q, r.kind = .waitmem q) ∧
    (u.touchesLent c r.m.space (r.entry u c i accs).accs = false ∨ ∃ q, r.kind = .waitmem q)

theorem memoryIssueMet (xs : List Word) (i : Instr) (r : AccessRow) (h : okIssue (su xs) i false none (cu xs) = true)
    (hi : (su xs).issuing i.hdr false = some (cu xs)) (hr : accessRow (su xs) (cu xs) i = some r) (hs : r.m.space ≠ .priv) (hf : (r.form (su xs) (cu xs)).2.1 = [])
    (h1 : (r.form (su xs) (cu xs)).1.fxWaits (cu xs) (r.entry (r.form (su xs) (cu xs)).1 (cu xs) i (r.form (su xs) (cu xs)).2.2) = false)
    (h2 : (r.form (su xs) (cu xs)).1.touchesLent (cu xs) r.m.space
      (r.entry (r.form (su xs) (cu xs)).1 (cu xs) i (r.form (su xs) (cu xs)).2.2).accs = false) : MemoryIssueMet i :=
  ⟨su xs, _, cu xs, r, _, okIssue_issues h hi, okIssue_roomy h, hr, hs, by show (0 : Nat) < 64; decide, noFaults hf, .inl h1, .inl h2⟩

/-- LD.glob at c2 + 4·lid; ST.shr at the last word of the window; ATOM.glob. -/
def ldGlob : Instr := .ld hd .thread .rlx false .b32 (.v 30) ⟨.v 8, .lid, 2, .glob⟩ 0
def stShr : Instr := .st hd .thread .rlx .b32 (.v 16) ⟨.v 4, .z, 0, .shr⟩ 0xFFC
def casGlob : Instr := .atom hd .device .acqrel .cas .b32 (.v 30) ⟨.v 8, .lid, 3, .glob⟩ 0 (.v 16)
def waitShr : Instr := .waitmem hd .cluster .acq .ge .b32 (.v 16) ⟨.v 4, .z, 0, .shr⟩ 0

theorem witness_MemoryIssue_load : MemoryIssueMet ldGlob := memoryIssueMet [] ldGlob _ (by decide +kernel) rfl rfl (by decide) (by decide +kernel) (by decide +kernel) (by decide +kernel)
theorem witness_MemoryIssue_store : MemoryIssueMet stShr := memoryIssueMet [5] stShr _ (by decide +kernel) rfl rfl (by decide) (by decide +kernel) (by decide +kernel) (by decide +kernel)
theorem witness_MemoryIssue_atomic : MemoryIssueMet casGlob := memoryIssueMet [1, 2] casGlob _ (by decide +kernel) rfl rfl (by decide) (by decide +kernel) (by decide +kernel) (by decide +kernel)
theorem witness_MemoryIssue_wait : MemoryIssueMet waitShr := memoryIssueMet [1] waitShr _ (by decide +kernel) rfl rfl (by decide) (by decide +kernel) (by decide +kernel) (by decide +kernel)

/-- Lane-private memory at offset 8. -/
def priv8 : MemArg := ⟨.z, .z, 0, .priv⟩
def privLd := (su []).privAll (cu []) priv8 (8 : BitVec 24).toInt (Ty.bytes .b32) .read
def privSt := (su [7]).privAll (cu [7]) priv8 (8 : BitVec 24).toInt (Ty.bytes .b32) .write
theorem witness_PrivateMemory_load : ∃ (s u : State) (h : Hdr) (sc : Scope) (ord : Order) (bc : Bool) (ty : Ty) (d : Spec) (m : MemArg)
    (disp : BitVec 24) (c : Ctx) (ps : List (Lane × List PrivPiece)), Issues s (.ld h sc ord bc ty d m disp) false none c ∧
    Roomy s (.ld h sc ord bc ty d m disp) c ∧ m.space = .priv ∧ s.privAll c m disp.toInt ty.bytes .read = (u, [], ps) :=
  have h : okIssue (su []) (.ld hd .thread .rlx false .b32 (.v 30) priv8 8) false none (cu []) = true := by decide +kernel
  ⟨su [], privLd.1, _, _, _, _, _, _, _, 8, cu [], privLd.2.2, okIssue_issues h, okIssue_roomy h, rfl, noFaults (x := privLd) (by decide +kernel)⟩
theorem witness_PrivateMemory_store : ∃ (s u : State) (h : Hdr) (sc : Scope) (ord : Order) (ty : Ty) (d : Spec) (m : MemArg)
    (disp : BitVec 24) (c : Ctx) (ps : List (Lane × List PrivPiece)), Issues s (.st h sc ord ty d m disp) false none c ∧
    Roomy s (.st h sc ord ty d m disp) c ∧ m.space = .priv ∧ u.memOk = true ∧ s.privAll c m disp.toInt ty.bytes .write = (u, [], ps) :=
  have h : okIssue (su [7]) (.st hd .thread .rlx .b32 (.v 16) priv8 8) false none (cu [7]) = true := by decide +kernel
  ⟨su [7], privSt.1, _, _, _, _, _, _, 8, cu [7], privSt.2.2, okIssue_issues h, okIssue_roomy h, rfl, by decide +kernel,
    noFaults (x := privSt) (by decide +kernel)⟩

/-- The hypotheses of ActsOnceIssue are met by an instruction. -/
def ActsOnceMet (i : Instr) : Prop :=
  ∃ (s : State) (c : Ctx) (r : OnceRow) (ok : Nat → Prop) (off : Nat), Issues s i false none c ∧ Roomy s i c ∧
    onceRow s c i = some (r, ok) ∧ ok off ∧ c.w.queue.length < 64 ∧
    s.touchesLent c r.space ({ r with off := off, pa := off }.entry s c i).accs = false

theorem actsOnceMet (s : State) (i : Instr) (c : Ctx) (r : OnceRow) (ok : Nat → Prop) (off : Nat) (h : okIssue s i false none c = true)
    (hi : s.issuing i.hdr false = some c) (hr : onceRow s c i = some (r, ok)) (hok : ok off) (hq : c.w.queue.length < 64)
    (h2 : s.touchesLent c r.space ({ r with off := off, pa := off }.entry s c i).accs = false) : ActsOnceMet i :=
  ⟨s, c, r, ok, off, okIssue_issues h hi, okIssue_roomy h, hr, hok, hq, h2⟩

/-- The engine operand c1 + 0. -/
def eng : EngArg := ⟨.v 4, .z, 0, 0⟩

theorem witness_ActsOnceIssue_init : ActsOnceMet (.barinit hd false eng (.v 16) (.v 17)) :=
  actsOnceMet (su [3, 0]) _ (cu [3, 0]) _ _ 0 (by decide +kernel) rfl rfl
    (by unfold State.oneFor State.onceAt; decide +kernel) (by decide +kernel) (by decide +kernel)
theorem witness_ActsOnceIssue_arrive : ActsOnceMet (.bararr hd .cluster true (.imm 5) eng) :=
  actsOnceMet (su []) _ (cu []) _ _ 0 (by decide +kernel) rfl rfl
    ⟨fun e he => BarCount.noConfusion he, by unfold State.onceAt; decide +kernel⟩ (by decide +kernel) (by decide +kernel)
theorem witness_ActsOnceIssue_test : ActsOnceMet (.bartst hd false (.v 30) eng) :=
  actsOnceMet (su []) _ (cu []) _ _ 0 (by decide +kernel) rfl rfl
    (by unfold State.onceAt; decide +kernel) (by decide +kernel) (by decide +kernel)
theorem witness_ActsOnceIssue_ring : ActsOnceMet (.rngclose hd eng) :=
  actsOnceMet (su []) _ (cu []) _ _ 0 (by decide +kernel) rfl rfl
    (by unfold State.onceAt; decide +kernel) (by decide +kernel) (by decide +kernel)
theorem witness_ActsOnceIssue_event : ActsOnceMet (.evsig hd (.v 16) 3) :=
  actsOnceMet (su [0xFFFFFFFF]) _ (cu [0xFFFFFFFF]) _ _ 0 (by decide +kernel) rfl rfl
    (by unfold State.oneFor; decide +kernel) (by decide +kernel) (by decide +kernel)

theorem witness_FenceAndSpawnIssue_fence : ∃ (s : State) (c : Ctx) (h : Hdr) (sc : Scope) (ord : Order), Issues s (.fence h sc ord) false none c ∧
    c.w.queue.length < 64 :=
  have h : okIssue (su []) (.fence hd .device .acqrel) false none (cu []) = true := by decide +kernel
  ⟨_, _, _, _, _, okIssue_issues h, by decide +kernel⟩
theorem witness_FenceAndSpawnIssue_spawn : ∃ (s u : State) (c : Ctx) (h : Hdr) (a b : Spec), Issues s (.tspawn h a b) false none c ∧
    Roomy s (.tspawn h a b) c ∧ s.oneFor c .a a 2 ∧ s.oneFor c .b b 1 ∧ 1 ≤ (s.word c .b b c.low).toNat ∧ (s.word c .b b c.low).toNat ≤ 64 ∧
    (s.pairAt c .a a c.low).toNat % 64 = 0 ∧ c.w.queue.length < 64 ∧
    s.spawnFault c (s.pairAt c .a a c.low).toNat (s.word c .b b c.low).toNat = (u, none) :=
  have h : okIssue (su [0x3000, 0, 1]) (.tspawn hd (.v 16) (.v 18)) false none (cu [0x3000, 0, 1]) = true := by decide +kernel
  ⟨_, ((su [0x3000, 0, 1]).spawnFault (cu [0x3000, 0, 1]) ((su [0x3000, 0, 1]).pairAt (cu [0x3000, 0, 1]) .a (.v 16) (cu [0x3000, 0, 1]).low).toNat ((su [0x3000, 0, 1]).word (cu [0x3000, 0, 1]) .b (.v 18) (cu [0x3000, 0, 1]).low).toNat).1, _, _, _, _,
    okIssue_issues h, okIssue_roomy h, by unfold State.oneFor; decide +kernel, by unfold State.oneFor; decide +kernel,
    by decide +kernel, by decide +kernel, by decide +kernel, by decide +kernel, pairNone (by decide +kernel)⟩

theorem witness_BlockingIssue_barrier : ∃ (s : State) (c : Ctx) (h : Hdr) (sp : Bool) (m : EngArg) (e : Spec) (off : Nat),
    Issues s (.barwait h sp m e) false none c ∧ Roomy s (.barwait h sp m e) c ∧ s.oneFor c .e e 1 ∧ (c.priv = true ∨ c.w.imp = none) ∧
    s.onceAt c m permR off ∧ c.w.queue.length < 64 ∧ s.touchesLent c (spSpace sp)
      (OnceRow.entry s c (.barwait h sp m e) { kind := .barwait, space := spSpace sp, scope := .cluster, ord := .acq, ty := .b128, off := off, pa := off
                                               len := 16, data := [], dst := none, shape := .w, wait := none }).accs = false :=
  have h : okIssue (su [1]) (.barwait hd true eng (.v 16)) false none (cu [1]) = true := by decide +kernel
  ⟨_, _, _, _, _, _, 0, okIssue_issues h, okIssue_roomy h, by unfold State.oneFor; decide +kernel, .inr rfl,
    by unfold State.onceAt; decide +kernel, by decide +kernel, by decide +kernel⟩
theorem witness_BlockingIssue_ring : ∃ (s : State) (c : Ctx) (h : Hdr) (full : Bool) (d : Spec) (pe : BitVec 3) (m : EngArg) (off : Nat),
    Issues s (.rngget h full d pe m) false none c ∧ Roomy s (.rngget h full d pe m) c ∧ s.onceAt c m (permR ||| permW ||| permAtom) off ∧
    c.w.queue.length < 64 :=
  have h : okIssue (su []) (.rngget hd true (.v 30) 1 eng) false none (cu []) = true := by decide +kernel
  ⟨_, _, _, _, _, _, _, 0, okIssue_issues h, okIssue_roomy h, by unfold State.onceAt; decide +kernel, by decide +kernel⟩
theorem witness_BlockingIssue_counter : ∃ s c h cls n, Issues s (.waitcnt h cls n) false none c :=
  have h : okIssue (su []) (.waitcnt hd .copy 0) false none (cu []) = true := by decide +kernel
  ⟨_, _, _, _, _, okIssue_issues h⟩
theorem witness_BlockingIssue_team : ∃ s c h, Issues s (.tbar h) true none c ∧ (c.priv = true ∨ c.w.imp = none) :=
  have h : okIssue (su []) (.tbar hd) true none (cu []) = true := by decide +kernel
  ⟨_, _, _, okIssue_issues h, .inr rfl⟩
theorem witness_BlockingIssue_event : ∃ s c h a name, Issues s (.evwait h a name) false none c ∧ Roomy s (.evwait h a name) c ∧ s.oneFor c .a a 1 :=
  have h : okIssue (su [1]) (.evwait hd (.v 16) 3) false none (cu [1]) = true := by decide +kernel
  ⟨_, _, _, _, _, okIssue_issues h, okIssue_roomy h, by unfold State.oneFor; decide +kernel⟩

/-! ### Homes -/

/-- An access of four bytes of every lane. -/
def acc (pa : Nat) : Acc :=
  { lns := Mask.all, off := pa, pa := pa, len := 4, view := none, data := [1, 2, 3, 4], cmp := [1, 2, 3, 4], tag := false, seen := false, served := false
    res := [], g := 0 }
/-- An entry of the warp's queue. -/
def entry (kind : EKind) (sp : Space) (accs : List Acc) : Entry :=
  { id := 7, kind := kind, space := sp, scope := .thread, ord := .rlx, ty := .b32, x := 0x10000, pid := 0, runId := 0, accs := accs, instr := .nop hd
    priv := false, ch := 0, dst := none, held := [], lns := Mask.all, shape := .w, relDone := false, relSeq := 0, frame := none, issued := 0, gated := none }
/-- The warp with an entry and its path as given. -/
def wq (e : Entry) (p : Path) : Warp := { warp p 0 [] with queue := [e] }
def sq (e : Entry) : State := stateOf (wq e (path none)) false
/-- The state whose partition is time-sliced and has its slice. -/
def sliced (s : State) : State := { s with parts := [(0, { part false with arg := arg true, active := true, image := none })] }

theorem mayPerform (e : Entry) (a : Acc) (h1 : e.chosen Mask.all = [a]) (h2 : (wq e (path none)).mayGo e a = true) (ht : (sq e).scTurn e = true) (h3 : (sq e).unreachable e a = false)
    (h4 : (sq e).locationBad (wq e (path none)) e a = false) (h5 : e.watching = []) (h0 : e.id = 7) :
    MayPerform (sq e) key 7 Mask.all (wq e (path none)) e a (part false) :=
  ⟨rfl, rfl, by simp [Warp.entry, wq, h0], h1, h2, ht, h3, h4, rfl, by
    intro kw hk f hf
    simp only [sq, stateOf, List.mem_singleton] at hk
    subst hk
    simp only [wq, List.mem_singleton] at hf
    subst hf; exact h5, (by decide +kernel : (stateOf (wu []) false).memOk = true)⟩

def eSt : Entry := entry .st .glob [acc 0x1000]
def eStShr : Entry := entry .st .shr [acc 0xFFC]
def ePeer : Entry := entry .st .glob [acc (2 ^ 56)]

theorem witness_HomeStores_global : ∃ s k id lns w e a p, MayPerform s k id lns w e a p ∧ (e.kind = .st ∨ e.kind = .stc ∨ e.kind = .barinit) ∧
    (e.kind = .stc → a.data.length = 16) ∧ (e.kind = .barinit → ∃ b ∈ a.data, b ≠ 0) ∧ ¬ (e.space = .glob ∧ isPeer a.pa = true ∧ p.arg.sliced = true) ∧ s.holds (s.spot w e a a.stored.length).1 :=
  ⟨_, _, _, _, _, _, _, _, mayPerform eSt (acc 0x1000) (by decide +kernel) (by decide +kernel) (by decide +kernel) (by decide +kernel) (by decide +kernel) (by decide +kernel) rfl,
    .inl rfl, by decide, nofun, by decide, trivial⟩
theorem witness_HomeStores_window : ∃ s k id lns w e a p, MayPerform s k id lns w e a p ∧ (e.kind = .st ∨ e.kind = .stc ∨ e.kind = .barinit) ∧
    (e.kind = .stc → a.data.length = 16) ∧ (e.kind = .barinit → ∃ b ∈ a.data, b ≠ 0) ∧ ¬ (e.space = .glob ∧ isPeer a.pa = true ∧ p.arg.sliced = true) ∧ s.holds (s.spot w e a a.stored.length).1 ∧
    e.space = .shr :=
  ⟨_, _, _, _, _, _, _, _, mayPerform eStShr (acc 0xFFC) (by decide +kernel) (by decide +kernel) (by decide +kernel) (by decide +kernel) (by decide +kernel) (by decide +kernel) rfl,
    .inl rfl, by decide, nofun, by decide, by show _ ≠ none; decide +kernel, rfl⟩
theorem witness_HomeStores_peer : ∃ s k id lns w e a p, MayPerform s k id lns w e a p ∧ e.kind = .st ∧ e.space = .glob ∧ isPeer a.pa = true ∧
    p.arg.sliced = true :=
  ⟨sliced (sq ePeer), key, 7, Mask.all, wq ePeer (path none), ePeer, acc (2 ^ 56), { part false with arg := arg true, active := true, image := none },
    ⟨rfl, rfl, rfl, by decide +kernel, by decide +kernel, by decide +kernel, by decide +kernel, by decide +kernel, rfl, by
      intro kw hk f hf
      simp only [sliced, sq, stateOf, List.mem_singleton] at hk
      subst hk
      simp only [wq, List.mem_singleton] at hf
      subst hf; rfl, by decide +kernel⟩, rfl, rfl, rfl, rfl⟩
theorem witness_HomeAtomics : ∃ s k id lns w e a p op, MayPerform s k id lns w e a p ∧ (e.kind = .atom op ∨ e.kind = .red op) ∧ a.view = none ∧
    a.data.length = e.ty.bytes ∧ (op = .cas → a.cmp.length = e.ty.bytes) ∧ a.len = e.ty.bytes ∧ 0 < e.ty.bytes ∧
    ¬ (e.space = .glob ∧ isPeer a.pa = true ∧ p.arg.sliced = true) ∧ s.holds (s.spot w e a e.ty.bytes).1 :=
  ⟨_, _, _, _, _, _, _, _, .cas, mayPerform (entry (.atom .cas) .glob [acc 0x1000]) (acc 0x1000) (by decide +kernel) (by decide +kernel) (by decide +kernel)
    (by decide +kernel) (by decide +kernel) (by decide +kernel) rfl, .inl rfl, rfl, rfl, fun _ => rfl, rfl, by decide, by decide, trivial⟩
theorem witness_HomeAtomics_barrier : ∃ o count : Nat, o < 2 ^ 128 ∧ 0 < o / 2 ^ 32 % 2 ^ 16 ∧ o % 2 ^ 32 + count < 2 ^ 32 :=
  ⟨2 ^ 32, 0xFFFFFFFF, by decide, by decide, by decide⟩
theorem witness_LoadsServed_global : ∃ s k id lns w e a p, MayPerform s k id lns w e a p ∧ (e.kind = .ld ∨ e.kind = .ldc ∨ e.kind = .bartst) ∧
    (e.space = .glob → a.view = none ∧ isPeer a.pa = false ∧ (∀ c ∈ s.copies, c.line ≠ a.pa / 128) ∧ a.pa % 128 + a.len ≤ 128 ∧
      (s.lineInfo (a.pa / 128)).sw = none ∧ (s.lineInfo (a.pa / 128)).own = []) :=
  ⟨_, _, _, _, _, _, _, _, mayPerform (entry .ld .glob [acc 0x107C]) (acc 0x107C) (by decide +kernel) (by decide +kernel) (by decide +kernel)
    (by decide +kernel) (by decide +kernel) (by decide +kernel) rfl, .inl rfl, by decide +kernel⟩

/-- A load into v30, answered. -/
def eDone : Entry := { entry .ld .glob [{ acc 0x1000 with served := true, res := [1, 2, 3, 4] }] with dst := some (.v 30, 1) }
theorem witness_LoadsServed_return : ∃ s k id w e, State.warp s k = some w ∧ w.key = k ∧ w.entry id = some e ∧ e.kind ≠ .fence ∧
    (∀ a ∈ e.accs, a.served = true) ∧ Lined s (e.ctx w) ∧ (∀ d n, e.dst = some (d, n) → n ≤ 4) ∧
    (∀ n (h : n < 128), e.pends n = true → w.regs[n].spl = false) ∧
    (e.held.map (·.1)).Nodup ∧ (∀ h ∈ e.held, e.pends h.1 = true) ∧ (e.shape = .w ∨ (e.shape = .u ∧ ∃ a, e.accs = [a])) ∧
    (e.kind = .ld ∨ e.kind = .ldc ∨ e.kind = .bartst) :=
  have hr : (wq eDone (path none)).regs.toList.all (fun r => !r.spl) = true := by decide +kernel
  ⟨sq eDone, key, 7, wq eDone (path none), eDone, rfl, rfl, rfl, by decide, by decide +kernel, fun j hj => .inl (by
    have : ((eDone.ctx (wq eDone (path none))).w.wuse : Nat) + 7 < (eDone.ctx (wq eDone (path none))).w.wres := by decide +kernel
    omega), by intro d n h; cases h; decide, fun n hn _ => by
      have := List.all_eq_true.mp hr (wq eDone (path none)).regs[n] (by simp); simpa using this, .nil, nofun, .inl rfl, .inl rfl⟩

def eAck : Entry := entry .st .glob [{ acc 0x1000 with served := true }]
theorem witness_LoadsServed_acknowledge : ∃ s k id w e, State.warp s k = some w ∧ w.key = k ∧ w.entry id = some e ∧ e.kind.stores = true ∧ e.kind ≠ .fence ∧
    (∀ a ∈ e.accs, a.served = true) ∧ Lined s (e.ctx w) ∧ (∀ d n, e.dst = some (d, n) → n ≤ 4) ∧ (∀ n (h : n < 128), e.pends n = true → w.regs[n].spl = false) ∧
    (e.held.map (·.1)).Nodup ∧ (∀ h ∈ e.held, e.pends h.1 = true) ∧ e.shape = .w ∧ s.heldOf w id = false :=
  ⟨sq eAck, key, 7, _, _, rfl, rfl, rfl, rfl, by decide, by decide +kernel, fun j hj => .inl (by
      have : ((eAck.ctx (wq eAck (path none))).w.wuse : Nat) + 7 < (eAck.ctx (wq eAck (path none))).w.wres := by decide +kernel
      show (eAck.ctx (wq eAck (path none))).w.wuse + j < (eAck.ctx (wq eAck (path none))).w.wres
      omega), nofun, nofun, .nil, nofun, rfl, by decide +kernel⟩

theorem witness_TranslationFrame_walk : ∃ (s u : State) (part : Nat) (ctx : BitVec 6) (va : Nat) (use : Use) (priv : Bool) (r : Except (Nat × Nat) Nat),
    s.memOk = true ∧ s.translate part ctx va use priv = (u, r) :=
  ⟨su [], _, 0, 0, 0x3000, .write, false, _, by decide +kernel, rfl⟩
theorem witness_TranslationFrame_lane : ∃ (s u : State) (c : Ctx) (m : MemArg) (disp : Int) (n align : Nat) (perm : BitVec 8) (use : Use) (l : Lane)
    (r : Except Cause Acc), s.memOk = true ∧ s.laneAddr c m disp n align perm use l = (u, r) :=
  ⟨su [], _, cu [], ⟨.v 8, .lid, 2, .glob⟩, 0, 4, 4, permR, .read, 31, _, by decide +kernel, rfl⟩
/-- A walk that met no poisoned entry. -/
theorem notPoisoned {x : WalkOut} (h : (match x with | .poisoned _ => true | _ => false) = false) : ∀ r, x ≠ .poisoned r := by
  rintro r rfl; cases h
theorem witness_TranslationFrame_step : ∃ (s : State) (part : Nat) (ctx : BitVec 6) (va : VA) (p : Part) (x : Context), s.memOk = true ∧
    s.part part = some p ∧ p.ctxs.find ctx = some x ∧ (∀ r, s.walkFrom p va.toNat 4 x.root.toNat [] [] ≠ .poisoned r) :=
  ⟨su [], 0, 0, 0x3000, _, _, by decide +kernel, rfl, rfl, notPoisoned (by decide +kernel)⟩

/-! ### Waits of the queue -/

/-- A FENCE whose release wait is over; an entry whose target is gated; a remote load that a path waits for. -/
def eFence : Entry := { entry .fence .priv [] with scope := .die, ord := .acqrel }
theorem witness_QueueWaits_release : ∃ s k id w e, State.warp s k = some w ∧ w.entry id = some e ∧ e.waits = true ∧ e.relDone = false ∧
    s.releaseOver w e = true ∧ e.kind = .fence ∧ w.fenceOver { e with relDone := true } = true :=
  ⟨sq eFence, key, 7, _, _, rfl, rfl, by decide +kernel, rfl, by decide +kernel, rfl, by decide +kernel⟩
def eGated : Entry := { ePeer with gated := some 4000 }
theorem witness_QueueWaits_gated : ∃ s k id w e t0, State.warp s k = some w ∧ w.entry id = some e ∧ e.gated = some t0 ∧
    (∃ a ∈ e.accs, a.served = false ∧ e.space = .glob ∧ isPeer a.pa = true ∧ (s.portsDown = BitVec.allOnes 18 ∨ a.pa / (384 * 2 ^ 30) - 1 ∈ s.gatedPeers)) ∧
    s.gtime.toNat < t0.toNat + 10000 :=
  ⟨{ sq eGated with portsDown := BitVec.allOnes 18 }, key, 7, _, _, 4000, rfl, rfl, rfl, ⟨_, .head _, rfl, rfl, by decide, .inl rfl⟩, by decide +kernel⟩
theorem witness_QueueWaits_reached : ∃ s k id w e t0, State.warp s k = some w ∧ w.entry id = some e ∧ e.gated = some t0 ∧
    ¬ ∃ a ∈ e.accs, a.served = false ∧ e.space = .glob ∧ isPeer a.pa = true ∧ (s.portsDown = BitVec.allOnes 18 ∨ a.pa / (384 * 2 ^ 30) - 1 ∈ s.gatedPeers) :=
  ⟨sq eGated, key, 7, _, _, 4000, rfl, rfl, rfl, by decide⟩
/-- The ports are up, and the peer's homes are gated. -/
theorem witness_QueueWaits_gatedPeer : ∃ (s : State) (k : WarpKey) (id : Nat) (w : Warp) (e : Entry) (t0 : DWord), s.warp k = some w ∧ w.entry id = some e ∧
    e.gated = some t0 ∧ (∃ a ∈ e.accs, a.served = false ∧ e.space = .glob ∧ isPeer a.pa = true ∧ a.pa / (384 * 2 ^ 30) - 1 ∈ s.gatedPeers) ∧
    s.portsDown ≠ BitVec.allOnes 18 ∧ s.gtime.toNat < t0.toNat + 10000 :=
  ⟨{ sq eGated with gatedPeers := [2 ^ 56 / (384 * 2 ^ 30) - 1] }, key, 7, _, _, 4000, rfl, rfl, rfl, ⟨_, .head _, rfl, rfl, by decide, .head _⟩, by decide,
    by decide +kernel⟩
/-- A load of a peer's line into v16, and a path whose next word reads v16. -/
def eRemote : Entry := { entry .ld .glob [acc (2 ^ 56)] with dst := some (.v 16, 1) }
def behindLoad : Path := { path none with run := [encode (.mov hd .b32 (.v 30) (.v 16))] }
theorem witness_QueueWaits_remote : ∃ s k n w p, State.warp s k = some w ∧ w.path n = some p ∧ p.wait = .none ∧ p.run ≠ [] ∧ p.begun = false ∧
    w.holdsBack p ≠ [] ∧ (∀ e ∈ w.holdsBack p, s.remoteLoad w e = true) ∧ (∃ e ∈ w.holdsBack p, e.issued.toNat + 1000 ≤ s.gtime.toNat) :=
  ⟨stateOf (wq eRemote behindLoad) false, key, 0, _, _, rfl, rfl, rfl, by decide +kernel, rfl, by decide +kernel, by decide +kernel, by decide +kernel⟩

/-- A WAITMEM whose lanes are satisfied, and its path; one that waits. -/
def eMet : Entry := entry (.waitmem .ge) .shr [{ acc 0 with seen := true, served := true }]
def eWait : Entry := entry (.waitmem .ge) .shr [{ acc 0 with seen := true }]
theorem witness_WaitsEnd_met : ∃ s k id w e cond p, State.warp s k = some w ∧ w.entry id = some e ∧ e.kind = .waitmem cond ∧ e.accs ≠ [] ∧
    (∀ a ∈ e.accs, a.served = true) ∧ w.place ≠ none ∧ w.paths.find? (fun p => p.wait == .waitmem id) = some p ∧ w.path p.pid = some p :=
  ⟨stateOf (wq eMet { path none with wait := .waitmem 7 }) false, key, 7, _, _, .ge, _, rfl, rfl, rfl, by decide, by decide, by decide, rfl, rfl⟩
theorem witness_WaitsEnd_poll : ∃ (s : State) (k : WarpKey) (id : Nat) (w : Warp) (e : Entry) (cond : Cond) (a : Acc) (bs : List Byte) (g : Nat),
    s.warp k = some w ∧ w.key = k ∧ w.entry id = some e ∧ e.kind = .waitmem cond ∧ e.accs = [a] ∧ a.seen = true ∧ a.tag = false ∧ a.served = false ∧
    (s.watchFree (s.watchSet w e a) = true ∨ a.g.toNat + 2000 ≤ s.gtime.toNat) ∧ s.watched w e a = some (bs, g) ∧
    (e.space ≠ .glob → s.windowIn w e.space a.off a.len = true) :=
  ⟨stateOf (wq eWait { path none with wait := .waitmem 7 }) false, key, 7, _, _, .ge, _, _, _, rfl, rfl, rfl, rfl, rfl, rfl, rfl, rfl,
    .inr (by decide +kernel), rfl, fun _ => by decide +kernel⟩

/-! ### Releases, capabilities, system instructions -/

/-- No lane of a small state holds a watch entry. -/
theorem calm (s : State) (h : s.warps.all (fun kw => kw.2.queue.all (fun e => e.watching.isEmpty)) = true) : s.unwatched := by
  intro kw hk e he
  have := List.all_eq_true.mp (List.all_eq_true.mp h kw hk) e he
  simpa using this

/-- The lines of the registers are there. -/
theorem resident {w : Warp} (h : w.regs.toList.all (fun r => !r.spl) = true) (n : Nat) (hn : n < 128) : w.regs[n].spl = false := by
  simp only [List.all_eq_true, Bool.not_eq_true'] at h
  exact h _ (by simp)

/-- Names are apart, as checks. -/
theorem keyedOf (s : State) (h : decide (s.warps.map (·.1)).Nodup && s.warps.all (fun kw => kw.2.key == kw.1 && decide (kw.2.paths.map (·.pid)).Nodup) = true) :
    s.keyed := by
  simp only [Bool.and_eq_true, decide_eq_true_eq, List.all_eq_true, beq_iff_eq] at h
  exact ⟨h.1, fun kw hk => h.2 kw hk⟩
theorem namedOf (s : State) (h : s.warps.all (fun kw => decide (kw.2.paths.map (·.pid)).Nodup && kw.2.paths.all (fun p => decide (p.pid < s.fresh))) = true)
    (hi : s.parts.all (fun np => np.2.image.isNone) = true) : s.named := by
  simp only [Bool.and_eq_true, decide_eq_true_eq, List.all_eq_true] at h hi
  refine ⟨fun kw hk => h kw hk, fun np hn im he => ?_⟩
  have := hi np hn; simp [he] at this

/-- A barrier object in phase 1 at the start of the shared window; a ring descriptor with depth 1, nothing held. -/
def shrOf (s : State) (bs : List Byte) : State := { s with tasks := [(0, { task with shr := { Store.empty with mem := Memory.putAll [] 0 bs } })] }
def eBar : Entry := { entry .barwait .shr [{ acc 0 with len := 16, data := [] }] with scope := .cluster, ord := .acq }
theorem witness_SynchronisationReleases_barrier : ∃ (s : State) (k : WarpKey) (n : Nat) (w : Warp) (p : Path) (e : Entry) (a : Acc) (sp ph : Bool)
    (off : Nat), s.warp k = some w ∧ w.path n = some p ∧ w.place ≠ none ∧ p.wait = .barwait sp off ph ∧
    w.queue.find? (fun f => f.kind == EKind.barwait && f.pid == n) = some e ∧ e.accs = [a] ∧ w.mayGo e a = true ∧
    (s.windowRead w e.space a.off 16).poison = false ∧ (leNat (s.windowBytes w e.space a.off 16)).testBit 48 ≠ ph :=
  ⟨shrOf (stateOf (wq eBar { path none with wait := .barwait false 0 false }) false) (leBytes 16 (2 ^ 48)), key, 0, _, _, _, _, false, false, 0, rfl, rfl,
    by decide, rfl, rfl, rfl, by decide +kernel, by decide +kernel, by decide +kernel⟩
theorem witness_SynchronisationReleases_counter : ∃ (s : State) (k : WarpKey) (n : Nat) (w : Warp) (p : Path) (cls : CntClass) (m : BitVec 6),
    s.warp k = some w ∧ w.path n = some p ∧ w.place ≠ none ∧ p.wait = .waitcnt cls m ∧ w.cnt cls ≤ m.toNat :=
  ⟨sw (.waitcnt .copy 0), key, 0, _, _, .copy, 0, rfl, rfl, by decide, rfl, by decide +kernel⟩
theorem witness_SynchronisationReleases_event : ∃ (s : State) (k : WarpKey) (n : Nat) (w : Warp) (p : Path) (q : Part) (name : BitVec 16) (x : Word),
    s.warp k = some w ∧ w.path n = some p ∧ w.place ≠ none ∧ p.wait = .evwait name x ∧ s.part w.part = some q ∧
    x.toNat ≤ ((q.events.find name).getD 0).toNat :=
  ⟨{ sw (.evwait 3 5) with parts := [(0, { part false with events := [(3, 5)] })] }, key, 0, _, _, _, 3, 5, rfl, rfl, by decide, rfl, rfl, by decide⟩
def ringGet : Instr := .rngget hd false (.v 30) 1 eng
def eRing : Entry := { entry .ring .shr [{ acc 0 with len := 16, data := [], seen := true }] with scope := .cluster, ord := .acq, instr := ringGet }
def ringState : State := shrOf (stateOf (wq eRing { path none with wait := .ring false (.v 30) 1 0 Mask.all }) false) (leBytes 16 1)
theorem witness_SynchronisationReleases_ring : ∃ (s : State) (k : WarpKey) (n : Nat) (w : Warp) (p : Path) (e : Entry) (a : Acc) (h : Hdr) (full : Bool)
    (d : Spec) (pe : BitVec 3) (m : EngArg) (off i g' : Nat) (wt : Mask), s.warp k = some w ∧ w.key = k ∧ w.path n = some p ∧ w.place ≠ none ∧
    p.wait = .ring full d pe off wt ∧ w.queue.find? (fun f => f.kind == EKind.ring && f.pid == n) = some e ∧ w.entry e.id = some e ∧ e.pid = n ∧
    e.space = .shr ∧ e.accs = [a] ∧ a.seen = true ∧ a.len = 16 ∧ w.mayGo e a = true ∧ e.instr = .rngget h full d pe m ∧ s.locationBad w e a = false ∧
    s.windowIn w .shr a.off 16 = true ∧ s.holds (.shr w.key.task) ∧ s.unwatched ∧ s.memOk = true ∧ Lined s (e.ctx w) ∧
    (∀ r, r ∈ e.instr.names → ∀ h : r < 128, w.regs[r].spl = false) ∧ (e.ctx w).wr ≠ 0 ∧ e.held.length ≤ 1 ∧
    RingTaken (leNat (s.windowBytes w .shr a.off 16)) w.role.toNat full i g' :=
  have hr : (wq eRing (path none)).regs.toList.all (fun r => !r.spl) = true := by decide +kernel
  have hb : leNat (ringState.windowBytes (wq eRing { path none with wait := .ring false (.v 30) 1 0 Mask.all }) .shr 0 16) = 1 := by decide +kernel
  ⟨ringState, key, 0, wq eRing { path none with wait := .ring false (.v 30) 1 0 Mask.all }, _, eRing, _, hd, false, .v 30, 1, eng, 0, 0,
    1 + 2 ^ 64 + 2 ^ 11, Mask.all, rfl, rfl, rfl, by decide, rfl, rfl, rfl, rfl, rfl, rfl, rfl, rfl, by decide +kernel, rfl, by decide +kernel,
    by decide +kernel, by show _ ≠ none; decide +kernel, calm _ (by decide +kernel), by decide +kernel, fun j hj => .inl (by
      have : ((eRing.ctx (wq eRing (path none))).w.wuse : Nat) + 7 < (eRing.ctx (wq eRing (path none))).w.wres := by decide +kernel
      show (eRing.ctx (wq eRing (path none))).w.wuse + j < (eRing.ctx (wq eRing (path none))).w.wres
      omega), fun n _ h => resident hr n h, by decide +kernel, by decide, by
      show RingTaken (leNat (ringState.windowBytes (wq eRing { path none with wait := .ring false (.v 30) 1 0 Mask.all }) .shr 0 16)) 0 false 0 _
      rw [hb]; exact ⟨by decide, by decide, by decide, by decide, by decide, by decide⟩⟩
theorem witness_SynchronisationReleases_team : ∃ (s : State) (task team : Nat), s.keyed ∧ s.tbarDue task team = true ∧
    (∀ w ∈ s.team task team, w.place ≠ none) :=
  ⟨sw .tbar, 0, 0, keyedOf _ (by decide +kernel), by decide +kernel, by decide +kernel⟩

theorem witness_Capabilities : ∃ s i c d xs g pd, Issues s i false none c ∧ Roomy s i c ∧ capRow s c i = some (d, xs, g, pd) :=
  have h : okIssue (su [0xFFF, 1]) (.capnar hd (some .f32) none false (.v 32) (some 1) (.v 4) (.v 16) (.v 17)) false none (cu [0xFFF, 1]) = true := by
    decide +kernel
  ⟨_, _, _, _, _, _, _, okIssue_issues h, okIssue_roomy h, rfl⟩
theorem witness_SystemRegisters_reads : ∃ s i c p d xs, Issues s i false none c ∧ Roomy s i c ∧ i.wf = true ∧ s.part c.w.part = some p ∧
    readRow s c p i = some (d, xs) :=
  have h : okIssue (sp []) (.mfx hd 0x4F (.v 30)) false none (cp []) = true := by decide +kernel
  ⟨_, _, _, _, _, _, okIssue_issues h, okIssue_roomy h, by decide +kernel, rfl, rfl⟩
theorem witness_SystemRegisters_flags : ∃ s c h d, Issues s (.rdcnt h 2 d) false none c ∧ Roomy s (.rdcnt h 2 d) c :=
  have h : okIssue (su []) (.rdcnt hd 2 (.v 30)) false none (cu []) = true := by decide +kernel
  ⟨_, _, _, _, okIssue_issues h, okIssue_roomy h⟩

/-- A register that MTX may write. -/
def MtxMet (reg : BitVec 12) : Prop := ∃ s c h a p, Issues s (.mtx h reg a) false none c ∧ Roomy s (.mtx h reg a) c ∧ (Instr.mtx h reg a).wf = true ∧
  s.part c.w.part = some p ∧ ¬ (0x20 ≤ reg.toNat ∧ reg.toNat < 0x40) ∧ s.oneFor c .a a (if sysReg64 reg then 2 else 1)
theorem mtxMet (reg : BitVec 12) (h : okIssue (sp [0x5000, 0]) (.mtx hd reg (.v 16)) false none (cp [0x5000, 0]) = true)
    (hi : (sp [0x5000, 0]).issuing hd false = some (cp [0x5000, 0])) (h2 : (Instr.mtx hd reg (.v 16)).wf = true) (h3 : ¬ (0x20 ≤ reg.toNat ∧ reg.toNat < 0x40)) : MtxMet reg :=
  ⟨_, _, hd, .v 16, _, okIssue_issues h hi, okIssue_roomy h, h2, rfl, h3, by unfold State.oneFor; split <;> decide +kernel⟩
theorem witness_SystemRegisters_frame : MtxMet 0x000 ∧ MtxMet 0x002 :=
  ⟨mtxMet _ (by decide +kernel) rfl (by decide +kernel) (by decide), mtxMet _ (by decide +kernel) rfl (by decide +kernel) (by decide)⟩
theorem witness_SystemRegisters_generators : MtxMet 0x010 ∧ MtxMet 0x011 :=
  ⟨mtxMet _ (by decide +kernel) rfl (by decide +kernel) (by decide), mtxMet _ (by decide +kernel) rfl (by decide +kernel) (by decide)⟩
theorem witness_SystemRegisters_apertures : MtxMet 0x040 ∧ MtxMet 0x06F :=
  ⟨mtxMet _ (by decide +kernel) rfl (by decide +kernel) (by decide), mtxMet _ (by decide +kernel) rfl (by decide +kernel) (by decide)⟩

/-- A handler's warp with a deferred group, and another of its paths. -/
def wx (other : Wait) : Warp :=
  { warp (path (some { frame with xmask := 0xFFFF })) 0 [] with
    paths := [{ path (some { frame with xmask := 0xFFFF }) with lns := 0xFF }, { path (some { frame with xmask := 0xFFFF }) with pid := 1, lns := 0xFF00, wait := other }]
    defers := [⟨0xFFFF0000, 0x10000, 4000⟩] }
def cx (other : Wait) : Ctx := { ctxOf (wx other) { path (some { frame with xmask := 0xFFFF }) with lns := 0xFF } hd with act := 0xFF, wr := 0xFF }
/-- What HandlerReturn asks of a state. -/
def ReturnMet (other : Wait) : Prop := ∃ s c h f pl, Issues s (.xret h) true none c ∧ c.p.frame = some f ∧ c.w.place = some pl ∧ s.keyed ∧ s.named ∧
  c.w.key = c.k ∧ f.xpc.toNat % 4 = 0 ∧ f.xpc.toNat < 2 ^ 57 ∧ (∀ q ∈ c.w.paths, q.handler = true → ∃ g, q.frame = some g ∧ g.xpc = f.xpc ∧ g.xmask = f.xmask) ∧
  (∀ kw ∈ s.warps, kw.1 ≠ c.k → kw.2.defers = []) ∧ ∃ q ∈ c.w.paths, q.handler = true ∧ q.pid ≠ c.pid ∧ q.wait = other
theorem returnMet (other : Wait) (h : okIssue (stateOf (wx other) false) (.xret hd) true none (cx other) = true)
    (hi : (stateOf (wx other) false).issuing hd true = some (cx other)) (hh : Path.handler { path (some frame) with wait := other } = true) : ReturnMet other :=
  ⟨stateOf (wx other) false, cx other, hd, { frame with xmask := 0xFFFF }, ⟨⟨0, 0⟩, 0⟩, okIssue_issues h hi, rfl, rfl, keyedOf _ rfl, namedOf _ rfl rfl,
    rfl, by decide, by decide, by
      intro q hq _
      simp only [cx, ctxOf, wx, List.mem_cons, List.not_mem_nil, or_false] at hq
      rcases hq with rfl | rfl <;> exact ⟨_, rfl, rfl, rfl⟩, by
      intro kw hk hne
      simp only [stateOf, List.mem_singleton] at hk; subst hk; exact absurd rfl hne,
    { path (some { frame with xmask := 0xFFFF }) with pid := 1, lns := 0xFF00, wait := other }, by simp [cx, ctxOf, wx], hh, by show (1 : Nat) ≠ 0; decide, rfl⟩
theorem witness_HandlerReturn_waits : ReturnMet .none := returnMet _ (by decide +kernel) rfl rfl
theorem witness_HandlerReturn_returns : ReturnMet .xret := returnMet _ (by decide +kernel) rfl rfl

theorem witness_SystemInstructions_translations : ∃ (s : State) (c : Ctx) (h : Hdr) (whole : Bool) (a b d : Spec) (p : Part),
    Issues s (.tlbinv h whole a b d) false none c ∧ Roomy s (.tlbinv h whole a b d) c ∧ s.part c.w.part = some p ∧ (s.word c .c d c.low).toNat < 64 ∧
    p.ctxs.find (BitVec.ofNat 6 (s.word c .c d c.low).toNat) ≠ none ∧ s.oneFor c .c d 1 ∧
    (whole = false → s.oneFor c .a a 2 ∧ s.oneFor c .b b 2) ∧ c.w.fencing = false ∧
    s.translating c.w.part (BitVec.ofNat 6 (s.word c .c d c.low).toNat)
      (if whole then none else some ((s.pairAt c .a a c.low).toNat, (s.pairAt c .b b c.low).toNat)) = false ∧
    (∀ kw ∈ s.warps, ∀ e ∈ kw.2.queue, ∀ q, e.kind ≠ .waitmem q) :=
  have h : okIssue (sp [0x3000, 0, 0x1000, 0, 0]) (.tlbinv hd false (.v 16) (.v 18) (.v 20)) false none (cp [0x3000, 0, 0x1000, 0, 0]) = true := by
    decide +kernel
  ⟨_, _, _, _, _, _, _, _, okIssue_issues h, okIssue_roomy h, rfl, by decide +kernel, by decide +kernel, by unfold State.oneFor; decide +kernel,
    fun _ => by unfold State.oneFor; decide +kernel, by decide +kernel, by decide +kernel, by
      intro kw hk e he; cases List.mem_singleton.mp hk; cases he⟩
theorem witness_SystemInstructions_checkpoint : ∃ s c h p, Issues s (.ckpt h) false none c ∧ State.part s c.w.part = some p ∧ p.arg.sliced = true ∧
    p.ckBegan = none :=
  have h : okIssue (sliced (su [])) (.ckpt hd) false none (cu []) = true := by decide +kernel
  ⟨_, _, _, _, okIssue_issues h, rfl, rfl, rfl⟩
theorem witness_SystemInstructions_halt : ∃ (s : State) (c : Ctx) (h : Hdr) (f : Frame) (x : Task), Issues s (.halt h) false none c ∧
    c.p.frame = some f ∧ s.task c.k.task = some x ∧ x.id = c.k.task ∧ s.keyed ∧
    (∀ kw ∈ s.warps, kw.2.defers ≠ [] → kw.1 = c.k ∨ (x.trec.harv = false ∧ kw.1.task = c.k.task)) :=
  have h : okIssue (sp []) (.halt hd) false none (cp []) = true := by decide +kernel
  ⟨sp [], cp [], hd, frame, task, okIssue_issues h, rfl, rfl, rfl, keyedOf _ rfl, by
    intro kw hk hd; simp only [sp, stateOf, List.mem_singleton] at hk; subst hk; exact .inl rfl⟩

theorem triple {α β γ : Type} (x : α × β × γ) : x = (x.1, x.2.1, x.2.2) := rfl
/-- The global operand c2 + 4·lid. -/
def glob : MemArg := ⟨.v 8, .lid, 2, .glob⟩
def pinForm := (su []).lineAddrs (cu []) glob (0 : BitVec 24).toInt
def prefForm := (su []).formAll (fun s l => s.laneAddr (cu []) glob (0 : BitVec 24).toInt 4 4 permR .read l) (cu []).wr
theorem witness_LineInstructions_pin : ∃ (s u : State) (c : Ctx) (h : Hdr) (pd : BitVec 3) (m : MemArg) (disp : BitVec 24) (lns : List (Lane × Nat)),
    Issues s (.pin h pd m disp) false none c ∧ Roomy s (.pin h pd m disp) c ∧
    s.lineAddrs c m disp.toInt = (u, [], lns) :=
  have h : okIssue (su []) (.pin hd 1 glob 0) false none (cu []) = true := by decide +kernel
  ⟨_, pinForm.1, _, _, _, _, _, pinForm.2.2, okIssue_issues h, okIssue_roomy h, noFaults (x := pinForm) (by decide +kernel)⟩
theorem witness_LineInstructions_line : ∃ (s : State) (part line : Nat) (p : Part) (x : L2Line), s.part part = some p ∧
    s.l2.find? (fun l => l.line == line) = some x :=
  ⟨{ su [] with l2 := [⟨0x20, 0, 0, false, [], false, 0⟩] }, 0, 0x20, _, _, rfl, rfl⟩
theorem witness_LineInstructions_unpin : ∃ (s u : State) (c : Ctx) (h : Hdr) (m : MemArg) (disp : BitVec 24) (lns : List (Lane × Nat)),
    Issues s (.unpin h m disp) false none c ∧ Roomy s (.unpin h m disp) c ∧
    s.lineAddrs c m disp.toInt = (u, [], lns) :=
  have h : okIssue (su []) (.unpin hd glob 0) false none (cu []) = true := by decide +kernel
  ⟨_, pinForm.1, _, _, _, _, pinForm.2.2, okIssue_issues h, okIssue_roomy h, noFaults (x := pinForm) (by decide +kernel)⟩
theorem witness_LineInstructions_prefetch : ∃ (s u : State) (c : Ctx) (h : Hdr) (m : MemArg) (disp : BitVec 24) (accs : List Acc)
    (faults : List (Lane × Cause)), Issues s (.pref h m disp) false none c ∧ Roomy s (.pref h m disp) c ∧
    s.formAll (fun s l => s.laneAddr c m disp.toInt 4 4 permR .read l) c.wr = (u, faults, accs) :=
  have h : okIssue (su []) (.pref hd glob 0) false none (cu []) = true := by decide +kernel
  ⟨_, prefForm.1, _, _, _, _, prefForm.2.2, prefForm.2.1, okIssue_issues h, okIssue_roomy h, triple prefForm⟩
theorem witness_LineInstructions_instructions : ∃ (s : State) (c : Ctx) (h : Hdr) (m : MemArg) (disp : BitVec 24),
    Issues s (.icinv h m disp) false none c ∧ Roomy s (.icinv h m disp) c ∧ c.w.fencing = false ∧
    ∀ l, c.wr.has l = true → capCheck (s.quadTag c .a m.a l) (s.quadAt c .a m.a l) true
      (effOffset (s.quadAt c .a m.a l) (s.word c .b m.b l) m.sh disp.toInt) 1 permR none false = none :=
  have h : okIssue (su []) (.icinv hd glob 0) false none (cu []) = true := by decide +kernel
  ⟨_, _, _, _, _, okIssue_issues h, okIssue_roomy h, by decide +kernel, by decide +kernel⟩
theorem witness_LendingScratchpad : ∃ (s : State) (c : Ctx) (h : Hdr) (pd : BitVec 3) (m : EngArg) (e : Spec), Issues s (.hvlend h pd m e) false none c ∧
    Roomy s (.hvlend h pd m e) c ∧ c.w.inHarvest = false ∧ s.oneFor c .e e 1 ∧
    effOffset (s.quadAt c .a m.a c.low) (s.word c .b m.b c.low) m.sh (16 * m.disp.toInt) % 64 = 0 ∧ (s.word c .e e c.low).toNat % 64 = 0 ∧
    (s.word c .e e c.low).toNat ≤ 196608 ∧
    capCheck (s.quadTag c .a m.a c.low) (s.quadAt c .a m.a c.low) false
      (effOffset (s.quadAt c .a m.a c.low) (s.word c .b m.b c.low) m.sh (16 * m.disp.toInt)) (s.word c .e e c.low).toNat (permR ||| permW) none false = none ∧
    s.harvestRuns c.core = false ∧ s.rangeBusy c.core = false :=
  have h : okIssue (su [0x1000]) (.hvlend hd 1 eng (.v 16)) false none (cu [0x1000]) = true := by decide +kernel
  ⟨_, _, _, _, _, _, okIssue_issues h, okIssue_roomy h, by decide +kernel, by unfold State.oneFor; decide +kernel, by and_intros <;> decide +kernel⟩

/-! ### Engines -/

/-- The warp whose c1 is another capability. -/
def wc (q : CapBits) (role : BitVec 2) (xs : List Word) : Warp :=
  let w := warp (path none) role xs
  let r := w.regs
  { w with regs := ((quad q).zipIdx.foldl (fun r x => r.setIfInBounds (4 + x.2) x.1) r) }
def sc (q : CapBits) (role : BitVec 2) (xs : List Word) : State := stateOf (wc q role xs) false
def cc (q : CapBits) (role : BitVec 2) (xs : List Word) : Ctx := ctxOf (wc q role xs) (path none) hd

/-- The hypotheses of EngineIssue are met by an instruction. -/
def EngineIssueMet (i : Instr) : Prop := ∃ s c off br r ok, Issues s i false (some (roleFor i)) c ∧ Roomy s i c ∧ opRow s c off br i = some (r, ok) ∧ ok ∧
  ∀ cls, r.cls = some cls → c.w.cnt cls < 63
theorem engineIssueMet (q : CapBits) (role : BitVec 2) (xs : List Word) (i : Instr) (off : Nat) (br : Option (Bool × Nat)) (r : OpRow) (ok : Prop)
    (h : okIssue (sc q role xs) i false (some (roleFor i)) (cc q role xs) = true) (hi : (sc q role xs).issuing i.hdr false = some (cc q role xs))
    (hr : opRow (sc q role xs) (cc q role xs) off br i = some (r, ok)) (hok : ok) : EngineIssueMet i :=
  ⟨_, _, off, br, r, ok, okIssue_issues h hi, okIssue_roomy h, hr, hok, fun cls _ => by cases cls <;> (show (0 : Nat) < 63; decide)⟩

/-- Capabilities of a window: 4 KiB; the 16 KiB of e4m3 rows; 1 MiB. -/
def q4 : CapBits := capMake 0 0 0 0x1000 0x3F 0
def qA : CapBits := capMake 0 4 0 0x4000 0x3F 0
def qD : CapBits := capMake 0 0 0 0x100000 0x3F 0

theorem witness_EngineIssue_copy : EngineIssueMet (.cpy hd .cluster .sscr .dshr eng) :=
  engineIssueMet q4 1 [] _ 0 none _ _ (by decide +kernel) (by decide +kernel) rfl (by unfold State.cardAt State.oneFor; decide +kernel)
theorem witness_EngineIssue_gather : EngineIssueMet (.cpyg hd .device .sscr .dscr eng (.v 16)) :=
  engineIssueMet q4 1 [] _ 0 none _ _ (by decide +kernel) (by decide +kernel) rfl (by unfold State.cardAt State.oneFor; decide +kernel)
theorem slot1 (q : CapBits) (role : BitVec 2) (xs : List Word) : (sc q role xs).slotIn (cc q role xs) .f32 1 := ⟨task, rfl, by decide⟩
theorem witness_EngineIssue_multiply : EngineIssueMet (.mma hd .cluster false .f32 none 1 eng (.v 16) (.v 20)) :=
  engineIssueMet qA 2 [4] _ 0 none _ _ (by decide +kernel) (by decide +kernel) rfl
    ⟨by unfold State.oneFor; decide +kernel, by unfold State.oneFor; decide +kernel, by unfold State.oneFor; decide +kernel, slot1 _ _ _, by decide +kernel,
      by decide +kernel, rfl, by decide +kernel, by unfold rowsPass; decide +kernel⟩
theorem witness_EngineIssue_zero : EngineIssueMet (.mzero hd .cluster .f32 (some (.v 16)) 1) :=
  engineIssueMet q4 2 [0x40] _ 0 (some (false, 0x40)) _ _ (by decide +kernel) (by decide +kernel) rfl
    ⟨slot1 _ _ _, ⟨by unfold State.oneFor; decide +kernel, by decide +kernel, by decide +kernel, by decide +kernel⟩, rfl⟩
theorem witness_EngineIssue_drain : EngineIssueMet (.mdrain hd .device .f32 false none 1 (.v 4) .rn .f32) :=
  engineIssueMet qD 2 [] _ 0 none _ _ (by decide +kernel) (by decide +kernel) rfl
    ⟨rfl, by decide +kernel, by intro v hv; cases hv; decide +kernel, slot1 _ _ _, rfl, by unfold rowsPass; decide +kernel, nofun, nofun⟩
theorem witness_EngineIssue_load : EngineIssueMet (.wtload hd .cluster .sshr none 1 eng) :=
  engineIssueMet q4 2 [] _ 0 none _ _ (by decide +kernel) (by decide +kernel) rfl
    ⟨by unfold State.oneFor; decide +kernel, by unfold State.oneFor; decide +kernel, rfl, by decide +kernel, by decide +kernel⟩
theorem witness_EngineIssue_collective : ∃ (s : State) (c : Ctx) (h : Hdr) (sc : Scope) (src : SrcWin) (dst : DstWin) (m : EngArg) (e : Spec) (off : Nat) (p : Part),
    Issues s (.coll h sc src dst m e) false (some 1) c ∧ Roomy s (.coll h sc src dst m e) c ∧ s.part c.w.part = some p ∧ s.oneFor c .e e 4 ∧
    s.quadTag c .e e c.low = true ∧ (s.quadAt c .e e c.low).getLsbD 111 = true ∧
    capCheck true (s.quadAt c .e e c.low) true (capBase (s.quadAt c .e e c.low)) (capLen (s.quadAt c .e e c.low)) 0 none true = none ∧ p.fxTight = false ∧
    s.cardAt c m off ∧ c.w.cntColl < 63 :=
  have h : okIssue (sr 1 []) (.coll hd .fabric .sscr .dscr eng (.v 12)) false (some 1) (cr 1 []) = true := by decide +kernel
  ⟨_, _, _, _, _, _, _, _, 0, _, okIssue_issues h, okIssue_roomy h, rfl, by unfold State.oneFor; decide +kernel, by decide +kernel, by decide +kernel,
    by decide +kernel, by decide +kernel, by unfold State.cardAt State.oneFor; decide +kernel, by decide +kernel⟩
theorem witness_EngineIssue_index : ∃ (s : State) (c : Ctx) (h : Hdr) (a b : Spec), Issues s (.widx h a b) false (some 2) c ∧ Roomy s (.widx h a b) c ∧
    s.oneFor c .a a 1 ∧ s.oneFor c .b b 2 ∧ (s.word c .a a c.low).toNat < (s.indexWindow c).1 ∧
    (∀ o ∈ s.ops, o.w = c.k → o.matrix = true → o.phase ≠ .queued) :=
  have h : okIssue (sr 2 [7, 0, 5, 6]) (.widx hd (.v 16) (.v 18)) false (some 2) (cr 2 [7, 0, 5, 6]) = true := by decide +kernel
  ⟨_, _, _, _, _, okIssue_issues h, okIssue_roomy h, by unfold State.oneFor; decide +kernel, by unfold State.oneFor; decide +kernel, by decide +kernel,
    fun o ho => by cases (show o ∈ ([] : List EngOp) from ho)⟩

/-- An operation of the warp. -/
def op (i : Instr) (phase : OpPhase) : EngOp :=
  { id := 9, part := 0, instr := i, w := key, core := ⟨0, 0⟩, slot := 0, cls := some .copy, scope := .cluster, hzn := 0, x := 0x10000, lns := Mask.all
    caps := [], off := 0, rows := Vector.replicate 32 0, scales := [], b := 0, bar := none, earlier := [], phase := phase, bytes := none, k := 0
    gated := none }
def so (o : EngOp) (scr : List Byte) (tags : List Nat) : State :=
  { su [] with ops := [o], tasks := [(0, { task with scr := [{ Store.empty with mem := Memory.putAll [] 0 scr, tags := tags }] })] }
theorem plain (o : EngOp) (scr : List Byte) (tags : List Nat) (h : ∀ a b c, o.phase ≠ .collecting a b c) : (so o scr tags).plainOps :=
  ⟨by simp [so], by intro x hx; simp only [so, List.mem_singleton] at hx; subst hx; exact h⟩

/-- A card of 4 columns of format 0, from the scratchpad window to the shared one. -/
def card : List Byte := leBytes 64 (q4.toNat + 2 ^ 128 * q4.toNat + 2 ^ 256 * 0x100 + 2 ^ 288 * 0x200 + 2 ^ 320 * 4 + 2 ^ 336)
def cpy : Instr := .cpy hd .cluster .sscr .dshr eng
def sCard : State := so (op cpy .queued) card [0, 1]
theorem witness_EngineWork_copy : ∃ (s : State) (id : Nat) (eng : Bool) (o : EngOp) (w : Warp) (h : Hdr) (sc : Scope) (src : SrcWin) (dst : DstWin)
    (m : EngArg) (a b : Nat) (sp : Space),
    let c := Card.of (s.windowBytes w .scr o.off 64) (s.windowRead w .scr o.off 16).tag (s.windowRead w .scr (o.off + 16) 16).tag
    let len := c.cols * elemBytes (capFmt c.scap)
    s.op id = some o ∧ s.plainOps ∧ o.instr = .cpy h sc src dst m ∧ o.phase = .queued ∧ s.nextCopy o.core.cluster false eng = some o ∧
    s.warp o.w = some w ∧ w.key = o.w ∧ s.unwatched ∧ s.memOk = true ∧
    s.windowIn w .scr o.off 64 = true ∧ (s.windowRead w .scr o.off 64).poison = false ∧ c.clear = true ∧ c.mode < 4 ∧
    c.stg = [0, 0, 0, 0, 0, 0] ∧ c.ben = false ∧ c.rows = 1 ∧ c.cols ≠ 0 ∧ capGlobal c.scap = false ∧ capGlobal c.dcap = false ∧
    capFmt c.scap = capFmt c.dcap ∧ capFmt c.scap < 10 ∧ dstSpace c.dcap dst = some sp ∧
    capBad c.stag c.scap (permR ||| permAsync) = false ∧ capBad c.dtag c.dcap (permW ||| permAsync) = false ∧
    rowAt c.scap c.stag c.soff (pitchOf c.scap len) 0 len (permR ||| permAsync) = .ok a ∧
    rowAt c.dcap c.dtag c.doff (pitchOf c.dcap len) 0 len (permW ||| permAsync) = .ok b ∧
    s.windowIn w (srcWindow src) a len = true ∧ (s.windowRead w (srcWindow src) a len).poison = false ∧
    s.windowIn w sp b len = true ∧ s.holds (s.window w sp).1 ∧ s.holds (s.window w .scr).1 :=
  ⟨sCard, 9, false, op cpy .queued, wu [], hd, .cluster, .sscr, .dshr, Tests.eng, 0x100, 0x200, .shr, rfl, plain _ _ _ nofun, rfl, rfl, by decide +kernel, rfl, rfl,
    calm _ rfl, by
      and_intros
      all_goals first | decide +kernel | (show _ ≠ none; decide +kernel) | exact ⟨_, rfl, by decide +kernel⟩⟩
def mzero : Instr := .mzero hd .cluster .f32 none 1
theorem witness_EngineWork_matrix : ∃ (s : State) (k : BitVec 5) (o : EngOp) (w : Warp) (x : Task) (h : Hdr) (sc : Scope) (fmt : AccFmt) (bar : Option Spec)
    (slot : BitVec 6), s.nextGrant k.toNat = some o ∧ s.warp o.w = some w ∧ o.instr = .mzero h sc fmt bar slot ∧ s.plainOps ∧ o ∈ s.ops ∧
    s.task o.w.task = some x ∧ s.unwatched ∧ s.memOk = true :=
  ⟨so (op mzero .queued) [] [], 0, op mzero .queued, _, _, hd, .cluster, .f32, none, 1, by decide +kernel, rfl, rfl, plain _ _ _ nofun, .head _, rfl,
    calm _ rfl, by decide +kernel⟩
theorem witness_EngineWork_contribution : ∃ s : State, s.plainOps ∧ s.unwatched := ⟨_, plain (op mzero .queued) [] [] nofun, calm _ rfl⟩

/-- A finished operation with a barrier object in the scratchpad window. -/
def oDone : EngOp := { op cpy (.worked 0 none) with bar := some (true, 0), bytes := some 16 }
theorem witness_EngineWork_complete : ∃ (s : State) (id : Nat) (o : EngOp) (w : Warp) (g : DWord) (p : Part) (scr : Bool) (off n : Nat),
    s.op id = some o ∧ s.warp o.w = some w ∧ w.key = o.w ∧ o.phase = .worked g none ∧ s.opReleased o g = true ∧ s.oldest o = true ∧
    s.part o.part = some p ∧ p.trace = none ∧ s.plainOps ∧ s.unwatched ∧ s.memOk = true ∧ o.bar = some (scr, off) ∧ o.bytes = some n ∧
    s.windowIn w (spSpace scr) off 16 = true ∧ (s.windowRead w (spSpace scr) off 16).poison = false ∧ s.holds (s.window w (spSpace scr)).1 ∧
    n ≤ leNat (s.windowBytes w (spSpace scr) off 16) % 2 ^ 32 :=
  ⟨so oDone (leBytes 16 16) [], 9, oDone, wu [], 0, part false, true, 0, 16, rfl, rfl, rfl, rfl, by decide +kernel, by decide +kernel, rfl, rfl,
    plain _ _ _ nofun, calm _ rfl, by decide +kernel, rfl, rfl, by decide +kernel, by decide +kernel, ⟨_, rfl, by decide +kernel⟩, by decide +kernel⟩

/-! ### The module -/

/-- Nothing is in an empty list. -/
theorem none_of {α : Type} {l : List α} (h : l = []) {P : α → Prop} : ∀ x ∈ l, P x := by subst h; exact fun _ hx => nomatch hx
theorem mem1 {α : Type} {x y : α} (h : x ∈ [y]) : x = y := List.mem_singleton.mp h

theorem untraced1 (s : State) (p : Part) (h : s.parts = [(0, p)]) (ht : p.trace = none) : s.untraced := by
  intro np hn; rw [h] at hn; cases mem1 hn; exact ht
theorem numbered1 (s : State) (p : Part) (h : s.parts = [(0, p)]) (hi : p.id = 0) : s.numbered := by
  intro n q hq
  simp only [State.part, h, Tab.find] at hq
  split at hq
  · rename_i e; cases hq; rw [hi, e]
  · cases hq

theorem witness_PowerControl : ∃ s : State, s.untraced ∧ s.numbered ∧ s.parts ≠ [] := ⟨su [], untraced1 _ _ rfl rfl, numbered1 _ _ rfl rfl, by decide⟩
theorem witness_PowerControl_emergency : ∃ s : State, s.untraced ∧ s.numbered ∧ s.emergency = .moved 0 ∧ 2000 ≤ s.gtime.toNat :=
  ⟨{ su [] with emergency := .moved 0 }, untraced1 _ _ rfl rfl, numbered1 _ _ rfl rfl, rfl, by decide⟩
/-- A meter of cluster 0 for a partition that ran below the rail: its excess goes to the one that voted higher. -/
theorem witness_PowerControl_excess : ∃ (s : State) (m : Meter) (p q : Part), s.part m.part = some p ∧ p.voteFor m.cluster = .vlo ∧
    (s.cluster m.cluster.toNat).rail = .vhi ∧
    s.parts.vals.filter (fun x => x.clusters.getLsbD m.cluster.toNat && x.voteFor m.cluster == .vhi) = [q] ∧ q.id ≠ m.part ∧ s.part q.id = some q :=
  ⟨{ su [] with parts := [(0, part false), (1, { part false with id := 1, votes := [(0, .vhi)] })], clusters := [(0, { Cluster.fresh with rail := .vhi })] },
    ⟨0, 0, 1, 9, 5⟩, part false, _, rfl, rfl, rfl, rfl, by decide, rfl⟩
theorem witness_PowerControl_plain : ∃ (s : State) (m : Meter), s.noExcess [m] ∧ s.part m.part ≠ none :=
  ⟨su [], ⟨0, 0, 1, 9, 5⟩, by intro m h p _; cases mem1 h; exact .inr (by decide +kernel), by decide +kernel⟩
theorem witness_PowerControl_limit : ∃ (s : State) (watts : Nat), s.untraced ∧ s.numbered ∧ s.emergency = .none ∧ s.grants = 1 ∧ s.idle = 8 ∧
    capNow s.pwrcap < watts :=
  ⟨{ su [] with grants := 1, idle := 8 }, 1801, untraced1 _ _ rfl rfl, numbered1 _ _ rfl rfl, rfl, rfl, rfl, by decide +kernel⟩
/-- At the cap itself, with the average of the window above it. -/
theorem witness_PowerControl_average : ∃ (s : State) (watts : Nat), s.untraced ∧ s.numbered ∧ s.emergency = .none ∧ ¬ capNow s.pwrcap < watts ∧
    capNow s.pwrcap * ((watts :: s.watts).take (winNow s.pwrcap)).length < ((watts :: s.watts).take (winNow s.pwrcap)).sum :=
  ⟨{ su [] with watts := [1801] }, 1800, untraced1 _ _ rfl rfl, numbered1 _ _ rfl rfl, rfl, by decide +kernel, by decide +kernel⟩
theorem witness_PowerControl_votes : ∃ (s : State) (part : Nat) (p : Part), s.boot = .run ∧ s.part part = some p ∧ p.clusters.getLsbD 0 = true ∧
    p.clusters.getLsbD 1 = false := ⟨su [], 0, _, rfl, rfl, rfl, rfl⟩
theorem witness_PowerControl_gate : ∃ s : State, (∀ x ∈ s.tasks, x.2.cluster = 1 → x.2.resident = false) ∧
    ∀ x ∈ s.warps, ∀ pl, x.2.place = some pl → pl.core.cluster ≠ 1 :=
  ⟨su [], by decide +kernel, by intro x hx pl hp; cases mem1 hx; cases hp; decide⟩

theorem witness_HeatRetirementTime_heat : ∃ (s : State) (g : DWord), s.hot0 = some g ∧ g.toNat + 100000000 ≤ s.gtime.toNat :=
  ⟨{ su [] with hot0 := some 0, gtime := 100000000 }, 0, rfl, by decide⟩
theorem witness_HeatRetirementTime_lost : ∃ (s : State) (src : TimeSrc) (g : DWord), s.timeSrc = some src ∧ s.lastOf src = some g ∧
    g.toNat + 4000000000 ≤ s.gtime.toNat := ⟨{ su [] with timeSrc := some .ptp, lastPtp := some 0, gtime := 4000000000 }, .ptp, 0, rfl, rfl, by decide⟩

theorem witness_StartUp_images : ∃ s : State, s.boot = .rom ∧ s.memOk = true := ⟨State.reset, rfl, by decide +kernel⟩
theorem witness_StartUp_staging : ∃ off len : Nat, off + len ≤ 2 ^ 26 ∧ off + len = 2 ^ 26 := ⟨2 ^ 26 - 1, 1, by decide, by decide⟩
theorem witness_StartUp_length : ∃ len : Nat, 256 ≤ len ∧ len ≤ 2 ^ 26 := ⟨256, by decide, by decide⟩
/-- The length at both ends of its range, the staging memory empty: the magic is not there. -/
theorem witness_StartUp_bad : ∃ (s : State) (len : Nat), s.boot = .rom ∧ 256 ≤ len ∧ len ≤ 2 ^ 26 ∧
    leNat ((s.staging.bytes 0 len).take 4) ≠ 0x4B465731 := ⟨State.reset, 256, rfl, by decide, by decide, by decide +kernel⟩
theorem witness_StartUp_start : ∃ s t u : State, s.boot = .verified ∧ t.boot = .off ∧ u.boot ≠ .off :=
  ⟨{ State.reset with boot := .verified }, { State.reset with boot := .off }, State.reset, rfl, rfl, by decide⟩

/-- What a partition asks for: cluster 1, channel 2, a unit. -/
def arg2 : PartArg := { arg false with clusters := 2, channels := 4, fes := [⟨5, 1, 1, 0⟩], l2col0 := 0, l2col1 := 0, chcol0 := 0, chcol1 := 0 }
theorem witness_PartitionLife_fails : ∃ (s : State) (a : PartArg), s.boot = .run ∧ s.createFails a = true ∧
    ∃ np ∈ s.parts, (a.sliced = false ∨ np.2.arg.sliced = false) ∧ a.clusters &&& np.2.clusters ≠ 0 :=
  ⟨su [], arg false, rfl, by decide +kernel, ⟨_, .head _, .inl rfl, by decide +kernel⟩⟩
/-- Nine colours of a die are asked for where eight are held. -/
theorem witness_PartitionLife_colours : ∃ (s : State) (a : PartArg), s.boot = .run ∧ (∀ x ∈ s.tasks, x.2.part < s.fresh) ∧ 16 < chipColoursOf s a PartArg.chcol0 :=
  ⟨{ su [] with parts := [(0, { part false with arg := { arg false with chcol0 := 0xFF } })] }, { arg2 with chcol0 := 0x1FF00 }, rfl,
    by intro x h; cases mem1 h; decide, by decide +kernel⟩
theorem witness_PartitionLife_creates : ∃ (s : State) (a : PartArg), s.boot = .run ∧ (∀ x ∈ s.tasks, x.2.part < s.fresh) ∧ s.createFails a = false ∧
    (a.units.filter (· < 384)).length ≤ s.cleanPool.length := ⟨{ State.reset with boot := .run }, arg false, rfl, nofun, by decide +kernel, by decide +kernel⟩
theorem witness_PartitionLife_waits : ∃ (s : State) (a : PartArg), s.boot = .run ∧ s.createFails a = false ∧
    s.cleanPool.length < (a.units.filter (· < 384)).length := ⟨{ State.reset with boot := .run, cleanPool := [], scrubQ := [0] }, arg false, rfl, by decide +kernel, by decide +kernel⟩
theorem witness_PartitionLife_there : ∃ (s : State) (part : Nat) (p : Part) (units : List Nat), s.boot = .run ∧ s.part part = some p ∧ p.id = part ∧
    (∀ u ∈ units, ∃ x ∈ p.units, x.2 = u) ∧ units.eraseDups.length = units.length ∧ units ≠ [] :=
  ⟨su [], 0, part false, [0], rfl, rfl, rfl, by decide +kernel, by decide +kernel, by decide⟩
theorem witness_PartitionLife_release : ∃ (s : State) (part : Nat) (p : Part) (units : List Nat), s.boot = .run ∧ s.part part = some p ∧
    (∀ u ∈ units, ∃ x ∈ p.units, x.2 = u) ∧ units.eraseDups.length = units.length ∧ s.reaching part units = false ∧ units ≠ [] :=
  ⟨su [], 0, part false, [0], rfl, rfl, by decide +kernel, by decide +kernel, by decide +kernel, by decide⟩
theorem witness_PartitionLife_reaching : ∃ (s : State) (part : Nat) (p : Part) (units : List Nat), s.boot = .run ∧ s.part part = some p ∧
    (∀ u ∈ units, ∃ x ∈ p.units, x.2 = u) ∧ units.eraseDups.length = units.length ∧ s.reaching part units = true :=
  ⟨sq eSt, 0, part false, [0], rfl, rfl, by decide +kernel, by decide +kernel, by decide +kernel⟩
theorem witness_PartitionLife_scrub : ∃ (s : State) (unit : Nat) (rest : List Nat), s.scrubQ = unit :: rest ∧ s.memOk = true :=
  ⟨{ su [] with scrubQ := [383, 0] }, 383, [0], rfl, by decide +kernel⟩
theorem witness_PartitionLife_order : ∃ (s : State) (unit : Nat), unit ∈ s.scrubQ ∧ ∀ rest, s.scrubQ ≠ unit :: rest :=
  ⟨{ su [] with scrubQ := [383, 0] }, 0, .tail _ (.head _), by
    intro r h; exact absurd (List.cons.inj (show ([383, 0] : List Nat) = 0 :: r from h)).1 (by decide)⟩

theorem witness_Configuration_contexts : ∃ (s : State) (part ctx pinq : Nat) (root hentry : DWord) (p : Part), s.boot = .run ∧ s.part part = some p ∧
    ctx < 64 ∧ root.toNat % 8192 = 0 ∧ pinq ≤ 2 ^ 20 ∧ hentry.toNat % 64 = 0 ∧ hentry.toNat < 2 ^ 57 ∧ s.translating part (BitVec.ofNat 6 ctx) none = false :=
  ⟨su [], 0, 63, 2 ^ 20, 0x2000, 0x40000, _, rfl, rfl, by decide, by decide, by decide, by decide, by decide, by decide +kernel⟩
theorem witness_Configuration_busy : ∃ (s : State) (part : Nat) (p : Part), s.boot = .run ∧ s.part part = some p ∧ p.ctxs.find 0 ≠ none ∧
    (∀ n, n < 16 → (s.fe n).part = some part → (s.fe n).ctx ≠ 0) ∧ s.translating part 0 none = true :=
  ⟨sq eSt, 0, _, rfl, rfl, by decide +kernel, by decide +kernel, by decide +kernel⟩
theorem witness_Configuration_deletes : ∃ (s : State) (part : Nat) (p : Part), s.boot = .run ∧ s.part part = some p ∧ p.ctxs.find 0 ≠ none ∧
    (∀ n, n < 16 → (s.fe n).part = some part → (s.fe n).ctx ≠ 0) ∧ s.translating part 0 none = false :=
  ⟨su [], 0, _, rfl, rfl, by decide +kernel, by decide +kernel, by decide +kernel⟩

/-- Front end 0 with one command in its queue; page tables that map GiB 0 onto itself. -/
def fe0 : FrontEnd := { FrontEnd.fresh with part := some 0, qen := true, tail := 1 }
def tables : Machine.Memory :=
  Memory.putAll (Memory.putAll (Memory.putAll [] 0x6000 (leBytes 16 (3 + 3 * 2 ^ 64))) 0x4000 (leBytes 8 0x6001)) 0x2000 (leBytes 8 0x4001)
def sf (cmd : Nat) : State :=
  { su [] with fes := (Vector.replicate 16 FrontEnd.fresh).set 0 fe0, hostMem := Memory.putAll [] 0 (leBytes 64 cmd), hbm := { Store.empty with mem := tables } }
theorem witness_Configuration_range : ∃ (s : State) (fe : BitVec 4) (lo hi : BitVec 5), s.boot = .run ∧ (s.fe fe.toNat).part ≠ none ∧ lo.toNat ≤ hi.toNat :=
  ⟨sf 0, 0, 31, 31, rfl, by decide +kernel, by decide⟩
def held : Path := { path (some frame) with wait := .debug }
theorem witness_Configuration_debug : ∃ (s : State) (k : WarpKey) (w : Warp) (p : Path) (f : Frame), s.warp k = some w ∧ w.key = k ∧
    w.paths.find? (fun q => q.wait == .debug) = some p ∧ p.frame = some f ∧ s.named ∧ s.keyed ∧ (∀ kw ∈ s.warps, kw.2.defers = []) ∧
    f.xpc.toNat % 4 = 0 ∧ f.xpc.toNat < 2 ^ 57 :=
  ⟨stateOf (warp held 0 []) true, key, _, held, frame, rfl, rfl, rfl, rfl, namedOf _ rfl rfl, keyedOf _ rfl, by intro kw h; cases mem1 h; rfl,
    by decide, by decide⟩
theorem witness_Configuration_quiet : ∃ (s : State) (k : WarpKey), ∀ w, s.warp k = some w → ∀ q ∈ w.paths, q.wait ≠ .debug :=
  ⟨su [], key, by intro w h q hq; cases (show some (wu []) = some w from h); cases mem1 hq; decide⟩
theorem witness_Configuration_registers : ∃ (s : State) (part : Nat) (p : Part), s.part part = some p ∧ s.memOk = true := ⟨su [], 0, _, rfl, by decide +kernel⟩
theorem witness_Configuration_foreign : ∃ (s : State) (fn : Fn) (fe : BitVec 4), ¬ s.owner fn fe ∧ (s.fe fe.toNat).part ≠ none :=
  ⟨sf 0, .vf true 15, 0, (by
    rintro (⟨l, h⟩ | ⟨l, n, q, p, h, hl, hf, hp, hm⟩)
    · cases h
    · cases h; cases (show some 0 = some q from hf); cases (show some (part false) = some p from hp); cases hm), by decide +kernel⟩
theorem witness_Configuration_record : ∃ (s : State) (fn : Fn) (fe : BitVec 4) (part : Nat) (p : Part), s.owner fn fe ∧ (s.fe fe.toNat).part = some part ∧
    s.part part = some p ∧ (p.arg.fes.map (·.fe)).Nodup ∧ p.arg.units.length < 2 ^ 34 :=
  ⟨sf 0, .pf true, 0, 0, _, .inl ⟨true, rfl⟩, rfl, rfl, by decide, by decide⟩
theorem witness_Configuration_functions : ∃ (s : State) (fn : Fn) (fe n : BitVec 4) (p : Nat) (q : Part), fn = .vf true n ∧ s.vfLink.getLsbD n.toNat = true ∧ (s.fe fe.toNat).part = some p ∧
    s.part p = some q ∧ n ∈ q.arg.vfs :=
  ⟨{ sf 0 with vfLink := 0x8000, parts := [(0, { part false with arg := { arg false with vfs := [15] } })] }, .vf true 15, 0, 15, 0, _, rfl, by decide +kernel, rfl, rfl, .head _⟩

theorem commanded (x : Nat) : Commanded (sf x) 0 0 (part false) (commandAt (sf x) (part false) fe0) where
  of := rfl
  there := rfl
  id := rfl
  on := rfl
  more := by show (1 : Word) ≠ 0; decide
  fits := by show ((1 : Word) - 0).toNat ≤ 2 ^ (0 + 4); decide
  whole := rfl
  slice := .inl rfl
  acquired := by show (0 : Nat) ≤ 5000; decide
  ring := by show (0 : Word) - 0 ≠ BitVec.ofNat 32 (2 ^ (0 + 4)); decide
  held := .inl rfl
  read := rfl
  calm := calm _ rfl

/-- A command of a code is there to be read. -/
def CommandMet (op arg0 arg1 : Nat) : Prop := ∃ s fe part p c, Commanded s fe part p c ∧ c.clear = true ∧ c.op = op ∧ c.arg0 = arg0 ∧ c.arg1 = arg1
theorem commandMet (x op arg0 arg1 : Nat) (h : (let c := commandAt (sf x) (part false) fe0; c.clear && c.op == op && c.arg0 == arg0 && c.arg1 == arg1) = true) :
    CommandMet op arg0 arg1 := by
  simp only [Bool.and_eq_true, beq_iff_eq] at h
  obtain ⟨⟨⟨a, b⟩, c⟩, d⟩ := h
  exact ⟨_, _, _, _, _, commanded x, a, b, c, d⟩
theorem witness_FrontEndCommands_noop : CommandMet 0 0 0 := commandMet 0 _ _ _ (by decide +kernel)
theorem witness_FrontEndCommands_unknown : CommandMet 8 0 0 := commandMet 8 _ _ _ (by decide +kernel)
theorem witness_FrontEndCommands_unclear : ∃ s fe part p c, Commanded s fe part p c ∧ c.clear = false := ⟨_, _, _, _, _, commanded 0x200, by decide +kernel⟩
theorem witness_FrontEndCommands_none : ∃ (s : State) (fe : BitVec 4), s.nextCmd fe.toNat = none := ⟨su [], 0, rfl⟩
theorem witness_FrontEndCommands_event : CommandMet 3 7 0xFFFFFFFF := commandMet (3 + 7 * 2 ^ 64 + 0xFFFFFFFF * 2 ^ 128) _ _ _ (by decide +kernel)
theorem witness_FrontEndCommands_eventRoom : ((sf 3).addEvent 0 7 1).unwatched := calm _ (by decide +kernel)
theorem witness_FrontEndCommands_reset : CommandMet 4 7 0 := commandMet (4 + 7 * 2 ^ 64) _ _ _ (by decide +kernel)
theorem witness_FrontEndCommands_counters : CommandMet 5 0x100 0 := commandMet (5 + 0x100 * 2 ^ 64) _ _ _ (by decide +kernel)
theorem witness_FrontEndCommands_context : ∃ x, (part false).ctxs.find ((sf 5).fe 0).ctx = some x := ⟨_, rfl⟩
theorem witness_FrontEndCommands_drain : ∃ s : State, (∃ j ∈ s.jobs, j.2.fe = 0) ∧ ∀ j ∈ s.jobs, j.2.fe ≠ 1 :=
  ⟨su [], ⟨_, .head _, rfl⟩, by intro j h; cases mem1 h; decide⟩

/-- A result that is a value. -/
def okIs {ε β : Type} [DecidableEq β] (x : Except ε β) (b : β) : Bool := match x with | .ok y => decide (y = b) | .error _ => false
theorem pairOk {α ε β : Type} [DecidableEq β] {x : α × Except ε β} {b : β} (h : okIs x.2 b = true) : x = (x.1, .ok b) := by
  obtain ⟨a, y⟩ := x
  cases y with
  | ok y => simp only [okIs, decide_eq_true_eq] at h; rw [h]
  | error e => exact absurd h (by simp [okIs])

def xt : Nat := 7 + 0x30000 * 2 ^ 64 + 7 * 2 ^ 128
def xtRead := (sf xt).readVirtual 0 0 false 0x30000 272
theorem witness_FrontEndCommands_table : CommandMet 7 0x30000 7 ∧ ∃ (u : State) (bs : List Byte) (q : Part),
    (sf xt).readVirtual 0 ((sf xt).fe 0).ctx false 0x30000 272 = (u, .ok bs) ∧ u.unwatched ∧ u.part 0 = some q ∧ (u.fe 0).part = some 0 :=
  ⟨commandMet xt _ _ _ (by decide +kernel), xtRead.1, List.replicate 272 0, _, pairOk (x := xtRead) (by decide +kernel), calm _ (by decide +kernel), rfl,
    by decide +kernel⟩
theorem witness_FrontEndCommands_noTable : CommandMet 7 (2 ^ 57) 7 ∧ ∃ (u : State) (e : Bool),
    (sf xt).readVirtual 0 ((sf xt).fe 0).ctx false (2 ^ 57) 272 = (u, .error e) ∧ u.unwatched ∧ u.part 0 ≠ none ∧ (u.fe 0).part = some 0 :=
  ⟨commandMet (7 + 2 ^ 57 * 2 ^ 64 + 7 * 2 ^ 128) _ _ _ (by decide +kernel), sf xt, true, rfl, calm _ rfl, by decide +kernel, by decide +kernel⟩
def grantCmd : Nat := 2 + 0x30000 * 2 ^ 64 + (capMake 0x1000 0 0 0x1000 0x7F 0).toNat * 2 ^ 256
def grantTr := (sf grantCmd).translate 0 0 0x30000 .write false
theorem witness_FrontEndCommands_grant : ∃ s fe part p c u dev, Commanded s fe part p c ∧ c.clear = true ∧ c.op = 2 ∧ c.arg0 % 16 = 0 ∧ c.arg0 < 2 ^ 57 ∧
    (∃ base size, s.leafOf p (s.fe fe.toNat).ctx c.arg0 = some (base, size, true, true)) ∧ capGlobal c.capv = true ∧ capSeal c.capv = false ∧
    capBase c.capv + capLen c.capv ≤ 2 ^ 57 ∧ s.mappedTo p (s.fe fe.toNat).ctx (capBase c.capv + capLen c.capv)
      ((capPerm c.capv &&& (permW ||| permAtom)) != 0) (capLen c.capv / 2 ^ 16 + 2) (capBase c.capv) = true ∧
    s.translate part (s.fe fe.toNat).ctx c.arg0 .write false = (u, .ok dev) ∧ p.arg.sliced = false ∧ u.part part ≠ none ∧ u.unwatched ∧
    u.memOk = true ∧ dev % 16 = 0 ∧ u.fes = s.fes :=
  have ha : (commandAt (sf grantCmd) (part false) fe0).arg0 = 0x30000 := by decide +kernel
  ⟨sf grantCmd, 0, 0, part false, _, grantTr.1, 0x30000, commanded grantCmd, by decide +kernel, by decide +kernel, by decide +kernel, by decide +kernel,
    ⟨0, 2 ^ 30, by decide +kernel⟩, by decide +kernel, by decide +kernel, by decide +kernel, by decide +kernel, by
      rw [ha]; exact pairOk (x := grantTr) (by decide +kernel), rfl, by decide +kernel, calm _ (by decide +kernel), by decide +kernel, by decide,
    by decide +kernel⟩

/-- A task record at 0x30000 with its descriptor at 0x30040. -/
def recs : List Byte := leBytes 64 0x30040 ++ leBytes 64 (0x4B44 * 2 ^ 224 + 3 * 2 ^ 248 + 12 * 2 ^ 312 + 0x50000 * 2 ^ 384)
def sLaunch : State := { sf (1 + 0x30000 * 2 ^ 64 + 2 ^ 128) with hbm := { Store.empty with mem := Memory.putAll tables 0x30000 recs } }
def checked := sLaunch.checkRecords 0 0 false 0x30000 1
theorem witness_FrontEndCommands_launch : ∃ s fe part p c u rs x, Commanded s fe part p c ∧ c.clear = true ∧ c.op = 1 ∧ s.untraced ∧
    0 < c.arg1 % 2 ^ 13 ∧ c.arg1 % 2 ^ 13 ≤ 4096 ∧ c.arg1 < 2 ^ 13 ∧ c.arg0 % 64 = 0 ∧ p.ctxs.find (s.fe fe.toNat).ctx = some x ∧ x.root ≠ 0 ∧
    u.unwatched ∧ u.fes = s.fes ∧ u.untraced ∧ u.part part ≠ none ∧
    s.checkRecords part (s.fe fe.toNat).ctx false c.arg0 (c.arg1 % 2 ^ 13) = (u, .ok rs) ∧ rs ≠ [] :=
  have ha : (commandAt sLaunch (part false) fe0).arg0 = 0x30000 := by decide +kernel
  have hb : (commandAt sLaunch (part false) fe0).arg1 % 2 ^ 13 = 1 := by decide +kernel
  have hc : okIs checked.2 [(TaskRec.of (leNat (recs.take 64)), KDesc.of (leNat (recs.drop 64)))] = true := by decide +kernel
  ⟨sLaunch, 0, 0, part false, commandAt sLaunch (part false) fe0, checked.1, _, _,
    { of := rfl, there := rfl, id := rfl, on := rfl, more := by show (1 : Word) ≠ 0; decide
      fits := by show ((1 : Word) - 0).toNat ≤ 2 ^ (0 + 4); decide
      whole := rfl, slice := .inl rfl, acquired := by decide +kernel
      ring := by show (0 : Word) - 0 ≠ BitVec.ofNat 32 (2 ^ (0 + 4)); decide
      held := .inl rfl, read := rfl, calm := calm _ rfl },
    by decide +kernel, by decide +kernel, untraced1 _ _ rfl rfl, by rw [hb]; decide, by rw [hb]; decide, by decide +kernel, by rw [ha], rfl, by decide,
    calm _ (by decide +kernel), by decide +kernel, (by decide +kernel : checked.1.parts.all (fun np => np.2.trace.isNone) = true) |> fun h => by
      intro np hn; simpa using List.all_eq_true.mp h np hn, by decide +kernel, by rw [ha, hb]; exact pairOk (x := checked) hc, by decide⟩
theorem witness_FrontEndCommands_refused : CommandMet 1 0x30000 1 ∧ ∃ (u : State) (r : Refused) (va : Nat),
    (sf 0).checkRecords 0 0 false 0x30001 1 = (u, .error (r, va)) :=
  ⟨commandMet (1 + 0x30000 * 2 ^ 64 + 2 ^ 128) _ _ _ (by decide +kernel), sf 0, ⟨1, false⟩, 0x30001, by simp [State.checkRecords, State.checkRecord]⟩
theorem witness_FrontEndCommands_badLaunch : CommandMet 1 0x30020 0x2000 := commandMet (1 + 0x30020 * 2 ^ 64 + 0x2000 * 2 ^ 128) _ _ _ (by decide +kernel)
theorem witness_FrontEndCommands_queued : ∃ (s : State) (part : Nat) (p : Part), s.part part = some p ∧ p.id = part := ⟨su [], 0, _, rfl, rfl⟩

/-- A queue that is written beyond its length, of a partition not sliced, sliced, and sliced with no room among its held effects. -/
def pFull (n : Nat) : Part := { part false with arg := { arg true with overflow := 0 }, heldFx := [.hostWrite 0 (List.replicate n 0)] }
def TailMet (q : Part) : Prop := ∃ (s : State) (fn : Fn) (fe : BitVec 4) (v : Word) (part : Nat), s.owner fn fe ∧ (s.fe fe.toNat).qen = true ∧
  2 ^ ((s.fe fe.toNat).qsize.toNat + 4) < (v - (s.fe fe.toNat).head).toNat ∧ (s.fe fe.toNat).part = some part ∧ s.part part = some q ∧ q.id = part
theorem tailMet (q : Part) (h : q.id = 0) : TailMet q :=
  ⟨{ sf 0 with parts := [(0, q)] }, .pf false, 0, 17, 0, .inl ⟨_, rfl⟩, rfl, by show 2 ^ (0 + 4) < ((17 : Word) - 0).toNat; decide, rfl, rfl, h⟩
theorem fullTight (n : Nat) : (pFull n).fxTight = decide (7 * 2 ^ 18 ≤ 8 * n) := by
  show (true && decide (7 * (2 ^ 18 + 0) ≤ 8 * (List.map Held.size [.hostWrite 0 (List.replicate n 0)]).sum)) = _
  simp only [List.map, Held.size, List.length_replicate, List.sum_cons, List.sum_nil, Nat.add_zero, Bool.true_and]
theorem witness_FrontEndRegisters_tail : TailMet (part false) ∧ (part false).arg.sliced = false := ⟨tailMet _ rfl, rfl⟩
theorem witness_FrontEndRegisters_held : TailMet (pFull 229375) ∧ (pFull 229375).arg.sliced = true ∧ (pFull 229375).fxTight = false :=
  ⟨tailMet _ rfl, rfl, by rw [fullTight]; decide⟩
theorem witness_FrontEndRegisters_tight : TailMet (pFull 229376) ∧ (pFull 229376).arg.sliced = true ∧ (pFull 229376).fxTight = true :=
  ⟨tailMet _ rfl, rfl, by rw [fullTight]; decide⟩
theorem witness_FrontEndRegisters_foreign : ∃ (s : State) (fn : Fn) (fe : BitVec 4), ¬ s.owner fn fe :=
  ⟨witness_Configuration_foreign.choose, _, _, witness_Configuration_foreign.choose_spec.choose_spec.choose_spec.1⟩
theorem witness_FrontEndRegisters_enable : ∃ (s : State) (fn : Fn) (fe : BitVec 4) (v : Word) (part : Nat) (p : Part), s.owner fn fe ∧ v.getLsbD 0 = true ∧
    (s.fe fe.toNat).qen = false ∧ (s.fe fe.toNat).part = some part ∧ s.part part = some p ∧ p.arg.sliced = false ∧ p.image = none ∧
    (v.extractLsb' 12 4).toNat = 12 :=
  ⟨{ sf 0 with fes := Vector.replicate 16 { fe0 with qen := false } }, .pf true, 0, 0xC001, 0, _, .inl ⟨_, rfl⟩, by decide, rfl, rfl, rfl, rfl, rfl, by decide⟩
theorem witness_FrontEndRegisters_noSize : ∃ (s : State) (fn : Fn) (fe : BitVec 4) (v : Word) (part : Nat) (p : Part), s.owner fn fe ∧ v.getLsbD 0 = true ∧
    (s.fe fe.toNat).qen = true ∧ 12 ≤ (v.extractLsb' 12 4).toNat ∧ (s.fe fe.toNat).part = some part ∧ s.part part = some p ∧ p.arg.sliced = false :=
  ⟨sf 0, .pf true, 0, 0xC001, 0, _, .inl ⟨_, rfl⟩, by decide, rfl, by decide, rfl, rfl, rfl⟩
theorem witness_FrontEndRegisters_ring : ∃ (s : State) (fn : Fn) (fe : BitVec 4), s.owner fn fe ∧ ∀ j ∈ s.jobs, ∃ x ∈ s.tasks, x.2.job = j.2.id :=
  ⟨su [], .pf false, 0, .inl ⟨_, rfl⟩, by intro j h; cases mem1 h; exact ⟨_, .head _, rfl⟩⟩
/-- A VF that is enabled on the other link shows no partition. -/
theorem witness_FrontEndRegisters_absent : ∃ (s : State) (fn : Fn), s.behind fn none := ⟨su [], .vf true 15, rfl⟩
theorem witness_FrontEndRegisters_read : ∃ (s : State) (fn : Fn) (q : Part) (dev : Nat), s.behind fn (some q) ∧ q.phys (2 ^ 30 - 1) = some dev ∧
    q.phys (2 ^ 30) = none ∧ (s.lineInfo (dev / 128)).sw = none :=
  ⟨su [], .pf false, part false, 2 ^ 30 - 1, rfl, by decide +kernel, by decide +kernel, by decide +kernel⟩
theorem witness_FrontEndRegisters_write : ∃ (s : State) (fn : Fn) (p : Part), s.behind fn (some p) ∧ s.part p.id = some p ∧ s.memOk = true ∧ s.unwatched ∧
    p.arg.sliced = false ∧ (∀ x ∈ p.units, ∀ y ∈ p.units, x.2 = y.2 → x = y) :=
  ⟨su [], .pf false, part false, rfl, rfl, by decide +kernel, calm _ rfl, rfl, by decide +kernel⟩

/-! ### Turns, events, scheduling, checkpoints -/

/-- The instruction of a run, and the path that is to take it. -/
def nopEnd : Insn := encode (.nop { hd with bnd := true })
def ready : Path := { path none with run := [nopEnd] }
def code (s : State) : State := { s with cores := [(⟨0, 0⟩, Core.fresh)], hbm := { Store.empty with mem := Memory.putAll [] 0x10000 (Insn.toBytes nopEnd) } }
def fetched := (code (su [])).fetchRun (wu []) (path none).privileged 24 (path none).pc.toNat []
theorem witness_FetchAndTurns_fetch : ∃ (s u : State) (k : WarpKey) (w : Warp) (p : Path) (run : List Insn), s.warp k = some w ∧ w.paths = [p] ∧
    s.fetchDue w p = true ∧ s.fetchRun w p.privileged 24 p.pc.toNat [] = (u, .ok run) :=
  ⟨code (su []), fetched.1, key, wu [], path none, [nopEnd], rfl, rfl, by decide +kernel, pairOk (x := fetched) (by decide +kernel)⟩
def sTurn : State := { stateOf (warp ready 0 []) false with cores := [(⟨0, 0⟩, Core.fresh)] }
theorem witness_FetchAndTurns_turn : ∃ (s : State) (w : Warp) (prim : Nat) (sec : Option Nat), (s.core ⟨0, 0⟩).turn = none ∧ s.nextTurn ⟨0, 0⟩ = some w ∧
    w.merge = w ∧ s.turnPaths w (s.slotEnd w) = some (prim, sec) ∧ s.warp w.key = some w :=
  ⟨sTurn, warp ready 0 [], 0, none, rfl, by decide +kernel, by decide +kernel, by decide +kernel, rfl⟩
theorem witness_EventRecords : ∃ (s : State) (cl : BitVec 5) (r : EvRec) (rest : List EvRec) (p : Part), (s.cluster cl.toNat).events = r :: rest ∧
    s.part r.part = some p ∧ r.name ≠ 0 ∧ (∀ x ∈ s.tasks, x.2.part = r.part → ∀ q ∈ x.2.cells, q.1 = r.name →
      min (((p.events.find r.name).getD 0).toNat + r.amount.toNat) (2 ^ 32 - 1) < q.2.1.toNat) :=
  ⟨{ su [] with clusters := [(0, { Cluster.fresh with events := [⟨0, 7, 0xFFFFFFFF, none⟩] })], tasks := [] }, 0, _, _, _, rfl, rfl, by decide, nofun⟩

/-- A crew that is ready to be placed on an empty cluster. -/
def ready1 : Task := { Task.queued 0 0 1 0 (TaskRec.of 0) (KDesc.of 0) with phase := .ready }
def sPlace : State := { su [] with warps := [], cores := [], tasks := [(0, ready1)], parts := [(0, { part false with roundsDue := 1 })] }
theorem witness_Scheduling_placed : ∃ (s : State) (part : Nat) (p : Part) (x : Task) (k : Nat) (cores : List Nat), s.part part = some p ∧ p.id = part ∧
    p.open = true ∧ p.roundsDue ≠ 0 ∧ p.trace = none ∧ s.tasks = [(x.id, x)] ∧ x.part = part ∧ x.phase = .ready ∧ x.trec.harv = false ∧
    { s with parts := s.parts.set part { p with roundsDue := p.roundsDue - 1 } }.findFit { p with roundsDue := p.roundsDue - 1 } [] [] x = some (k, cores) ∧
    (∀ c ∈ cores, s.harvestHolds ⟨k, c⟩ = false) :=
  ⟨sPlace, 0, { part false with roundsDue := 1 }, ready1, 0, [0], rfl, rfl, rfl, by decide, rfl, rfl, rfl, rfl, rfl, by decide +kernel, by decide +kernel⟩
def saving (p : Path) : State := { stateOf (warp p 0 []) false with tasks := [(0, { task with phase := .saving false })] }
theorem witness_Scheduling_saves : ∃ (s : State) (n : Nat) (x : Task), s.task n = some x ∧ x.id = n ∧ x.phase = .saving false ∧
    s.blockedCrew n = true ∧ s.saveReady x = true := ⟨saving { path none with wait := .sleep 9000 }, 0, _, rfl, rfl, rfl, by decide +kernel, by decide +kernel⟩
theorem witness_Scheduling_wakes : ∃ (s : State) (n : Nat) (x : Task), s.task n = some x ∧ x.id = n ∧ x.phase = .saving false ∧
    s.blockedCrew n = false := ⟨saving (path none), 0, _, rfl, rfl, rfl, by decide +kernel⟩
def wEnd : Warp := { warp (path none) 0 [] with paths := [], exited := Mask.all, ended := true }
def sEnd : State := { su [] with warps := [(key, wEnd), (⟨0, 0, 1⟩, { wu [] with key := ⟨0, 0, 1⟩, place := some ⟨⟨0, 0⟩, 1⟩ })] }
theorem witness_Scheduling_leaves : ∃ (s : State) (k : WarpKey) (w : Warp) (x : Task) (pl : Place), s.keyed ∧ s.warp k = some w ∧ s.task k.task = some x ∧
    x.id = k.task ∧ w.place = some pl ∧ s.mayLeave w = true ∧ (∀ l, (s.core pl.core).lent = some l → ¬ (l.task = k.task ∧ l.team = k.team)) ∧ (∃ j v, s.warp j = some v ∧ j ≠ k ∧ j.task = k.task ∧ v.place ≠ none) :=
  ⟨sEnd, key, wEnd, task, _, keyedOf _ (by decide +kernel), rfl, rfl, rfl, rfl, by decide +kernel, nofun, ⟨0, 0, 1⟩, _, rfl, by decide, rfl, nofun⟩
/-- A team in a harvest slot. -/
def wHarv (parked : Bool) : Warp := { wu [] with place := some ⟨⟨0, 0⟩, 16⟩, harvest := true, parked := parked }
def sHarv (parked failed : Bool) : State :=
  { stateOf (wHarv parked) false with parts := [(0, { part false with failed := failed })], cores := [(⟨0, 0⟩, Core.fresh)], wall := 5000 }
theorem witness_Scheduling_resumes : ∃ s : State, s.keyed ∧ s.resumeDue ⟨0, 0⟩ = true ∧ s.harvesters ⟨0, 0⟩ ≠ [] :=
  ⟨sHarv true false, keyedOf _ rfl, by decide +kernel, by decide +kernel⟩
theorem witness_Scheduling_revokes : ∃ s : State, s.keyed ∧ (∀ q ∈ s.parts, q.2.trace = none) ∧ s.demandDue ⟨0, 0⟩ = true :=
  ⟨sHarv false true, keyedOf _ rfl, by intro q h; cases mem1 h; rfl, by decide +kernel⟩

/-- A time-sliced partition with its first checkpoint, and another. -/
def image0 : Image :=
  { warps := [], tasks := [], jobs := [], ops := [], contribs := [], events := [], admNext := 1, lastPlaced := 31, harvestQ := [], pins := []
    clusterEvents := [], past := [], colls := [], apertures := (part false).apertures, xtables := [], lents := [], heads := [], epoch := 0 }
def pSlice (began : Option DWord) (ends : DWord) (active : Bool) : Part :=
  { part false with arg := arg true, active := active, image := some image0, ckBegan := began, sliceEnd := ends, ckNext := 0, heldFx := [.hostWrite 0 [1]] }
def sSlice (p : Part) : State := { su [] with parts := [(0, p)], cores := [] }
theorem posted1 (s : State) (part : Nat) (h : s.fes = Vector.replicate 16 FrontEnd.fresh) : s.posted part := by
  intro n _
  have : s.fe n = FrontEnd.fresh := by
    rw [State.fe, h, Vector.toList_replicate, List.getD_eq_getElem?_getD, List.getElem?_replicate]; split <;> rfl
  rw [this]; rfl
theorem tidy1 (s : State) (p : Part) (hp : s.parts = [(0, p)]) (hw : s.warps = [(key, wu [])]) (ht : s.tasks = [(0, task)]) (hf : s.fresh = 100)
    (hi : p.id = 0) (him : p.image = some image0) : s.tidy where
  keyed := keyedOf s (by rw [hw]; decide +kernel)
  named := ⟨by rw [hw, hf]; intro kw h; cases mem1 h; unfold Warp.namedApart; decide +kernel, by
    rw [hp]; intro np h im e; cases mem1 h; cases him.symm.trans e; exact none_of rfl⟩
  parts := ⟨by rw [hp]; exact List.nodup_singleton _, by rw [hp, hf]; intro np h; cases mem1 h; exact ⟨hi, by show (0 : Nat) < 100; decide⟩⟩
  tasks := ⟨by rw [ht]; decide, by rw [ht, hf]; intro nt h; cases mem1 h; decide⟩
  crews := by rw [hw, ht, hf]; intro kw h; cases mem1 h; exact ⟨by decide, by intro nt h _; cases mem1 h; rfl⟩
  images := by rw [hp]; intro np h im e; cases mem1 h; cases him.symm.trans e; exact ⟨.nil, .nil, none_of rfl, none_of rfl⟩
  apart := by
    rw [hp]; intro np h im e; cases mem1 h; cases him.symm.trans e
    exact ⟨none_of rfl, none_of rfl, none_of rfl, none_of rfl, fun mp h jm e hne => absurd (by cases mem1 h; rfl) hne⟩
theorem whole1 (s : State) (part : Nat) : s.whole part image0 := ⟨none_of rfl, none_of rfl⟩
theorem witness_Checkpointing_start : ∃ (s : State) (part : Nat) (p : Part), s.part part = some p ∧ p.arg.sliced = true ∧ p.active = true ∧ p.failed = false ∧
    p.ckBegan = none ∧ p.ckNext.toNat ≤ s.gtime.toNat := ⟨sSlice (pSlice none 9000 true), 0, _, rfl, rfl, rfl, rfl, rfl, by decide⟩
theorem witness_Checkpointing_commit : ∃ (s : State) (part : Nat) (p : Part), s.part part = some p ∧ p.id = part ∧ p.trace = none ∧ s.commitDue p = true ∧
    s.unwatched ∧ s.posted part ∧ (∀ h ∈ p.heldFx, ∃ a bs, h = .hostWrite a bs) ∧ (∀ j ∈ s.jobs, ∃ x ∈ s.tasks, x.2.job = j.2.id) ∧ p.heldFx ≠ [] :=
  ⟨sSlice (pSlice (some 4000) 9000 true), 0, pSlice (some 4000) 9000 true, rfl, rfl, rfl, by decide +kernel, calm _ rfl, posted1 _ _ rfl,
    by intro h hh; exact ⟨_, _, mem1 hh⟩, by intro j h; cases mem1 h; exact ⟨_, .head _, rfl⟩, nofun⟩
def undo1 : Undo := { area := .hbm, line := 0x20, bytes := List.replicate 128 7, tags := [], poison := [], bad := false }
def pLate : Part := { pSlice (some 0) 9000 true with undo := [undo1] }
theorem witness_Checkpointing_failure : ∃ (s : State) (part : Nat) (p : Part) (im : Image), s.part part = some p ∧ p.id = part ∧ p.trace = none ∧
    p.image = some im ∧ s.failureDue p = true ∧ s.unwatched ∧ s.tidy ∧ s.whole part im ∧ s.posted part ∧ (∀ w ∈ im.warps, ∀ e ∈ w.queue, e.watching = []) ∧ p.ckFails < 2 ∧ s.memOk = true ∧
    (∀ u ∈ p.undo, u.area = .hbm ∧ u.bytes.length = 128 ∧ u.bad = false) ∧ (p.undo.map (·.line)).Nodup ∧ p.undo ≠ [] :=
  ⟨{ sSlice pLate with gtime := 30001 }, 0, pLate, image0, rfl, rfl, rfl, rfl, by decide +kernel, calm _ rfl, tidy1 _ pLate rfl rfl rfl rfl rfl rfl, whole1 _ _, posted1 _ _ rfl, none_of rfl,
    by decide +kernel, by decide +kernel, by intro u h; cases mem1 h; exact ⟨rfl, rfl, rfl⟩, by decide +kernel, by decide⟩
theorem witness_Checkpointing_sliceEnds : ∃ (s : State) (part : Nat) (p : Part) (im : Image), s.part part = some p ∧ p.id = part ∧ p.trace = none ∧
    p.image = some im ∧ p.undo = [] ∧ s.unwatched ∧ s.tidy ∧ s.whole part im ∧ s.posted part ∧ (∀ j ∈ im.jobs, j.part = part) ∧
    (∀ o ∈ im.ops, o.part = part) ∧ p.arg.sliced = true ∧ p.active = true ∧ p.sliceEnd.toNat ≤ (p.ckBegan.getD s.gtime).toNat ∧
    (∀ kw ∈ s.warps, kw.2.inHarvest = true → kw.2.parked = false → ∀ pl, kw.2.place = some pl → p.clusters.getLsbD pl.core.cluster = false) :=
  ⟨sSlice (pSlice none 5000 true), 0, pSlice none 5000 true, image0, rfl, rfl, rfl, rfl, rfl, calm _ rfl, tidy1 _ (pSlice none 5000 true) rfl rfl rfl rfl rfl rfl,
    whole1 _ _, posted1 _ _ rfl, none_of rfl, none_of rfl, rfl, rfl, by decide +kernel, by intro kw h hh; cases mem1 h; cases hh⟩
theorem witness_Checkpointing_sliceStarts : ∃ (s : State) (part next : Nat) (p q : Part) (im : Image), s.part part = some p ∧ p.active = false ∧
    s.part next = some q ∧ q.id = next ∧ q.image = some im ∧ s.mayStartSlice q = true ∧ s.whole next im :=
  ⟨sSlice (pSlice none 5000 false), 0, 0, pSlice none 5000 false, pSlice none 5000 false, image0, rfl, rfl, rfl, rfl, rfl, by decide +kernel, whole1 _ _⟩

/-! ### The machine as a whole -/

/-- A header whose guard holds in no lane. -/
def off : Hdr := { hd with g1 := ⟨true, 7⟩ }
theorem witness_GuardsAndChecks_off : ∃ s i c, guarded i = true ∧ i.encoded = true ∧ State.issuing s i.hdr false = some c ∧ c.wr = 0 ∧ i.barred = false ∧
    (i.forHandlers = true → c.priv = true) ∧ (s.debugOn c.w = true → s.hazard c i = none) :=
  ⟨su [1, 2], .iadd off .b32 false (.v 30) (.v 16) (.v 17), { cu [1, 2] with h := off, wr := 0 }, rfl, rfl, rfl, rfl, rfl, by decide +kernel, by decide +kernel⟩
theorem witness_GuardsAndChecks_privilege : ∃ s i c, guarded i = true ∧ i.forHandlers = true ∧ i.encoded = true ∧ State.issuing s i.hdr false = some c ∧
    c.priv = false ∧ c.act ≠ 0 ∧ CanTrap s c (c.x.setWidth 64) ∧ s.handlerOf c.w ≠ 0 :=
  ⟨su [], .mfx hd 0 (.v 30), cu [], rfl, rfl, rfl, rfl, rfl, by decide +kernel, trap0, handler0⟩
theorem witness_GuardsAndChecks_harvest : ∃ (s : State) (i : Instr) (c : Ctx), i.ownersOnly = true ∧ c.w.inHarvest = true ∧
    s.issuing i.hdr false = some c ∧ c.wr ≠ 0 ∧ i.barred = false ∧ CanTrap s c (c.x.setWidth 64) ∧ s.handlerOf c.w ≠ 0 :=
  ⟨stateOf (wHarv false) false, .hvlend hd 1 eng (.v 16), ctxOf (wHarv false) (path none) hd, rfl, rfl, rfl, by decide +kernel, rfl,
    ⟨rfl, rfl, fun pl e => by cases e; decide +kernel, by decide, by show (0 : Nat) < 100; decide⟩, by decide +kernel⟩
theorem witness_GuardsAndChecks_role : ∃ s i c r, roleOf i = some r ∧ State.issuing s i.hdr false = some c ∧ c.wr ≠ 0 ∧ i.barred = false ∧ r ≠ c.w.role ∧
    (s.debugOn c.w = true → s.hazard c i = none) ∧ (i.forHandlers = true → c.priv = true) ∧ CanTrap s c (c.x.setWidth 64) ∧ s.handlerOf c.w ≠ 0 :=
  ⟨su [], cpy, cu [], 1, rfl, rfl, by decide +kernel, rfl, by decide +kernel, by decide +kernel, by decide +kernel, trap0, handler0⟩
def w32 : Warp := { wu [] with nregs := 32 }
def c32 : Ctx := ctxOf w32 (path none) hd
theorem trap32 : CanTrap (stateOf w32 false) c32 0x10000 :=
  ⟨rfl, rfl, fun pl e => by cases e; decide +kernel, by decide, by show (0 : Nat) < 100; decide⟩
theorem witness_GuardsAndChecks_range : ∃ (s : State) (i : Instr) (c : Ctx) (f : Form) (d : Nat), guarded i = true ∧ i.form = some f ∧
    f.beyond c.w.nregs = some d ∧ s.issuing i.hdr false = some c ∧ c.wr ≠ 0 ∧ (∀ r, roleOf i = some r → r = c.w.role) ∧ i.barred = false ∧ (i.ownersOnly = true → c.w.inHarvest = false) ∧
    (s.debugOn c.w = true → s.hazard c i = none) ∧ (i.forHandlers = true → c.priv = true) ∧ CanTrap s c (c.x.setWidth 64) ∧ s.handlerOf c.w ≠ 0 :=
  ⟨stateOf w32 false, .iadd hd .b32 false (.v 30) (.v 31) (.v 32), c32, _, 3, rfl, rfl, by decide +kernel, rfl, by decide +kernel, nofun, rfl, nofun, by decide +kernel,
    by decide +kernel, trap32, by decide +kernel⟩
theorem witness_NopDoesNothing : ∃ s c h, Issues s (.nop h) false none c :=
  have h : okIssue (su []) (.nop hd) false none (cu []) = true := by decide +kernel
  ⟨_, _, _, okIssue_issues h⟩
theorem witness_NopDoesNothing_word : ∃ w h, decode w = .ok (.nop h) ∧ h.hold = 0 ∧ h.ch = 0 ∧ h.bnd = false := ⟨_, hd, test_family_encoded.2, rfl, rfl, rfl⟩
theorem witness_PredicateSet : ∃ s c h op pd a b, Issues s (.pset h op pd a b) false none c ∧ Roomy s (.pset h op pd a b) c ∧ c.p.holds = [] :=
  have h : okIssue (su []) (.pset hd .andn 2 (.p 7) (.p 0)) false none (cu []) = true := by decide +kernel
  ⟨_, _, _, _, _, _, _, okIssue_issues h, okIssue_roomy h, rfl⟩
theorem witness_PredicateSet_word : ∃ (w : Insn) (i : Instr), decode w = .ok i ∧ w.extractLsb' 86 10 = 0x181#10 :=
  ⟨encode (.pset hd .andn 2 (.p 7) (.p 0)), .pset hd .andn 2 (.p 7) (.p 0), by decide +kernel, by decide +kernel⟩
theorem witness_QuadTags : ∃ (c : Ctx) (n : Nat), n < 32 ∧ c.p.holds = [] ∧ (∀ j, j < 4 → ∀ g : 4 * n + j < 128, c.rd.regs[4 * n + j].spl = false) ∧
    n = 31 := ⟨cu [], 31, by decide, rfl, fun _ _ g => resident (w := (cu []).rd) (by decide +kernel) _ g, rfl⟩

/-- A machine in a turn, whose next move is the issue of the path's word. -/
def sIssue (ms : List Move) : State := { stateOf (warp ready 0 []) false with agenda := ms }
theorem witness_StepRunsDecodedWord_agenda : ∃ (s : State) (k : WarpKey) (pid : Nat) (x : Insn) (i : Instr) (w : Warp) (pl : Place) (p : Path)
    (run : List Insn) (tn : Turn) (ms : List Move), s.warp k = some w ∧ w.place = some pl ∧ w.path pid = some p ∧ p.wait = .none ∧ p.run = x :: run ∧
    decode x = .ok i ∧ (s.core pl.core).turn = some tn ∧ tn.w = k ∧ (tn.prim = pid ∨ tn.sec = some pid) ∧ s.slotDue k pid = true ∧ s.cut k = false ∧ s.agenda = .issue k pid :: ms :=
  ⟨sIssue [.issue key 0], key, 0, nopEnd, .nop { hd with bnd := true }, _, _, _, _, _, [], rfl, rfl, rfl, rfl, rfl, by decide +kernel, rfl, rfl, .inl rfl, by decide +kernel, by decide +kernel, rfl⟩
theorem witness_StepRunsDecodedWord_pick : (sIssue []).agenda = [] ∧ (sIssue []).pick = .issue key 0 := ⟨rfl, by decide +kernel⟩
theorem witness_StepRunsDecodedWord_illegal : ∃ (s : State) (k : WarpKey) (pid : Nat) (x : Insn) (e : IllegalWord) (w : Warp) (pl : Place) (p : Path)
    (run : List Insn) (tn : Turn) (ms : List Move), s.warp k = some w ∧ w.place = some pl ∧ w.path pid = some p ∧ p.wait = .none ∧ p.run = x :: run ∧
    decode x = .error e ∧ (s.core pl.core).turn = some tn ∧ tn.w = k ∧ (tn.prim = pid ∨ tn.sec = some pid) ∧ s.slotDue k pid = true ∧ s.cut k = false ∧ s.agenda = .issue k pid :: ms :=
  ⟨{ stateOf (warp { path none with run := [0x004201014180000000077000#96] } 0 []) false with agenda := [.issue key 0] }, key, 0, _, .mod, _, _, _, _, _, [],
    rfl, rfl, rfl, rfl, rfl, test_word_illegal.1, rfl, rfl, .inl rfl, by decide +kernel, by decide +kernel, rfl⟩

/-- An addition. -/
def sum : Instr := .iadd hd .b32 false (.v 30) (.v 16) (.v 17)
theorem sumWord : decode (encode sum) = .ok sum := by decide +kernel
/-- Two paths of a warp in one turn, whose words issue together. -/
def half (pid : Nat) (lns : Mask) : Path := { path none with pid := pid, lns := lns, run := [encode sum] }
def wPair : Warp := { wu [] with paths := [half 0 0xFFFF, half 1 0xFFFF0000] }
def sPair : State :=
  { stateOf wPair false with cores := [(⟨0, 0⟩, { Core.fresh with turn := some ⟨key, 0, some 1, false⟩ })], agenda := [.pair key 0 1] }
def nextOf (x : Host.Outcome State Fault Refusal) : State := match x with | .next t => t | _ => State.reset
theorem witness_StepRunsDecodedWord_pair : ∃ (s : State) (k : WarpKey) (a b : Nat) (x y : Insn) (i j : Instr) (w : Warp) (pl : Place) (p q : Path)
    (runx runy : List Insn) (tn : Turn) (ms : List Move), s.warp k = some w ∧ w.place = some pl ∧ w.path a = some p ∧ w.path b = some q ∧ p.wait = .none ∧
    q.wait = .none ∧ p.run = x :: runx ∧ q.run = y :: runy ∧ decode x = .ok i ∧ decode y = .ok j ∧ x.extractLsb' 93 3 = y.extractLsb' 93 3 ∧
    (x.extractLsb' 93 3).toNat < 3 ∧ (s.core pl.core).turn = some tn ∧ tn.w = k ∧ tn.prim = a ∧ tn.sec = some b ∧ a ≠ b ∧ s.slotDue k a = true ∧ s.slotDue k b = true ∧ s.cut k = false ∧ s.agenda = .pair k a b :: ms ∧
    ∃ u v, exec i { s.abreast k a b with agenda := ms, dual := some (s.readable w), cur := some (k, a) } = .next u ∧ exec j { u with cur := some (k, b) } = .next v :=
  ⟨sPair, key, 0, 1, encode sum, encode sum, sum, sum, wPair, _, _, _, [], [], _, [], rfl, rfl, rfl, rfl, rfl, rfl, rfl, rfl,
    sumWord, sumWord, rfl, by decide +kernel, rfl, rfl, rfl, rfl, by decide, by decide +kernel, by decide +kernel, by decide +kernel, rfl, _, _, rfl, rfl⟩
theorem witness_StepRunsDecodedWord_first : ∃ nbits w i, decodeTableWord nbits w = some i ∧ nbits ≤ 96 :=
  ⟨96, 0xE04000000000000000077040, .xret { hd with bnd := true }, by decide +kernel, by decide⟩
theorem witness_DecodeAndEncodeAgree : ∃ i : Instr, i.encoded = true ∧ i.wf = true := ⟨.nop hd, rfl, by decide +kernel⟩

theorem canonicalReset : State.reset.canonical := ⟨by decide +kernel, none_of rfl⟩
theorem tidyReset : State.reset.tidy where
  keyed := ⟨.nil, none_of rfl⟩
  named := ⟨none_of rfl, none_of rfl⟩
  parts := ⟨.nil, none_of rfl⟩
  tasks := ⟨.nil, none_of rfl⟩
  crews := none_of rfl
  images := none_of rfl
  apart := none_of rfl
theorem stepReset : ∃ t, step State.reset = .next t := ⟨_, rfl⟩
theorem witness_MemoryStaysCanonical : ∃ s t : State, s.canonical ∧ step s = .next t := ⟨_, stepReset.choose, canonicalReset, stepReset.choose_spec⟩
theorem witness_NamesStayApart : ∃ s t : State, s.tidy ∧ step s = .next t := ⟨_, stepReset.choose, tidyReset, stepReset.choose_spec⟩

/-! ### Spilled sources, masks that differ, one rounding -/

/-- The checks of `okIssue` that stand for the issue alone, whatever the registers are. -/
theorem issuesOf {s : State} {i : Instr} {always : Bool} {role : Option (BitVec 2)} {c : Ctx} (a : s.issuing i.hdr always = some c)
    (h : ((!i.forHandlers || c.priv) && (!s.debugOn c.w || (s.hazard c i).isNone) && c.wr != 0
      && (match role with | some r => r == c.w.role | none => true) && !i.barred && (!i.ownersOnly || !c.w.inHarvest) && i.within c.w.nregs) = true) :
    Issues s i always role c := by
  simp only [Bool.and_eq_true, bne_iff_ne, ne_eq] at h
  obtain ⟨⟨⟨⟨⟨⟨b, d⟩, e⟩, f⟩, m⟩, n⟩, g⟩ := h
  refine ⟨a, fun hp => ?_, fun hd => ?_, e, fun r hr => ?_, by simpa using m, fun ho => ?_, g⟩
  · simpa [hp] using b
  · simpa [hd] using d
  · subst hr; simpa using f
  · simpa [ho] using n

/-- Lines can be had, as a check. -/
theorem linedOf {s : State} {c : Ctx} (h : decide (c.w.wuse + 7 < c.w.wres) = true) : Lined s c := by
  intro j hj; left; have := of_decide_eq_true h; omega

/-- The warp whose v16 is spilled to its backing region at 0. -/
def wSpill : Warp := { wu [1] with regs := (wu [1]).regs.set 16 { (reg 1 false) with val := .wide (Vector.replicate 32 1), spl := true, line := 0 }, nback := 8 }
def sSpill : State := stateOf wSpill false
def cSpill : Ctx := { ctxOf wSpill (path none) hd with rd := sSpill.readable wSpill }
theorem onlySpilled (n : Nat) (h : n < 128) (hn : n ≠ 16) : wSpill.regs[n].spl = false := by
  have e : wSpill.regs[n] = (wu [1]).regs[n] := by simp only [wSpill]; exact Vector.getElem_set_ne _ _ (by omega)
  rw [e]; exact resident (by decide +kernel) n h

theorem witness_ShapeInstructions_spilled : ∃ (s : State) (c : Ctx) (h : Hdr) (d : Spec) (n : BitVec 7), Issues s (.shq h d (.v n)) false none c ∧ Lined s c ∧
    (∀ m, m ∈ (Instr.shq h d (.v n)).writes → ∀ h : m < 128, c.w.regs[m].spl = false) ∧ c.w.regs[n.toNat].spl = true :=
  ⟨sSpill, cSpill, hd, .v 30, 16, issuesOf (by decide +kernel) (by decide +kernel), linedOf (by decide +kernel),
    fun m hm h => onlySpilled m h (by revert m; decide), by decide +kernel⟩

def mov16 : Instr := .mov hd .b32 (.v 30) (.v 16)
def spillAt := sSpill.locate cSpill.w.part (sSpill.ctxOf cSpill.w) (cSpill.w.backing cSpill.w.regs[16].line) 128 .read cSpill.priv
def okLoc {α ε : Type} (x : Except ε α) : Option α := match x with | .ok y => some y | .error _ => none
theorem okLoc_eq {α ε : Type} {x : Except ε α} {y : α} (h : okLoc x = some y) : x = .ok y := by
  cases x <;> simp_all [okLoc]
theorem spillLoc : spillAt = (spillAt.1, .ok ⟨512, 128, none⟩) :=
  Prod.ext rfl (okLoc_eq (by decide +kernel : okLoc spillAt.2 = some ⟨512, 128, none⟩))
theorem spillReloads : Reloads sSpill spillAt.1 cSpill 16 (by decide) ⟨512, 128, none⟩ (List.replicate 128 0) 0 :=
  ⟨by decide +kernel, spillLoc, okLoc_eq (by decide +kernel)⟩
theorem witness_LineReservation_reload : ∃ (s u : State) (i : Instr) (c : Ctx) (n : Nat) (h : n < 128) (x : Loc) (bs : List Byte) (g : Nat) (d : Spec)
    (xs : List (Lane → Word)) (pd : Option (BitVec 3 × (Lane → Bool))) (fl : Lane → XFlags), Issues s i false none c ∧ plainRow s c i = some (d, xs, pd, fl) ∧
    n ∈ i.reads ∧ n ∉ i.writes ∧ (∀ m, m ∈ i.names → m ≠ n → ∀ h : m < 128, c.w.regs[m].spl = false) ∧ Lined s c ∧ s.keyed ∧ Reloads s u c n h x bs g :=
  ⟨sSpill, spillAt.1, mov16, cSpill, 16, by decide, ⟨512, 128, none⟩, _, _, _, _, _, _, issuesOf (by decide +kernel) (by decide +kernel), rfl, by decide, by decide,
    fun m _ hm h => onlySpilled m h hm, linedOf (by decide +kernel), keyedOf _ rfl, spillReloads⟩

/-- Lanes 0 to 15 wait at a VOTE with one mask, lanes 16 to 31 with another. -/
def apart (pid : Nat) (lns m : Mask) : Path := { path none with pid := pid, lns := lns, wait := .cross vote (Vector.replicate 32 m) Mask.all [] }
def wApart : Warp := { wu [] with paths := [apart 0 0xFFFF 0xFFFFFFFF, apart 1 0xFFFF0000 0xFFFF0000] }
theorem witness_CrossLaneCompletion_masks : ∃ (s : State) (k : WarpKey) (x : VA) (w : Warp) (l m : Lane), s.warp k = some w ∧ w.namedApart ∧ x.toNat % 4 = 0 ∧
    (arrivedAt w x false).has l = true ∧ (arrivedAt w x false).has m = true ∧
    (broughtAt w x false l).1[l.val] ≠ (broughtAt w x false m).1[m.val] ∧ (∀ q ∈ w.meeting x false, q.1.lns &&& w.exited = 0) ∧
    w.inHandler = false ∧ (∀ pl, w.place = some pl → s.framesHeld pl.core < 8) ∧ s.handlerOf w ≠ 0 :=
  ⟨stateOf wApart false, key, 0x10000, wApart, 0, 31, rfl, by unfold Warp.namedApart; decide, by decide, by decide +kernel, by decide +kernel, by decide +kernel,
    by decide +kernel, by decide +kernel, fun pl e => by cases e; decide +kernel, by decide +kernel⟩

/-- 1 + 2^-30 between two values of .f32; 2^300 beyond them all. -/
theorem witness_FloatArithmetic_rounded : ∃ (f : FFmt) (r : Rnd) (x : Exact), f ∈ [FFmt.f32, .f16, .bf16, .e4, .e5] ∧ r ≠ .rs ∧ x.more = false ∧ x.m ≠ 0 ∧
    x.m = 2 ^ 30 + 1 := ⟨.f32, .ru, ⟨false, 2 ^ 30 + 1, -30, false⟩, by decide, by decide, rfl, by decide, rfl⟩
theorem witness_FloatArithmetic_beyond : ∃ (f : FFmt) (r : Rnd) (x : Exact), f ∈ [FFmt.f32, .f16, .bf16, .e4, .e5] ∧ r ≠ .rs ∧ x.more = false ∧ x.m ≠ 0 ∧
    x.e = 300 := ⟨.e5, .rn, ⟨true, 1, 300, false⟩, by decide, by decide, rfl, by decide, rfl⟩
/-- +0 of an exact sum that is zero. -/
theorem witness_FloatArithmetic_zero : ∃ (f : FFmt) (r : Rnd) (x : Exact), f ∈ [FFmt.f32, .f16, .bf16, .e4, .e5] ∧ r ≠ .rs ∧ x.more = false ∧ x.m = 0 :=
  ⟨.e4, .rd, ⟨true, 0, 0, false⟩, by decide, by decide, rfl, rfl⟩

/-! ### Accesses that fault -/

/-- c0 has no tag; c1 lies in the windows; c3 is a peer set (sealed). -/
theorem witness_MemoryIssue_untagged : ∃ (s : State) (c : Ctx) (m : MemArg) (disp : Int) (n : Nat) (perm : BitVec 8) (l : Lane) (d : Nat),
    let q := s.quadAt c .a m.a l
    let off := (((q.extractLsb' 0 57).toNat + (s.word c .b m.b l).toNat * 2 ^ m.sh.toNat + disp) % (2 ^ 57 : Int)).toNat
    let fails := capFails (s.quadTag c .a m.a l) q (m.space == .glob) off n perm
    fails[d]? = some true ∧ (∀ j, j < d → fails[j]? = some false) ∧ d = 0 :=
  ⟨su [], cu [], ⟨.v 0, .z, 0, .glob⟩, 0, 4, permR, 0, 0, by decide +kernel, fun j hj => absurd hj (Nat.not_lt_zero j), rfl⟩
/-- The last byte of the four lies beyond c1's length. -/
theorem witness_MemoryIssue_bounds : ∃ (s : State) (c : Ctx) (m : MemArg) (disp : Int) (n : Nat) (perm : BitVec 8) (l : Lane) (d : Nat),
    let q := s.quadAt c .a m.a l
    let off := (((q.extractLsb' 0 57).toNat + (s.word c .b m.b l).toNat * 2 ^ m.sh.toNat + disp) % (2 ^ 57 : Int)).toNat
    let fails := capFails (s.quadTag c .a m.a l) q (m.space == .glob) off n perm
    fails[d]? = some true ∧ (∀ j, j < d → fails[j]? = some false) ∧ d = 4 :=
  ⟨su [], cu [], ⟨.v 4, .z, 0, .shr⟩, 0xFFD, 4, permR, 0, 4, by decide +kernel, by decide +kernel, rfl⟩
theorem witness_MemoryIssue_misaligned : ∃ (s : State) (c : Ctx) (m : MemArg) (disp : Int) (n align : Nat) (perm : BitVec 8) (l : Lane),
    let q := s.quadAt c .a m.a l
    let off := (((q.extractLsb' 0 57).toNat + (s.word c .b m.b l).toNat * 2 ^ m.sh.toNat + disp) % (2 ^ 57 : Int)).toNat
    (∀ b ∈ capFails (s.quadTag c .a m.a l) q (m.space == .glob) off n perm, b = false) ∧ off % align ≠ 0 :=
  ⟨su [], cu [], ⟨.v 4, .z, 0, .shr⟩, 0xFFA, 4, 4, permR, 0, by decide +kernel, by decide +kernel⟩

/-- A partition with no translations held: nothing is mapped. -/
def sBare : State := { su [] with parts := [(0, { part false with tlb := [] })] }
def bareAt := sBare.locate 0 (sBare.ctxOf (wu [])) 0x1000 4 .read false
def errOf {α ε : Type} (x : Except ε α) : Option ε := match x with | .error y => some y | .ok _ => none
theorem errOf_eq {α ε : Type} {x : Except ε α} {y : ε} (h : errOf x = some y) : x = .error y := by
  cases x <;> simp_all [errOf]
theorem bareFails : bareAt = (bareAt.1, .error (0x08, 4)) := Prod.ext rfl (errOf_eq (by decide +kernel))
theorem witness_MemoryIssue_unmapped : ∃ (s u : State) (c : Ctx) (m : MemArg) (disp : Int) (n align : Nat) (perm : BitVec 8) (use : Use) (l : Lane)
    (code detail : Nat),
    let q := s.quadAt c .a m.a l
    let off := (((q.extractLsb' 0 57).toNat + (s.word c .b m.b l).toNat * 2 ^ m.sh.toNat + disp) % (2 ^ 57 : Int)).toNat
    (∀ b ∈ capFails (s.quadTag c .a m.a l) q (m.space == .glob) off n perm, b = false) ∧ off % align = 0 ∧ m.space = .glob ∧
    s.locate c.w.part (s.ctxOf c.w) off n use c.priv = (u, .error (code, detail)) :=
  ⟨sBare, bareAt.1, cu [], ⟨.v 8, .z, 0, .glob⟩, 0, 4, 4, permR, .read, 0, 0x08, 4, by decide +kernel, by decide +kernel, rfl,
    (congrArg (fun o => sBare.locate 0 (sBare.ctxOf (wu [])) o 4 .read false)
      (by decide +kernel : ((((sBare.quadAt (cu []) .a (.v 8) 0).extractLsb' 0 57).toNat + (sBare.word (cu []) .b .z 0).toNat * 2 ^ (0 : BitVec 3).toNat
        + (0 : Int)) % (2 ^ 57 : Int)).toNat = 0x1000)).trans bareFails⟩

/-- The walk of an address that no translation is held for, in tables of zeros and in tables that map GiB 0. -/
def bareWalk := sBare.walk 0 0 0x1000
theorem witness_MemoryIssue_walk : ∃ (s u : State) (part : Nat) (ctx : BitVec 6) (va : Nat) (p : Part) (e : TlbEntry), s.part part = some p ∧
    p.tlbHit ctx va = none ∧ s.walk part ctx va = (u, some e) ∧ ∃ l, e.walk = .invalid l :=
  have h : (bareWalk.2.map (·.walk)) = some (.invalid 4) := by decide +kernel
  match e : bareWalk.2 with
  | some t => ⟨sBare, bareWalk.1, 0, 0, 0x1000, _, t, rfl, by decide +kernel, Prod.ext rfl e, 4, by rw [e] at h; simpa using h⟩
  | none => by rw [e] at h; cases h
def sTabled : State := { sBare with hbm := { Store.empty with mem := tables } }
def tabledWalk := sTabled.walk 0 0 0x1000
theorem witness_MemoryIssue_page : ∃ (s u : State) (part : Nat) (ctx : BitVec 6) (va : Nat) (p : Part) (e : TlbEntry), s.part part = some p ∧
    p.tlbHit ctx va = none ∧ s.walk part ctx va = (u, some e) ∧ ∃ pa size dev, e.walk = .page pa size true true false ∧ p.phys (pa + va % size) = some dev :=
  have h : (tabledWalk.2.map (·.walk)) = some (.page 0 (2 ^ 30) true true false) := by decide +kernel
  match e : tabledWalk.2 with
  | some t => ⟨sTabled, tabledWalk.1, 0, 0, 0x1000, _, t, rfl, by decide +kernel, Prod.ext rfl e, 0, 2 ^ 30, 0x1000, by rw [e] at h; simpa using h,
      by decide +kernel⟩
  | none => by rw [e] at h; cases h

/-- Lanes 1 to 31 of a load go beyond c2: `LD.glob` of lanes four KiB apart, and one of its lanes alone. -/
def ldWide : Instr := .ld hd .thread .rlx false .b32 (.v 30) ⟨.v 8, .v 16, 2, .glob⟩ 0
def wWide : Warp := { wu [] with regs := (wu []).regs.set 16 { reg 0 false with val := .wide (Vector.ofFn (fun (l : Lane) => if l = 0 then 0 else 0x400)) } }
def sWide : State := stateOf wWide false
def cWide : Ctx := ctxOf wWide (path none) hd
theorem trapWide : CanTrap sWide cWide 0x10000 :=
  ⟨rfl, rfl, fun pl e => by cases e; decide +kernel, by decide, by show (0 : Nat) < 100; decide⟩
def rowWide : AccessRow := (accessRow sWide cWide ldWide).get (by decide +kernel)
def formWide := rowWide.form sWide cWide
theorem witness_MemoryIssue_faults : ∃ (s u : State) (i : Instr) (c : Ctx) (r : AccessRow) (l : Lane) (x : Cause) (more : List (Lane × Cause)) (accs : List Acc),
    Issues s i false none c ∧ Roomy s i c ∧ accessRow s c i = some r ∧ r.m.space ≠ .priv ∧ (∀ q, r.kind ≠ .waitmem q) ∧
    c.w.queue.length < 64 ∧ r.form s c = (u, (l, x) :: more, accs) ∧ CanTrap s c (c.x.setWidth 64) ∧ s.handlerOf c.w ≠ 0 ∧
    u.fxWaits c { r.entry u c i accs with lns := c.wr &&& ~~~faultLanes ((l, x) :: more) } = false ∧
    u.touchesLent c r.m.space { r.entry u c i accs with lns := c.wr &&& ~~~faultLanes ((l, x) :: more) }.accs = false ∧ accs ≠ [] ∧ more ≠ [] :=
  have ok : okIssue sWide ldWide false none cWide = true := by decide +kernel
  have h : formWide.2.1.length = 31 := by decide +kernel
  match e : formWide.2.1 with
  | (l, x) :: more => ⟨sWide, formWide.1, ldWide, cWide, rowWide, l, x, more, formWide.2.2, okIssue_issues ok (by decide +kernel), okIssue_roomy ok, by
      simp [rowWide], by decide +kernel, nofun, by decide +kernel, Prod.ext rfl (Prod.ext e rfl), trapWide, by decide +kernel,
      by rw [← e]; decide +kernel, by rw [← e]; decide +kernel, by decide +kernel, by rintro rfl; rw [e] at h; cases h⟩
  | [] => by rw [e] at h; cases h

/-! ### Lane-private accesses that fault, reports, objects at their homes -/

theorem witness_PrivateMemory_misaligned : ∃ (s : State) (c : Ctx) (m : MemArg) (disp : Int) (n : Nat) (l : Lane),
    (((s.word c .b m.b l).toNat * 2 ^ m.sh.toNat + disp) % (2 ^ 57 : Int)).toNat % n ≠ 0 := ⟨su [], cu [], priv8, 2, 4, 0, by decide +kernel⟩
/-- PLIM 4 is 16 bytes a lane. -/
theorem witness_PrivateMemory_limit : ∃ (s : State) (c : Ctx) (m : MemArg) (disp : Int) (n : Nat) (l : Lane),
    let o := (((s.word c .b m.b l).toNat * 2 ^ m.sh.toNat + disp) % (2 ^ 57 : Int)).toNat
    o % n = 0 ∧ c.w.plim * 4 < o + n := ⟨su [], cu [], priv8, 16, 4, 0, by decide +kernel, by decide +kernel⟩

/-- Lane 0 goes to offset 0, the others to offset 0x400, beyond the limit. -/
def privV : MemArg := ⟨.z, .v 16, 0, .priv⟩
def privLdF := sWide.privAll cWide privV (0 : BitVec 24).toInt (Ty.bytes .b32) .read
def privStF := sWide.privAll cWide privV (0 : BitVec 24).toInt (Ty.bytes .b32) .write
theorem consEq {α : Type} {xs : List α} (h : xs.length = 31) : ∃ x more, xs = x :: more := by
  cases xs with
  | nil => cases h
  | cons x more => exact ⟨x, more, rfl⟩
theorem witness_PrivateMemory_loadFaults : ∃ (s u : State) (h : Hdr) (sc : Scope) (ord : Order) (bc : Bool) (ty : Ty) (d : Spec) (m : MemArg) (disp : BitVec 24)
    (c : Ctx) (ps : List (Lane × List PrivPiece)) (l : Lane) (x : Cause) (more : List (Lane × Cause)), Issues s (.ld h sc ord bc ty d m disp) false none c ∧
    Roomy s (.ld h sc ord bc ty d m disp) c ∧ m.space = .priv ∧ CanTrap s c (c.x.setWidth 64) ∧ s.handlerOf c.w ≠ 0 ∧
    s.privAll c m disp.toInt ty.bytes .read = (u, (l, x) :: more, ps) ∧ ps ≠ [] :=
  have ok : okIssue sWide (.ld hd .thread .rlx false .b32 (.v 30) privV 0) false none cWide = true := by decide +kernel
  have ⟨x, more, e⟩ := consEq (xs := privLdF.2.1) (by decide +kernel)
  ⟨sWide, privLdF.1, hd, .thread, .rlx, false, .b32, .v 30, privV, 0, cWide, privLdF.2.2, x.1, x.2, more, okIssue_issues ok (by decide +kernel), okIssue_roomy ok,
    rfl, trapWide, by decide +kernel, Prod.ext rfl (Prod.ext e rfl), by decide +kernel⟩
theorem witness_PrivateMemory_storeFaults : ∃ (s u : State) (h : Hdr) (sc : Scope) (ord : Order) (ty : Ty) (d : Spec) (m : MemArg) (disp : BitVec 24)
    (c : Ctx) (ps : List (Lane × List PrivPiece)) (l : Lane) (x : Cause) (more : List (Lane × Cause)), Issues s (.st h sc ord ty d m disp) false none c ∧
    Roomy s (.st h sc ord ty d m disp) c ∧ m.space = .priv ∧ u.memOk = true ∧ CanTrap s c (c.x.setWidth 64) ∧ s.handlerOf c.w ≠ 0 ∧
    s.privAll c m disp.toInt ty.bytes .write = (u, (l, x) :: more, ps) ∧ ps ≠ [] :=
  have ok : okIssue sWide (.st hd .thread .rlx .b32 (.v 16) privV 0) false none cWide = true := by decide +kernel
  have ⟨x, more, e⟩ := consEq (xs := privStF.2.1) (by decide +kernel)
  ⟨sWide, privStF.1, hd, .thread, .rlx, .b32, .v 16, privV, 0, cWide, privStF.2.2, x.1, x.2, more, okIssue_issues ok (by decide +kernel), okIssue_roomy ok,
    rfl, by decide +kernel, trapWide, by decide +kernel, Prod.ext rfl (Prod.ext e rfl), by decide +kernel⟩

/-- A warp whose window access went beyond its window. -/
def wImp : Warp := { wu [1] with imp := some ⟨.scr, 0x1000, 0, 0⟩ }
def cImp : Ctx := ctxOf wImp (path none) hd
theorem trapImp : CanTrap (stateOf wImp false) cImp 0x10000 :=
  ⟨rfl, rfl, fun pl e => by cases e; decide +kernel, by decide, by show (0 : Nat) < 100; decide⟩
theorem witness_BlockingIssue_reports : ∃ (s : State) (i : Instr) (c : Ctx) (r : ImpRec), Issues s i false none c ∧ c.w.imp = some r ∧
    ((∃ h, i = .exit h) ∨ (∃ h a, i = .exitSucc h a) ∨ ∃ h sp m e, i = .barwait h sp m e ∧ s.oneFor c .e e 1) ∧
    CanTrap s c (c.x.setWidth 64) ∧ s.handlerOf c.w ≠ 0 :=
  ⟨stateOf wImp false, .barwait hd false eng (.v 16), cImp, _, issuesOf (by decide +kernel) (by decide +kernel), rfl,
    .inr (.inr ⟨_, _, _, _, rfl, by unfold State.oneFor; decide +kernel⟩), trapImp, by decide +kernel⟩
theorem witness_BlockingIssue_reportsExit : ∃ (s : State) (c : Ctx) (r : ImpRec), Issues s (.exit hd) false none c ∧ c.w.imp = some r ∧
    CanTrap s c (c.x.setWidth 64) ∧ s.handlerOf c.w ≠ 0 :=
  ⟨stateOf wImp false, cImp, _, issuesOf (by decide +kernel) (by decide +kernel), rfl, trapImp, by decide +kernel⟩
theorem witness_BlockingIssue_reportsTeam : ∃ (s : State) (c : Ctx) (h : Hdr) (r : ImpRec), Issues s (.tbar h) true none c ∧ c.w.imp = some r ∧
    CanTrap s c (c.x.setWidth 64) ∧ s.handlerOf c.w ≠ 0 :=
  ⟨stateOf wImp false, cImp, hd, _, issuesOf (by decide +kernel) (by decide +kernel), rfl, trapImp, by decide +kernel⟩

/-- An object of 16 bytes in the shared window, an access of it with an amount or a slot, and the path that waits for its home. -/
def homeAcc (x : Byte) : Acc := { acc 0 with len := 16, data := [x, 0, 0, 0] }
def homeEntry (kind : EKind) (i : Instr) (x : Byte) : Entry := { entry kind .shr [homeAcc x] with scope := .cluster, instr := i }
def homeWarp (e : Entry) : Warp := wq e { path none with wait := .home 7 }
def homeState (e : Entry) (o : Nat) : State := shrOf (stateOf (homeWarp e) false) (leBytes 16 o)
/-- What the home effects ask of a state, with the word that the object holds. -/
def HomeMet (kind : EKind) (i : Instr) (x : Byte) (o : Nat) : Prop :=
  ∃ (s : State) (k : WarpKey) (id : Nat) (lns : Mask) (w : Warp) (e : Entry) (a : Acc) (p : Part) (q : Path), MayPerform s k id lns w e a p ∧
    e.kind = kind ∧ e.instr = i ∧ (e.space = .scr ∨ e.space = .shr) ∧ a.len = 16 ∧ s.windowIn w e.space a.off 16 = true ∧
    s.holds (s.spot w e a 16).1 ∧ w.place ≠ none ∧ w.namedApart ∧ e.id = id ∧ w.paths.find? (fun q => q.wait == .home id) = some q ∧ e.pid = q.pid ∧
    leNat (s.windowBytes w e.space a.off 16) = o ∧ leNat a.data = x.toNat ∧ w.role.toNat = 0
theorem homeMet (kind : EKind) (i : Instr) (x : Byte) (o : Nat) (h1 : (homeEntry kind i x).chosen Mask.all = [homeAcc x])
    (h2 : (homeWarp (homeEntry kind i x)).mayGo (homeEntry kind i x) (homeAcc x) = true) (ht : (homeState (homeEntry kind i x) o).scTurn (homeEntry kind i x) = true)
    (h3 : (homeState (homeEntry kind i x) o).unreachable (homeEntry kind i x) (homeAcc x) = false)
    (h4 : (homeState (homeEntry kind i x) o).locationBad (homeWarp (homeEntry kind i x)) (homeEntry kind i x) (homeAcc x) = false)
    (h5 : (homeEntry kind i x).watching = []) (h6 : (homeState (homeEntry kind i x) o).windowIn (homeWarp (homeEntry kind i x)) .shr 0 16 = true)
    (h7 : ((homeState (homeEntry kind i x) o).task 0).isSome = true) (h8 : (homeState (homeEntry kind i x) o).memOk = true)
    (h9 : leNat ((homeState (homeEntry kind i x) o).windowBytes (homeWarp (homeEntry kind i x)) .shr 0 16) = o)
    (h10 : leNat [x, 0, 0, 0] = x.toNat) : HomeMet kind i x o :=
  ⟨homeState (homeEntry kind i x) o, key, 7, Mask.all, homeWarp (homeEntry kind i x), homeEntry kind i x, homeAcc x, part false, _,
    ⟨rfl, rfl, rfl, h1, h2, ht, h3, h4, rfl, by
      intro kw hk f hf
      cases mem1 (show kw ∈ [(key, homeWarp (homeEntry kind i x))] from hk); cases mem1 (show f ∈ [homeEntry kind i x] from hf); exact h5, h8⟩,
    rfl, rfl, .inr rfl, rfl, h6,
    (fun e => by rw [show (homeState (homeEntry kind i x) o).task 0 = none from e] at h7; cases h7), by show (some _ : Option Place) ≠ none; exact nofun, by unfold Warp.namedApart; exact List.nodup_singleton _, rfl, rfl, rfl, h9, h10, rfl⟩
def bararr : Instr := .bararr hd .cluster true (.imm 5) eng
/-- A barrier of phase 0 that waits for one more arrival. -/
theorem witness_HomeAtomics_arrives : HomeMet .bararr bararr 5 (3 + 2 ^ 32) ∧ 0 < (3 + 2 ^ 32) / 2 ^ 32 % 2 ^ 16 ∧ (3 + 2 ^ 32) % 2 ^ 32 + 5 < 2 ^ 32 :=
  ⟨homeMet _ _ _ _ (by decide +kernel) (by decide +kernel) (by decide +kernel) (by decide +kernel) (by decide +kernel) (by decide +kernel) (by decide +kernel)
    (by decide +kernel) (by decide +kernel) (by decide +kernel) (by decide +kernel), by decide, by decide⟩
/-- A ring of two slots whose slot 1 a producer holds. -/
theorem witness_HomeAtomics_puts : HomeMet .ring (.rngput hd true eng (.v 16)) 1 (1 + 2 ^ 65) ∧ 0 = (1 + 2 ^ 65) / 2 ^ 5 % 4 ∧ 1 < (1 + 2 ^ 65) % 32 + 1 ∧
    (1 + 2 ^ 65).testBit (64 + 1) = true ∧ (1 + 2 ^ 65).testBit (32 + 1) = !true :=
  ⟨homeMet _ _ _ _ (by decide +kernel) (by decide +kernel) (by decide +kernel) (by decide +kernel) (by decide +kernel) (by decide +kernel) (by decide +kernel)
    (by decide +kernel) (by decide +kernel) (by decide +kernel) (by decide +kernel), by decide, by decide, by decide, by decide⟩
theorem witness_HomeAtomics_closes : HomeMet .ring (.rngclose hd eng) 0 1 ∧ 0 = 1 / 2 ^ 5 % 4 :=
  ⟨homeMet _ _ _ _ (by decide +kernel) (by decide +kernel) (by decide +kernel) (by decide +kernel) (by decide +kernel) (by decide +kernel) (by decide +kernel)
    (by decide +kernel) (by decide +kernel) (by decide +kernel) (by decide +kernel), by decide⟩
def eSig : Entry := { entry .evsig .priv [acc 0] with instr := .evsig hd (.v 16) 3 }
theorem witness_HomeAtomics_event : ∃ (s : State) (k : WarpKey) (id : Nat) (lns : Mask) (w : Warp) (e : Entry) (a : Acc) (p : Part) (h : Hdr) (sp : Spec)
    (name : BitVec 16), MayPerform s k id lns w e a p ∧ e.kind = .evsig ∧ e.instr = .evsig h sp name ∧
    (s.cluster (s.homeCore w).cluster).events.length < 256 :=
  ⟨_, _, _, _, _, _, _, _, hd, .v 16, 3, mayPerform eSig (acc 0) (by decide +kernel) (by decide +kernel) (by decide +kernel) (by decide +kernel)
    (by decide +kernel) (by decide +kernel) rfl, rfl, rfl, by decide +kernel⟩

/-! ### The module, the firmware and the scheduler: the further clauses -/

/-- Two errors of a cluster's weight store, of 23 h ago and now; one more is not counted. -/
def twoErrors : List SoftError := [⟨.cluster 0, 0, .ws 0, 5, false⟩, ⟨.cluster 0, 23 * 3600 * 10 ^ 9, .ws 0, 9, false⟩]
def sWorn (cl : Nat) : State := { su [] with wall := 23 * 3600 * 10 ^ 9, softErrors := twoErrors.map (fun x => { x with what := .cluster cl }) }
theorem worn (cl : Nat) (h : cl = 0 ∨ cl = 1) : (sWorn cl).wornOut cl := .inl (by rcases h with rfl | rfl <;> decide +kernel)
theorem witness_HeatRetirementTime_idle : ∃ (s : State) (k : BitVec 5), s.clPres.getLsbD k.toNat = true ∧ s.wornOut k.toNat ∧
    ∀ x ∈ s.tasks, x.2.cluster = k.toNat → x.2.phase = .waiting ∨ x.2.phase = .ready ∨ x.2.phase = .queued :=
  ⟨sWorn 1, 1, by decide +kernel, worn 1 (.inr rfl), by intro x hx h; cases mem1 hx; cases h⟩
theorem witness_HeatRetirementTime_crew : ∃ (s : State) (k : BitVec 5) (n : Nat) (x : Task), s.clPres.getLsbD k.toNat = true ∧ s.wornOut k.toNat ∧ s.keyed ∧
    s.tasks = [(n, x)] ∧ x.id = n ∧ x.cluster = k.toNat ∧ x.phase = .running ∧ x.trec.harv = false ∧ (∀ kw ∈ s.warps, kw.2.defers = []) ∧
    (∃ kw ∈ s.warps, kw.1.task = n ∧ kw.2.ended = false) ∧ (∀ kw ∈ s.warps, kw.2.place ≠ none) :=
  ⟨sWorn 0, 0, 0, task, by decide +kernel, worn 0 (.inl rfl), keyedOf _ rfl, rfl, rfl, rfl, rfl, rfl, by intro kw h; cases mem1 h; rfl, ⟨_, .head _, rfl, rfl⟩,
    by intro kw h; cases mem1 h; nofun⟩
theorem witness_HeatRetirementTime_stays : ∃ (s : State) (k : BitVec 5), s.clPres.getLsbD k.toNat = true ∧ ¬ s.wornOut k.toNat :=
  ⟨su [], 0, by decide +kernel, by rintro (h | h) <;> exact absurd h (by decide +kernel)⟩
/-- Seventeen units of a channel; sixteen do not do. -/
def sChannel (n : Nat) : State := { su [] with softErrors := (List.range n).map (fun u => ⟨.channel 2, 0, .hbm, u, false⟩) }
theorem witness_HeatRetirementTime_channel : ∃ (s : State) (ch : BitVec 8), s.chRetired.getLsbD ch.toNat = false ∧ s.channelOut ch.toNat :=
  ⟨sChannel 17, 2, by decide +kernel, by unfold State.channelOut; decide +kernel⟩
theorem witness_HeatRetirementTime_channelStays : ∃ (s t : State) (ch : BitVec 8), s.chRetired.getLsbD ch.toNat = true ∧ ¬ t.channelOut ch.toNat ∧
    t.softErrors ≠ [] :=
  ⟨{ su [] with chRetired := 1 }, sChannel 16, 0, by decide, by unfold State.channelOut; decide +kernel, by decide +kernel⟩

theorem witness_Configuration_noWatch : ∃ (s : State) (part ctx : Nat) (p : Part), s.boot = .run ∧ s.part part = some p ∧
    s.translating part (BitVec.ofNat 6 ctx) none = false ∧ s.watchless part (BitVec.ofNat 6 ctx) ∧ p.ctxs.find (BitVec.ofNat 6 ctx) ≠ none :=
  ⟨su [], 0, 0, _, rfl, rfl, by decide +kernel, (by intro kw hk _ _ e he; cases mem1 hk; exact nomatch he), by decide +kernel⟩
/-- A window of 32,767 rows from row 24,575: one of them exists. -/
theorem witness_Configuration_window : ∃ (s : State) (part : Nat) (p : Part) (v : DWord), s.part part = some p ∧ s.memOk = true ∧
    (v.extractLsb' 0 15).toNat = 24575 ∧ min (v.extractLsb' 15 15).toNat (24576 - (v.extractLsb' 0 15).toNat) = 1 :=
  ⟨su [], 0, _, 24575 + 32767 * 2 ^ 15, rfl, by decide +kernel, by decide, by decide⟩

/-- The command EVSIG of a front end whose writes are all in their homes, and of one that has another to come. -/
theorem witness_FrontEndCommands_released : CommandMet 3 7 1 ∧ ((sf (3 + 7 * 2 ^ 64 + 2 ^ 128)).fe 0).owes = false ∧
    ((sf (3 + 7 * 2 ^ 64 + 2 ^ 128)).fe 0).hzn.toNat ≤ (sf (3 + 7 * 2 ^ 64 + 2 ^ 128)).gtime.toNat :=
  ⟨commandMet (3 + 7 * 2 ^ 64 + 2 ^ 128) _ _ _ (by decide +kernel), by decide +kernel, by decide +kernel⟩
def feLate : FrontEnd := { fe0 with hzn := 5001 }
def sLate : State := { sf (3 + 7 * 2 ^ 64 + 2 ^ 128) with fes := (Vector.replicate 16 FrontEnd.fresh).set 0 feLate }
theorem commandedLate : Commanded sLate 0 0 (part false) (commandAt sLate (part false) feLate) where
  of := rfl
  there := rfl
  id := rfl
  on := rfl
  more := by show (1 : Word) ≠ 0; decide
  fits := by show ((1 : Word) - 0).toNat ≤ 2 ^ (0 + 4); decide
  whole := rfl
  slice := .inl rfl
  acquired := by show (0 : Nat) ≤ 5000; decide
  ring := by show (0 : Word) - 0 ≠ BitVec.ofNat 32 (2 ^ (0 + 4)); decide
  held := .inl rfl
  read := rfl
  calm := calm _ rfl
theorem witness_FrontEndCommands_unreleased : ∃ (s : State) (fe : BitVec 4) (part : Nat) (p : Part) (c : Cmd), Commanded s fe part p c ∧ c.clear = true ∧ c.op = 3 ∧
    BitVec.ofNat 16 c.arg0 ≠ 0 ∧ ¬ ((s.fe fe.toNat).owes = false ∧ (s.fe fe.toNat).hzn.toNat ≤ s.gtime.toNat) :=
  ⟨sLate, 0, 0, part false, _, commandedLate, by decide +kernel, by decide +kernel, by decide +kernel, by decide +kernel⟩

/-- A task that waits for one event, and one that an event leaves waiting for another. -/
def waitingTask (n : Nat) (cells : List (BitVec 16 × Word × Bool)) : Task :=
  { Task.queued n 0 1 0 (TaskRec.of 0) (KDesc.of 0) with phase := .waiting, cells := cells }
def sWake : State :=
  { su [] with clusters := [(0, { Cluster.fresh with events := [⟨0, 7, 5, none⟩] })]
               tasks := [(0, waitingTask 0 [(7, 5, false)]), (1, waitingTask 1 [(7, 5, false), (8, 1, false)])], warps := [] }
theorem witness_EventRecords_wakes : ∃ (s : State) (cl : BitVec 5) (r : EvRec) (rest : List EvRec) (p : Part), (s.cluster cl.toNat).events = r :: rest ∧
    s.part r.part = some p ∧ r.name ≠ 0 ∧ s.tasksApart ∧ (∀ x ∈ s.tasks, x.2.part = r.part →
      x.2.leaves r.name (min (((p.events.find r.name).getD 0).toNat + r.amount.toNat) (2 ^ 32 - 1)) ≠ x.2.cells → x.2.phase = .waiting ∨ x.2.phase = .evicted) ∧
    (∃ x ∈ s.tasks, x.2.leaves r.name 5 = [] ∧ x.2.cells ≠ []) :=
  ⟨sWake, 0, _, _, _, rfl, rfl, by decide, ⟨by decide, by decide +kernel⟩, by decide +kernel, ⟨_, .head _, by decide +kernel, by decide +kernel⟩⟩

/-- A crew whose save is over: blocked, with no event for it; blocked, with its sleep over; and no longer blocked. -/
def saved (wait : Wait) : State := { stateOf (warp { path none with wait := wait } 0 []) false with tasks := [(0, { task with phase := .saving true })] }
def SavedMet (wait : Wait) : Prop := ∃ (s : State) (n : Nat) (x : Task) (p : Part), s.keyed ∧ s.task n = some x ∧ x.id = n ∧ x.phase = .saving true ∧
  s.part x.part = some p ∧ (∀ k ∈ x.cores, ∀ l, (s.core ⟨x.cluster, k⟩).lent = some l → l.task ≠ n) ∧ s = saved wait
theorem savedMet (wait : Wait) : SavedMet wait :=
  ⟨saved wait, 0, _, _, keyedOf _ rfl, rfl, rfl, rfl, rfl, (by intro k hk l hl; cases mem1 hk; exact nomatch hl), rfl⟩
theorem witness_Scheduling_evicted : SavedMet (.evwait 3 5) ∧ (saved (.evwait 3 5)).blockedCrew 0 = true ∧ (saved (.evwait 3 5)).wakes 0 = false :=
  ⟨savedMet _, by decide +kernel, by decide +kernel⟩
theorem witness_Scheduling_woken : SavedMet (.sleep 4000) ∧ (saved (.sleep 4000)).wakes 0 = true := ⟨savedMet _, by decide +kernel⟩
theorem witness_Scheduling_busy : SavedMet .none ∧ (saved .none).blockedCrew 0 = false := ⟨savedMet _, by decide +kernel⟩
theorem witness_Scheduling_noSave : ∃ (s : State) (n : Nat), ∀ x b, s.task n = some x → x.phase ≠ .saving b :=
  ⟨su [], 0, by intro x b h; cases (show some task = some x from h); nofun⟩

/-- A crew that was saved waits for a place: its warp stands on no core. -/
def wOut : Warp := { warp { path none with wait := .sleep 4000 } 0 [] with place := none }
def resumable : Task := { task with phase := .resumable }
def sBack : State := { stateOf wOut false with cores := [], tasks := [(0, resumable)], parts := [(0, { part false with roundsDue := 1 })] }
theorem witness_Scheduling_returns : ∃ (s : State) (part : Nat) (p : Part) (x : Task) (k : Nat) (cores : List Nat), s.keyed ∧ s.part part = some p ∧ p.id = part ∧
    p.open = true ∧ p.roundsDue ≠ 0 ∧ p.trace = none ∧ s.tasks = [(x.id, x)] ∧ x.part = part ∧ x.phase = .resumable ∧ x.trec.harv = false ∧
    { s with parts := s.parts.set part { p with roundsDue := p.roundsDue - 1 } }.findFit { p with roundsDue := p.roundsDue - 1 } [] [] x = some (k, cores) ∧
    (∀ c ∈ cores, s.harvestHolds ⟨k, c⟩ = false) ∧
    (∀ kw ∈ s.warps, kw.2.defers = [] ∧ ∀ pl, kw.2.place = some pl → kw.2.inHarvest = true → 16 ≤ pl.slot) ∧
    (∀ kw ∈ s.warps, kw.1.task = x.id → kw.2.place = none ∧ kw.1.team < x.trec.teams ∧ kw.1.wid < x.trec.warps) :=
  ⟨sBack, 0, { part false with roundsDue := 1 }, resumable, 0, [0], keyedOf _ rfl, rfl, rfl, rfl, by decide, rfl, rfl, rfl, rfl, rfl, by decide +kernel,
    by decide +kernel, by intro kw h; cases mem1 h; exact ⟨rfl, nofun⟩, by intro kw h _; cases mem1 h; exact ⟨rfl, by decide +kernel, by decide +kernel⟩⟩

/-- The word of IADD with SAT and .b32, which is no instruction. -/
theorem witness_GuardsAndChecks_illegal : ∃ (s : State) (k : WarpKey) (pid : Nat) (w : Warp) (p : Path), s.warp k = some w ∧ w.namedApart ∧ w.path pid = some p ∧
    p.frame = none ∧ w.inHandler = false ∧ (∀ pl, w.place = some pl → s.framesHeld pl.core < 8) ∧ p.pc.toNat % 4 = 0 ∧ p.lns ≠ 0 ∧
    p.lns &&& w.exited = 0 ∧ s.handlerOf w ≠ 0 :=
  ⟨su [], key, 0, wu [], path none, rfl, by unfold Warp.namedApart; exact List.nodup_singleton _, rfl, rfl, rfl, fun pl e => by cases e; exact frames0, by decide,
    by decide, by decide, handler0⟩
/-- Two memories that are alike at every address. -/
theorem witness_MemoryStaysCanonical_alike : ∃ m n : Machine.Memory, m.wf = true ∧ n.wf = true ∧ (∀ a, m.byte a = n.byte a) ∧ m ≠ [] :=
  ⟨Memory.putAll [] 0x2000 [1, 2], Memory.putAll (Memory.putAll [] 0x2001 [2]) 0x2000 [1], by decide +kernel, by decide +kernel, fun _ => rfl, by decide +kernel⟩

/-- 05 R106, R129: a private line becomes dirty in the L1 and reaches its home L2, dirty, when it is evicted. -/
def sL1 : State := (su []).l1Access ⟨0, 0⟩ 0 0 0x100 0x40 true 0
theorem test_private_line_dirty : sL1.l1.map (·.dirty) = [true] ∧ sL1.l2.map (·.dirty) = [false] := by decide +kernel
theorem test_private_line_evicted : (match sL1.doMove (.l1Evict ⟨0, 0⟩ 0x40) with
    | .next t => t.l1 == [] && t.l2.map (·.dirty) == [true]
    | _ => false) = true := by decide +kernel
end Sys2Proof.Tests
end

section
/-! SUPPORT. What reaching memory leaves as it is: translation (05 R118-R122), the home L2s, the fetch of a run (02 R22); and
what RUN_FETCH and TURN_ARBITRATION do. -/

namespace Sys2Proof.Machine

/-! ## Translation and the L2s change memory and what serves it -/

/-- The second state is the first but for memory and what serves it: the partitions with their undo logs and held translations,
the homes' lines, the caches, the names. -/
def State.MemoryOnly (s t : State) : Prop :=
  t = { s with fresh := t.fresh, parts := t.parts, cores := t.cores, hbm := t.hbm, lines := t.lines, l2 := t.l2 }

theorem State.MemoryOnly.refl (s : State) : s.MemoryOnly s := rfl

theorem State.MemoryOnly.trans {s t u : State} (h : s.MemoryOnly t) (g : t.MemoryOnly u) : s.MemoryOnly u := by
  refine Eq.trans g ?_
  rw [h]

theorem State.MemoryOnly.foldl {α : Type} {f : State → α → State} (h : ∀ (s : State) x, s.MemoryOnly (f s x)) (xs : List α) :
    ∀ s : State, s.MemoryOnly (xs.foldl f s) := by
  induction xs with
  | nil => exact .refl
  | cons x xs ih => exact fun s => (h s x).trans (ih (f s x))

theorem State.MemoryOnly.warps {s t : State} (h : s.MemoryOnly t) : t.warps = s.warps := by rw [h]
theorem State.MemoryOnly.gtime {s t : State} (h : s.MemoryOnly t) : t.gtime = s.gtime := by rw [h]

theorem State.onPart_memoryOnly (s : State) (n : Nat) (f : Part → Part) : s.MemoryOnly (s.onPart n f) := by
  unfold State.onPart; split <;> rfl

theorem State.l2Touch_memoryOnly (s : State) (part : Nat) (ctx : BitVec 6) (line : Nat) (write : Bool) (ch : Nat) :
    s.MemoryOnly (s.l2Touch part ctx line write ch) := by
  obtain ⟨ps, l2, n, h⟩ := s.l2Touch_only part ctx line write ch
  rw [h]; rfl

theorem State.l2Access_memoryOnly (s : State) (part : Nat) (ctx : BitVec 6) (line : Nat) (write : Bool) (ch : Nat) :
    s.MemoryOnly (s.l2Access part ctx line write ch) := by
  obtain ⟨ps, l2, n, h⟩ := s.l2Access_only part ctx line write ch
  rw [h]; rfl

theorem State.homeStore_memoryOnly (s : State) (part dev : Nat) (bs : List Byte) (who : Option WarpKey) (t : Nat) (tag : Bool) :
    s.MemoryOnly (s.homeStore part dev bs who t tag).1 := by
  have accept : s.MemoryOnly (s.homeAccept dev bs who t tag).1 := rfl
  have log := State.MemoryOnly.foldl (f := fun (s : State) l => s.logLine part .hbm l) (fun s _ => s.onPart_memoryOnly part _)
    (blocks 128 dev bs.length) (s.homeAccept dev bs who t tag).1
  exact (accept.trans log).trans rfl

theorem State.orEntry_memoryOnly (s : State) (part : Nat) (ctx : BitVec 6) (dev bit : Nat) :
    s.MemoryOnly (s.orEntry part ctx dev bit) := by
  unfold State.orEntry
  simp only
  split
  · exact .refl s
  · exact (s.l2Touch_memoryOnly part ctx _ true 0).trans (State.homeStore_memoryOnly _ ..)

theorem State.walk_memoryOnly (s : State) (part : Nat) (ctx : BitVec 6) (va : Nat) : s.MemoryOnly (s.walk part ctx va).1 := by
  have fill := State.MemoryOnly.foldl (f := fun (s : State) dev => s.l2Touch part ctx (dev / 128) false 0)
    (fun s _ => s.l2Touch_memoryOnly ..)
  have accessed := State.MemoryOnly.foldl (f := fun (s : State) dev => s.orEntry part ctx dev 2) (fun s _ => s.orEntry_memoryOnly ..)
  unfold State.walk
  split
  · exact .refl s
  · split
    · exact .refl s
    · simp only
      split
      · exact fill _ s
      · exact ((fill _ s).trans (accessed _ _)).trans (State.onPart_memoryOnly ..)

/-- The held translation of an address, or the one that a walk finds. -/
def State.translation (s : State) (p : Part) (part : Nat) (ctx : BitVec 6) (va : Nat) : State × Option TlbEntry :=
  match p.tlbHit ctx va with
  | some e => (s, some e)
  | none => s.walk part ctx va

theorem State.translation_memoryOnly (s : State) (p : Part) (part : Nat) (ctx : BitVec 6) (va : Nat) :
    s.MemoryOnly (s.translation p part ctx va).1 := by
  unfold State.translation
  split
  · exact .refl s
  · exact s.walk_memoryOnly part ctx va

/-- What a translation answers where the entry stands for the address, or where none does. -/
def State.translated (s : State) (p : Part) (part : Nat) (ctx : BitVec 6) (va : Nat) (use : Use) (priv : Bool) (e : Option TlbEntry) :
    State × Except (Nat × Nat) Nat :=
  match e with
  | none => (s, .error (0x14, 4))
  | some e =>
    match e.walk with
    | .invalid l => (s, .error (0x08, l))
    | .malformed l => (s, .error (0x09, l))
    | .outside => (s, .error (0x0A, 1))
    | .page pa size u w x =>
      match p.phys (pa + va % size) with
      | none => (s, .error (0x0A, 1))
      | some dev =>
        if !u && !priv then (s, .error (0x0A, 4))
        else match use with
          | .read => (s, .ok dev)
          | .exec => if x then (s, .ok dev) else (s, .error (0x0A, 3))
          | .write =>
            if !w then (s, .error (0x0A, 2))
            else if e.dset then (s, .ok dev)
            else ((s.orEntry part ctx e.leaf 3).onPart part (fun p => { p with
              tlb := p.tlb.map (fun x => if x == e then { x with dset := true } else x) }), .ok dev)

/-- A translation is the answer that the entry held or found gives. -/
theorem State.translate_some {s : State} {part : Nat} {p : Part} (h : s.part part = some p) (ctx : BitVec 6) (va : Nat) (use : Use)
    (priv : Bool) : s.translate part ctx va use priv
      = (s.translation p part ctx va).1.translated p part ctx va use priv (s.translation p part ctx va).2 := by
  unfold State.translate
  rw [h]
  rfl
theorem State.translate_none {s : State} {part : Nat} (h : s.part part = none) (ctx : BitVec 6) (va : Nat) (use : Use)
    (priv : Bool) : s.translate part ctx va use priv = (s, .error (0x0A, 1)) := by
  unfold State.translate
  rw [h]

theorem State.translated_memoryOnly (s : State) (p : Part) (part : Nat) (ctx : BitVec 6) (va : Nat) (use : Use) (priv : Bool)
    (e : Option TlbEntry) : s.MemoryOnly (s.translated p part ctx va use priv e).1 := by
  unfold State.translated
  repeat' split
  all_goals try exact .refl s
  exact (s.orEntry_memoryOnly ..).trans (State.onPart_memoryOnly ..)

theorem State.translate_memoryOnly (s : State) (part : Nat) (ctx : BitVec 6) (va : Nat) (use : Use) (priv : Bool) :
    s.MemoryOnly (s.translate part ctx va use priv).1 := by
  cases h : s.part part with
  | none => rw [State.translate_none h]; exact .refl s
  | some p =>
    rw [State.translate_some h]
    exact (s.translation_memoryOnly p part ctx va).trans (State.translated_memoryOnly ..)

theorem State.locate_memoryOnly (s : State) (part : Nat) (ctx : BitVec 6) (va n : Nat) (use : Use) (priv : Bool) :
    s.MemoryOnly (s.locate part ctx va n use priv).1 := by
  have found := s.translate_memoryOnly part ctx va use priv
  unfold State.locate
  split
  · simp only
    repeat' split
    all_goals exact .refl s
  · split
    next h => rw [h] at found; exact found
    next h => rw [h] at found; exact found

/-! ## The fetch of a run -/

theorem State.touchLoc_memoryOnly (s : State) (part : Nat) (ctx : BitVec 6) (x : Loc) (write : Bool) (ch : Nat) :
    s.MemoryOnly (s.touchLoc part ctx x write ch) :=
  State.MemoryOnly.foldl (f := fun (s : State) l => s.l2Access part ctx l write ch) (fun s _ => s.l2Access_memoryOnly ..) _ s

theorem State.fetchPiece_memoryOnly (s : State) (w : Warp) (priv : Bool) (va n : Nat) :
    s.MemoryOnly (s.fetchPiece w priv va n).1 := by
  have found := s.locate_memoryOnly w.part (s.ctxOf w) (va / 128 * 128) 128 .exec priv
  unfold State.fetchPiece
  simp only
  split
  next t e h => rw [h] at found; exact found
  next t x h =>
    rw [h] at found
    have touched := found.trans (t.touchLoc_memoryOnly w.part (s.ctxOf w) x false 0)
    split
    · exact found
    · split
      · exact touched.trans rfl
      · split <;> exact touched

theorem State.fetchWord_memoryOnly (s : State) (w : Warp) (priv : Bool) (va : Nat) :
    s.MemoryOnly (s.fetchWord w priv va).1 := by
  have first := s.fetchPiece_memoryOnly w priv va (min 12 (128 - va % 128))
  unfold State.fetchWord
  simp only
  split
  next t c d h => rw [h] at first; exact first
  next t bs h =>
    rw [h] at first
    have second := first.trans (t.fetchPiece_memoryOnly w priv ((va + min 12 (128 - va % 128)) % 2 ^ 57) (12 - min 12 (128 - va % 128)))
    split
    · exact first
    · split
      next h => rw [h] at second; exact second
      next h => rw [h] at second; exact second

theorem State.fetchRun_memoryOnly (w : Warp) (priv : Bool) (n : Nat) : ∀ (s : State) (va : Nat) (run : List Insn),
    s.MemoryOnly (s.fetchRun w priv n va run).1 := by
  induction n with
  | zero => exact fun s _ _ => .refl s
  | succ n ih =>
    intro s va run
    have word := s.fetchWord_memoryOnly w priv va
    unfold State.fetchRun
    split
    next h => rw [h] at word; exact word
    next t x h =>
      rw [h] at word
      split
      · exact word
      · exact word.trans (ih t _ _)

/-- A run fetched adds to the words before it some that do not end a run, and then one that does (02 R22, R23). -/
theorem State.fetchRun_run (w : Warp) (priv : Bool) (n : Nat) : ∀ {s u : State} {va : Nat} {before run : List Insn},
    s.fetchRun w priv n va before = (u, .ok run) →
    ∃ pre x, run = before ++ (pre ++ [x]) ∧ (pre ++ [x]).length ≤ n ∧ endsRun x = true ∧ ∀ y ∈ pre, endsRun y = false := by
  induction n with
  | zero => intro s u va before run h; cases h
  | succ n ih =>
    intro s u va before run h
    unfold State.fetchRun at h
    split at h
    · cases h
    next t x _ =>
      cases ends : endsRun x with
      | true =>
        rw [ends, if_pos rfl] at h
        cases h
        exact ⟨[], x, rfl, by simp, ends, nofun⟩
      | false =>
        rw [ends, if_neg Bool.false_ne_true] at h
        obtain ⟨pre, y, rfl, len, last, others⟩ := ih h
        exact ⟨x :: pre, y, by simp, by simpa using len, last, List.forall_mem_cons.mpr ⟨ends, others⟩⟩

/-- A warp of one path has nothing to merge. -/
theorem Warp.merge_single {w : Warp} {p : Path} (h : w.paths = [p]) : w.merge = w := by
  have : w.merge = { w with paths := [p] } := by unfold Warp.merge; rw [h]; rfl
  rw [this, ← h]

/-- A path that is to fetch a run has none. -/
theorem State.fetchDue_run {s : State} {w : Warp} {p : Path} (h : s.fetchDue w p = true) : p.run.isEmpty = true := by
  simp only [State.fetchDue, Bool.and_eq_true] at h
  tauto

/-- RUN_FETCH of the only path of a warp: the fetch, then a name for the run, then the path with its run. -/
theorem execRunFetch_single {s u : State} {k : WarpKey} {w : Warp} {p : Path} {run : List Insn} (hw : s.warp k = some w)
    (hp : w.paths = [p]) (due : s.fetchDue w p = true) (hf : s.fetchRun w p.privileged 24 p.pc.toNat [] = (u, .ok run)) :
    execRunFetch k p.pid s = .next (State.onPath { u with fresh := u.fresh + 1 } k p.pid
      (fun p => { p with run := run, begun := false, runId := u.fresh, holds := [], since := u.gtime })) := by
  have here : w.path p.pid = some p := by simp [Warp.path, hp]
  have found : w.paths.find? (fun q => q.pc == p.pc && q.lns &&& p.lns == p.lns) = some p := by simp [hp]
  unfold execRunFetch
  simp only [hw, here, due, Bool.not_true, Bool.false_eq_true, if_false, Warp.merge_single hp, State.putWarp_self hw, found,
    State.fetchDue_run due, hf, State.name]

/-! ## A task changed where it stands -/

/-- Only the table of tasks is changed. -/
theorem State.onTask_only (s : State) (n : Nat) (f : Task → Task) : s.onTask n f = { s with tasks := (s.onTask n f).tasks } := by
  unfold State.onTask; split <;> rfl
/-- The task of the number is what the function makes of it. -/
theorem State.task_onTask_same {s : State} {n : Nat} {x : Task} (h : s.task n = some x) (f : Task → Task) :
    (s.onTask n f).task n = some (f x) := by
  unfold State.onTask; rw [h]; exact Tab.find_set_same ..
theorem State.task_onTask_ne (s : State) {n m : Nat} (f : Task → Task) (h : m ≠ n) : (s.onTask n f).task m = s.task m := by
  unfold State.onTask; split
  · exact Tab.find_set_ne _ _ h
  · rfl
@[simp] theorem State.warp_onTask (s : State) (n : Nat) (f : Task → Task) (k : WarpKey) : (s.onTask n f).warp k = s.warp k := by
  rw [State.onTask_only]; rfl
@[simp] theorem State.core_onTask (s : State) (n : Nat) (f : Task → Task) (c : CoreKey) : (s.onTask n f).core c = s.core c := by
  rw [State.onTask_only]; rfl

/-! ## The turn of a warp -/

/-- A path as its warp takes a turn: a turn path is held by no remote load, every other path stands. -/
def Path.takeTurn (prim : Nat) (sec : Option Nat) (p : Path) : Path :=
  if p.pid == prim || sec == some p.pid then { p with remote := false } else p
@[simp] theorem Path.takeTurn_pid (prim : Nat) (sec : Option Nat) (p : Path) : (p.takeTurn prim sec).pid = p.pid := by
  unfold Path.takeTurn; split <;> rfl

/-- The warp as it takes a turn. -/
def Warp.takeTurn (w : Warp) (prim : Nat) (sec : Option Nat) : Warp := { w with paths := w.paths.map (Path.takeTurn prim sec) }
theorem Warp.path_takeTurn {w : Warp} {n : Nat} {p : Path} (h : w.path n = some p) (prim : Nat) (sec : Option Nat) :
    (w.takeTurn prim sec).path n = some (p.takeTurn prim sec) := by
  have found : w.paths.find? (·.pid == n) = some p := h
  simp [Warp.path, Warp.takeTurn, List.find?_map, found]

/-- A warp that takes a turn makes its blocked crew run. -/
theorem Task.turned_eq (x : Task) :
    x.turned = { x with phase := if x.phase = .blocked ∨ x.phase = .saving false then .running else x.phase } := by
  cases x with
  | mk id part job ctx trec kd phase =>
    cases phase with
    | saving third => cases third <;> rfl
    | _ => rfl

/-- TURN_ARBITRATION of a core without a turn: the warp next in the round takes it. -/
theorem execTurnArbitration_free {s : State} {cl : BitVec 5} {co : BitVec 7} {w : Warp} {prim : Nat} {sec : Option Nat}
    (free : (s.core ⟨cl.toNat, co.toNat⟩).turn = none) (next : s.nextTurn ⟨cl.toNat, co.toNat⟩ = some w) (merged : w.merge = w)
    (paths : s.turnPaths w (s.slotEnd w) = some (prim, sec)) :
    execTurnArbitration cl co s = .next (((s.putWarp w.key (w.takeTurn prim sec)).onTask w.key.task Task.turned).setCore
      ⟨cl.toNat, co.toNat⟩ { s.core ⟨cl.toNat, co.toNat⟩ with turn := some ⟨w.key, prim, sec, false⟩ }) := by
  have uncut : s.cutHarvest ⟨cl.toNat, co.toNat⟩ = s := by unfold State.cutHarvest; simp only [free]
  unfold execTurnArbitration
  simp only [uncut, free, Option.isSome_none, Bool.false_eq_true, if_false, next, merged, paths]
  rfl

/-- Settles O47: a run by induction on the words still allowed; the fetch and the turn by what RUN_FETCH and TURN_ARBITRATION come
down to under the conditions stated. -/
theorem fetchAndTurns : Obligations.FetchAndTurns := by
  refine ⟨?_, ?_, ?_⟩
  · intro s u w priv va run h
    obtain ⟨pre, x, e, len, last, others⟩ := State.fetchRun_run w priv 24 h
    rw [List.nil_append] at e
    exact ⟨pre, x, e, e ▸ len, last, others⟩
  · intro s u k w p run hw hp due hf
    have kept : s.MemoryOnly u := by simpa only [hf] using State.fetchRun_memoryOnly w p.privileged 24 s p.pc.toNat []
    have hu : u.warp k = some w := by rw [State.warp, kept.warps]; exact hw
    have here : w.path p.pid = some p := by simp [Warp.path, hp]
    let named : State := { u with fresh := u.fresh + 1 }
    let q : Path := { p with run := run, begun := false, runId := u.fresh, holds := [], since := u.gtime }
    refine ⟨named.putWarp k (w.setPath q), ?_, rfl, ?_, ?_⟩
    · exact (execRunFetch_single hw hp due hf).trans (congrArg _ (State.onPath_eq (s := named) hu here _))
    · intro j hj
      rw [State.warp_putWarp_ne _ _ hj]
      exact congrArg (Tab.find · j) kept.warps
    · rw [State.warp_putWarp_same, ← kept.gtime]
      simp [Warp.setPath, hp, q]
  · intro s cl co w prim sec c free next merged paths hw
    let seated := s.putWarp w.key (w.takeTurn prim sec)
    refine ⟨_, w.takeTurn prim sec, execTurnArbitration_free free next merged paths, ?_, ?_, ?_, ?_, ?_, rfl, ?_, ?_, ?_⟩
    · rw [State.onTask_only]; rfl
    · exact State.core_setCore_same ..
    · intro j hj
      rw [State.core_setCore_ne _ _ hj, State.core_onTask, State.core_putWarp]
    · intro j hj
      rw [State.warp_setCore, State.warp_onTask, State.warp_putWarp_ne _ _ hj]
    · rw [State.warp_setCore, State.warp_onTask, State.warp_putWarp_same]
    · intro n p hp
      rw [Warp.path_takeTurn hp]
      simp [Path.takeTurn, Warp.path_pid hp]
    · intro n hn
      exact State.task_onTask_ne seated _ hn
    · intro x hx
      rw [← Task.turned_eq]
      exact State.task_onTask_same (s := seated) hx _

end Sys2Proof.Machine
end

section
/-! SUPPORT. A word and its twelve bytes (13 R263). -/

namespace Sys2Proof

/-- The bits of the word that bytes make are those of the bytes. -/
theorem Insn.ofBytes_bit (bs : List Byte) : ∀ n : Nat, n < 96 →
    (Insn.ofBytes bs).getLsbD n = (bs.getD (n / 8) 0).getLsbD (n % 8) := by
  induction bs with
  | nil => intro n _; simp [Insn.ofBytes]
  | cons b bs ih =>
    intro n hn
    have step : Insn.ofBytes (b :: bs) = (Insn.ofBytes bs <<< 8) ||| b.setWidth 96 := rfl
    rw [step, BitVec.getLsbD_or, BitVec.getLsbD_shiftLeft, BitVec.getLsbD_setWidth]
    by_cases low : n < 8
    · simp [hn, low, Nat.div_eq_of_lt low, Nat.mod_eq_of_lt low]
    · have q : n / 8 = (n - 8) / 8 + 1 := by omega
      have r : n % 8 = (n - 8) % 8 := by omega
      rw [ih (n - 8) (by omega), q, r, List.getD_cons_succ, b.getLsbD_of_ge n (by omega)]
      simp [hn, low]

/-- The bytes of a word make the word. -/
theorem Insn.ofBytes_toBytes (w : Insn) : Insn.ofBytes (Insn.toBytes w) = w := by
  apply BitVec.eq_of_getLsbD_eq
  intro n hn
  have here : n / 8 < 12 := by omega
  rw [Insn.ofBytes_bit _ n hn]
  simp [Insn.toBytes, Insn.byte, List.getD_eq_getElem?_getD, here, Nat.mod_lt, Nat.div_add_mod]

theorem decode_of_decodeTableWord {nbits w : Nat} {i : Instr} (h : decodeTableWord nbits w = some i) :
    decode (BitVec.ofNat 96 (w % 2 ^ nbits)) = .ok i := by
  unfold decodeTableWord at h
  rw [Insn.ofBytes_toBytes] at h
  split at h
  next e => cases h; exact e
  next => cases h

end Sys2Proof
end

section
/-! SUPPORT. The issue of the word at the head of a run, and of two words together (02 R25-R27). -/

namespace Sys2Proof.Machine

/-! ## The issue of a word -/

/-- The word stands at the head of the run of a turn path of the warp, which stands at the place, and may issue. -/
structure State.Heads (s : State) (k : WarpKey) (pid : Nat) (x : Insn) (pl : Place) : Prop where
  head : s.headWord k pid = some x
  place : s.placeOf k = pl
  may : s.mayIssue k pid = true

theorem State.heads_of {s : State} {k : WarpKey} {pid : Nat} {x : Insn} {w : Warp} {pl : Place} {p : Path} {run : List Insn} {tn : Turn}
    (hw : s.warp k = some w) (hpl : w.place = some pl) (hp : w.path pid = some p) (wait : p.wait = .none) (hr : p.run = x :: run)
    (ht : (s.core pl.core).turn = some tn) (hk : tn.w = k) (turn : tn.prim = pid ∨ tn.sec = some pid) (due : s.slotDue k pid = true)
    (uncut : s.cut k = false) : s.Heads k pid x pl where
  head := by simp [State.headWord, hw, hp, wait, hr]
  place := by simp [State.placeOf, hw, hpl]
  may := by simp [State.mayIssue, State.inTurn, hw, hpl, ht, hk, turn, due, uncut]

/-- What comes next in the agenda plays no part in the issue of a word. -/
theorem State.Heads.withAgenda {s : State} {k : WarpKey} {pid : Nat} {x : Insn} {pl : Place} (h : s.Heads k pid x pl) (ms : List Move) :
    State.Heads { s with agenda := ms } k pid x pl := ⟨h.head, h.place, h.may⟩

theorem State.issueWord_heads {s : State} {k : WarpKey} {pid : Nat} {x : Insn} {pl : Place} (h : s.Heads k pid x pl) :
    s.issueWord exec k pid = andThen (s.perform exec k pid x)
      fun t => .next ({ t with cur := none }.afterWord pl.core pl.slot (x.getLsbD 7)) := by
  unfold State.issueWord
  simp only [h.head, h.may, h.place, Bool.not_true, Bool.false_eq_true, if_false, wordYld]

theorem State.perform_ok {x : Insn} {i : Instr} (h : decode x = .ok i) (s : State) (k : WarpKey) (pid : Nat) :
    s.perform exec k pid x = exec i { s with cur := some (k, pid) } := by
  unfold State.perform; rw [h]
theorem State.perform_error {x : Insn} {e : IllegalWord} (h : decode x = .error e) (s : State) (k : WarpKey) (pid : Nat) :
    s.perform exec k pid x = .next (s.illegalWord k pid e) := by
  unfold State.perform; rw [h]

theorem step_agenda {s : State} {m : Move} {ms : List Move} (h : s.agenda = m :: ms) : step s = { s with agenda := ms }.doMove m := by
  unfold step; rw [h]
/-- A word that the machine chooses to issue takes a ns [1]. -/
theorem step_pick_issue {s : State} {k : WarpKey} {pid : Nat} (h : s.agenda = []) (hp : s.pick = .issue k pid) :
    step s = andThen (s.issueWord exec k pid) fun t => .next (t.pass 1) := by
  unfold step; simp only [h, hp]; rfl

theorem State.issuePair_heads {s : State} {k : WarpKey} {a b : Nat} {x y : Insn} {pl : Place} {w : Warp}
    (hx : s.Heads k a x pl) (hy : s.Heads k b y pl) (hw : s.warp k = some w) (ne : a ≠ b) (pair : pairable x y = true) :
    s.issuePair exec k a b = andThen (State.perform exec { s.abreast k a b with dual := some ((s.abreast k a b).readable w) } k a x)
      fun t => andThen (t.perform exec k b y)
        fun t => .next ({ t with cur := none, dual := none }.afterWord pl.core pl.slot (x.getLsbD 7 || y.getLsbD 7)) := by
  unfold State.issuePair
  simp only [hx.head, hy.head, hw, hx.may, hy.may, hx.place, pair, wordYld, beq_eq_false_iff_ne.mpr ne, Bool.not_true, Bool.or_self,
    Bool.false_eq_true, if_false]

theorem pairable_of {x y : Insn} {i j : Instr} (hx : decode x = .ok i) (hy : decode y = .ok j)
    (same : x.extractLsb' 93 3 = y.extractLsb' 93 3) (low : (x.extractLsb' 93 3).toNat < 3) : pairable x y = true := by
  unfold pairable
  rw [hx, hy]
  simp only [same, beq_self_eq_true, Bool.and_true] at low ⊢
  simpa [Except.toBool] using low

/-! ## The first word of a program -/

/-- The word that a reset machine is given to issue may issue. -/
theorem State.withRun_heads (x : Insn) : (State.reset.withRun [x]).Heads ⟨0, 0, 0⟩ 0 x ⟨⟨0, 0⟩, 0⟩ := ⟨rfl, rfl, rfl⟩

/-! ## What a warp reads does not depend on the warps, nor on what comes next -/

/-- The state with other warps, and other moves to come. -/
def State.withWork (s : State) (ws : Tab WarpKey Warp) (ms : List Move) : State := { s with warps := ws, agenda := ms }

section
variable (s : State) (ws : Tab WarpKey Warp) (ms : List Move)

theorem State.onPart_withWork (n : Nat) (f : Part → Part) :
    (s.withWork ws ms).onPart n f = (s.onPart n f).withWork ws ms := by
  have same : (s.withWork ws ms).part n = s.part n := rfl
  unfold State.onPart
  rw [same]
  split <;> rfl

theorem State.l2Touch_withWork (part : Nat) (ctx : BitVec 6) (line : Nat) (write : Bool) (ch : Nat) :
    (s.withWork ws ms).l2Touch part ctx line write ch = (s.l2Touch part ctx line write ch).withWork ws ms := by
  have parts : (s.withWork ws ms).part part = s.part part := rfl
  have lines : (s.withWork ws ms).l2 = s.l2 := rfl
  unfold State.l2Touch
  rw [parts, lines]
  repeat' split
  all_goals rfl

theorem State.homeStore_withWork (part dev : Nat) (bs : List Byte) (t : Nat) :
    ((s.withWork ws ms).homeStore part dev bs none t).1 = (s.homeStore part dev bs none t).1.withWork ws ms := by
  have accept : ((s.withWork ws ms).homeAccept dev bs none t).1 = (s.homeAccept dev bs none t).1.withWork ws ms := rfl
  have log := List.foldl_hom (fun s : State => s.withWork ws ms) (g₁ := fun (s : State) l => s.logLine part .hbm l)
    (g₂ := fun (s : State) l => s.logLine part .hbm l) (l := blocks 128 dev bs.length) (init := (s.homeAccept dev bs none t).1)
    (fun s _ => s.onPart_withWork ws ms part _)
  unfold State.homeStore State.writeArea
  simp only
  rw [accept, log]
  rfl

theorem State.homeTime_withWork (p : Part) : (s.withWork ws ms).homeTime p = s.homeTime p := rfl

theorem State.timeAt_withWork (part line : Nat) : (s.withWork ws ms).timeAt part line = s.timeAt part line := rfl

theorem State.tableWord_withWork (dev : Nat) : (s.withWork ws ms).tableWord dev = s.tableWord dev := rfl

theorem State.homeView_withWork (line t : Nat) : (s.withWork ws ms).homeView line t = s.homeView line t := rfl

theorem State.orEntry_withWork (part : Nat) (ctx : BitVec 6) (dev bit : Nat) :
    (s.withWork ws ms).orEntry part ctx dev bit = (s.orEntry part ctx dev bit).withWork ws ms := by
  unfold State.orEntry
  simp only [State.tableWord_withWork, State.timeAt_withWork, State.l2Touch_withWork]
  split
  · rfl
  · exact State.homeStore_withWork ..

/-- Lean has no equations of `walkFrom` in reach (they cost too much to derive): its body is opened with `delta`. -/
theorem State.walkFrom_withWork (p : Part) (va n table : Nat) (reads seen : List Nat) :
    (s.withWork ws ms).walkFrom p va n table reads seen = s.walkFrom p va n table reads seen := by
  have entry : (s.withWork ws ms).tableEntry p = s.tableEntry p := rfl
  delta State.walkFrom State.walkFrom._f
  rw [entry]

theorem State.walk_withWork (part : Nat) (ctx : BitVec 6) (va : Nat) :
    (s.withWork ws ms).walk part ctx va = ((s.walk part ctx va).1.withWork ws ms, (s.walk part ctx va).2) := by
  have there : (s.withWork ws ms).part part = s.part part := rfl
  have fill := fun (s : State) reads => List.foldl_hom (fun s : State => s.withWork ws ms)
    (g₁ := fun (s : State) dev => s.l2Touch part ctx (dev / 128) false 0)
    (g₂ := fun (s : State) dev => s.l2Touch part ctx (dev / 128) false 0) (l := reads) (init := s)
    (fun s _ => s.l2Touch_withWork ws ms ..)
  have accessed := fun (s : State) seen => List.foldl_hom (fun s : State => s.withWork ws ms)
    (g₁ := fun (s : State) dev => s.orEntry part ctx dev 2) (g₂ := fun (s : State) dev => s.orEntry part ctx dev 2) (l := seen) (init := s)
    (fun s _ => s.orEntry_withWork ws ms ..)
  unfold State.walk
  rw [there]
  split
  · rfl
  · split
    · rfl
    · simp only [State.walkFrom_withWork]
      split
      · rw [fill]
      · simp only [fill, accessed, State.onPart_withWork]
        rfl

theorem State.translation_withWork (p : Part) (part : Nat) (ctx : BitVec 6) (va : Nat) :
    (s.withWork ws ms).translation p part ctx va = ((s.translation p part ctx va).1.withWork ws ms, (s.translation p part ctx va).2) := by
  unfold State.translation
  split
  · rfl
  · exact s.walk_withWork ws ms part ctx va

theorem State.translated_withWork (p : Part) (part : Nat) (ctx : BitVec 6) (va : Nat) (use : Use) (priv : Bool) (e : Option TlbEntry) :
    (s.withWork ws ms).translated p part ctx va use priv e
      = ((s.translated p part ctx va use priv e).1.withWork ws ms, (s.translated p part ctx va use priv e).2) := by
  unfold State.translated
  cases e with
  | none => rfl
  | some e =>
    simp only
    cases e.walk with
    | page pa size u w x =>
      simp only
      cases p.phys (pa + va % size) with
      | none => rfl
      | some dev =>
        simp only
        split
        · rfl
        · cases use with
          | read => rfl
          | exec => simp only; split <;> rfl
          | write =>
            simp only [State.orEntry_withWork, State.onPart_withWork]
            split
            · rfl
            · split <;> rfl
    | _ => rfl

theorem State.translate_withWork (part : Nat) (ctx : BitVec 6) (va : Nat) (use : Use) (priv : Bool) :
    (s.withWork ws ms).translate part ctx va use priv
      = ((s.translate part ctx va use priv).1.withWork ws ms, (s.translate part ctx va use priv).2) := by
  have there : (s.withWork ws ms).part part = s.part part := rfl
  cases h : s.part part with
  | none => rw [State.translate_none h, State.translate_none (there.trans h)]
  | some p => rw [State.translate_some h, State.translate_some (there.trans h), State.translation_withWork, State.translated_withWork]

theorem State.locate_withWork (part : Nat) (ctx : BitVec 6) (va n : Nat) (use : Use) (priv : Bool) :
    (s.withWork ws ms).locate part ctx va n use priv
      = ((s.locate part ctx va n use priv).1.withWork ws ms, (s.locate part ctx va n use priv).2) := by
  have there : (s.withWork ws ms).part part = s.part part := rfl
  unfold State.locate
  rw [there, State.translate_withWork]
  split
  next p a _ =>
    simp only
    split
    · rfl
    · cases p.phys (a.buf + if a.xform == 4 then 0 else (a.span va n).1) with
      | none => rfl
      | some dev => simp only; split <;> rfl
  · generalize s.translate part ctx va use priv = found
    obtain ⟨t, answer⟩ := found
    cases answer <;> rfl

theorem State.physBytes_withWork (p : Part) (who : Option WarpKey) (pa n : Nat) (t : Nat → Nat) :
    (s.withWork ws ms).physBytes p who pa n t = s.physBytes p who pa n t := rfl

theorem State.imageAt_withWork (p : Part) (t : Nat → Nat) (k : Nat) : ∀ pa : Nat,
    (s.withWork ws ms).imageAt p t k pa = s.imageAt p t k pa := by
  induction k with
  | zero => exact fun _ => rfl
  | succ k ih => intro pa; unfold State.imageAt; simp only [State.physBytes_withWork, ih]

theorem State.viewRead_withWork (p : Part) (who : Option WarpKey) (a : Aperture) (va n : Nat) (t : Nat → Nat) :
    (s.withWork ws ms).viewRead p who a va n t = s.viewRead p who a va n t := by
  unfold State.viewRead State.viewRanges State.rangeBytes
  simp only [State.physBytes_withWork, State.imageAt_withWork]

theorem State.locRead_withWork (part va n space : Nat) (x : Loc) :
    (s.withWork ws ms).locRead part va n space x = s.locRead part va n space x := by
  have there : (s.withWork ws ms).part part = s.part part := rfl
  unfold State.locRead
  simp only [there, State.homeTime_withWork, State.viewRead_withWork, State.homeView_withWork]
  rfl

theorem State.backed_withWork (w : Warp) (slot : Nat) : (s.withWork ws ms).backed w slot = s.backed w slot := by
  have ctx : (s.withWork ws ms).ctxOf w = s.ctxOf w := rfl
  unfold State.backed
  rw [ctx, State.locate_withWork]
  generalize s.locate w.part (s.ctxOf w) (w.backing slot) 128 .read true = found
  obtain ⟨t, loc⟩ := found
  cases loc with
  | error e => rfl
  | ok x => simp only [State.locRead_withWork]

theorem State.readable_withWork (w : Warp) : (s.withWork ws ms).readable w = s.readable w := by
  have shown : (s.withWork ws ms).shown w = s.shown w := by
    funext r
    unfold State.shown
    rw [State.backed_withWork]
  unfold State.readable
  rw [shown]
end

theorem State.onWarp_withAgenda (s : State) (ms : List Move) (k : WarpKey) (f : Warp → Warp) :
    State.onWarp { s with agenda := ms } k f = { s.onWarp k f with agenda := ms } := by
  have there : State.warp { s with agenda := ms } k = s.warp k := rfl
  unfold State.onWarp
  rw [there]
  split <;> rfl

theorem State.onPath_withAgenda (s : State) (ms : List Move) (k : WarpKey) (n : Nat) (f : Path → Path) :
    State.onPath { s with agenda := ms } k n f = { s.onPath k n f with agenda := ms } := s.onWarp_withAgenda ms k _

/-- That two words issue in one cycle is noted in their paths alone, whatever comes next. -/
theorem State.abreast_withAgenda (s : State) (ms : List Move) (k : WarpKey) (a b : Nat) :
    State.abreast { s with agenda := ms } k a b = { s.abreast k a b with agenda := ms } := by
  have there : State.warp { s with agenda := ms } k = s.warp k := rfl
  unfold State.abreast
  simp only [there, State.onPath_withAgenda]

theorem State.abreast_only (s : State) (k : WarpKey) (a b : Nat) : s.abreast k a b = { s with warps := (s.abreast k a b).warps } := by
  unfold State.abreast State.onPath
  simp only
  rw [State.onWarp_only, State.onWarp_only s k]

/-- A warp is read as it was before its words issue together. -/
theorem State.readable_abreast (s : State) (ms : List Move) (k : WarpKey) (a b : Nat) (w : Warp) :
    (State.abreast { s with agenda := ms } k a b).readable w = s.readable w := by
  have here : State.abreast { s with agenda := ms } k a b = s.withWork (s.abreast k a b).warps ms := by
    rw [State.abreast_withAgenda, State.abreast_only]
    rfl
  rw [here, State.readable_withWork]

/-- The step of a pair whose words may issue, in the order of its two words. -/
theorem step_pair {s u v : State} {k : WarpKey} {a b : Nat} {x y : Insn} {i j : Instr} {w : Warp} {pl : Place} {ms : List Move}
    (hx : s.Heads k a x pl) (hy : s.Heads k b y pl) (hw : s.warp k = some w) (ne : a ≠ b) (dx : decode x = .ok i) (dy : decode y = .ok j)
    (pair : pairable x y = true) (h : s.agenda = .pair k a b :: ms)
    (first : exec i { s.abreast k a b with agenda := ms, dual := some (s.readable w), cur := some (k, a) } = .next u)
    (second : exec j { u with cur := some (k, b) } = .next v) :
    step s = .next ({ v with cur := none, dual := none }.afterWord pl.core pl.slot (x.getLsbD 7 || y.getLsbD 7)) := by
  rw [step_agenda h]
  refine (State.issuePair_heads (hx.withAgenda ms) (hy.withAgenda ms) hw ne pair).trans ?_
  rw [State.perform_ok dx, State.readable_abreast, State.abreast_withAgenda, first]
  simp only [andThen]
  rw [State.perform_ok dy, second]

/-- The step of a word that decodes, where it stands first in the agenda. -/
theorem step_issue_ok {s : State} {k : WarpKey} {pid : Nat} {x : Insn} {i : Instr} {pl : Place} {ms : List Move}
    (heads : s.Heads k pid x pl) (dx : decode x = .ok i) (h : s.agenda = .issue k pid :: ms) :
    step s = andThen (exec i { s with agenda := ms, cur := some (k, pid) })
      fun t => .next ({ t with cur := none }.afterWord pl.core pl.slot (x.getLsbD 7)) := by
  rw [step_agenda h]
  refine (State.issueWord_heads (heads.withAgenda ms)).trans ?_
  rw [State.perform_ok dx]

/-- Settles O55: the step is the issue of the head word, whose decoding `perform` hands to `exec`; a pair reads its warp as it was
before both words. -/
theorem stepRunsDecodedWord : Obligations.StepRunsDecodedWord := by
  refine ⟨?_, ?_, ?_, ?_⟩
  · intro s k pid x i w pl p run tn ms hw hpl hp wait hr dx ht hk turn due uncut after
    have heads := State.heads_of hw hpl hp wait hr ht hk turn due uncut
    refine ⟨fun h => ?_, fun h hp => ?_⟩
    · exact step_issue_ok heads dx h
    · rw [step_pick_issue h hp, State.issueWord_heads heads, State.perform_ok dx]
      cases exec i { s with cur := some (k, pid) } <;> rfl
  · intro s k pid x e w pl p run tn ms hw hpl hp wait hr dx ht hk turn due uncut h
    have heads := State.heads_of hw hpl hp wait hr ht hk turn due uncut
    rw [step_agenda h]
    refine (State.issueWord_heads (heads.withAgenda ms)).trans ?_
    rw [State.perform_error dx]
    rfl
  · intro s k a b x y i j w pl p q runx runy tn ms hw hpl hp hq waitp waitq hrx hry dx dy same low ht hk hprim hsec ne duex duey uncut h
      u v first second
    have hx := State.heads_of hw hpl hp waitp hrx ht hk (.inl hprim) duex uncut
    have hy := State.heads_of hw hpl hq waitq hry ht hk (.inr hsec) duey uncut
    exact step_pair hx hy hw ne dx dy (pairable_of dx dy same low) h first second
  · intro nbits w i h _
    exact step_issue_ok (State.withRun_heads _) (decode_of_decodeTableWord h) rfl

end Sys2Proof.Machine
end

section
/-! SUPPORT. What the operand of a quad reads (02 R50). -/

namespace Sys2Proof.Machine

/-- Where nothing is held, a register operand reads as the register. -/
theorem State.opnd_register {s : State} {c : Ctx} (held : c.p.holds = []) (q : Pos) {n : BitVec 7} {k : Nat} (h : n.toNat + k < 128) :
    s.opnd c q (.v n) k = (c.rd.regs[n.toNat + k].val, c.rd.regs[n.toNat + k].tags) := by
  have none : (if c.w.inHarvest then none else c.p.holds.find? (fun h => h.pos == q && h.spec == .v n)) = none := by
    rw [held, List.find?_nil, ite_self]
  unfold State.opnd
  rw [none]
  simp only [Ctx.specVal, h, dif_pos]

/-- Settles O54: each register of the quad is read in its own shape, with its own tags. -/
theorem quadTags : Obligations.QuadTags := by
  intro s c q n hn l held _
  have first : (BitVec.ofNat 7 (4 * n)).toNat = 4 * n := by
    rw [BitVec.toNat_ofNat, Nat.mod_eq_of_lt]; omega
  have reads : ∀ k (h : k < 4), s.opnd c q (.v (BitVec.ofNat 7 (4 * n))) k = (c.rd.regs[4 * n + k].val, c.rd.regs[4 * n + k].tags) := by
    intro k h
    rw [State.opnd_register held q (by omega)]
    simp only [first]
  refine ⟨?_, ?_⟩
  · simp only [State.quadTag, List.all_eq_true, List.mem_range]
    constructor
    · intro tagged
      have tag := fun k (h : k < 4) => (congrArg (fun r => r.2.has l) (reads k h)).symm.trans (tagged k h)
      exact ⟨tag 0 (by decide), tag 1 (by decide), tag 2 (by decide), tag 3 (by decide)⟩
    · rintro ⟨tag0, tag1, tag2, tag3⟩ k h
      rw [reads k h]
      match k, h with
      | 0, _ => exact tag0
      | 1, _ => exact tag1
      | 2, _ => exact tag2
      | 3, _ => exact tag3
  · unfold State.quadAt
    rw [reads 0 (by decide), reads 1 (by decide), reads 2 (by decide), reads 3 (by decide)]
    rfl

end Sys2Proof.Machine
end

section
/-! SUPPORT. The names of two checkpoints: a warp that one keeps, of a crew whose task another keeps. -/

namespace Sys2Proof.Machine

/-! ## A tidy state that a slice makes untidy (04 R98, R101) -/

/-- A task of a partition, queued under the name 3. -/
def sharedTask (part : Nat) : Task := Task.queued 3 part 4 0 (TaskRec.of 0) (KDesc.of 0)

/-- A warp of that task's crew, with a path of the name 5. -/
def sharedWarp (part : Nat) : Warp := (sharedTask part).startWarp 0 0 ⟨⟨0, 0⟩, 0⟩ 0 5 0

/-- What each of the partitions asks for: to be time-sliced on cluster 0, with no memory and no front end. -/
def awayArg : PartArg :=
  { sliced := true, clusters := 1, l2col0 := 0, l2col1 := 0, chcol0 := 0, chcol1 := 0, units := [], channels := 0, floor := 0
    ports := 0, fes := [], vfs := [], lloc := none, lrem := none, flease := none, fskew := none, ckint := none, slice := 1000
    pool := 0, poolLen := 0, overflow := 0 }

/-- The checkpoint of partition n, which keeps the warps and the tasks given and nothing else. -/
def awayImage (n : Nat) (ws : List Warp) (xs : List Task) : Image :=
  { State.reset.snapshot (Part.create n awayArg [] (BitVec.allOnes 32) (BitVec.allOnes 256)) with warps := ws, tasks := xs }

/-- Partition n while it is away: its checkpoint is all there is of its crews. -/
def awayTenant (n : Nat) (ws : List Warp) (xs : List Task) : Part :=
  { Part.create n awayArg [] (BitVec.allOnes 32) (BitVec.allOnes 256) with image := some (awayImage n ws xs) }

/-- Two partitions are away: the checkpoint of the first keeps task 3, that of the second a warp of a crew 3 without its task.
The next step starts the first one's slice. -/
def awaySharingCrew : State :=
  { State.reset with fresh := 6, parts := [(1, awayTenant 1 [] [sharedTask 1]), (2, awayTenant 2 [sharedWarp 2] [])]
                     agenda := [.dev (.sliceEndRollback 2 (some 1) [])] }

@[simp] theorem awaySharingCrew_warps : awaySharingCrew.warps = [] := rfl
@[simp] theorem awaySharingCrew_tasks : awaySharingCrew.tasks = [] := rfl
@[simp] theorem awaySharingCrew_fresh : awaySharingCrew.fresh = 6 := rfl
@[simp] theorem awaySharingCrew_parts : awaySharingCrew.parts = [(1, awayTenant 1 [] [sharedTask 1]), (2, awayTenant 2 [sharedWarp 2] [])] := rfl

@[simp] theorem sharedTask_id (part : Nat) : (sharedTask part).id = 3 := rfl
@[simp] theorem sharedTask_part (part : Nat) : (sharedTask part).part = part := rfl
@[simp] theorem sharedWarp_task (part : Nat) : (sharedWarp part).key.task = 3 := rfl
@[simp] theorem sharedWarp_part (part : Nat) : (sharedWarp part).part = part := rfl
theorem sharedWarp_pids (part : Nat) : (sharedWarp part).paths.map (·.pid) = [5] := rfl
@[simp] theorem awayTenant_id (n : Nat) (ws : List Warp) (xs : List Task) : (awayTenant n ws xs).id = n := rfl

/-- What the two checkpoints keep. -/
theorem awaySharingCrew_images {np : Nat × Part} {im : Image} (h : np ∈ awaySharingCrew.parts) (e : np.2.image = some im) :
    (np.1 = 1 ∧ im.warps = [] ∧ im.tasks = [sharedTask 1]) ∨ (np.1 = 2 ∧ im.warps = [sharedWarp 2] ∧ im.tasks = []) := by
  rw [awaySharingCrew_parts, List.mem_pair] at h
  obtain rfl | rfl := h <;> cases e
  · exact .inl ⟨rfl, rfl, rfl⟩
  · exact .inr ⟨rfl, rfl, rfl⟩

theorem sharedWarp_named (part : Nat) : (sharedWarp part).namedApart ∧ ∀ p ∈ (sharedWarp part).paths, p.pid < 6 := by
  refine ⟨?_, fun p hp => ?_⟩
  · rw [Warp.namedApart, sharedWarp_pids]
    exact List.nodup_singleton 5
  · have pid : p.pid ∈ (sharedWarp part).paths.map (·.pid) := List.mem_map_of_mem hp
    rw [sharedWarp_pids, List.mem_singleton] at pid
    omega

theorem awaySharingCrew_tidy : awaySharingCrew.tidy where
  keyed := by simp [State.keyed]
  named := by
    refine ⟨by simp, fun np h im e w hw => ?_⟩
    obtain ⟨-, ws, -⟩ | ⟨-, ws, -⟩ := awaySharingCrew_images h e <;> rw [ws] at hw
    · exact absurd hw List.not_mem_nil
    · exact List.mem_singleton.mp hw ▸ sharedWarp_named 2
  parts := by simp
  tasks := by simp
  crews := by simp
  images := by
    intro np h im e
    obtain ⟨n, ws, xs⟩ | ⟨n, ws, xs⟩ := awaySharingCrew_images h e <;> simp [n, ws, xs]
  apart := by
    intro np h im e
    refine ⟨by simp, by simp, by simp, by simp, fun mp g jm f other => ?_⟩
    obtain ⟨n, ws, xs⟩ | ⟨n, ws, xs⟩ := awaySharingCrew_images h e <;>
      obtain ⟨m, vs, ys⟩ | ⟨m, vs, ys⟩ := awaySharingCrew_images g f
    · exact absurd (m.trans n.symm) other
    · simp [ws, ys]
    · simp [xs, vs]
    · exact absurd (m.trans n.symm) other

/-- The step starts the slice of the first partition (04 R101). -/
theorem step_awaySharingCrew : step awaySharingCrew = .next ({ awaySharingCrew with agenda := [] }.startSlice 1) := rfl

/-- The slice gives the first partition its task back. -/
theorem startSlice_restores_sharedTask : (3, sharedTask 1) ∈ ({ awaySharingCrew with agenda := [] }.startSlice 1).tasks := .head _

/-- The slice leaves the second partition away, with what its checkpoint keeps. -/
theorem startSlice_keeps_away : (2, awayTenant 2 [sharedWarp 2] []) ∈ ({ awaySharingCrew with agenda := [] }.startSlice 1).parts :=
  .tail _ (.head _)

/-- Refutes O59: `State.tidy` sets the warps of two checkpoints apart, and their tasks, but no warp of one from the tasks of
another. So a slice that begins can give a partition back a task under the name by which another's checkpoint knows a crew. -/
theorem not_namesStayApart : ¬ Obligations.NamesStayApart := by
  intro h
  obtain ⟨-, -, crew, -⟩ := (h _ _ awaySharingCrew_tidy step_awaySharingCrew).apart _ startSlice_keeps_away _ rfl
  have same : (sharedTask 1).part = (sharedWarp 2).part := crew (sharedWarp 2) (.head _) _ startSlice_restores_sharedTask rfl
  rw [sharedTask_part, sharedWarp_part] at same
  exact absurd same (by decide)

end Sys2Proof.Machine
end

section
/-! SUPPORT. What a table holds after an entry is set or its entries are changed, what a task, a partition or a cluster is after an
update, and what private lines written back leave of a partition (05 R106, R127). -/

namespace Sys2Proof.Machine

/-! ## Tables -/

section
variable {κ α β : Type} [DecidableEq κ]

theorem Tab.mem_of_find {t : Tab κ α} {k : κ} {v : α} (h : t.find k = some v) : (k, v) ∈ t := by
  induction t with
  | nil => cases h
  | cons c t ih =>
    obtain ⟨x, y⟩ := c
    rw [Tab.find] at h
    split at h
    next e => cases h; cases e; exact .head _
    next => exact .tail _ (ih h)

theorem Tab.find_eq_none {t : Tab κ α} {k : κ} : t.find k = none ↔ ∀ x ∈ t, x.1 ≠ k := by
  induction t with
  | nil => simp [Tab.find]
  | cons c t ih =>
    obtain ⟨x, y⟩ := c
    by_cases h : x = k <;> simp [Tab.find, h, ih]

/-- Of keys that stand once each entry is the one found. -/
theorem Tab.find_of_mem {t : Tab κ α} {k : κ} {v : α} (apart : (t.map (·.1)).Nodup) (h : (k, v) ∈ t) : t.find k = some v := by
  induction t with
  | nil => cases h
  | cons c t ih =>
    obtain ⟨x, y⟩ := c
    rw [List.map_cons, List.nodup_cons] at apart
    rw [Tab.find]
    cases h with
    | head => exact if_pos rfl
    | tail _ h =>
      rw [if_neg fun e => apart.1 (List.mem_map.mpr ⟨_, h, e.symm⟩), ih apart.2 h]

theorem Tab.find_append (t u : Tab κ α) (k : κ) : Tab.find (t ++ u) k = (Tab.find t k).or (Tab.find u k) := by
  induction t with
  | nil => rfl
  | cons c t ih =>
    obtain ⟨x, y⟩ := c
    rw [List.cons_append, Tab.find, Tab.find]
    split
    · rfl
    · exact ih

theorem Tab.find_map (t : Tab κ α) (f : κ → α → β) (k : κ) :
    Tab.find (t.map (fun x => (x.1, f x.1 x.2))) k = (Tab.find t k).map (f k) := by
  induction t with
  | nil => rfl
  | cons c t ih =>
    obtain ⟨x, y⟩ := c
    rw [List.map_cons, Tab.find, Tab.find]
    split
    next e => rw [e]; rfl
    next => exact ih

theorem Tab.set_self {t : Tab κ α} {k : κ} {v : α} (h : t.find k = some v) : t.set k v = t := by
  induction t with
  | nil => cases h
  | cons c t ih =>
    obtain ⟨x, y⟩ := c
    rw [Tab.find] at h
    rw [Tab.set]
    split at h
    next e => cases h; rw [if_pos e, e]
    next e => rw [if_neg e, ih h]

theorem Tab.set_set (t : Tab κ α) (k : κ) (v w : α) : (t.set k v).set k w = t.set k w := by
  induction t with
  | nil => simp [Tab.set]
  | cons c t ih =>
    obtain ⟨x, y⟩ := c
    by_cases e : x = k <;> simp [Tab.set, e, ih]

theorem Tab.mem_set {t : Tab κ α} {k : κ} {v : α} {x : κ × α} (h : x ∈ t.set k v) : x = (k, v) ∨ x ∈ t := by
  induction t with
  | nil => exact .inl (List.mem_singleton.mp h)
  | cons c t ih =>
    obtain ⟨y, z⟩ := c
    rw [Tab.set] at h
    split at h
    next e =>
      cases h with
      | head => exact .inl (Prod.ext e rfl)
      | tail _ h => exact .inr (.tail _ h)
    next =>
      cases h with
      | head => exact .inr (.head _)
      | tail _ h => exact (ih h).imp_right (.tail _)

/-- What a function reads of the values stays, where it reads the same of the value set and of that which it takes the place of. -/
theorem Tab.map_set {t : Tab κ α} {k : κ} {v w : α} (f : α → β) (h : t.find k = some w) (same : f v = f w) :
    (t.set k v).map (fun x => (x.1, f x.2)) = t.map (fun x => (x.1, f x.2)) := by
  induction t with
  | nil => cases h
  | cons c t ih =>
    obtain ⟨x, y⟩ := c
    rw [Tab.find] at h
    rw [Tab.set]
    split at h
    next e => cases h; rw [if_pos e, List.map_cons, List.map_cons, e, same]
    next e => rw [if_neg e, List.map_cons, List.map_cons, ih h]

theorem Tab.map_vals_set {t : Tab κ α} {k : κ} {v w : α} (f : α → β) (h : t.find k = some w) (same : f v = f w) :
    (t.set k v).vals.map f = t.vals.map f := by
  simpa only [Tab.vals, List.map_map, Function.comp_def] using congrArg (List.map Prod.snd) (Tab.map_set f h same)

/-- A value set adds at most itself to the values of a kind. -/
theorem Tab.length_filter_vals_set (t : Tab κ α) (k : κ) (v : α) (f : α → Bool) :
    ((t.set k v).vals.filter f).length ≤ (t.vals.filter f).length + if f v then 1 else 0 := by
  have one : ∀ (x : κ) (a : α) (u : Tab κ α), ((Tab.vals ((x, a) :: u)).filter f).length = (u.vals.filter f).length + if f a then 1 else 0 := by
    intro x a u
    rw [Tab.vals, List.map_cons, List.filter_cons]
    split <;> rfl
  induction t with
  | nil => exact (one k v []).le
  | cons c t ih =>
    obtain ⟨x, y⟩ := c
    rw [Tab.set]
    split <;> rw [one, one] <;> omega

omit [DecidableEq κ] in
theorem Tab.mem_vals {t : Tab κ α} {v : α} : v ∈ t.vals ↔ ∃ k, (k, v) ∈ t := by simp [Tab.vals]

end

/-! ## A task, a partition, a cluster after an update -/

@[simp] theorem State.task_setTask_same (s : State) (x : Task) : (s.setTask x).task x.id = some x := Tab.find_set_same ..
theorem State.task_setTask_ne (s : State) {x : Task} {n : Nat} (h : n ≠ x.id) : (s.setTask x).task n = s.task n := Tab.find_set_ne _ _ h

theorem State.warp_setWarp_ne (s : State) {w : Warp} {k : WarpKey} (h : k ≠ w.key) : (s.setWarp w).warp k = s.warp k := Tab.find_set_ne _ _ h
@[simp] theorem State.warp_setWarp_same (s : State) (w : Warp) : (s.setWarp w).warp w.key = some w := Tab.find_set_same ..

/-- Only the table of partitions is changed. -/
theorem State.onPart_only (s : State) (n : Nat) (f : Part → Part) : s.onPart n f = { s with parts := (s.onPart n f).parts } := by
  unfold State.onPart; split <;> rfl
/-- The partition of the number is what the function makes of it. -/
@[simp] theorem State.part_onPart_same (s : State) (n : Nat) (f : Part → Part) : (s.onPart n f).part n = (s.part n).map f := by
  unfold State.onPart
  split
  next h => rw [State.part_putPart_same, h]; rfl
  next h => rw [h]; rfl
theorem State.part_onPart_ne (s : State) {n m : Nat} (f : Part → Part) (h : m ≠ n) : (s.onPart n f).part m = s.part m := by
  unfold State.onPart; split
  · exact State.part_putPart_ne _ _ h
  · rfl
@[simp] theorem State.fe_onPart (s : State) (n : Nat) (f : Part → Part) (k : Nat) : (s.onPart n f).fe k = s.fe k := by
  rw [State.onPart_only]; rfl

/-- Without a trace buffer nothing is recorded (10 R238). -/
theorem State.trace_off {s : State} {n : Nat} (h : ∀ p, s.part n = some p → p.trace = none) (kind cluster core slot data : Nat) :
    s.trace n kind cluster core slot data = s := by
  unfold State.trace
  split
  · rfl
  next p e => rw [h p e]

/-! ## Keys of warps -/

/-- A warp found in a table whose warps stand under their own keys. -/
theorem State.keyed.key {s : State} (h : s.keyed) {k : WarpKey} {w : Warp} (hw : s.warp k = some w) : w.key = k :=
  (h.2 _ (Tab.mem_of_find hw)).1
theorem State.keyed.warp_of_mem {s : State} (h : s.keyed) {w : Warp} (hw : w ∈ s.warps.vals) : s.warp w.key = some w := by
  obtain ⟨k, hk⟩ := Tab.mem_vals.mp hw
  have e : w.key = k := (h.2 _ hk).1
  rw [e]
  exact Tab.find_of_mem h.1 hk
theorem State.mem_vals_of_warp {s : State} {k : WarpKey} {w : Warp} (h : s.warp k = some w) : w ∈ s.warps.vals :=
  Tab.mem_vals.mpr ⟨k, Tab.mem_of_find h⟩
theorem State.keyed.nodup_keys {s : State} (h : s.keyed) : (s.warps.vals.map Warp.key).Nodup := by
  have : s.warps.vals.map Warp.key = s.warps.map (·.1) := by
    rw [Tab.vals, List.map_map]
    exact List.map_congr_left fun kw hk => (h.2 kw hk).1
  rw [this]
  exact h.1

/-! ## Private lines written back -/

theorem Part.uncounted_chargeTraffic (p : Part) (ctx : BitVec 6) (fill wback : Bool) : (p.chargeTraffic ctx fill wback).uncounted = p.uncounted := by
  unfold Part.chargeTraffic
  split
  next c h =>
    exact congrArg (fun t => { p with ctxs := t }) (Tab.map_set (v := { c with
      fills := c.fills + (if fill then 1 else 0), wbacks := c.wbacks + (if wback then 1 else 0) })
      (fun c : Context => { c with fills := 0, wbacks := 0 }) h rfl)
  next => rfl

/-- What two partitions have in common that differ in what their contexts count alone. -/
theorem Part.eq_of_uncounted {p q : Part} (h : q.uncounted = p.uncounted) : q = { p with ctxs := q.ctxs } := by
  cases p; cases q
  simp only [Part.uncounted, Part.mk.injEq] at h ⊢
  tauto

theorem State.l2Touch_part (s : State) (part : Nat) (ctx : BitVec 6) (line : Nat) (write : Bool) (ch : Nat) :
    (∀ n, n ≠ part → (s.l2Touch part ctx line write ch).part n = s.part n) ∧
    ((s.l2Touch part ctx line write ch).part part).map Part.uncounted = (s.part part).map Part.uncounted := by
  unfold State.l2Touch
  split
  · exact ⟨fun _ _ => rfl, rfl⟩
  split
  · exact ⟨fun _ _ => rfl, rfl⟩
  next p hp =>
  split
  · exact ⟨fun _ _ => rfl, rfl⟩
  split
  · split
    · exact ⟨fun _ _ => rfl, rfl⟩
    · refine ⟨fun n h => State.part_putPart_ne _ _ h, ?_⟩
      rw [State.part_putPart_same, hp, Option.map_some, Option.map_some, Part.uncounted_chargeTraffic]
  · refine ⟨fun n h => State.part_putPart_ne _ _ h, ?_⟩
    refine (congrArg _ (State.part_putPart_same s part _)).trans ?_
    rw [hp, Option.map_some, Option.map_some]
    split
    · split <;> simp only [Part.uncounted_chargeTraffic]
    · simp only [Part.uncounted_chargeTraffic]

/-- The second state has the first one's partitions, but that one may have counted traffic of its contexts. -/
def State.Counts (s t : State) (part : Nat) : Prop :=
  (∀ n, n ≠ part → t.part n = s.part n) ∧ (t.part part).map Part.uncounted = (s.part part).map Part.uncounted

theorem State.Counts.refl (s : State) (part : Nat) : s.Counts s part := ⟨fun _ _ => rfl, rfl⟩
theorem State.Counts.trans {s t u : State} {part : Nat} (h : s.Counts t part) (g : t.Counts u part) : s.Counts u part :=
  ⟨fun n ne => (g.1 n ne).trans (h.1 n ne), g.2.trans h.2⟩
theorem State.Counts.uncounted {s t : State} {part : Nat} (h : s.Counts t part) (n : Nat) :
    (t.part n).map Part.uncounted = (s.part n).map Part.uncounted := by
  by_cases e : n = part
  · rw [e]; exact h.2
  · rw [h.1 n e]

theorem State.l2Access_counts (s : State) (part : Nat) (ctx : BitVec 6) (line : Nat) (write : Bool) (ch : Nat) :
    s.Counts (s.l2Access part ctx line write ch) part := by
  have first : s.Counts _ part := s.l2Touch_part part ctx line write ch
  unfold State.l2Access
  simp only
  split
  · exact first.trans (State.l2Touch_part ..)
  · exact first

/-- Lines written back change no partition but in what its contexts count. -/
theorem State.writeBack_uncounted (s : State) (which : L1Line → Bool) (n : Nat) :
    ((s.writeBack which).part n).map Part.uncounted = (s.part n).map Part.uncounted := by
  unfold State.writeBack
  simp only
  exact List.foldlRecOn (motive := fun t : State => (t.part n).map Part.uncounted = (s.part n).map Part.uncounted) _ _ rfl
    fun t same x _ => ((t.l2Access_counts x.part x.ctx x.line true 0).uncounted n).trans same

/-- Lines of one partition written back change no other. -/
theorem State.writeBack_part_ne (s : State) (part : Nat) {n : Nat} (h : n ≠ part) :
    (s.writeBack (fun x => x.part == part)).part n = s.part n := by
  unfold State.writeBack
  simp only
  refine List.foldlRecOn (motive := fun t : State => t.part n = s.part n) _ _ rfl fun t same x hx => ?_
  obtain ⟨-, own⟩ := List.mem_filter.mp hx
  have own : x.part = part := by simp at own; exact own.1
  exact ((t.l2Access_counts x.part x.ctx x.line true 0).1 n (own ▸ h)).trans same

/-- The lines that a test names leave the L1s. -/
theorem State.writeBack_linesBack (s : State) (which : L1Line → Bool) : LinesBack s (s.writeBack which) (fun l => which l = true) := by
  obtain ⟨ps, l2, n, h⟩ := s.writeBack_only which
  refine ⟨by rw [h], s.writeBack_uncounted which, fun x => ?_⟩
  rw [h]
  simp

theorem LinesBack.congr {s t : State} {P Q : L1Line → Prop} (h : LinesBack s t P) (same : ∀ x, P x ↔ Q x) : LinesBack s t Q :=
  (funext fun x => propext (same x) : P = Q) ▸ h

end Sys2Proof.Machine
end

section
/-! SUPPORT. Event records (04 R91, R92): when a saved crew wakes, and what an event's count does to the tasks of its partition. -/

namespace Sys2Proof.Machine

/-! ## The wake condition (04 R88) -/

/-- The second state's partitions have the first one's counts. -/
def State.SameEvents (s t : State) : Prop := ∀ n, (t.part n).map Part.events = (s.part n).map Part.events

theorem State.SameEvents.of_uncounted {s t : State} (h : ∀ n, (t.part n).map Part.uncounted = (s.part n).map Part.uncounted) :
    s.SameEvents t := by
  intro n
  have events : ∀ x : Option Part, x.map Part.events = (x.map Part.uncounted).map Part.events := by
    intro x; rw [Option.map_map]; rfl
  rw [events (t.part n), events (s.part n), h n]

/-- A target is met by what a partition counts. -/
theorem State.SameEvents.meets {s t : State} (h : s.SameEvents t) (n : Nat) (name : BitVec 16) (target : Word) :
    (match t.part n with | some q => q.meets name target | none => false)
      = (match s.part n with | some q => q.meets name target | none => false) := by
  have read : ∀ u : State, (match u.part n with | some q => q.meets name target | none => false)
      = (match (u.part n).map Part.events with | some c => decide (target.toNat ≤ ((c.find name).getD 0).toNat) | none => false) := by
    intro u; cases u.part n <;> rfl
  rw [read t, read s, h n]

/-- Whether an external wait is over is read from the warp's queue, the counts and the time. -/
theorem State.externalMet_congr {s t : State} {v w : Warp} (h : s.SameEvents t) (time : t.gtime = s.gtime) (part : v.part = w.part)
    (queue : v.queue = w.queue) (p : Path) : t.externalMet v p = s.externalMet w p := by
  unfold State.externalMet Warp.external Warp.holdsBack Warp.entry
  rw [part, queue, time]
  cases p.wait with
  | evwait name target => exact congrArg _ (h.meets w.part name target)
  | _ => rfl

/-- Whether a crew wakes is read from its warps' paths and queues, the counts and the time. -/
theorem State.wakes_of_map {s t : State} (h : s.SameEvents t) (time : t.gtime = s.gtime) {f : WarpKey → Warp → Warp}
    (warps : t.warps = s.warps.map (fun x => (x.1, f x.1 x.2)))
    (kept : ∀ k w, (f k w).key = w.key ∧ (f k w).part = w.part ∧ (f k w).queue = w.queue ∧ (f k w).paths = w.paths) (n : Nat) :
    t.wakes n = s.wakes n := by
  have one : ∀ k w, ((f k w).key.task == n && (f k w).paths.any (t.externalMet (f k w))) = (w.key.task == n && w.paths.any (s.externalMet w)) := by
    intro k w
    obtain ⟨key, part, queue, paths⟩ := kept k w
    rw [key, paths, funext (State.externalMet_congr h time part queue)]
  simp only [State.wakes, State.crew, Tab.vals, warps, List.map_map, List.any_filter, List.any_map, Function.comp_def, one]

theorem State.wakes_congr {s t : State} (h : s.SameEvents t) (time : t.gtime = s.gtime) (warps : t.warps = s.warps) (n : Nat) :
    t.wakes n = s.wakes n :=
  State.wakes_of_map h time (f := fun _ w => w) (by rw [warps]; exact (List.map_id' s.warps).symm) (fun _ _ => ⟨rfl, rfl, rfl, rfl⟩) n

/-! ## An event's count reaches the tasks of its partition (04 R90, R92) -/

/-- The task without the wait entries that a count which has reached `n` meets. -/
def Task.lessen (x : Task) (name : BitVec 16) (n : Nat) : Task := { x with cells := x.leaves name n }

/-- The task as it becomes runnable under a number of the order: one that has not started (03 R68, 04 R81), a saved crew (04 R90). -/
def Task.readied (x : Task) (m : Nat) : Task :=
  { x with cells := [], readySeq := m, rounds := 0, eprio := x.trec.prio, phase := if x.trec.harv then .queued else .ready }
def Task.reawake (x : Task) (m : Nat) : Task :=
  { x with cells := [], readySeq := m, rounds := 0, eprio := x.trec.prio, phase := .resumable, woken := false }

/-- What a count that has reached `n` does to a task of its partition. -/
def State.rouse (part : Nat) (name : BitVec 16) (n : Nat) (s : State) (x : Task) : State :=
  if x.leaves name n == x.cells then s
  else
    let s := s.setTask (x.lessen name n)
    match x.phase with
    | .waiting => if (x.leaves name n).isEmpty then s.makeReady x.id else s
    | .held => if (x.leaves name n).isEmpty then (s.startHeld x.id).callRound part else s
    | .evicted => s.settleTask (x.lessen name n)
    | _ => s

theorem State.addEvent_eq {s : State} {part : Nat} {p : Part} {name : BitVec 16} (h : s.part part = some p) (named : name ≠ 0)
    (amount : Nat) : s.addEvent part name amount =
      (let n := min (((p.events.find name).getD 0).toNat + amount) (2 ^ 32 - 1)
       (s.tasks.vals.filter (fun x => x.part == part)).foldl (State.rouse part name n)
        (s.putPart part { p with events := p.events.set name (BitVec.ofNat 32 n) })) := by
  have named : (name == 0) = false := beq_eq_false_iff_ne.mpr named
  unfold State.addEvent
  rw [h]
  simp only [named, Bool.false_eq_true, if_false]
  rfl

theorem execEventRecordApply_eq {s : State} {cl : BitVec 5} {r : EvRec} {rest : List EvRec} {p : Part}
    (h : (s.cluster cl.toNat).events = r :: rest) (hp : s.part r.part = some p) (named : r.name ≠ 0) :
    exec (.eventRecordApply cl) s = .next (
      let n := min (((p.events.find r.name).getD 0).toNat + r.amount.toNat) (2 ^ 32 - 1)
      (s.tasks.vals.filter (fun x => x.part == r.part)).foldl (State.rouse r.part r.name n)
        ((s.setCluster cl.toNat { s.cluster cl.toNat with events := rest }).putPart r.part
          { p with events := p.events.set r.name (BitVec.ofNat 32 n) })) := by
  have run : exec (.eventRecordApply cl) s = execEventRecordApply cl s := rfl
  rw [run]
  unfold execEventRecordApply
  simp only [h]
  rw [State.addEvent_eq (s := s.setCluster cl.toNat { s.cluster cl.toNat with events := rest }) hp named]
  rfl

/-- A partition as a task of it becomes runnable: a round is called, and a harvest task that had not started joins the harvest queue. -/
def Part.roused (q : Part) (x : Task) : Part :=
  { q with roundsDue := max 1 q.roundsDue
           harvestQ := if x.phase = .waiting ∧ x.trec.harv = true then q.harvestQ ++ [x.id] else q.harvestQ }

/-- ONE TASK HAS LOST THE ENTRIES NOW MET: `s` before, `t` after. -/
structure Rousing (s t : State) (x y : Task) (name : BitVec 16) (n : Nat) : Prop where
  rest : t = { s with parts := t.parts, tasks := t.tasks, fresh := t.fresh }
  task : t.task x.id = some y
  others : ∀ j, j ≠ x.id → t.task j = s.task j
  became : Roused s x y name n
  parts : ∀ j, j ≠ x.part → t.part j = s.part j
  part : t.part x.part = if y.phase = x.phase then s.part x.part else (s.part x.part).map (fun q => q.roused x)

theorem State.onPart_onPart (s : State) (n : Nat) (f g : Part → Part) : (s.onPart n f).onPart n g = s.onPart n (fun q => g (f q)) := by
  cases h : s.part n with
  | none =>
    have off : ∀ f, s.onPart n f = s := fun f => by unfold State.onPart; rw [h]
    rw [off, off, off]
  | some q =>
    rw [State.onPart_eq h, State.onPart_eq (State.part_putPart_same ..), State.onPart_eq h]
    exact congrArg (fun t => { s with parts := t }) (Tab.set_set ..)

/-- The task as it has become is set, and the partition learns that it is runnable. -/
def State.runnable (s : State) (x y : Task) : State :=
  State.onPart ({ s with fresh := s.fresh + 1 }.setTask y) x.part (fun q => q.roused x)

theorem State.setTask_setTask {s : State} {x y : Task} (h : y.id = x.id) : (s.setTask x).setTask y = s.setTask y := by
  unfold State.setTask
  rw [h]
  exact congrArg (fun t => { s with tasks := t }) (Tab.set_set ..)

theorem State.runnable_setTask {s : State} {w x y : Task} (h : y.id = w.id) : (s.setTask w).runnable x y = s.runnable x y := by
  have e : State.setTask { s.setTask w with fresh := s.fresh + 1 } y = State.setTask { s with fresh := s.fresh + 1 } y :=
    State.setTask_setTask (s := { s with fresh := s.fresh + 1 }) h
  exact congrArg (fun t => State.onPart t x.part (fun q => q.roused x)) e

theorem State.makeReady_eq {s : State} {x : Task} (h : s.task x.id = some x) (waits : x.phase = .waiting) :
    s.makeReady x.id = s.runnable x (x.readied s.fresh) := by
  unfold State.makeReady State.callRound State.runnable
  rw [h]
  cases harv : x.trec.harv
  · simp [State.name, Part.roused, Task.readied, harv]
  · simp [State.name, Part.roused, Task.readied, harv, waits, State.onPart_onPart]

/-- A saved crew is resumable where its wake condition holds. -/
theorem State.settleTask_evicted {s : State} {x : Task} (h : x.phase = .evicted) : s.settleTask x =
    if x.woken = true ∨ s.wakes x.id = true then s.runnable x (x.reawake s.fresh) else s := by
  unfold State.settleTask State.runnable Part.roused
  simp only [h, Bool.or_eq_true, reduceCtorEq, false_and, if_false]
  rfl

section
variable {s : State} {x y : Task} {name : BitVec 16} {n : Nat}

theorem Rousing.of_setTask (id : y.id = x.id) (became : Roused s x y name n) (same : y.phase = x.phase) :
    Rousing s (s.setTask y) x y name n where
  rest := rfl
  task := id ▸ State.task_setTask_same ..
  others j ne := State.task_setTask_ne s (id ▸ ne)
  became := became
  parts _ _ := rfl
  part := by rw [if_pos same]; rfl

theorem Rousing.of_runnable (id : y.id = x.id) (became : Roused s x y name n) (differs : y.phase ≠ x.phase) :
    Rousing s (s.runnable x y) x y name n where
  rest := by unfold State.runnable; rw [State.onPart_only]; rfl
  task := by
    unfold State.runnable
    rw [State.onPart_only]
    exact id ▸ Tab.find_set_same ..
  others j ne := by
    unfold State.runnable
    rw [State.onPart_only]
    exact Tab.find_set_ne _ _ (id ▸ ne)
  became := became
  parts j ne := State.part_onPart_ne _ _ ne
  part := by rw [if_neg differs]; exact State.part_onPart_same ..

theorem State.rouse_same {part : Nat} (same : x.leaves name n = x.cells) : State.rouse part name n s x = s := by
  unfold State.rouse; rw [if_pos (beq_iff_eq.mpr same)]
theorem State.rouse_waiting {part : Nat} (differs : x.leaves name n ≠ x.cells) (waits : x.phase = .waiting) :
    State.rouse part name n s x = if x.leaves name n = [] then (s.setTask (x.lessen name n)).makeReady x.id else s.setTask (x.lessen name n) := by
  unfold State.rouse
  rw [if_neg (beq_iff_eq.not.mpr differs), waits]
  simp only [List.isEmpty_iff]
theorem State.rouse_evicted {part : Nat} (differs : x.leaves name n ≠ x.cells) (saved : x.phase = .evicted) :
    State.rouse part name n s x = (s.setTask (x.lessen name n)).settleTask (x.lessen name n) := by
  unfold State.rouse
  rw [if_neg (beq_iff_eq.not.mpr differs), saved]

/-- ONE TASK'S TURN: it keeps its entries, or loses some and is runnable or not (04 R90, R92). -/
theorem State.rouse_rousing {part : Nat} (h : s.task x.id = some x)
    (phase : x.leaves name n ≠ x.cells → x.phase = .waiting ∨ x.phase = .evicted) :
    ∃ y, Rousing s (State.rouse part name n s x) x y name n := by
  by_cases same : x.leaves name n = x.cells
  · have kept : s.setTask x = s := congrArg (fun t => { s with tasks := t }) (Tab.set_self h)
    have := Rousing.of_setTask (s := s) (y := x) (name := name) (n := n) rfl (by rw [Roused, if_pos same]) rfl
    rw [kept] at this
    exact ⟨x, by rwa [State.rouse_same same]⟩
  obtain waits | saved := phase same
  · rw [State.rouse_waiting same waits]
    split
    next none =>
      have ready : (s.setTask (x.lessen name n)).makeReady x.id = s.runnable x (x.readied s.fresh) :=
        (State.makeReady_eq (x := x.lessen name n) (State.task_setTask_same ..) waits).trans (State.runnable_setTask (x := x) rfl)
      rw [ready]
      refine ⟨_, .of_runnable rfl (by rw [Roused, if_neg same, if_pos waits, if_pos none]; rfl) ?_⟩
      rw [waits, Task.readied]
      cases x.trec.harv <;> simp
    next some => exact ⟨_, .of_setTask rfl (by rw [Roused, if_neg same, if_pos waits, if_neg some]; rfl) rfl⟩
  · have away : x.phase ≠ .waiting := by rw [saved]; exact nofun
    have settled : (s.setTask (x.lessen name n)).settleTask (x.lessen name n)
        = if x.woken = true ∨ s.wakes x.id = true then (s.setTask (x.lessen name n)).runnable x (x.reawake s.fresh) else s.setTask (x.lessen name n) :=
      State.settleTask_evicted (x := x.lessen name n) saved
    rw [State.rouse_evicted same saved, settled]
    split
    next woken =>
      rw [State.runnable_setTask (w := x.lessen name n) (y := x.reawake s.fresh) rfl]
      exact ⟨_, .of_runnable rfl (by rw [Roused, if_neg same, if_neg away, if_pos woken]; rfl) (by rw [saved]; exact nofun)⟩
    next asleep => exact ⟨_, .of_setTask rfl (by rw [Roused, if_neg same, if_neg away, if_neg asleep]; rfl) rfl⟩
end

/-- A task has another phase in the second state. -/
def State.changed (s t : State) (j : Nat) : Prop := ∃ x y, s.task j = some x ∧ t.task j = some y ∧ y.phase ≠ x.phase

theorem State.not_changed_of_same {s t : State} {j : Nat} (h : t.task j = s.task j) : ¬ s.changed t j := by
  rintro ⟨x, y, hx, hy, differs⟩
  rw [h, hx] at hy
  cases hy
  exact differs rfl
theorem State.changed_congr {s t u v : State} {j : Nat} (h : s.task j = u.task j) (g : t.task j = v.task j) : s.changed t j ↔ u.changed v j := by
  unfold State.changed; rw [h, g]

/-- A partition after some of its tasks have lost entries: a round is called where one has become runnable, and the harvest tasks
of these have joined the harvest queue. -/
structure Part.Hears (s t : State) (p q : Part) : Prop where
  rest : q = { p with roundsDue := q.roundsDue, harvestQ := q.harvestQ }
  called : (∃ j, s.changed t j) → q.roundsDue = max 1 p.roundsDue
  uncalled : (∀ j, ¬ s.changed t j) → q.roundsDue = p.roundsDue
  queue : ∀ j, j ∈ q.harvestQ ↔ j ∈ p.harvestQ ∨ (s.changed t j ∧ ∃ x, s.task j = some x ∧ x.phase = .waiting ∧ x.trec.harv = true)

/-- SEVERAL TASKS OF A PARTITION HAVE LOST THE ENTRIES NOW MET, each once. -/
structure Heard (s t : State) (part : Nat) (xs : List Task) (name : BitVec 16) (n : Nat) : Prop where
  rest : t = { s with parts := t.parts, tasks := t.tasks, fresh := t.fresh }
  tasks : ∀ x ∈ xs, ∃ y, t.task x.id = some y ∧ Roused s x y name n
  others : ∀ j, (∀ x ∈ xs, x.id ≠ j) → t.task j = s.task j
  parts : ∀ j, j ≠ part → t.part j = s.part j
  part : ∀ p, s.part part = some p → ∃ q, t.part part = some q ∧ Part.Hears s t p q

section
variable {s t : State} {x y : Task} {name : BitVec 16} {n : Nat}

theorem Rousing.sameEvents (h : Rousing s t x y name n) : s.SameEvents t := by
  intro j
  by_cases e : j = x.part
  · rw [e, h.part]
    split
    · rfl
    · rw [Option.map_map]; rfl
  · rw [h.parts j e]

theorem Roused.congr (wakes : ∀ n, t.wakes n = s.wakes n) : Roused t x y name n ↔ Roused s x y name n := by
  unfold Roused; rw [wakes]

theorem Rousing.changed_iff (h : Rousing s t x y name n) (hx : s.task x.id = some x) (j : Nat) :
    s.changed t j ↔ j = x.id ∧ y.phase ≠ x.phase := by
  by_cases e : j = x.id
  · subst e
    constructor
    · rintro ⟨x', y', hx', hy', differs⟩
      rw [hx] at hx'; rw [h.task] at hy'
      cases hx'; cases hy'
      exact ⟨rfl, differs⟩
    · exact fun g => ⟨x, y, hx, h.task, g.2⟩
  · exact ⟨fun g => absurd g (State.not_changed_of_same (h.others j e)), fun g => absurd g.1 e⟩

theorem Rousing.hears {p : Part} (h : Rousing s t x y name n) (hx : s.task x.id = some x) (hp : s.part x.part = some p) :
    ∃ q, t.part x.part = some q ∧ Part.Hears s t p q := by
  have part := h.part
  rw [hp] at part
  by_cases same : y.phase = x.phase
  · have none : ∀ j, ¬ s.changed t j := fun j g => ((h.changed_iff hx j).mp g).2 same
    rw [if_pos same] at part
    exact ⟨p, part, rfl, fun ⟨j, g⟩ => absurd g (none j), fun _ => rfl, fun j => by simp [none j]⟩
  · rw [if_neg same] at part
    refine ⟨p.roused x, part, rfl, fun _ => rfl, fun g => absurd ((h.changed_iff hx x.id).mpr ⟨rfl, same⟩) (g x.id), fun j => ?_⟩
    rw [h.changed_iff hx j]
    by_cases e : j = x.id
    · subst e
      simp only [Part.roused, hx]
      split <;> simp_all
    · simp only [Part.roused, e]
      split <;> simp [e]

theorem Part.Hears.trans {u : State} {p q r : Part} (h : Part.Hears s t p q) (g : Part.Hears t u q r)
    (apart : ∀ j, t.task j = s.task j ∨ u.task j = t.task j) : Part.Hears s u p r := by
  have changed : ∀ j, s.changed u j ↔ s.changed t j ∨ t.changed u j := by
    intro j
    obtain e | e := apart j
    · rw [State.changed_congr (u := t) (v := u) e.symm rfl]
      simp [State.not_changed_of_same e]
    · rw [State.changed_congr (u := s) (v := t) rfl e]
      simp [State.not_changed_of_same e]
  have first : ∀ j, s.changed t j → t.task j ≠ s.task j := fun j c e => State.not_changed_of_same e c
  have second : ∀ j, t.changed u j → t.task j = s.task j := fun j c =>
    (apart j).resolve_right fun e => State.not_changed_of_same e c
  refine ⟨by rw [g.rest, h.rest], ?_, ?_, ?_⟩
  · rintro ⟨j, c⟩
    by_cases later : ∃ j, t.changed u j
    · rw [g.called later]
      by_cases earlier : ∃ j, s.changed t j
      · rw [h.called earlier]; omega
      · rw [h.uncalled (not_exists.mp earlier)]
    · rw [g.uncalled (not_exists.mp later)]
      exact h.called ⟨j, ((changed j).mp c).resolve_right (not_exists.mp later j)⟩
  · intro none
    rw [g.uncalled fun j c => none j ((changed j).mpr (.inr c)), h.uncalled fun j c => none j ((changed j).mpr (.inl c))]
  · intro j
    rw [g.queue, h.queue, changed, or_assoc, or_and_right]
    refine or_congr_right (or_congr_right (and_congr_right fun c => ?_))
    rw [second j c]

theorem Heard.refl (s : State) (part : Nat) : Heard s s part [] name n where
  rest := rfl
  tasks := nofun
  others _ _ := rfl
  parts _ _ := rfl
  part p hp :=
    have none : ∀ j, ¬ s.changed s j := fun _ => State.not_changed_of_same rfl
    ⟨p, hp, rfl, fun ⟨j, c⟩ => absurd c (none j), fun _ => rfl, fun j => by simp [none j]⟩

theorem Heard.cons {u : State} {xs : List Task} (first : Rousing s t x y name n) (hx : s.task x.id = some x)
    (rest : Heard t u x.part xs name n) (apart : ∀ z ∈ xs, z.id ≠ x.id) : Heard s u x.part (x :: xs) name n where
  rest := by rw [rest.rest, first.rest]
  tasks := by
    intro z hz
    cases hz with
    | head => exact ⟨y, by rw [rest.others _ apart]; exact first.task, first.became⟩
    | tail _ hz =>
      obtain ⟨v, hv, became⟩ := rest.tasks z hz
      have time : t.gtime = s.gtime := by rw [first.rest]
      have warps : t.warps = s.warps := by rw [first.rest]
      exact ⟨v, hv, (Roused.congr fun n => State.wakes_congr first.sameEvents time warps n).mp became⟩
  others j ne := (rest.others j fun z hz => ne z (.tail _ hz)).trans (first.others j (ne x (.head _)).symm)
  parts j ne := (rest.parts j ne).trans (first.parts j ne)
  part p hp := by
    obtain ⟨q, hq, heard⟩ := first.hears hx hp
    obtain ⟨r, hr, more⟩ := rest.part q hq
    refine ⟨r, hr, heard.trans more fun j => ?_⟩
    by_cases e : j = x.id
    · exact .inr (rest.others j (e ▸ apart))
    · exact .inl (first.others j e)

/-- The tasks of a partition, one after the other. -/
theorem State.rouse_heard (part : Nat) (xs : List Task) : ∀ s : State, (xs.map Task.id).Nodup → (∀ x ∈ xs, s.task x.id = some x ∧ x.part = part) →
    (∀ x ∈ xs, x.leaves name n ≠ x.cells → x.phase = .waiting ∨ x.phase = .evicted) →
    Heard s (xs.foldl (State.rouse part name n) s) part xs name n := by
  induction xs with
  | nil => exact fun s _ _ _ => Heard.refl s part
  | cons x xs ih =>
    intro s apart here phase
    rw [List.map_cons, List.nodup_cons] at apart
    have ne : ∀ z ∈ xs, z.id ≠ x.id := fun z hz e => apart.1 (e ▸ List.mem_map_of_mem hz)
    obtain ⟨hx, rfl⟩ := here x (.head _)
    obtain ⟨y, first⟩ := State.rouse_rousing (part := x.part) hx (phase x (.head _))
    refine .cons first hx (ih _ apart.2 (fun z hz => ?_) fun z hz => phase z (.tail _ hz)) ne
    rw [first.others _ (ne z hz)]
    exact here z (.tail _ hz)
end

/-! ## The step -/

theorem State.tasksApart.task_of_mem {s : State} (h : s.tasksApart) {x : Task} (hx : x ∈ s.tasks.vals) : s.task x.id = some x := by
  obtain ⟨k, hk⟩ := Tab.mem_vals.mp hx
  rw [show x.id = k from h.2 _ hk]
  exact Tab.find_of_mem h.1 hk
theorem State.tasksApart.ids {s : State} (h : s.tasksApart) : (s.tasks.vals.map Task.id).Nodup := by
  have : s.tasks.vals.map Task.id = s.tasks.map (·.1) := by
    rw [Tab.vals, List.map_map]
    exact List.map_congr_left h.2
  rw [this]
  exact h.1

/-- Settles O48: the tasks of the partition one after the other, each as `Roused` says; where no entry is met none is touched. -/
theorem eventRecords : Obligations.EventRecords := by
  refine ⟨?_, ?_⟩
  · intro s cl r rest p he hp named n unmet
    have idle : ∀ u : State, (s.tasks.vals.filter (fun x => x.part == r.part)).foldl (State.rouse r.part r.name n) u = u := by
      refine fun u => List.foldlRecOn (motive := (· = u)) _ _ rfl fun v e x hx => ?_
      obtain ⟨mem, own⟩ := List.mem_filter.mp hx
      obtain ⟨k, hk⟩ := Tab.mem_vals.mp mem
      have all : x.leaves r.name n = x.cells := List.filter_eq_self.mpr fun q hq => by
        have := unmet _ hk (beq_iff_eq.mp own) q hq
        simpa [imp_iff_not_or] using this
      rw [State.rouse_same all, e]
    refine ⟨_, (execEventRecordApply_eq he hp named).trans (congrArg _ (idle _)), rfl, ?_, ?_, ?_, ?_⟩
    · exact fun j ne => State.cluster_setCluster_ne s _ ne
    · exact State.cluster_setCluster_same ..
    · exact fun j ne => State.part_putPart_ne _ _ ne
    · exact State.part_putPart_same ..
  · intro s cl r rest p he hp named apart n p' phase
    let u := (s.setCluster cl.toNat { s.cluster cl.toNat with events := rest }).putPart r.part p'
    have here : ∀ x ∈ s.tasks.vals.filter (fun x => x.part == r.part), u.task x.id = some x ∧ x.part = r.part := fun x hx =>
      ⟨apart.task_of_mem (List.mem_filter.mp hx).1, beq_iff_eq.mp (List.mem_filter.mp hx).2⟩
    obtain ⟨t, run, heard⟩ : ∃ t, exec (.eventRecordApply cl) s = .next t ∧
        Heard u t r.part (s.tasks.vals.filter (fun x => x.part == r.part)) r.name n :=
      ⟨_, execEventRecordApply_eq he hp named, State.rouse_heard r.part _ u (apart.ids.sublist (List.filter_sublist.map _)) here
        fun x hx => phase (x.id, x) (Tab.mem_of_find (here x hx).1) (here x hx).2⟩
    obtain ⟨q, hq, hears⟩ := heard.part p' (State.part_putPart_same ..)
    have clusters : t.clusters = u.clusters := by rw [heard.rest]
    refine ⟨t, q, run, by rw [clusters]; exact heard.rest, ?_, ?_, ?_, hq, hears.rest, ?_, ?_, hears.called, hears.uncalled, hears.queue⟩
    · intro j ne
      rw [State.cluster, clusters]
      exact State.cluster_setCluster_ne s _ ne
    · rw [State.cluster, clusters]
      exact State.cluster_setCluster_same s _ _
    · exact fun j ne => (heard.parts j ne).trans (State.part_putPart_ne _ _ ne)
    · intro j none
      refine (heard.others j fun x hx e => ?_).trans none
      have some : s.task x.id = some x := (here x hx).1
      rw [e, none] at some
      cases some
    · intro j x hx
      have mem : x ∈ s.tasks.vals := Tab.mem_vals.mpr ⟨j, Tab.mem_of_find hx⟩
      have id : x.id = j := apart.2 _ (Tab.mem_of_find hx)
      by_cases own : x.part = r.part
      · obtain ⟨y, hy, became⟩ := heard.tasks x (List.mem_filter.mpr ⟨mem, beq_iff_eq.mpr own⟩)
        exact ⟨y, id ▸ hy, by rw [if_pos own]; exact became⟩
      · refine ⟨x, (heard.others j fun z hz e => own ?_).trans hx, by rw [if_neg own]⟩
        have same : some z = some x := (here z hz).1.symm.trans (e ▸ hx)
        exact Option.some.inj same ▸ (here z hz).2

end Sys2Proof.Machine
end

section
/-! SUPPORT. Warps that leave, park and resume (04 R95, R96, 14 R318): the slot that an ended warp gives up, the lines that a resumed
warp takes again, the harvest team of a core. -/

namespace Sys2Proof.Machine

/-! ## The last owner of a core is forgotten (04 R93) -/

theorem State.forgetOwner_only (s : State) (c : CoreKey) : s.forgetOwner c = { s with cores := (s.forgetOwner c).cores } := by
  unfold State.forgetOwner; split <;> rfl
theorem State.core_forgetOwner_ne (s : State) {c d : CoreKey} (h : d ≠ c) : (s.forgetOwner c).core d = s.core d := by
  unfold State.forgetOwner; split
  · rfl
  · exact State.core_setCore_ne s _ h
@[simp] theorem State.warp_forgetOwner (s : State) (c : CoreKey) (k : WarpKey) : (s.forgetOwner c).warp k = s.warp k := by
  rw [State.forgetOwner_only]; rfl
@[simp] theorem State.task_forgetOwner (s : State) (c : CoreKey) (n : Nat) : (s.forgetOwner c).task n = s.task n := by
  rw [State.forgetOwner_only]; rfl
@[simp] theorem State.lent_forgetOwner (s : State) (c : CoreKey) : ((s.forgetOwner c).core c).lent = (s.core c).lent := by
  unfold State.forgetOwner; split
  · rfl
  · rw [State.core_setCore_same]

/-! ## A warp takes lines again (04 R90) -/

theorem State.setWarp_setReg (s : State) {k : WarpKey} {w : Warp} (key : w.key = k) {n : Nat} (hn : n < 128) (r : Reg) :
    (s.putWarp k w).setWarp (w.setReg n r) = s.putWarp k { w with regs := w.regs.set n r } := by
  unfold Warp.setReg State.setWarp
  rw [dif_pos hn]
  exact key ▸ State.putWarp_putWarp s k _ _

/-- The wide registers of a warp take lines; nothing else is changed. -/
theorem State.takeLines_eq {s : State} {k : WarpKey} {w : Warp} (h : s.warp k = some w) (key : w.key = k) :
    ∃ regs, s.takeLines k = s.putWarp k { w with regs := regs } ∧ ∀ n (h : n < 128), regs[n] = { w.regs[n] with line := regs[n].line } := by
  unfold State.takeLines
  refine List.foldlRecOn (motive := fun t : State => ∃ regs, t = s.putWarp k { w with regs := regs } ∧
    ∀ n (h : n < 128), regs[n] = { w.regs[n] with line := regs[n].line }) _ _ ⟨w.regs, (State.putWarp_self h).symm, fun _ _ => rfl⟩ ?_
  rintro t ⟨regs, rfl, same⟩ n -
  rw [State.warp_putWarp_same]
  simp only
  split
  next hn =>
    split
    · rw [State.setWarp_setReg s (w := { w with regs := regs }) key hn]
      refine ⟨_, rfl, fun m hm => ?_⟩
      by_cases e : n = m
      · subst e
        rw [Vector.getElem_set_self, same n hn]
      · rw [Vector.getElem_set_ne _ _ e]
        exact same m hm
    · exact ⟨regs, rfl, same⟩
  · exact ⟨regs, rfl, same⟩

/-! ## Warps changed one after the other, each in its own place -/

/-- Each of several warps becomes what a step makes of it, and nothing but the table of warps is changed. -/
theorem State.foldl_ownWarp {f : State → Warp → State} {I : State → Prop} {R : Warp → Warp → Prop} (hs : List Warp)
    (step : ∀ t, ∀ w ∈ hs, I t → t.warp w.key = some w → ∃ v, f t w = t.putWarp w.key v ∧ R w v ∧ I (t.putWarp w.key v)) :
    ∀ s : State, (hs.map Warp.key).Nodup → I s → (∀ w ∈ hs, s.warp w.key = some w) →
      hs.foldl f s = { s with warps := (hs.foldl f s).warps } ∧ (∀ w ∈ hs, ∃ v, (hs.foldl f s).warp w.key = some v ∧ R w v) ∧
      ∀ k, (∀ w ∈ hs, w.key ≠ k) → (hs.foldl f s).warp k = s.warp k := by
  induction hs with
  | nil => exact fun s _ _ _ => ⟨rfl, nofun, fun _ _ => rfl⟩
  | cons w hs ih =>
    intro s apart inv here
    rw [List.map_cons, List.nodup_cons] at apart
    have ne : ∀ z ∈ hs, z.key ≠ w.key := fun z hz e => apart.1 (e ▸ List.mem_map_of_mem hz)
    obtain ⟨v, e, became, inv⟩ := step s w (.head _) inv (here w (.head _))
    rw [List.foldl_cons, e]
    obtain ⟨rest, each, others⟩ := ih (fun t z hz => step t z (.tail _ hz)) (s.putWarp w.key v) apart.2 inv fun z hz =>
      (State.warp_putWarp_ne s v (ne z hz)).trans (here z (.tail _ hz))
    refine ⟨by rw [rest]; rfl, fun z hz => ?_, fun k hk => ?_⟩
    · cases hz with
      | head => exact ⟨v, (others w.key ne).trans (State.warp_putWarp_same ..), became⟩
      | tail _ hz => exact each z hz
    · exact (others k fun z hz => hk z (.tail _ hz)).trans (State.warp_putWarp_ne s v (hk w (.head _)).symm)

/-- Some of the warps of a keyed state, as `State.foldl_ownWarp` takes them. -/
theorem State.keyed.some {s : State} (h : s.keyed) (f : Warp → Bool) :
    ((s.warps.vals.filter f).map Warp.key).Nodup ∧ ∀ w ∈ s.warps.vals.filter f, s.warp w.key = some w :=
  ⟨h.nodup_keys.sublist (List.filter_sublist.map _), fun _ hw => h.warp_of_mem (List.mem_filter.mp hw).1⟩

/-- A warp found that a test leaves out has the key of none of those that the test takes. -/
theorem State.keyed.key_ne {s : State} (h : s.keyed) {f : Warp → Bool} {k : WarpKey} {w : Warp} (hw : s.warp k = Option.some w) (out : f w = false) :
    ∀ z ∈ s.warps.vals.filter f, z.key ≠ k := by
  intro z hz e
  obtain ⟨mem, takes⟩ := List.mem_filter.mp hz
  have same := h.warp_of_mem mem
  rw [e, hw] at same
  cases same
  rw [out] at takes
  cases takes

/-! ## The harvest team of a core (04 R95, R96) -/

theorem State.teamOver_congr {s t : State} (h : t.warps.vals.map (fun w => (w.key, w.ended)) = s.warps.vals.map (fun w => (w.key, w.ended)))
    (task team : Nat) : t.teamOver task team = s.teamOver task team := by
  have read : ∀ u : State, u.teamOver task team
      = (u.warps.vals.map (fun w => (w.key, w.ended))).all (fun x => !(x.1.task == task) || (x.1.team != team || x.2)) := by
    intro u
    rw [State.teamOver, State.crew, List.all_filter, List.all_map]
    rfl
  rw [read t, read s, h]

/-- The range that a core lends is read from the cores, the tasks and which warps have ended. -/
theorem State.lentTo_congr {s t : State} (cores : t.cores = s.cores) (tasks : t.tasks = s.tasks)
    (h : t.warps.vals.map (fun w => (w.key, w.ended)) = s.warps.vals.map (fun w => (w.key, w.ended))) (c : CoreKey) (part : Nat) :
    t.lentTo c part = s.lentTo c part := by
  have lending : ∀ l, t.lending l = s.lending l := by
    intro l
    unfold State.lending
    rw [State.teamOver_congr h]
    unfold State.task
    rw [tasks]
  unfold State.lentTo State.core State.task
  rw [cores, tasks]
  simp only [lending]

/-- A harvest warp that meets the range lent takes c1 and the mark that the range is mapped. -/
theorem Warp.mapLent_only (w : Warp) (l : Option Lent) : w.mapLent l = { w with lentMap := l.isSome, regs := (w.mapLent l).regs } := rfl

/-- What a resumption makes of a harvest warp (04 R95). -/
def Unparked (s : State) (c : CoreKey) (w v : Warp) : Prop :=
  v.parked = false ∧ v.paths = w.paths ∧ v.lentMap = (s.lentTo c w.part).isSome ∧ v.preds = w.preds ∧ v.revs = w.revs

/-- HARVEST_PLACEMENT where the parked team may resume: each of its warps does, and meets the range lent. -/
theorem execHarvestPlacement_resumes {s : State} (cl : BitVec 5) (co : BitVec 7) (keyed : s.keyed)
    (due : s.resumeDue ⟨cl.toNat, co.toNat⟩ = true) : ∃ t, exec (.harvestPlacement cl co) s = .next t ∧ t = { s with warps := t.warps } ∧
      (∀ w ∈ s.harvesters ⟨cl.toNat, co.toNat⟩, ∃ v, t.warp w.key = some v ∧ Unparked s ⟨cl.toNat, co.toNat⟩ w v) ∧
      ∀ k, (∀ w ∈ s.harvesters ⟨cl.toNat, co.toNat⟩, w.key ≠ k) → t.warp k = s.warp k := by
  have run : exec (.harvestPlacement cl co) s = execHarvestPlacement cl co s := rfl
  rw [run]
  unfold execHarvestPlacement
  simp only
  generalize (⟨cl.toNat, co.toNat⟩ : CoreKey) = c at due ⊢
  rw [if_pos due]
  have team : s.harvesters c = s.warps.vals.filter (fun w => w.place.any (·.core == c) && w.inHarvest) := by
    unfold State.harvesters State.onCore; rw [List.filter_filter]; exact List.filter_congr fun w _ => Bool.and_comm ..
  obtain ⟨apart, here⟩ := keyed.some (fun w => w.place.any (·.core == c) && w.inHarvest)
  rw [← team] at apart here
  refine ⟨_, rfl, State.foldl_ownWarp (I := fun t => t.cores = s.cores ∧ t.tasks = s.tasks ∧
      t.warps.vals.map (fun w => (w.key, w.ended)) = s.warps.vals.map (fun w => (w.key, w.ended))) _ ?_ s apart ⟨rfl, rfl, rfl⟩ here⟩
  rintro t w - ⟨cores, tasks, ended⟩ hw
  rw [Warp.mapLent_only]
  let v : Warp := { w with lentMap := (t.lentTo c w.part).isSome, regs := (w.mapLent (t.lentTo c w.part)).regs, parked := false }
  obtain ⟨regs, e, -⟩ := State.takeLines_eq (State.warp_setWarp_same t v) rfl
  refine ⟨{ v with regs := regs }, ?_, ⟨rfl, rfl, ?_, rfl, rfl⟩, cores, tasks, ?_⟩
  · exact e.trans (State.putWarp_putWarp t w.key v _)
  · exact congrArg Option.isSome (State.lentTo_congr cores tasks ended c w.part)
  · exact (Tab.map_vals_set (v := { v with regs := regs }) (fun w : Warp => (w.key, w.ended)) hw rfl).trans ended

/-- What a demand makes of a harvest warp that is not parked (04 R96): its lanes at a JOIN or a cross-lane instruction have lost
their arrival, as those of a warp that comes back. -/
def Warp.revoked (w : Warp) (now : DWord) : Warp := { w.again now with parked := true, revs := w.revs + 1 }

theorem Warp.again_eq (w : Warp) (now : DWord) : w.again now = { w with paths := w.paths.map (·.unarrive now) } := by
  refine congrArg (fun ps => { w with paths := ps }) (List.map_congr_left fun p _ => ?_)
  unfold Path.unarrive
  cases p.wait <;> rfl

/-- A harvest warp is parked by a demand whose owner issues after so many cycles. -/
def State.parkWarp (c : CoreKey) (cycles : Nat) (s : State) (w : Warp) : State :=
  let revs := w.revs + 1
  let s := s.setWarp { w with parked := true, revs := revs, paths := w.paths.map (·.unarrive s.gtime) }
  let task := match s.task w.key.task with | some t => t.trec.taskid.toNat | none => 0
  s.trace w.part 7 c.cluster c.core (match w.place with | some pl => pl.slot | none => 0)
    (revs.toNat + task * 2 ^ 16 + cycles % 2 ^ 16 * 2 ^ 32)

theorem State.parkWarp_eq {s : State} (untraced : ∀ n p, s.part n = some p → p.trace = none) (c : CoreKey) (cycles : Nat) (w : Warp) :
    s.parkWarp c cycles w = s.putWarp w.key (w.revoked s.gtime) := by
  unfold State.parkWarp Warp.revoked
  rw [Warp.again_eq]
  exact State.trace_off (s := s.setWarp _) (untraced w.part) ..

/-- A demand is the parking of the core's harvest warps, after its core and the draws. -/
theorem State.revoke_eq (s : State) (c : CoreKey) (away : Bool) (lines : Nat) : ∃ n d x,
    s.revoke c away lines = ((s.onCore c).filter (fun w => w.inHarvest && !w.parked)).foldl (State.parkWarp c n) ({ s with draws := d }.setCore c x) := by
  obtain ⟨n, d, counted⟩ : ∃ n d, s.revokeCycles c lines = (n, { s with draws := d }) := by
    unfold State.revokeCycles State.draw
    split
    · exact ⟨_, _, rfl⟩
    · split <;> exact ⟨_, _, rfl⟩
  unfold State.revoke
  simp only [counted]
  exact ⟨n, d, _, rfl⟩

/-- A demand on the harvest warps of a core (04 R96): where nothing is traced, the warps that are not parked, the core and the draws
are all that it changes. -/
theorem State.revoke_untraced {s : State} (keyed : s.keyed) (untraced : ∀ n p, s.part n = some p → p.trace = none) (c : CoreKey) (away : Bool)
    (lines : Nat) : ∃ t, s.revoke c away lines = t ∧ t = { s with warps := t.warps, cores := t.cores, draws := t.draws } ∧
      ∀ k w, s.warp k = some w → t.warp k = some (if w ∈ s.harvesters c ∧ w.parked = false then w.revoked s.gtime else w) := by
  obtain ⟨n, d, x, e⟩ := s.revoke_eq c away lines
  have team : (s.onCore c).filter (fun w => w.inHarvest && !w.parked)
      = s.warps.vals.filter (fun w => (w.inHarvest && !w.parked) && w.place.any (·.core == c)) := List.filter_filter
  obtain ⟨apart, here⟩ := keyed.some (fun w => (w.inHarvest && !w.parked) && w.place.any (·.core == c))
  rw [team] at e
  let u : State := { s with draws := d }.setCore c x
  obtain ⟨rest, each, others⟩ := State.foldl_ownWarp (f := State.parkWarp c n) (I := fun t => t.gtime = s.gtime ∧ t.parts = s.parts)
    (R := fun w v => v = w.revoked s.gtime) _ (fun t w _ ⟨time, parts⟩ _ => by
      refine ⟨w.revoked s.gtime, ?_, rfl, time, parts⟩
      rw [State.parkWarp_eq fun m p h => untraced m p ((congrArg (Tab.find · m) parts).symm.trans h), time]) u apart ⟨rfl, rfl⟩ here
  have cores : (s.revoke c away lines).cores = u.cores := by rw [e, rest]
  have draws : (s.revoke c away lines).draws = d := by rw [e, rest]; rfl
  refine ⟨_, rfl, by rw [cores, draws, e]; exact rest, fun k w hw => ?_⟩
  have mine : w ∈ s.harvesters c ∧ w.parked = false ↔
      w ∈ s.warps.vals.filter (fun w => (w.inHarvest && !w.parked) && w.place.any (·.core == c)) := by
    rw [← team]; simp [State.harvesters, List.mem_filter, and_assoc]
  rw [e]
  split
  next hm =>
    obtain ⟨v, hv, rfl⟩ := each w (mine.mp hm)
    exact keyed.key hw ▸ hv
  next hm =>
    refine (others k (keyed.key_ne hw (Bool.eq_false_iff.mpr fun takes => hm (mine.mpr ?_)))).trans hw
    exact List.mem_filter.mpr ⟨State.mem_vals_of_warp hw, takes⟩

/-! ## A warp leaves its slot (14 R318) -/

theorem State.setWarp_eq (s : State) {k : WarpKey} {w : Warp} (key : w.key = k) : s.setWarp w = s.putWarp k w := by
  subst key; rfl

/-- WARP_LEAVE_SLOT of a warp that may leave, whose team's range is back, while another of its crew stands in a slot. -/
theorem execWarpLeaveSlot_leaves {s : State} {k : WarpKey} {w : Warp} {x : Task} {pl : Place} (keyed : s.keyed) (hw : s.warp k = some w)
    (hx : s.task k.task = some x) (id : x.id = k.task) (place : w.place = some pl) (may : s.mayLeave w = true)
    (unlent : ∀ l, (s.core pl.core).lent = some l → ¬ (l.task = k.task ∧ l.team = k.team))
    (another : ∃ j v, s.warp j = some v ∧ j ≠ k ∧ j.task = k.task ∧ v.place ≠ none) :
    exec (.warpLeaveSlot k) s = .next
      (((s.onTask k.task (fun t => { t with hzn := maxHzn t.hzn w.hzn })).putWarp k { w with place := none }).forgetOwner pl.core) := by
  let u : State := (s.onTask k.task (fun t => { t with hzn := maxHzn t.hzn w.hzn })).putWarp k { w with place := none }
  have at' : s.placeOf k = pl := by simp [State.placeOf, hw, place]
  have key : w.key = k := keyed.key hw
  have set : (s.onTask k.task (fun t => { t with hzn := maxHzn t.hzn w.hzn })).setWarp { w with place := none } = u := State.setWarp_eq _ key
  have back : ((u.forgetOwner pl.core).core pl.core).lentBy k = false := by
    rw [Core.lentBy, State.lent_forgetOwner, State.core_putWarp, State.core_onTask]
    cases lent : (s.core pl.core).lent with
    | none => rfl
    | some l => simpa using unlent l lent
  have stays : ((u.forgetOwner pl.core).crew x.id).all (fun w => w.ended && w.place.isNone) = false := by
    obtain ⟨j, v, hv, ne, same, placed⟩ := another
    have there : u.warp j = some v := (State.warp_putWarp_ne _ _ ne).trans ((State.warp_onTask ..).trans hv)
    have mem : v ∈ (u.forgetOwner pl.core).crew x.id := by
      rw [State.forgetOwner_only]
      refine List.mem_filter.mpr ⟨State.mem_vals_of_warp there, ?_⟩
      rw [keyed.key hv, same, id, beq_self_eq_true]
    rw [List.all_eq_false]
    exact ⟨v, mem, by simp [placed]⟩
  have here : (u.forgetOwner pl.core).task k.task = some { x with hzn := maxHzn x.hzn w.hzn } := by
    rw [State.task_forgetOwner, State.task_putWarp, State.task_onTask_same hx]
  have run : exec (.warpLeaveSlot k) s = execWarpLeaveSlot k s := rfl
  rw [run]
  unfold execWarpLeaveSlot
  simp only [hw, may, at', set, back, here, stays, Bool.not_true, Bool.false_eq_true, Bool.false_and, if_false]
  rfl

end Sys2Proof.Machine
end

section
/-! SUPPORT. The save of a crew (04 R89): what its step leaves, the wait cells it takes, the horizon it keeps. -/

namespace Sys2Proof.Machine

/-! ## What a save gathers -/

/-- Each wait takes a cell or stands on the overflow list (04 R92). -/
theorem State.mem_takeCells (s : State) (part : Nat) (ws : List (BitVec 16 × Word)) (name : BitVec 16) (target : Word) :
    (∃ b, (name, target, b) ∈ s.takeCells part ws) ↔ (name, target) ∈ ws := by
  have fst : (ws.zip (List.range ws.length)).map Prod.fst = ws := List.map_fst_zip (by simp)
  constructor
  · rintro ⟨b, h⟩
    obtain ⟨⟨w, i⟩, mem, e⟩ := List.mem_map.mp h
    cases e
    exact (List.of_mem_zip mem).1
  · intro h
    rw [← fst] at h
    obtain ⟨⟨w, i⟩, mem, e⟩ := List.mem_map.mp h
    cases e
    exact ⟨_, List.mem_map.mpr ⟨_, mem, rfl⟩⟩

theorem maxHzn_toNat (a b : DWord) : (maxHzn a b).toNat = max a.toNat b.toNat := by
  unfold maxHzn
  split <;> omega

/-- The largest of several horizons is at least each. -/
theorem le_foldl_maxHzn (ws : List Warp) : ∀ h : DWord, h.toNat ≤ (ws.foldl (fun h w => maxHzn h w.hzn) h).toNat ∧
    ∀ w ∈ ws, w.hzn.toNat ≤ (ws.foldl (fun h w => maxHzn h w.hzn) h).toNat := by
  induction ws with
  | nil => exact fun h => ⟨Nat.le_refl _, nofun⟩
  | cons v ws ih =>
    intro h
    obtain ⟨first, rest⟩ := ih (maxHzn h v.hzn)
    rw [maxHzn_toNat] at first
    refine ⟨(Nat.le_max_left ..).trans first, fun w hw => ?_⟩
    cases hw with
    | head => exact (Nat.le_max_right ..).trans first
    | tail _ hw => exact rest w hw

/-- The event wait at which a path stands. -/
def Path.eventWait (p : Path) : Option (BitVec 16 × Word) := match p.wait with
  | .evwait n target => some (n, target)
  | _ => none
theorem Path.eventWait_eq_some {p : Path} {name : BitVec 16} {target : Word} :
    p.eventWait = some (name, target) ↔ p.wait = .evwait name target := by
  unfold Path.eventWait
  cases p.wait <;> simp

/-- The event waits of a crew. -/
def State.eventWaits (s : State) (n : Nat) : List (BitVec 16 × Word) := ((s.crew n).map (fun w => w.paths.filterMap Path.eventWait)).flatten

/-- The crew of a task, by the keys of its warps. -/
theorem State.keyed.mem_crew {s : State} (keyed : s.keyed) {n : Nat} {w : Warp} : w ∈ s.crew n ↔ ∃ k, (k, w) ∈ s.warps ∧ k.task = n := by
  rw [State.crew, List.mem_filter, Tab.mem_vals]
  have key : ∀ k, (k, w) ∈ s.warps → w.key.task = k.task := fun k hk => congrArg WarpKey.task (keyed.2 _ hk).1
  constructor
  · rintro ⟨⟨k, hk⟩, own⟩
    exact ⟨k, hk, (key k hk).symm.trans (beq_iff_eq.mp own)⟩
  · rintro ⟨k, hk, own⟩
    exact ⟨⟨k, hk⟩, beq_iff_eq.mpr ((key k hk).trans own)⟩

theorem State.mem_eventWaits {s : State} (keyed : s.keyed) (n : Nat) (name : BitVec 16) (target : Word) : (name, target) ∈ s.eventWaits n ↔
    ∃ kw ∈ s.warps, kw.1.task = n ∧ ∃ q ∈ kw.2.paths, q.wait = .evwait name target := by
  unfold State.eventWaits
  simp only [List.mem_flatten, List.mem_map, exists_exists_and_eq_and, List.mem_filterMap, Path.eventWait_eq_some, keyed.mem_crew, Prod.exists]
  constructor
  · rintro ⟨w, ⟨k, hk, own⟩, waits⟩
    exact ⟨k, w, hk, own, waits⟩
  · rintro ⟨k, w, hk, own, waits⟩
    exact ⟨w, ⟨k, hk, own⟩, waits⟩

theorem State.withdraw_unlent {s : State} {x : Task} {cores : List CoreKey} (h : ∀ c ∈ cores, ∀ l, (s.core c).lent = some l → l.task ≠ x.id) :
    s.withdraw x cores = s := by
  unfold State.withdraw
  refine List.foldlRecOn (motive := (· = s)) _ _ rfl fun t e c hc => ?_
  subst e
  have mine : (t.core c).lent.any (fun l => l.task == x.id) = false := by
    cases lent : (t.core c).lent with
    | none => rfl
    | some l => simpa using h c hc l lent
  simp only [mine, Bool.false_eq_true, if_false]

/-! ## The save is complete -/

/-- A warp of a crew that is saved. -/
def Warp.stowed (w : Warp) : Warp := { w.landAll with place := none }

/-- The crew of a task has given up its slots, and its cores have forgotten which owner issued last. -/
def State.stow (s : State) (n : Nat) (cores : List CoreKey) : State :=
  cores.foldl (fun s c => s.forgetOwner c) { s with warps := s.warps.map (fun (x : WarpKey × Warp) => if x.1.task == n then (x.1, x.2.stowed) else x) }

/-- The task of a crew as its save is complete, before it is known whether it wakes. -/
def State.stowedTask (s u : State) (x : Task) : Task :=
  { x with phase := .evicted, cells := u.takeCells x.part (u.eventWaits x.id), eprio := x.trec.prio, rounds := 0
           hzn := ((s.crew x.id).filter (fun w => w.ended && w.place.isSome)).foldl (fun h w => maxHzn h w.hzn) x.hzn
           woken := !s.blockedCrew x.id }

theorem State.evict_eq {s : State} {x : Task} (unlent : ∀ k ∈ x.cores, ∀ l, (s.core ⟨x.cluster, k⟩).lent = some l → l.task ≠ x.id) :
    s.evict x =
      (let u := s.writeBack (fun l => (s.crew x.id).any (·.hasPrivate l))
       let y := s.stowedTask u x
       (((u.stow x.id (x.cores.map (fun c => ⟨x.cluster, c⟩))).setTask y).settleTask y).callRound x.part) := by
  have gone : s.withdraw x (x.cores.map (fun c => ⟨x.cluster, c⟩)) = s := State.withdraw_unlent fun c hc => by
    obtain ⟨k, hk, rfl⟩ := List.mem_map.mp hc
    exact unlent k hk
  unfold State.evict
  simp only [gone]
  rfl

theorem State.stow_only (s : State) (n : Nat) (cores : List CoreKey) : s.stow n cores = { s with
    warps := s.warps.map (fun x => (x.1, if x.1.task = n then x.2.stowed else x.2)), cores := (s.stow n cores).cores } := by
  have warps : s.warps.map (fun (x : WarpKey × Warp) => if x.1.task == n then (x.1, x.2.stowed) else x)
      = s.warps.map (fun x => (x.1, if x.1.task = n then x.2.stowed else x.2)) :=
    List.map_congr_left fun x _ => by by_cases e : x.1.task = n <;> simp [e]
  unfold State.stow
  rw [warps]
  generalize s.warps.map (fun x => (x.1, if x.1.task = n then x.2.stowed else x.2)) = ws
  refine List.foldlRecOn (motive := fun t : State => t = { s with warps := ws, cores := t.cores }) _ _ rfl fun t e c _ => ?_
  rw [State.forgetOwner_only]
  rw [e]

theorem State.core_stow_ne (s : State) (n : Nat) {cores : List CoreKey} {c : CoreKey} (h : c ∉ cores) : (s.stow n cores).core c = s.core c := by
  unfold State.stow
  refine List.foldlRecOn (motive := fun t : State => t.core c = s.core c) _ _ rfl fun t e d hd => ?_
  exact (State.core_forgetOwner_ne (c := d) (d := c) t fun same => h (same ▸ hd)).trans e

/-- A task set that is saved is resumable where it wakes, and a round is called in either case. -/
theorem State.settled_callRound (v : State) {x : Task} (saved : x.phase = .evicted) : ∃ f,
    ((v.setTask x).settleTask x).callRound x.part = State.onPart ({ v with fresh := f }.setTask
      (if x.woken = true ∨ v.wakes x.id = true then x.reawake v.fresh else x)) x.part (fun q => { q with roundsDue := max 1 q.roundsDue }) := by
  have wakes : (v.setTask x).wakes x.id = v.wakes x.id := rfl
  rw [State.settleTask_evicted saved, wakes]
  split
  · refine ⟨v.fresh + 1, ?_⟩
    have once := State.runnable_setTask (s := v) (w := x) (x := x) (y := x.reawake v.fresh) rfl
    refine (congrArg (State.callRound · x.part) once).trans ?_
    unfold State.callRound State.runnable
    rw [State.onPart_onPart]
    simp [Part.roused, saved]
  · exact ⟨v.fresh, rfl⟩

/-! ## The step -/

theorem execEvictionSaveComplete_first {s : State} {n : Nat} {x : Task} (hx : s.task n = some x) (h : x.phase = .saving false) :
    exec (.evictionSaveComplete n) s = .next (if s.blockedCrew n = false then s.setTask { x with phase := .running }
      else if s.saveReady x = true then s.setTask { x with phase := .saving true } else s) := by
  have run : exec (.evictionSaveComplete n) s = execEvictionSaveComplete n s := rfl
  rw [run]
  unfold execEvictionSaveComplete
  simp only [hx, h]
  cases s.blockedCrew n <;> rfl

theorem execEvictionSaveComplete_second {s : State} {n : Nat} {x : Task} (hx : s.task n = some x) (h : x.phase = .saving true) :
    exec (.evictionSaveComplete n) s = .next (s.evict x) := by
  have run : exec (.evictionSaveComplete n) s = execEvictionSaveComplete n s := rfl
  rw [run]
  unfold execEvictionSaveComplete
  simp only [hx, h]

theorem execEvictionSaveComplete_idle {s : State} {n : Nat} (h : ∀ x b, s.task n = some x → x.phase ≠ .saving b) :
    exec (.evictionSaveComplete n) s = .next s := by
  have run : exec (.evictionSaveComplete n) s = execEvictionSaveComplete n s := rfl
  rw [run]
  unfold execEvictionSaveComplete
  split
  · rfl
  next x hx =>
    split
    next e => exact absurd e (h x true hx)
    next e => exact absurd e (h x false hx)
    next => rfl

/-- The task of a crew as its save leaves it: evicted, or resumable at once under number m of the order where it is not blocked any
more or wakes. -/
def State.savedTask (s u : State) (x : Task) (m : Nat) : Task :=
  if s.blockedCrew x.id = true ∧ s.wakes x.id = false then s.stowedTask u x else (s.stowedTask u x).reawake m

/-- What a partition becomes does not depend on the rest of the state. -/
theorem State.onPart_parts {s t : State} (h : t.parts = s.parts) {n : Nat} {f : Part → Part} : (t.onPart n f).parts = (s.onPart n f).parts := by
  unfold State.onPart State.part State.putPart
  rw [h]
  split <;> simp only [h]

/-- THE SAVE IS COMPLETE (04 R89, R90, R92): `u` is the state as the crew's private lines have been written back. -/
theorem State.evict_saves {s : State} {x : Task} (keyed : s.keyed)
    (unlent : ∀ k ∈ x.cores, ∀ l, (s.core ⟨x.cluster, k⟩).lent = some l → l.task ≠ x.id) :
    ∃ u m, LinesBack s u (fun l => ∃ kw ∈ s.warps, kw.1.task = x.id ∧ kw.2.hasPrivate l = true) ∧
      s.evict x = { u with
        warps := s.warps.map (fun k => (k.1, if k.1.task = x.id then k.2.stowed else k.2)), tasks := s.tasks.set x.id (s.savedTask u x m)
        cores := (s.evict x).cores, parts := (u.onPart x.part (fun q => { q with roundsDue := max 1 q.roundsDue })).parts, fresh := (s.evict x).fresh } ∧
      ∀ c, (∀ k ∈ x.cores, c ≠ ⟨x.cluster, k⟩) → (s.evict x).core c = s.core c := by
  let u := s.writeBack (fun l => (s.crew x.id).any (·.hasPrivate l))
  have lines : LinesBack s u (fun l => ∃ kw ∈ s.warps, kw.1.task = x.id ∧ kw.2.hasPrivate l = true) := by
    refine (s.writeBack_linesBack _).congr fun l => ?_
    rw [List.any_eq_true]
    constructor
    · rintro ⟨w, hw, holds⟩
      obtain ⟨k, hk, own⟩ := keyed.mem_crew.mp hw
      exact ⟨(k, w), hk, own, holds⟩
    · rintro ⟨⟨k, w⟩, hk, own, holds⟩
      exact ⟨w, keyed.mem_crew.mpr ⟨k, hk, own⟩, holds⟩
  have warps : u.warps = s.warps := by rw [lines.1]
  have tasks : u.tasks = s.tasks := by rw [lines.1]
  have cores : u.cores = s.cores := by rw [lines.1]
  have time : u.gtime = s.gtime := by rw [lines.1]
  let v := u.stow x.id (x.cores.map (fun c => ⟨x.cluster, c⟩))
  have only : v = _ := u.stow_only x.id (x.cores.map (fun c => ⟨x.cluster, c⟩))
  obtain ⟨f, settled⟩ := v.settled_callRound (x := s.stowedTask u x) rfl
  have evicted : s.evict x = _ := (State.evict_eq unlent).trans settled
  have wakes : v.wakes x.id = s.wakes x.id := by
    refine State.wakes_of_map (f := fun k w => if k.task = x.id then w.stowed else w) ?_ ?_ ?_ ?_ x.id
    · exact .of_uncounted (by rw [only]; exact lines.2.1)
    · rw [only]; exact time
    · rw [only, ← warps]
    · intro k w
      split <;> exact ⟨rfl, rfl, rfl, rfl⟩
  have task : (if (s.stowedTask u x).woken = true ∨ v.wakes (s.stowedTask u x).id = true then (s.stowedTask u x).reawake v.fresh
      else s.stowedTask u x) = s.savedTask u x v.fresh := by
    have id : (s.stowedTask u x).id = x.id := rfl
    have woken : (s.stowedTask u x).woken = !s.blockedCrew x.id := rfl
    rw [id, woken, wakes]
    unfold State.savedTask
    cases s.blockedCrew x.id <;> cases s.wakes x.id <;> rfl
  rw [task] at evicted
  have id : (s.savedTask u x v.fresh).id = x.id := by unfold State.savedTask; split <;> rfl
  have parts : v.parts = u.parts := by rw [only]
  obtain ⟨w, hw⟩ : ∃ w, w = State.setTask { v with fresh := f } (s.savedTask u x v.fresh) := ⟨_, rfl⟩
  rw [← hw, State.onPart_only, State.onPart_parts (s := u) (by rw [hw]; exact parts), hw] at evicted
  have held : (s.evict x).cores = v.cores := by rw [evicted]; rfl
  have named : (s.evict x).fresh = f := by rw [evicted]; rfl
  refine ⟨u, v.fresh, lines, ?_, fun c hc => ?_⟩
  · rw [held, named, evicted]
    unfold State.setTask
    rw [id, ← tasks, ← warps, only]
    rfl
  · rw [State.core, held]
    refine (State.core_stow_ne u x.id fun mem => ?_).trans (congrArg (fun t => (Tab.find t c).getD Core.fresh) cores)
    obtain ⟨k, hk, e⟩ := List.mem_map.mp mem
    exact hc k hk e.symm

end Sys2Proof.Machine
end

section
/-! SUPPORT. A round of the dispatcher whose one task is runnable and fits (04 R80-R84, R90): what it admits, and what it resumes. -/

namespace Sys2Proof.Machine

/-! ## The round of a single task -/

section
variable {s : State} {x : Task}

theorem State.settle_single (alone : s.tasks = [(x.id, x)]) (runnable : x.phase = .ready ∨ x.phase = .resumable) : s.settle = s := by
  unfold State.settle
  rw [alone]
  refine (show _ = s.settleTask x from rfl).trans ?_
  unfold State.settleTask
  obtain e | e := runnable <;> rw [e]

theorem State.startAll_single (alone : s.tasks = [(x.id, x)]) (runnable : x.phase = .ready ∨ x.phase = .resumable) (part : Nat) :
    s.startAll part = s := by
  have out : (x.part == part && x.phase == .held && x.cells.isEmpty) = false := by
    obtain e | e := runnable <;> simp [e]
  unfold State.startAll
  rw [alone]
  simp [Tab.vals, out]

theorem State.work_single (alone : s.tasks = [(x.id, x)]) (runnable : x.phase = .ready ∨ x.phase = .resumable) {part : Nat} (own : x.part = part)
    (owner : x.trec.harv = false) : s.work part = [x] := by
  have takes : (x.part == part && !x.trec.harv && (x.phase == .ready || x.phase == .resumable)) = true := by
    obtain e | e := runnable <;> simp [e, own, owner]
  unfold State.work
  rw [alone]
  simp [Tab.vals, takes, sortBy, insertBy]

theorem State.consider_single {p : Part} {k : Nat} {cores : List Nat} (alone : s.tasks = [(x.id, x)])
    (runnable : x.phase = .ready ∨ x.phase = .resumable) (hp : s.part x.part = some p) (fit : s.findFit p [] [] x = some (k, cores)) :
    State.consider (s, [], []) x.id = (if x.phase = .resumable then s.resume x cores else s.admitTask x k cores, [], []) := by
  have here : s.task x.id = some x := by simp [State.task, alone, Tab.find]
  have free : s.jobResumes x = false := by
    unfold State.jobResumes
    rw [alone]
    obtain e | e := runnable <;> simp [Tab.vals, e]
  unfold State.consider
  simp only [here, hp, free, fit, List.filter_nil, List.map_nil, Bool.false_eq_true, if_false, beq_iff_eq]

end

/-- SCHEDULING_ROUND of a partition whose one task is runnable and fits. -/
theorem execSchedulingRound_single {s : State} {part : Nat} {p : Part} {x : Task} {k : Nat} {cores : List Nat} (hp : s.part part = some p)
    (op : p.open = true) (due : p.roundsDue ≠ 0) (alone : s.tasks = [(x.id, x)]) (own : x.part = part)
    (runnable : x.phase = .ready ∨ x.phase = .resumable) (owner : x.trec.harv = false)
    (fit : (s.putPart part { p with roundsDue := p.roundsDue - 1 }).findFit { p with roundsDue := p.roundsDue - 1 } [] [] x = some (k, cores)) :
    exec (.schedulingRound part) s = .next (if x.phase = .resumable then (s.putPart part { p with roundsDue := p.roundsDue - 1 }).resume x cores
      else (s.putPart part { p with roundsDue := p.roundsDue - 1 }).admitTask x k cores) := by
  have run : exec (.schedulingRound part) s = execSchedulingRound part s := rfl
  have idle : (!p.open || p.roundsDue == 0) = false := by simp [op, due]
  let u := s.putPart part { p with roundsDue := p.roundsDue - 1 }
  have considered := State.consider_single (s := u) alone runnable (own ▸ State.part_putPart_same ..) fit
  rw [run]
  unfold execSchedulingRound
  simp only [hp, idle, Bool.false_eq_true, if_false]
  rw [State.settle_single (s := u) alone runnable, State.startAll_single (s := u) alone runnable, State.work_single (s := u) alone runnable own owner]
  simp only [List.foldl_cons, List.foldl_nil]
  rw [considered]
  rfl

/-! ## Placement -/

/-- A demand takes nothing from a core whose harvest warps hold no line. -/
theorem State.demandLines_idle {s : State} {x : Task} {k : Nat} {cores : List Nat} (h : ∀ c ∈ cores, s.harvestHolds ⟨k, c⟩ = false) :
    s.demandLines x k cores = s := by
  unfold State.demandLines
  refine List.foldlRecOn (motive := (· = s)) _ _ rfl fun t e c hc => ?_
  subst e
  have mem := (List.of_mem_zip (show (c.1, c.2) ∈ _ from hc)).1
  simp only [h c.1 mem, Bool.false_and, Bool.false_eq_true, if_false]

/-- A STATE AS WARPS HAVE BEEN PLACED, the private lines of each written back from the other cores before (05 R106). -/
structure Placing (s t : State) : Prop where
  rest : t = { s with warps := t.warps, parts := t.parts, l2 := t.l2, l1 := t.l1, fresh := t.fresh }
  parts : ∀ n, (t.part n).map Part.uncounted = (s.part n).map Part.uncounted
  apart : ∀ j w pl, t.warp j = some w → s.warp j = some w ∨ (w.place = some pl → ∀ y ∈ t.l1, w.hasPrivate y = true → y.core = pl.core)

/-- One more warp is placed. -/
theorem Placing.place {s t v : State} {w : Warp} {c : CoreKey} {n : Nat} {slot : Nat} (placing : Placing s t) (at' : w.place = some ⟨c, slot⟩)
    (lines : LinesBack { t with fresh := n } v (fun y => w.hasPrivate y = true ∧ y.core ≠ c)) : Placing s (v.setWarp w) where
  rest := by rw [State.setWarp, lines.1, placing.rest]
  parts m := (lines.2.1 m).trans (placing.parts m)
  apart := by
    intro j z pl hz
    have warps : v.warps = t.warps := by rw [lines.1]
    by_cases e : j = w.key
    · subst e
      rw [State.warp_setWarp_same] at hz
      cases hz
      refine .inr fun hpl y hy holds => ?_
      rw [at'] at hpl
      cases hpl
      exact Classical.byContradiction fun other => ((lines.2.2 y).mp hy).2 ⟨holds, other⟩
    · rw [State.warp_setWarp_ne v e, State.warp, warps] at hz
      exact (placing.apart j z pl hz).imp_right fun h hpl y hy => h hpl y ((lines.2.2 y).mp hy).1

theorem State.placeWarps_placing (s : State) (x : Task) (lo hi : Nat) : Placing s (s.placeWarps x lo hi) := by
  unfold State.placeWarps
  refine List.foldlRecOn (motive := Placing s) _ _ ⟨rfl, fun _ => rfl, fun _ _ _ h => .inl h⟩ ?_
  rintro t placing ⟨c, team, wid⟩ -
  simp only
  split
  · exact placing.place rfl ((State.writeBack_linesBack ..).congr fun y => by simp)
  · exact placing

/-- Without a trace buffer no record of a crew is written (10 R239). -/
theorem State.traceCrew_off {s : State} {x : Task} (h : ∀ p, s.part x.part = some p → p.trace = none) (kind extra : Nat) :
    s.traceCrew x kind extra = s := State.trace_off h ..

/-- What is known of a partition that differs from another in its contexts' counts alone. -/
theorem Part.part_of_uncounted {s t : State} {n : Nat} {p : Part} (h : (t.part n).map Part.uncounted = (s.part n).map Part.uncounted)
    (hp : s.part n = some p) : ∃ q, t.part n = some q ∧ q = { p with ctxs := q.ctxs } ∧ q.uncounted = p.uncounted := by
  rw [hp] at h
  obtain ⟨q, hq, e⟩ := Option.map_eq_some_iff.mp h
  exact ⟨q, hq, Part.eq_of_uncounted e, e⟩

/-- The task as it is admitted under a number on cores of a cluster. -/
def Task.admitted (x : Task) (adm : DWord) (k : Nat) (cores : List Nat) : Task :=
  { x.freshWindows with phase := .running, admseq := adm, cluster := k, cores := cores, eprio := x.trec.prio, rounds := 0 }

/-- The state just before the warps of an admitted task are placed. -/
def State.admitting (s : State) (x : Task) (p : Part) (k : Nat) (cores : List Nat) : State :=
  ((({ s with past := s.past.filter (fun p => p.task.cluster != k) }).putPart x.part { p with admNext := p.admNext + 1 }).setTask
    (x.admitted p.admNext k cores)).setCluster k { s.cluster k with gated := false }

/-- A READY TASK IS ADMITTED (04 R83, R84) where no harvest warp stands in the way and nothing is traced. -/
theorem State.admitTask_eq {s : State} {x : Task} {p : Part} {k : Nat} {cores : List Nat} (hp : s.part x.part = some p) (untraced : p.trace = none)
    (idle : ∀ c ∈ cores, s.harvestHolds ⟨k, c⟩ = false) : s.admitTask x k cores =
      ((s.admitting x p k cores).placeWarps (x.admitted p.admNext k cores) 0 16).onPart x.part (fun q => { q with lastPlaced := k }) := by
  have adm : (s.forgetPast k).takeAdm x.part = (p.admNext, (s.forgetPast k).putPart x.part { p with admNext := p.admNext + 1 }) := by
    have hp : (s.forgetPast k).part x.part = some p := hp
    unfold State.takeAdm
    rw [hp]
  have placing := State.placeWarps_placing (s.admitting x p k cores) (x.admitted p.admNext k cores) 0 16
  obtain ⟨q, hq, rest, -⟩ := Part.part_of_uncounted (placing.parts x.part) (State.part_putPart_same ..)
  unfold State.admitTask
  rw [State.demandLines_idle idle]
  simp only [adm]
  refine State.traceCrew_off (x := x.admitted p.admNext k cores) (fun r hr => ?_) ..
  have same := (State.part_onPart_same ((s.admitting x p k cores).placeWarps (x.admitted p.admNext k cores) 0 16) x.part
    (fun q => { q with lastPlaced := k })).symm.trans hr
  rw [hq] at same
  cases same
  exact (congrArg Part.trace rest).trans untraced

end Sys2Proof.Machine
end

section
/-! SUPPORT. A saved crew that resumes (04 R90): a free slot for each of its warps, and how it stands there. -/

namespace Sys2Proof.Machine

/-! ## Free slots -/

/-- The owner warps that stand on a core. -/
def State.ownersOn (s : State) (c : CoreKey) : Nat := (s.warps.vals.filter (fun w => w.place.any (·.core == c) && !w.inHarvest)).length

/-- A core on which fewer than 16 owner warps stand has a free slot. -/
theorem State.freeSlotOf_some {s : State} {c : CoreKey} (h : s.ownersOn c < 16) : ∃ slot, slot < 16 ∧ s.freeSlotOf c 0 16 = some slot := by
  cases found : s.freeSlotOf c 0 16 with
  | some slot => exact ⟨slot, List.mem_range.mp (List.mem_of_find?_eq_some found), rfl⟩
  | none =>
    exfalso
    unfold State.freeSlotOf at found
    rw [List.find?_eq_none] at found
    have taken : List.range 16 ⊆ (s.warps.vals.filter (fun w => w.place.any (·.core == c) && !w.inHarvest)).map Warp.slot := by
      intro n hn
      have full := found n hn
      simp only [Nat.zero_le, decide_true, Bool.true_and, List.all_eq_true, not_forall] at full
      obtain ⟨w, hw, other⟩ := full
      obtain ⟨mem, here⟩ := List.mem_filter.mp hw
      cases place : w.place with
      | none => simp [place] at here
      | some pl =>
        have slot : pl.slot = n := by simpa [place] using other
        have low : n < 16 := List.mem_range.mp hn
        refine List.mem_map.mpr ⟨w, List.mem_filter.mpr ⟨mem, ?_⟩, by rw [Warp.slot, place]; exact slot⟩
        rw [here, Bool.true_and, Warp.inHarvest, place]
        simp [slot, low]
    have := (List.nodup_range.subperm taken).length_le
    rw [List.length_range, List.length_map] at this
    exact absurd h (Nat.not_lt.mpr this)

/-! ## A saved warp stands in a slot again -/

/-- A saved warp as it is placed again, but for the lines that its registers take. -/
def Warp.seated (w : Warp) (pl : Place) (now : DWord) : Warp :=
  { w with place := some pl, paths := w.paths.map (·.restart now)
           queue := w.queue.filter (fun e => match e.kind with | .waitmem _ | .barwait | .ring => false | _ => true) }

theorem State.replace_eq (s : State) (w : Warp) (pl : Place) : ∃ v regs, LinesBack s v (fun y => w.hasPrivate y = true ∧ y.core ≠ pl.core) ∧
    s.replace w pl = v.putWarp w.key { w.seated pl s.gtime with regs := regs } ∧
    ∀ n (h : n < 128), regs[n] = { w.regs[n] with line := regs[n].line } := by
  have lines := s.writeBack_linesBack (fun x => w.hasPrivate x && x.core != pl.core)
  let v := s.writeBack (fun x => w.hasPrivate x && x.core != pl.core)
  have time : v.gtime = s.gtime := (congrArg State.gtime lines.1 :)
  obtain ⟨regs, e, same⟩ := State.takeLines_eq (s := v.setWarp (w.seated pl s.gtime)) (k := w.key) (State.warp_setWarp_same ..) rfl
  refine ⟨v, regs, lines.congr fun y => by simp, ?_, same⟩
  unfold State.replace
  refine Eq.trans ?_ (e.trans (State.putWarp_putWarp v w.key (w.seated pl s.gtime) _))
  rw [← time]
  rfl

theorem Warp.seated_resumed {w : Warp} {c : CoreKey} {slot : Nat} (low : slot < 16) (now : DWord) {regs : Vector Reg 128}
    (same : ∀ n (h : n < 128), regs[n] = { w.regs[n] with line := regs[n].line }) : Resumed w { w.seated ⟨c, slot⟩ now with regs := regs } c now := by
  refine ⟨slot, low, rfl, same, fun e => ?_⟩
  refine List.mem_filter.trans (and_congr_right fun _ => ?_)
  cases e.kind <;> simp

/-- Warps of a saved crew are placed one after the other, each on its core. -/
def State.seat (core : Warp → CoreKey) (s : State) (w : Warp) : State :=
  match s.freeSlotOf (core w) 0 16 with
  | some slot => s.replace w ⟨core w, slot⟩
  | none => s

/-- SAVED WARPS STAND AGAIN on their cores: `s` before, `t` after. -/
structure Seated (core : Warp → CoreKey) (s t : State) (ws : List Warp) : Prop where
  rest : t = { s with warps := t.warps, parts := t.parts, l2 := t.l2, l1 := t.l1, fresh := t.fresh }
  parts : ∀ n, (t.part n).map Part.uncounted = (s.part n).map Part.uncounted
  lines : ∀ y, y ∈ t.l1 ↔ y ∈ s.l1 ∧ ¬ ∃ w ∈ ws, w.hasPrivate y = true ∧ y.core ≠ core w
  resumed : ∀ w ∈ ws, ∃ v, t.warp w.key = some v ∧ Resumed w v (core w) s.gtime
  others : ∀ k, (∀ w ∈ ws, w.key ≠ k) → t.warp k = s.warp k
  defers : (∀ kw ∈ s.warps, kw.2.defers = []) → (∀ w ∈ ws, w.defers = []) → ∀ kw ∈ t.warps, kw.2.defers = []

/-- Where no more warps are to stand on a core than it has slots for, each finds one. -/
theorem State.seat_seated (core : Warp → CoreKey) (ws : List Warp) : ∀ s : State, (ws.map Warp.key).Nodup →
    (∀ w ∈ ws, s.ownersOn (core w) + (ws.filter (fun v => core v == core w)).length ≤ 16) →
    Seated core s (ws.foldl (State.seat core) s) ws := by
  induction ws with
  | nil => exact fun s _ _ => ⟨rfl, fun _ => rfl, fun y => by simp, nofun, fun _ _ => rfl, fun h _ => h⟩
  | cons w ws ih =>
    intro s apart room
    rw [List.map_cons, List.nodup_cons] at apart
    have ne : ∀ z ∈ ws, z.key ≠ w.key := fun z hz e => apart.1 (e ▸ List.mem_map_of_mem hz)
    have count : ∀ c, ((w :: ws).filter (fun v => core v == c)).length = (ws.filter (fun v => core v == c)).length + if core w = c then 1 else 0 := by
      intro c
      rw [List.filter_cons]
      by_cases e : core w = c <;> simp [e]
    have first := room w (.head _)
    rw [count, if_pos rfl] at first
    obtain ⟨slot, low, free⟩ := State.freeSlotOf_some (show s.ownersOn (core w) < 16 by omega)
    obtain ⟨v, regs, back, placed, same⟩ := s.replace_eq w ⟨core w, slot⟩
    have seat : s.seat core w = v.putWarp w.key { w.seated ⟨core w, slot⟩ s.gtime with regs := regs } := by
      unfold State.seat; rw [free]; exact placed
    have warps : v.warps = s.warps := by rw [back.1]
    rw [List.foldl_cons, seat]
    let u := v.putWarp w.key { w.seated ⟨core w, slot⟩ s.gtime with regs := regs }
    have time : u.gtime = s.gtime := (congrArg State.gtime back.1 :)
    have owners : ∀ c, u.ownersOn c ≤ s.ownersOn c + if core w = c then 1 else 0 := by
      intro c
      refine (Tab.length_filter_vals_set v.warps w.key _ _).trans ?_
      rw [warps]
      refine Nat.add_le_add_left ?_ _
      by_cases e : core w = c <;> simp [Warp.seated, e]
      split <;> simp
    have seated := ih u apart.2 fun z hz => by
      have := room z (.tail _ hz)
      rw [count] at this
      have := owners (core z)
      omega
    refine ⟨?_, fun n => (seated.parts n).trans (back.2.1 n), fun y => ?_, fun z hz => ?_, fun k hk => ?_, fun hs hw => ?_⟩
    · rw [seated.rest]
      show ({ v with warps := _, parts := _, l2 := _, l1 := _, fresh := _ } : State) = _
      rw [back.1]
    · rw [seated.lines y]
      refine (and_congr_left' (back.2.2 y)).trans ?_
      simp only [List.mem_cons, exists_eq_or_imp, not_or, and_assoc]
    · cases hz with
      | head => exact ⟨_, (seated.others w.key ne).trans (State.warp_putWarp_same ..), Warp.seated_resumed low s.gtime same⟩
      | tail _ hz => exact by simpa only [time] using seated.resumed z hz
    · refine (seated.others k fun z hz => hk z (.tail _ hz)).trans ((State.warp_putWarp_ne v _ (hk w (.head _)).symm).trans ?_)
      rw [State.warp, State.warp, warps]
    · refine seated.defers (fun kw h => ?_) fun z hz => hw z (.tail _ hz)
      obtain rfl | h := Tab.mem_set h
      · exact hw w (.head _)
      · exact hs kw (warps ▸ h)

end Sys2Proof.Machine
end

section
/-! SUPPORT. The cores that the dispatcher finds (04 R84), and the resumption of a saved crew on them (04 R90). -/

namespace Sys2Proof.Machine

/-! ## The cores found -/

theorem insertBy_perm {α : Type} (le : α → α → Bool) (x : α) (l : List α) : (insertBy le x l).Perm (x :: l) := by
  induction l with
  | nil => exact .refl _
  | cons y l ih =>
    rw [insertBy]
    split
    · exact .refl _
    · exact (ih.cons y).trans (.swap x y l)

theorem sortBy_perm {α : Type} (le : α → α → Bool) (l : List α) : (sortBy le l).Perm l := by
  induction l with
  | nil => exact .refl _
  | cons x l ih => exact (insertBy_perm le x _).trans (ih.cons x)

/-- The cores chosen are some of those offered, in their number as many as there are teams. -/
theorem chooseCores_some {lines : List Nat} {pref : List (Nat × Nat)} {cores : List Nat} (h : chooseCores lines pref = some cores)
    (apart : (pref.map Prod.fst).Nodup) : cores.length = lines.length ∧ cores.Nodup ∧ ∀ c ∈ cores, c ∈ pref.map Prod.fst := by
  unfold chooseCores at h
  simp only at h
  generalize sortBy (fun a b => decide (a.1 ≤ b.1)) pref = asc at h
  have taken : ∀ (l : List (Nat × Nat)) (cs : List Nat), List.Sublist (l.foldl (fun cs x =>
      if cs.length < lines.length && (teamsOn lines (x.1 :: cs) asc).contains lines.length then x.1 :: cs else cs) cs) ((l.map Prod.fst).reverse ++ cs) := by
    intro l
    induction l with
    | nil => exact fun cs => .refl _
    | cons x l ih =>
      intro cs
      rw [List.foldl_cons, List.map_cons, List.reverse_cons, List.append_assoc]
      refine (ih _).trans (.append_left ?_ _)
      split
      · exact .refl _
      · exact .cons _ (.refl _)
  have sub := taken pref []
  rw [List.append_nil] at sub
  split at h
  next full =>
    cases h
    have perm := sortBy_perm (fun a b : Nat => decide (a ≤ b)) (pref.foldl (fun cs x =>
      if cs.length < lines.length && (teamsOn lines (x.1 :: cs) asc).contains lines.length then x.1 :: cs else cs) [])
    refine ⟨perm.length_eq.trans (beq_iff_eq.mp full), perm.nodup_iff.mpr ((List.nodup_reverse.mpr apart).sublist sub), fun c hc => ?_⟩
    exact List.mem_reverse.mp (sub.subset (perm.subset hc))
  next => cases h

/-- Each core found for a crew has slots for the warps of a team. -/
theorem State.clusterFits_some {s : State} {p : Part} {gone : List Nat} {x : Task} {k : Nat} {cores : List Nat}
    (h : s.clusterFits p gone x k = some cores) : cores.length = x.trec.teams ∧ cores.Nodup ∧ ∀ c ∈ cores, x.trec.warps ≤ s.slotsFree gone ⟨k, c⟩ := by
  unfold State.clusterFits at h
  simp only at h
  split at h
  next =>
    obtain ⟨length, apart, mem⟩ := chooseCores_some h (by
      rw [List.map_map]
      refine (List.map_id _).symm ▸ ?_
      exact (sortBy_perm _ _).nodup_iff.mpr (List.nodup_range.filter _))
    refine ⟨by simpa using length, apart, fun c hc => ?_⟩
    have := mem c hc
    rw [List.map_map] at this
    obtain ⟨d, hd, rfl⟩ := List.mem_map.mp this
    have fits := (List.mem_filter.mp (mem_sortBy.mp hd)).2
    unfold State.coreFits at fits
    simp only [Bool.and_eq_true, decide_eq_true_eq] at fits
    exact fits.1.1
  next => cases h

/-- A saved crew is fitted on its own cluster. -/
theorem State.findFit_resumable {s : State} {p : Part} {gone kept : List Nat} {x : Task} {k : Nat} {cores : List Nat} (saved : x.phase = .resumable)
    (h : s.findFit p gone kept x = some (k, cores)) : k = x.cluster ∧ s.clusterFits p gone x k = some cores := by
  unfold State.findFit at h
  obtain ⟨j, hj, found⟩ := List.exists_of_findSome?_eq_some h
  obtain ⟨cs, fit, e⟩ := Option.map_eq_some_iff.mp found
  cases e
  have own := (List.mem_filter.mp (List.mem_filter.mp hj).1).2
  unfold State.fitOn at fit
  simp only [saved] at own fit
  exact ⟨by simpa using own, by simpa using fit⟩

theorem State.slotsFree_eq (s : State) (c : CoreKey) : s.slotsFree [] c = 16 - s.ownersOn c := by
  unfold State.slotsFree State.onCore State.ownersOn
  rw [List.filter_filter]
  refine congrArg (fun l => 16 - List.length l) (List.filter_congr fun w _ => ?_)
  simp [Bool.and_comm]

/-! ## The warps of a crew in the slots of its cores -/

/-- Of a crew, no more warps than a team has stand on one core. -/
theorem length_filter_core_le {ws : List Warp} {n teams warps k : Nat} {cores : List Nat} (apart : (ws.map Warp.key).Nodup)
    (each : ∀ w ∈ ws, w.key.task = n ∧ w.key.team < teams ∧ w.key.wid < warps) (length : cores.length = teams) (distinct : cores.Nodup) (w : Warp) (hw : w ∈ ws) :
    (ws.filter (fun v => (⟨k, cores.getD v.key.team 0⟩ : CoreKey) == ⟨k, cores.getD w.key.team 0⟩)).length ≤ warps := by
  have teamOf : ∀ v ∈ ws, cores.getD v.key.team 0 = cores.getD w.key.team 0 → v.key.team = w.key.team := by
    intro v hv e
    have hv := length ▸ (each v hv).2.1
    have hw := length ▸ (each w hw).2.1
    rw [List.getD_eq_getElem _ _ hv, List.getD_eq_getElem _ _ hw] at e
    exact (distinct.getElem_inj_iff).mp e
  let here := ws.filter (fun v => (⟨k, cores.getD v.key.team 0⟩ : CoreKey) == ⟨k, cores.getD w.key.team 0⟩)
  have team : ∀ v ∈ here, v ∈ ws ∧ v.key.team = w.key.team := by
    intro v hv
    obtain ⟨mem, same⟩ := List.mem_filter.mp hv
    exact ⟨mem, teamOf v mem (by simpa using same)⟩
  have wids : (here.map (fun v => v.key.wid)).Nodup := by
    have keys : (here.map Warp.key).Nodup := apart.sublist (List.filter_sublist.map _)
    refine List.Nodup.map_on (fun a ha b hb e => ?_) keys.of_map
    obtain ⟨ha', ta⟩ := team a ha
    obtain ⟨hb', tb⟩ := team b hb
    have same : a.key = b.key := by
      have : a.key = ⟨n, w.key.team, a.key.wid⟩ := by rw [← (each a ha').1, ← ta]
      rw [this, e, ← (each b hb').1, ← tb]
    exact List.inj_on_of_nodup_map keys ha hb same
  have := (wids.subperm (l₂ := List.range warps) fun x hx => by
    obtain ⟨v, hv, rfl⟩ := List.mem_map.mp hx
    exact List.mem_range.mpr (each v (team v hv).1).2.2).length_le
  rwa [List.length_map, List.length_range] at this

/-! ## The resumption -/

/-- A freed frame raises nothing where no group of lanes is deferred. -/
theorem State.frameFreed_idle {s : State} (h : ∀ kw ∈ s.warps, kw.2.defers = []) (c : CoreKey) : s.frameFreed c = s := by
  have none : s.warps.vals.filter (fun w => w.place.any (·.core == c) && !w.inHandler && !w.defers.isEmpty) = [] := by
    refine List.filter_eq_nil_iff.mpr fun w hw => ?_
    obtain ⟨k, hk⟩ := Tab.mem_vals.mp hw
    simp [show w.defers = [] from h _ hk]
  unfold State.frameFreed
  rw [none]
  rfl

/-- The task of a saved crew that resumes. -/
def Task.resumed (x : Task) (cores : List Nat) : Task :=
  { x with phase := .running, cores := cores, eprio := x.trec.prio, rounds := 0, cells := [], woken := false }

/-- The state just before the warps of a crew that resumes take their slots. -/
def State.resuming (s : State) (x : Task) (cores : List Nat) : State :=
  (({ s with past := s.past.filter (fun p => p.task.cluster != x.cluster) }).setTask (x.resumed cores)).setCluster x.cluster
    { s.cluster x.cluster with gated := false }

/-- The warps of a crew that take a slot again, in ascending order. -/
def State.returning (s : State) (x : Task) : List Warp :=
  sortBy (fun a b => a.key.team * 16 + a.key.wid ≤ b.key.team * 16 + b.key.wid) ((s.crew x.id).filter (fun w => !w.ended))

theorem State.mem_returning {s : State} (keyed : s.keyed) {x : Task} {w : Warp} :
    w ∈ s.returning x ↔ ∃ k, s.warp k = some w ∧ k.task = x.id ∧ w.ended = false := by
  rw [State.returning, mem_sortBy, List.mem_filter, keyed.mem_crew, Bool.not_eq_true']
  constructor
  · rintro ⟨⟨k, hk, own⟩, live⟩
    exact ⟨k, Tab.find_of_mem keyed.1 hk, own, live⟩
  · rintro ⟨k, hk, own, live⟩
    exact ⟨⟨k, Tab.mem_of_find hk, own⟩, live⟩

/-- The steps of a resumption, by their names. -/
theorem State.resume_steps (s : State) (x : Task) (cores : List Nat) : s.resume x cores =
    (let u := (s.demandLines x x.cluster cores).resuming x cores
     let t := (u.returning x).foldl (State.seat (fun w => ⟨x.cluster, cores.getD w.key.team 0⟩)) u
     let f := (cores.map (fun c => (⟨x.cluster, c⟩ : CoreKey))).foldl (fun s c => if s.framesHeld c < 8 then s.frameFreed c else s) t
     (f.onPart x.part (fun p => { p with lastPlaced := x.cluster })).traceCrew (x.resumed cores) 5 0) := rfl

/-- A SAVED CREW RESUMES (04 R90) where no harvest warp stands in the way, nothing is traced and no group of lanes is deferred. -/
theorem State.resume_eq {s : State} {x : Task} {cores : List Nat} (untraced : ∀ p, s.part x.part = some p → p.trace = none)
    (idle : ∀ c ∈ cores, s.harvestHolds ⟨x.cluster, c⟩ = false) (undeferred : ∀ kw ∈ s.warps, kw.2.defers = [])
    {t : State} (ht : t = (s.returning x).foldl (State.seat (fun w => ⟨x.cluster, cores.getD w.key.team 0⟩)) (s.resuming x cores))
    (seated : Seated (fun w => ⟨x.cluster, cores.getD w.key.team 0⟩) (s.resuming x cores) t (s.returning x))
    (keyed : s.keyed) : s.resume x cores = t.onPart x.part (fun p => { p with lastPlaced := x.cluster }) := by
  have quiet : ∀ kw ∈ t.warps, kw.2.defers = [] := seated.defers undeferred fun w hw => by
    obtain ⟨k, hk, -⟩ := (State.mem_returning keyed).mp hw
    exact undeferred _ (Tab.mem_of_find hk)
  have frames : (cores.map (fun c => (⟨x.cluster, c⟩ : CoreKey))).foldl (fun s c => if s.framesHeld c < 8 then s.frameFreed c else s) t = t := by
    refine List.foldlRecOn (motive := (· = t)) _ _ rfl fun u e c _ => ?_
    subst e
    rw [State.frameFreed_idle quiet, ite_self]
  have same : (s.resuming x cores).returning x = s.returning x := rfl
  rw [State.resume_steps, State.demandLines_idle idle]
  simp only
  rw [same, ← ht, frames]
  refine State.traceCrew_off (x := x.resumed cores) (fun r hr => ?_) ..
  have same := (State.part_onPart_same t x.part (fun q => { q with lastPlaced := x.cluster })).symm.trans hr
  obtain ⟨q, hq, rfl⟩ := Option.map_eq_some_iff.mp same
  obtain ⟨p, hp⟩ : ∃ p, s.part x.part = some p := by
    have := seated.parts x.part
    rw [hq] at this
    obtain ⟨p, hp, -⟩ := Option.map_eq_some_iff.mp this.symm
    exact ⟨p, hp⟩
  obtain ⟨q', hq', rest, -⟩ := Part.part_of_uncounted (seated.parts x.part) hp
  rw [hq] at hq'
  cases hq'
  exact (congrArg Part.trace rest).trans (untraced p hp)

end Sys2Proof.Machine
end

section
/-! O49: the dispatcher's rounds and saves, a slot given up, the Tiller's parking and resuming (04 R80-R96, 14 R318). -/

namespace Sys2Proof.Machine

/-! ## Admission -/

theorem State.task_admitting (s : State) (x : Task) (p : Part) (k : Nat) (cores : List Nat) :
    (s.admitting x p k cores).task x.id = some (x.admitted p.admNext k cores) :=
  Tab.find_set_same s.tasks (x.admitted p.admNext k cores).id (x.admitted p.admNext k cores)
theorem State.admitting_only (s : State) (x : Task) (p : Part) (k : Nat) (cores : List Nat) : s.admitting x p k cores = { s with
    past := (s.admitting x p k cores).past, parts := (s.admitting x p k cores).parts, tasks := (s.admitting x p k cores).tasks
    clusters := (s.admitting x p k cores).clusters } := rfl
theorem State.warp_admitting (s : State) (x : Task) (p : Part) (k : Nat) (cores : List Nat) (j : WarpKey) :
    (s.admitting x p k cores).warp j = s.warp j := by rw [State.admitting_only]; rfl
theorem State.hbm_admitting (s : State) (x : Task) (p : Part) (k : Nat) (cores : List Nat) : (s.admitting x p k cores).hbm = s.hbm := by
  rw [State.admitting_only]
theorem State.hbm_putPart (s : State) (n : Nat) (p : Part) : (s.putPart n p).hbm = s.hbm := rfl
theorem State.cluster_admitting (s : State) (x : Task) (p : Part) (k : Nat) (cores : List Nat) :
    (s.admitting x p k cores).cluster k = { s.cluster k with gated := false } := State.cluster_setCluster_same ..

theorem execSchedulingRound_admits {s : State} {part : Nat} {p : Part} {x : Task} {k : Nat} {cores : List Nat} (hp : s.part part = some p)
    (op : p.open = true) (due : p.roundsDue ≠ 0) (untraced : p.trace = none) (alone : s.tasks = [(x.id, x)]) (own : x.part = part)
    (ready : x.phase = .ready) (owner : x.trec.harv = false)
    (fit : (s.putPart part { p with roundsDue := p.roundsDue - 1 }).findFit { p with roundsDue := p.roundsDue - 1 } [] [] x = some (k, cores))
    (idle : ∀ c ∈ cores, s.harvestHolds ⟨k, c⟩ = false) : ∃ t q, exec (.schedulingRound part) s = .next t ∧ t.part part = some q ∧
      q.uncounted = Part.uncounted { p with roundsDue := p.roundsDue - 1, admNext := p.admNext + 1, lastPlaced := k } ∧
      (∀ j w pl, s.warp j = none → t.warp j = some w → w.place = some pl → ∀ y ∈ t.l1, w.hasPrivate y = true → y.core = pl.core) ∧
      t.task x.id = some (x.admitted p.admNext k cores) ∧ (t.cluster k).gated = false ∧ t.hbm = s.hbm := by
  subst own
  let p' : Part := { p with roundsDue := p.roundsDue - 1 }
  let u := s.putPart x.part p'
  have step := execSchedulingRound_single hp op due alone rfl (.inl ready) owner fit
  have admits : u.admitTask x k cores = _ := State.admitTask_eq (p := p') (State.part_putPart_same ..) untraced idle
  rw [if_neg (by rw [ready]; decide), admits] at step
  let v := u.admitting x p' k cores
  have placing := v.placeWarps_placing (x.admitted p.admNext k cores) 0 16
  obtain ⟨t, ht⟩ : ∃ t, t = v.placeWarps (x.admitted p.admNext k cores) 0 16 := ⟨_, rfl⟩
  rw [← ht] at step placing
  have tasks : t.tasks = v.tasks := by rw [placing.rest]
  have clusters : t.clusters = v.clusters := by rw [placing.rest]
  have bytes : t.hbm = v.hbm := by rw [placing.rest]
  obtain ⟨q, hq, -, counts⟩ := Part.part_of_uncounted (placing.parts x.part) (State.part_putPart_same ..)
  refine ⟨_, { q with lastPlaced := k }, step, ?_, ?_, ?_, ?_⟩
  · exact (State.part_onPart_same ..).trans (congrArg _ hq)
  · exact congrArg (fun r : Part => { r with lastPlaced := k }) counts
  · intro j w pl fresh hw place
    rw [State.onPart_only] at hw ⊢
    have away : v.warp j ≠ some w := by rw [State.warp_admitting, State.warp_putPart, fresh]; exact nofun
    exact (placing.apart j w pl hw).resolve_left away place
  · rw [State.onPart_only]
    refine ⟨?_, ?_, bytes.trans ((u.hbm_admitting x p' k cores).trans (s.hbm_putPart x.part p'))⟩
    · exact (congrArg (fun ts => Tab.find ts x.id) tasks).trans (u.task_admitting x p' k cores)
    · exact congrArg Cluster.gated ((congrArg (fun cs => (Tab.find cs k).getD Cluster.fresh) clusters).trans (u.cluster_admitting x p' k cores))

/-! ## Resumption -/

/-- The crew that resumes finds its slots on the cores found for it. -/
theorem State.resuming_seated {s : State} {p : Part} {x : Task} {k : Nat} {cores : List Nat} (keyed : s.keyed) (saved : x.phase = .resumable)
    (fit : s.findFit p [] [] x = some (k, cores)) (crew : ∀ kw ∈ s.warps, kw.1.task = x.id → kw.1.team < x.trec.teams ∧ kw.1.wid < x.trec.warps) :
    Seated (fun w => ⟨x.cluster, cores.getD w.key.team 0⟩) (s.resuming x cores)
      ((s.returning x).foldl (State.seat (fun w => ⟨x.cluster, cores.getD w.key.team 0⟩)) (s.resuming x cores)) (s.returning x) := by
  obtain ⟨rfl, fits⟩ := State.findFit_resumable saved fit
  obtain ⟨length, distinct, room⟩ := State.clusterFits_some fits
  have apart : ((s.returning x).map Warp.key).Nodup := by
    refine ((sortBy_perm _ _).map Warp.key).nodup_iff.mpr ?_
    rw [State.crew, List.filter_filter]
    exact (keyed.some _).1
  have each : ∀ w ∈ s.returning x, w.key.task = x.id ∧ w.key.team < x.trec.teams ∧ w.key.wid < x.trec.warps := by
    intro w hw
    obtain ⟨q, hq, own, -⟩ := (State.mem_returning keyed).mp hw
    rw [keyed.key hq]
    exact ⟨own, crew _ (Tab.mem_of_find hq) own⟩
  refine State.seat_seated _ _ _ apart fun w hw => ?_
  obtain ⟨-, team, wid⟩ := each w hw
  have here := length_filter_core_le (k := x.cluster) apart each length distinct w hw
  have core : cores.getD w.key.team 0 ∈ cores := by
    rw [List.getD_eq_getElem _ _ (length ▸ team)]
    exact List.getElem_mem _
  have free := room _ core
  rw [State.slotsFree_eq] at free
  have same : (s.resuming x cores).ownersOn ⟨x.cluster, cores.getD w.key.team 0⟩ = s.ownersOn ⟨x.cluster, cores.getD w.key.team 0⟩ := rfl
  rw [same]
  omega

/-- A crew that resumes writes back the private lines that stand elsewhere: the state with these lines gone, `p` the partition
before, `t` the state as the crew stands again. -/
def State.returned (s : State) (part : Nat) (p : Part) (t : State) : State :=
  { s with parts := t.parts.set part { p with ctxs := ((t.part part).map Part.ctxs).getD [] }, l2 := t.l2, l1 := t.l1, fresh := t.fresh }

/-- A round resumes the one crew (04 R90). -/
theorem execSchedulingRound_resumes {s : State} {part : Nat} {p : Part} {x : Task} {k : Nat} {cores : List Nat} (keyed : s.keyed)
    (hp : s.part part = some p) (op : p.open = true) (due : p.roundsDue ≠ 0) (untraced : p.trace = none) (alone : s.tasks = [(x.id, x)])
    (own : x.part = part) (saved : x.phase = .resumable) (owner : x.trec.harv = false)
    (fit : (s.putPart part { p with roundsDue := p.roundsDue - 1 }).findFit { p with roundsDue := p.roundsDue - 1 } [] [] x = some (k, cores))
    (idle : ∀ c ∈ cores, s.harvestHolds ⟨k, c⟩ = false) (undeferred : ∀ kw ∈ s.warps, kw.2.defers = [])
    (crew : ∀ kw ∈ s.warps, kw.1.task = x.id → kw.1.team < x.trec.teams ∧ kw.1.wid < x.trec.warps) :
    ∃ t q, k = x.cluster ∧ Seated (fun w => ⟨x.cluster, cores.getD w.key.team 0⟩)
        ((s.putPart part { p with roundsDue := p.roundsDue - 1 }).resuming x cores) t (s.returning x) ∧
      t.part part = some q ∧ q = { p with roundsDue := p.roundsDue - 1, ctxs := q.ctxs } ∧ Part.uncounted { p with ctxs := q.ctxs } = p.uncounted ∧
      exec (.schedulingRound part) s = .next (t.onPart part (fun p => { p with lastPlaced := x.cluster })) := by
  subst own
  let p' : Part := { p with roundsDue := p.roundsDue - 1 }
  let u := s.putPart x.part p'
  have here : u.part x.part = some p' := State.part_putPart_same ..
  have keyed' : u.keyed := keyed
  obtain ⟨rfl, -⟩ := State.findFit_resumable saved fit
  have seated := State.resuming_seated keyed' saved fit crew
  have step := execSchedulingRound_single hp op due alone rfl (.inr saved) owner fit
  have resumes : u.resume x cores = _ := State.resume_eq (s := u) (fun r hr => by cases here.symm.trans hr; exact untraced) idle undeferred rfl seated keyed'
  rw [if_pos saved, resumes] at step
  obtain ⟨q, hq, rest, counts⟩ := Part.part_of_uncounted (seated.parts x.part) here
  exact ⟨_, q, rfl, seated, hq, rest, congrArg (fun r : Part => { p with ctxs := r.ctxs }) counts, step⟩

/-- Of the lines of a keyed state's crew that stand elsewhere, in the words of the table. -/
theorem State.returning_lines {s : State} (keyed : s.keyed) (x : Task) (core : WarpKey → CoreKey) (y : L1Line) :
    (∃ w ∈ s.returning x, w.hasPrivate y = true ∧ y.core ≠ core w.key) ↔
      ∃ kw ∈ s.warps, kw.1.task = x.id ∧ kw.2.ended = false ∧ kw.2.hasPrivate y = true ∧ y.core ≠ core kw.1 := by
  constructor
  · rintro ⟨w, hw, holds, other⟩
    obtain ⟨q, hq, own, live⟩ := (State.mem_returning keyed).mp hw
    exact ⟨(q, w), Tab.mem_of_find hq, own, live, holds, keyed.key hq ▸ other⟩
  · rintro ⟨⟨q, w⟩, mem, own, live, holds, other⟩
    have hq := Tab.find_of_mem keyed.1 mem
    exact ⟨w, (State.mem_returning keyed).mpr ⟨q, hq, own, live⟩, holds, (keyed.key hq).symm ▸ other⟩

theorem State.task_resuming (s : State) (x : Task) (cores : List Nat) : (s.resuming x cores).task x.id = some (x.resumed cores) :=
  Tab.find_set_same s.tasks x.id (x.resumed cores)
theorem State.cluster_resuming_same (s : State) (x : Task) (cores : List Nat) :
    (s.resuming x cores).cluster x.cluster = { s.cluster x.cluster with gated := false } := State.cluster_setCluster_same ..
theorem State.cluster_resuming_ne (s : State) (x : Task) (cores : List Nat) {k : Nat} (h : k ≠ x.cluster) :
    (s.resuming x cores).cluster k = s.cluster k := State.cluster_setCluster_ne _ _ h

/-! ## The task of a saved crew -/

section
variable (s u : State) (x : Task) (m : Nat)

theorem State.savedTask_rest : s.savedTask u x m = { x with
    phase := (s.savedTask u x m).phase, cells := (s.savedTask u x m).cells, eprio := x.trec.prio, rounds := 0
    hzn := (s.savedTask u x m).hzn, woken := false, readySeq := (s.savedTask u x m).readySeq } := by
  unfold State.savedTask
  split
  next h =>
    have woken : (s.stowedTask u x).woken = false := by
      show (!s.blockedCrew x.id) = false
      rw [h.1]; rfl
    exact woken ▸ rfl
  next => rfl
theorem State.savedTask_phase : (s.savedTask u x m).phase = if s.blockedCrew x.id = true ∧ s.wakes x.id = false then .evicted else .resumable := by
  unfold State.savedTask; split <;> rfl
theorem State.hzn_savedTask : (s.savedTask u x m).hzn =
    ((s.crew x.id).filter (fun w => w.ended && w.place.isSome)).foldl (fun h w => maxHzn h w.hzn) x.hzn := by
  unfold State.savedTask; split <;> rfl
variable {s u x m}
theorem State.cells_savedTask_resumable (h : (s.savedTask u x m).phase = .resumable) : (s.savedTask u x m).cells = [] := by
  unfold State.savedTask at h ⊢
  split at h
  next => cases h
  next out => rw [if_neg out]; rfl
theorem State.savedTask_evicted (h : (s.savedTask u x m).phase = .evicted) : (s.savedTask u x m).readySeq = x.readySeq ∧
    (s.savedTask u x m).cells = u.takeCells x.part (u.eventWaits x.id) := by
  unfold State.savedTask at h ⊢
  split at h
  next out => rw [if_pos out]; exact ⟨rfl, rfl⟩
  next => cases h

end

/-! ## A crew that stands again -/

section
variable {s : State} {part : Nat} {p q : Part} {x : Task} {cores : List Nat} {t : State}

/-- What a resumed crew's lines leave: the state in which they have been written back and nothing else was done. -/
theorem State.returned_linesBack (keyed : s.keyed) (hp : s.part part = some p) (hq : t.part part = some q)
    (counts : Part.uncounted { p with ctxs := q.ctxs } = p.uncounted)
    (seated : Seated (fun w => ⟨x.cluster, cores.getD w.key.team 0⟩) ((s.putPart part { p with roundsDue := p.roundsDue - 1 }).resuming x cores) t (s.returning x)) :
    LinesBack s (s.returned part p t) (fun l => ∃ kw ∈ s.warps, kw.1.task = x.id ∧ kw.2.ended = false ∧ kw.2.hasPrivate l = true ∧
      l.core ≠ ⟨x.cluster, cores.getD kw.1.team 0⟩) := by
  refine ⟨rfl, fun n => ?_, fun y => ?_⟩
  · by_cases e : n = part
    · subst e
      have here : (s.returned n p t).part n = some { p with ctxs := q.ctxs } := by
        unfold State.returned
        rw [hq]
        exact Tab.find_set_same ..
      rw [here, hp]
      exact congrArg some counts
    · have other : (s.returned part p t).part n = t.part n := Tab.find_set_ne _ _ e
      have before : ((s.putPart part { p with roundsDue := p.roundsDue - 1 }).resuming x cores).part n = s.part n := State.part_putPart_ne _ _ e
      rw [other, seated.parts n, before]
  · exact (seated.lines y).trans (and_congr_right fun _ => not_congr (State.returning_lines keyed x (fun k => ⟨x.cluster, cores.getD k.team 0⟩) y))

/-- A warp of a crew that is still running stands again, and every other warp is as it was. -/
theorem Seated.warp {r : State} (seated : Seated (fun w => ⟨x.cluster, cores.getD w.key.team 0⟩) r t (s.returning x)) (keyed : s.keyed)
    (warps : r.warps = s.warps) (time : r.gtime = s.gtime) (k : WarpKey) (w : Warp) (hw : s.warp k = some w) :
    if k.task = x.id ∧ w.ended = false then ∃ v, t.warp k = some v ∧ Resumed w v ⟨x.cluster, cores.getD k.team 0⟩ s.gtime else t.warp k = some w := by
  split
  next crew =>
    obtain ⟨v, hv, resumed⟩ := seated.resumed w ((State.mem_returning keyed).mpr ⟨k, hw, crew⟩)
    rw [keyed.key hw] at hv resumed
    exact ⟨v, hv, time ▸ resumed⟩
  next away =>
    refine (seated.others k fun z hz e => ?_).trans ((congrArg (Tab.find · k) warps).trans hw)
    obtain ⟨j, hj, crew⟩ := (State.mem_returning keyed).mp hz
    have e : j = k := (keyed.key hj).symm.trans e
    subst e
    cases hj.symm.trans hw
    exact away crew

end

/-- Settles O49, clause by clause: the round's and the save's steps by what they leave of the state (`State.admitTask_eq`,
`State.resume_eq`, `State.evict_saves`), the Tiller's by the fold over the harvest team. -/
theorem scheduling : Obligations.Scheduling := by
  unfold Obligations.Scheduling
  refine ⟨?admission, ?first, ?idle, ?second, ?resume, ?leave, ?unpark, ?park⟩
  case admission =>
    intro s part p x k cores hp _ op due untraced alone own ready owner p' fit idle
    obtain ⟨t, q, step, hq, counts, lines, task, gate, bytes⟩ := execSchedulingRound_admits hp op due untraced alone own ready owner fit idle
    exact ⟨t, q, step, hq, counts, fun j w pl _ => lines j w pl, task, gate, bytes⟩
  case first =>
    intro s n x hx id saving
    subst id
    rw [execEvictionSaveComplete_first hx saving]
    refine ⟨fun free => ?_, fun blocked ready => ?_, fun blocked unready => ?_⟩
    · rw [if_pos free]
      exact ⟨_, rfl, rfl, State.task_setTask_same s { x with phase := .running }, fun j ne => State.task_setTask_ne s (x := { x with phase := .running }) ne⟩
    · rw [if_neg (by rw [blocked]; decide), if_pos ready]
      exact ⟨_, rfl, rfl, State.task_setTask_same s { x with phase := .saving true }, fun j ne => State.task_setTask_ne s (x := { x with phase := .saving true }) ne⟩
    · rw [if_neg (by rw [blocked]; decide), if_neg (by rw [unready]; decide)]
  case idle => exact fun s n none => execEvictionSaveComplete_idle none
  case second =>
    intro s n x p keyed hx id saving hp unlent
    subst id
    obtain ⟨u, m, lines, saved, core⟩ := State.evict_saves keyed unlent
    have before : u.warps = s.warps := by rw [lines.1]
    obtain ⟨t, ht⟩ : ∃ t, t = s.evict x := ⟨_, rfl⟩
    rw [← ht] at saved core
    have warps := congrArg State.warps saved
    have tasks := congrArg State.tasks saved
    have parts := congrArg State.parts saved
    refine ⟨u, t, s.savedTask u x m, lines, ht ▸ execEvictionSaveComplete_second hx saving, by rw [saved], fun j ne => ?_, ?_,
      State.savedTask_rest .., State.savedTask_phase .., State.cells_savedTask_resumable, fun evicted => ?_, ⟨?_, fun kw mem own ended placed => ?_⟩,
      fun k w hw => ?_, core, fun j ne => ?_, ?_⟩
    · exact (congrArg (Tab.find · j) tasks).trans (Tab.find_set_ne _ _ ne)
    · exact (congrArg (Tab.find · x.id) tasks).trans (Tab.find_set_same ..)
    · obtain ⟨seq, cells⟩ := State.savedTask_evicted evicted
      refine ⟨seq, fun name target => ?_⟩
      rw [cells, State.mem_takeCells, State.mem_eventWaits (lines.1 ▸ keyed), before]
    · rw [State.hzn_savedTask]
      exact (le_foldl_maxHzn _ _).1
    · rw [State.hzn_savedTask]
      refine (le_foldl_maxHzn _ _).2 kw.2 (List.mem_filter.mpr ⟨keyed.mem_crew.mpr ⟨kw.1, mem, own⟩, ?_⟩)
      rw [ended, Bool.true_and]
      exact Option.isSome_iff_ne_none.mpr placed
    · refine (congrArg (Tab.find · k) warps).trans ((Tab.find_map s.warps (fun k w => if k.task = x.id then w.stowed else w) k).trans ?_)
      exact congrArg (Option.map _) hw
    · exact (congrArg (Tab.find · j) parts).trans (State.part_onPart_ne u _ ne)
    · exact (congrArg (Tab.find · x.part) parts).trans (State.part_onPart_same u ..)
  case resume =>
    intro s part p x k cores keyed hp _ op due untraced alone own saved owner p' fit idle warps crew
    obtain ⟨t, q, rfl, seated, hq, rest, counts, step⟩ := execSchedulingRound_resumes keyed hp op due untraced alone own saved owner fit idle
      (fun kw h => (warps kw h).1) (fun kw h own => (crew kw h own).2)
    subst own
    have here : (s.returned x.part p t).part x.part = some { p with ctxs := q.ctxs } := by
      unfold State.returned
      rw [hq]
      exact Tab.find_set_same ..
    obtain ⟨r, hr⟩ : ∃ r, r = (s.putPart x.part { p with roundsDue := p.roundsDue - 1 }).resuming x cores := ⟨_, rfl⟩
    have tasks : t.tasks = r.tasks := by rw [seated.rest, hr]
    have cluster : ∀ k, t.cluster k = r.cluster k := fun k => by rw [seated.rest, hr]; rfl
    subst hr
    refine ⟨s.returned x.part p t, _, State.returned_linesBack keyed hp hq counts seated, step, rfl, ?_, fun j ne => ?_, ?_, ?_, fun j ne => ?_, ?_,
      fun j w hw => ?_⟩
    · rw [State.onPart_only, seated.rest]
      rfl
    · exact (State.part_onPart_ne _ _ ne).trans (Tab.find_set_ne _ _ ne).symm
    · rw [here, State.part_onPart_same, hq, rest]
      rfl
    · rw [State.onPart_only]
      exact (congrArg (Tab.find · x.id) tasks).trans (State.task_resuming ..)
    · rw [State.onPart_only]
      exact (cluster j).trans (State.cluster_resuming_ne _ x cores ne)
    · rw [State.onPart_only]
      exact (cluster x.cluster).trans (State.cluster_resuming_same ..)
    · have stands := seated.warp keyed rfl rfl j w hw
      rw [State.onPart_only]
      exact stands
  case leave =>
    intro s k w x pl keyed hw hx id place may unlent another
    refine ⟨_, execWarpLeaveSlot_leaves keyed hw hx id place may unlent another, ?_, ?_, fun j ne => ?_, ?_, fun n ne => ?_, fun c ne => ?_⟩
    · rw [State.forgetOwner_only, State.onTask_only]
      rfl
    · rw [State.warp_forgetOwner, State.warp_putWarp_same]
    · rw [State.warp_forgetOwner, State.warp_putWarp_ne _ _ ne, State.warp_onTask]
    · rw [State.task_forgetOwner, State.task_putWarp, State.task_onTask_same hx]
      rfl
    · rw [State.task_forgetOwner, State.task_putWarp, State.task_onTask_ne _ _ ne]
    · rw [State.core_forgetOwner_ne _ ne, State.core_putWarp, State.core_onTask]
  case unpark =>
    intro s cl co keyed c due
    obtain ⟨t, step, rest, team, others⟩ := execHarvestPlacement_resumes cl co keyed due
    refine ⟨t, step, rest, fun k w hw => ?_⟩
    have key := keyed.key hw
    subst key
    split
    next mem => exact team w mem
    next out =>
      refine (others _ fun z hz e => out ?_).trans hw
      have mem : z ∈ s.warps.vals := (List.mem_filter.mp (List.mem_filter.mp hz).1).1
      have same := keyed.warp_of_mem mem
      rw [e, hw] at same
      cases same
      exact hz
  case park =>
    intro s cl co keyed untraced c due
    have run : exec (.harvestRevocation cl co) s = execHarvestRevocation cl co s := rfl
    obtain ⟨t, step, rest, each⟩ := s.revoke_untraced keyed (fun n p hp => untraced _ (Tab.mem_of_find hp)) c false 0
    refine ⟨t, ?_, rest, each⟩
    rw [run]
    unfold execHarvestRevocation
    simp only
    rw [if_pos due, step]

end Sys2Proof.Machine
end

section
/-! SUPPORT. What a checkpoint gives back (04 R99-R101): front ends that settle, lines that are written again, the crews, registers and
queues restored. -/

namespace Sys2Proof.Machine

/-! ## Front ends -/

theorem State.fe_high (s : State) {n : Nat} (h : 16 ≤ n) : s.fe n = FrontEnd.fresh := by
  rw [State.fe, List.getD_eq_default]
  rw [Vector.length_toList]
  exact h

theorem State.fe_setFe_same (s : State) {n : Nat} (h : n < 16) (f : FrontEnd) : (s.setFe n f).fe n = f := by
  simp [State.fe, State.setFe, h, List.getD]

theorem State.fe_setFe_ne (s : State) {n m : Nat} (h : m ≠ n) (f : FrontEnd) : (s.setFe n f).fe m = s.fe m := by
  by_cases low : m < 16
  · simp [State.fe, State.setFe, low, List.getD, h]
  · rw [State.fe_high _ (Nat.not_lt.mp low), State.fe_high _ (Nat.not_lt.mp low)]

theorem State.mem_fesOf {s : State} {part n : Nat} : n ∈ s.fesOf part ↔ n < 16 ∧ (s.fe n).part = some part := by
  rw [State.fesOf, List.mem_filter, List.mem_range, beq_iff_eq]

/-- Only the front ends are changed, and of these the mark that a write is owed. -/
theorem State.feSettle_eq (s : State) (part : Nat) : s.feSettle part = { s with fes := (s.feSettle part).fes } ∧
    ∀ n, (s.feSettle part).fe n = if (s.fe n).part = some part then { s.fe n with owes := false } else s.fe n := by
  have fold : ∀ (ns : List Nat) (t : State), (∀ n ∈ ns, n < 16) → ∃ u, ns.foldl (fun s n => s.setFe n { s.fe n with owes := false }) t = u ∧
      u = { t with fes := u.fes } ∧ ∀ n, u.fe n = if n ∈ ns then { t.fe n with owes := false } else t.fe n := by
    intro ns
    induction ns with
    | nil => exact fun t _ => ⟨t, rfl, rfl, fun n => by simp⟩
    | cons m ns ih =>
      intro t low
      obtain ⟨u, hu, rest, each⟩ := ih (t.setFe m { t.fe m with owes := false }) fun n hn => low n (.tail _ hn)
      refine ⟨u, hu, by rw [rest, State.setFe], fun n => ?_⟩
      rw [each n]
      by_cases e : n = m
      · subst e
        rw [State.fe_setFe_same _ (low n (.head _)), if_pos (List.mem_cons_self : n ∈ n :: ns)]
        exact ite_self _
      · rw [State.fe_setFe_ne _ e]
        simp only [List.mem_cons, e, false_or]
  obtain ⟨u, hu, rest, each⟩ := fold (s.fesOf part) s fun n hn => (State.mem_fesOf.mp hn).1
  have settled : s.feSettle part = u := hu
  rw [settled]
  refine ⟨rest, fun n => (each n).trans ?_⟩
  by_cases low : n < 16
  · simp only [State.mem_fesOf, low, true_and]
  · rw [State.fe_high _ (Nat.not_lt.mp low), if_neg fun h => low (State.mem_fesOf.mp h).1, if_neg nofun]

/-- Where no interrupt waits for room none is posted. -/
theorem State.postIrqs_idle {s : State} {part : Nat} (h : s.posted part) : s.postIrqs part = s := by
  unfold State.postIrqs
  refine List.foldlRecOn (motive := (· = s)) _ _ rfl fun t e n hn => ?_
  subst e
  have none := h n (State.mem_fesOf.mp hn).2
  simp only [none, Bool.false_eq_true, if_false]

/-- Front ends with the parts and the interrupts of others have none to post either. -/
theorem State.posted.of_fe {s t : State} {part : Nat} (h : s.posted part) (same : ∀ n, (t.fe n).part = (s.fe n).part ∧ (t.fe n).irqDue = (s.fe n).irqDue) :
    t.posted part := fun n own => (same n).2.trans (h n ((same n).1.symm.trans own))

theorem State.fe_feSettle_kept (s : State) (part n : Nat) :
    ((s.feSettle part).fe n).part = (s.fe n).part ∧ ((s.feSettle part).fe n).irqDue = (s.fe n).irqDue := by
  rw [(s.feSettle_eq part).2 n]
  split <;> exact ⟨rfl, rfl⟩

/-! ## Watched words -/

/-- Where no lane watches a word nothing is evaluated. -/
theorem State.watch_idle {s : State} (h : s.unwatched) : s.watch = s := by
  unfold State.watch
  refine List.foldlRecOn (motive := (· = s)) _ _ rfl fun t e x hx => ?_
  refine List.foldlRecOn (motive := (· = s)) _ _ e fun t e y hy => ?_
  rw [h x hx y hy]
  exact e

/-! ## What a restored image leaves -/

/-- A state that has a checkpoint's crews, registers and queues of a partition: `s` before, `t` after. -/
structure Restored (s t : State) (part : Nat) (im : Image) : Prop where
  rest : t = { s with warps := t.warps, tasks := t.tasks, jobs := t.jobs, ops := t.ops, contribs := t.contribs, past := t.past
                      cores := t.cores, clusters := t.clusters, fes := t.fes, parts := t.parts, l2 := t.l2 }
  back : Back s t part im
  parts : t.parts = (s.onPart part (·.back im)).parts
  fes : ∀ n, (t.fe n).part = (s.fe n).part ∧ (t.fe n).irqDue = (s.fe n).irqDue

/-- The pins of lines that are all in an L2 are given back there. -/
theorem State.restorePins_only {s : State} {part : Nat} {pins : List (Nat × BitVec 6)} (held : ∀ x ∈ pins, ∃ l ∈ s.l2, l.line = x.1) :
    s.restorePins part pins = { s with l2 := (s.restorePins part pins).l2 } := by
  unfold State.restorePins
  simp only
  obtain ⟨u, hu⟩ : ∃ u : State, u = { s with l2 := s.l2.map (fun (l : L2Line) => if l.part == part then
    { l with pins := (pins.filter (fun x => x.1 == l.line)).map (·.2) } else l) } := ⟨_, rfl⟩
  have there : ∀ x ∈ pins, u.l2.any (fun l => l.line == x.1) = true := by
    intro x hx
    obtain ⟨l, hl, e⟩ := held x hx
    rw [hu, List.any_eq_true]
    refine ⟨_, List.mem_map_of_mem hl, ?_⟩
    split <;> exact beq_iff_eq.mpr e
  have fetched : pins.foldl (fun s x => s.fetchPinned part x) u = u := by
    refine List.foldlRecOn (motive := (· = u)) _ _ rfl fun t e x hx => ?_
    subst e
    unfold State.fetchPinned
    rw [if_pos (there x hx)]
  rw [← hu, fetched, hu]

/-- Where every crew's cluster is present none ends. -/
theorem State.endAbsent_idle {s : State} {part : Nat} (h : ∀ x ∈ s.tasks.vals, x.part = part →
    s.clPres.getLsbD x.cluster = true ∨ x.phase = .waiting ∨ x.phase = .ready ∨ x.phase = .queued) : s.endAbsent part = s := by
  unfold State.endAbsent
  rw [List.filter_eq_nil_iff.mpr]
  · rfl
  · intro x hx
    by_cases own : x.part = part
    · obtain e | e | e | e := h x hx own <;> simp [e]
    · simp [own]

theorem Warp.restored_eq (w : Warp) (now : DWord) : w.restored now = w.again now := (w.again_eq now).symm

/-- The tables of a partition as they are reloaded from its checkpoint. -/
def State.reloaded (s : State) (p : Part) (im : Image) : State :=
  let s := s.unload p
  { s with
    warps := s.warps ++ im.warps.map (fun w => (w.key, w.restored s.gtime)), tasks := s.tasks ++ im.tasks.map (fun t => (t.id, t))
    jobs := s.jobs ++ im.jobs.map (fun j => (j.id, j)), ops := s.ops ++ im.ops, contribs := s.contribs ++ im.contribs, past := s.past ++ im.past }

/-- The ranges lent, the event queues and the front ends' heads of a checkpoint. -/
def State.relented (s : State) (im : Image) : State := im.lents.foldl (fun s x => s.setLent x.1 (some x.2)) s
def State.requeued (s : State) (p : Part) (im : Image) : State :=
  p.owns.foldl (fun s k =>
    let x := s.cluster k
    let saved := match im.clusterEvents.find? (fun e => e.1 == k) with | some (_, l) => l | none => []
    s.setCluster k { x with events := x.events.filter (fun r => r.part != p.id) ++ saved }) s
def State.reheaded (s : State) (p : Part) (im : Image) : State :=
  im.heads.foldl (fun s x => if (s.fe x.1).part == some p.id then s.setFe x.1 { s.fe x.1 with head := x.2.1, cidx := x.2.2 } else s) s

def State.regained (s : State) (p : Part) (im : Image) : State := ((s.relented im).requeued p im).reheaded p im

theorem State.restoreImage_steps (s : State) (p : Part) (im : Image) : s.restoreImage p im =
    ((((s.reloaded p im).regained p im).onPart p.id (·.back im)).restorePins p.id im.pins).endAbsent p.id := rfl

theorem State.relented_only (s : State) (im : Image) : s.relented im = { s with cores := (s.relented im).cores } := by
  unfold State.relented
  refine List.foldlRecOn (motive := fun t : State => t = { s with cores := t.cores }) _ _ rfl fun t e x _ => ?_
  rw [State.setLent, State.setCore, e]
theorem State.requeued_only (s : State) (p : Part) (im : Image) : s.requeued p im = { s with clusters := (s.requeued p im).clusters } := by
  unfold State.requeued
  refine List.foldlRecOn (motive := fun t : State => t = { s with clusters := t.clusters }) _ _ rfl fun t e x _ => ?_
  simp only [State.setCluster]
  rw [e]
theorem State.reheaded_only (s : State) (p : Part) (im : Image) : s.reheaded p im = { s with fes := (s.reheaded p im).fes } ∧
    ∀ n, ((s.reheaded p im).fe n).part = (s.fe n).part ∧ ((s.reheaded p im).fe n).irqDue = (s.fe n).irqDue := by
  unfold State.reheaded
  refine List.foldlRecOn (motive := fun t : State => t = { s with fes := t.fes } ∧ ∀ n, (t.fe n).part = (s.fe n).part ∧ (t.fe n).irqDue = (s.fe n).irqDue)
    _ _ ⟨rfl, fun _ => ⟨rfl, rfl⟩⟩ fun t h x _ => ?_
  obtain ⟨rest, kept⟩ := h
  split
  · refine ⟨by rw [State.setFe, rest], fun n => ?_⟩
    by_cases low : x.1 < 16
    · by_cases e : n = x.1
      · subst e
        rw [State.fe_setFe_same _ low]
        exact kept _
      · rw [State.fe_setFe_ne _ e]
        exact kept n
    · have e : (t.setFe x.1 { t.fe x.1 with head := x.2.1, cidx := x.2.2 }).fe n = t.fe n := by
        by_cases e : n = x.1
        · rw [e, State.fe_high _ (Nat.not_lt.mp low), State.fe_high _ (Nat.not_lt.mp low)]
        · exact State.fe_setFe_ne _ e _
      rw [e]
      exact kept n
  · exact ⟨rest, kept⟩

theorem State.regained_only (s : State) (p : Part) (im : Image) :
    s.regained p im = { s with cores := (s.regained p im).cores, clusters := (s.regained p im).clusters, fes := (s.regained p im).fes } ∧
    ∀ n, ((s.regained p im).fe n).part = (s.fe n).part ∧ ((s.regained p im).fe n).irqDue = (s.fe n).irqDue := by
  unfold State.regained
  obtain ⟨heads, kept⟩ := ((s.relented im).requeued p im).reheaded_only p im
  have fes : ((s.relented im).requeued p im).fes = s.fes := by rw [State.requeued_only, State.relented_only]
  have fe : ∀ n, ((s.relented im).requeued p im).fe n = s.fe n := fun n => by rw [State.fe, fes]; rfl
  refine ⟨?_, fun n => fe n ▸ kept n⟩
  rw [heads, State.requeued_only, State.relented_only]

theorem State.reloaded_only (s : State) (p : Part) (im : Image) : s.reloaded p im = { s with
    warps := (s.reloaded p im).warps, tasks := (s.reloaded p im).tasks, jobs := (s.reloaded p im).jobs, ops := (s.reloaded p im).ops
    contribs := (s.reloaded p im).contribs, past := (s.reloaded p im).past, cores := (s.reloaded p im).cores } := rfl

theorem State.reloaded_back (s : State) (p : Part) (im : Image) : Back s (s.reloaded p im) p.id im := by
  refine ⟨congrArg _ (List.map_congr_left fun w _ => ?_), rfl, rfl, rfl⟩
  exact congrArg (Prod.mk w.key) (w.restored_eq s.gtime)

/-- THE IMAGE IS RESTORED (04 R101 steps 2 to 4), each line that it pins in an L2 and each cluster of a crew present. -/
theorem State.restoreImage_restored {s : State} {p : Part} {im : Image} (whole : s.whole p.id im) : Restored s (s.restoreImage p im) p.id im := by
  obtain ⟨a, ha⟩ : ∃ a, a = s.reloaded p im := ⟨_, rfl⟩
  have only := s.reloaded_only p im
  have back := s.reloaded_back p im
  rw [← ha] at only back
  obtain ⟨regained, kept⟩ := a.regained_only p im
  obtain ⟨d, hd⟩ : ∃ d, d = a.regained p im := ⟨_, rfl⟩
  rw [← hd] at regained kept
  obtain ⟨e, he⟩ : ∃ e, e = d.onPart p.id (·.back im) := ⟨_, rfl⟩
  have held : ∀ x ∈ im.pins, ∃ l ∈ e.l2, l.line = x.1 := by
    have l2 : e.l2 = s.l2 := by rw [he, State.onPart_only, regained, only]
    exact l2 ▸ whole.pins
  obtain ⟨t, ht⟩ : ∃ t, t = e.restorePins p.id im.pins := ⟨_, rfl⟩
  have rest : t = { e with l2 := t.l2 } := ht ▸ State.restorePins_only held
  have parts : e.parts = (s.onPart p.id (·.back im)).parts := he ▸ State.onPart_parts (by rw [regained, only])
  have given : Back s t p.id im := by rw [rest, he, State.onPart_only, regained]; exact back
  have absent : t.endAbsent p.id = t := State.endAbsent_idle fun x hx own => by
    have pres : t.clPres = s.clPres := by rw [rest, he, State.onPart_only, regained, only]
    obtain ⟨k, hk⟩ := Tab.mem_vals.mp hx
    rw [given.2.1, List.mem_append] at hk
    rw [pres]
    obtain hk | hk := hk
    · exact absurd own (by simpa using (List.mem_filter.mp hk).2)
    · obtain ⟨y, hy, e⟩ := List.mem_map.mp hk
      cases e
      exact whole.clusters _ hy
  have same : s.restoreImage p im = t := by rw [State.restoreImage_steps, ← ha, ← hd, ← he, ← ht, absent]
  rw [same]
  refine ⟨?_, given, by rw [rest]; exact parts, fun n => ?_⟩
  · rw [rest, he, State.onPart_only, regained, only]
  · have fe : t.fe n = d.fe n := by rw [rest, he, State.onPart_only]; rfl
    have before : a.fe n = s.fe n := by rw [only]; rfl
    rw [fe, ← before]
    exact kept n

end Sys2Proof.Machine
end

section
/-! SUPPORT. The rollback of a partition (04 R101): the lines of its log take their old contents, the rest comes from its checkpoint. -/

namespace Sys2Proof.Machine

/-! ## Bytes written again -/

/-- Bytes written from an address are those read, and every other byte reads as before. -/
theorem Memory.byte_putAll {bs : List Byte} : ∀ {m : Memory} {a b : Nat}, m.wf = true →
    (m.putAll a bs).byte b = if a ≤ b ∧ b < a + bs.length then bs.getD (b - a) 0 else m.byte b := by
  induction bs with
  | nil => intro m a b _; rw [if_neg (by simp)]; rfl
  | cons v bs ih =>
    intro m a b wf
    rw [Memory.putAll, ih (Memory.put_wf wf), Memory.byte_put wf, List.length_cons]
    obtain lt | rfl | gt := Nat.lt_trichotomy b a
    · rw [if_neg (by omega), if_neg (by omega), if_neg (by omega)]
    · rw [if_neg (by omega), if_pos rfl, if_pos (by omega), Nat.sub_self]
      rfl
    · obtain ⟨n, rfl⟩ : ∃ n, b = a + 1 + n := ⟨b - (a + 1), by omega⟩
      have n1 : a + 1 + n - (a + 1) = n := by omega
      have n2 : a + 1 + n - a = n + 1 := by omega
      rw [if_neg (by omega : a + 1 + n ≠ a), n1, n2, List.getD_cons_succ]
      exact if_congr (by omega) rfl rfl

/-- The memory as the lines of a log have taken their old contents. -/
def Memory.undo (m : Memory) (us : List Undo) : Memory := us.foldl (fun m u => m.putAll (128 * u.line) u.bytes) m

/-- Of a log of distinct lines each gives its own bytes back. -/
theorem Memory.byte_undo {us : List Undo} : ∀ {m : Memory}, m.wf = true → (∀ u ∈ us, u.bytes.length = 128) → (us.map (·.line)).Nodup →
    ∀ a, (m.undo us).byte a = ((us.find? (fun u => u.line == a / 128)).map (fun u => u.bytes.getD (a % 128) 0)).getD (m.byte a) := by
  induction us with
  | nil => exact fun _ _ _ _ => rfl
  | cons u us ih =>
    intro m wf length apart a
    rw [List.map_cons, List.nodup_cons] at apart
    have step := ih (Memory.putAll_wf (bs := u.bytes) (a := 128 * u.line) wf) (fun v hv => length v (.tail _ hv)) apart.2 a
    rw [Memory.byte_putAll wf, length u (.head _)] at step
    refine step.trans ?_
    rw [List.find?_cons]
    by_cases e : u.line = a / 128
    · have none : us.find? (fun v => v.line == a / 128) = none := by
        refine List.find?_eq_none.mpr fun v hv same => apart.1 ?_
        rw [e, ← beq_iff_eq.mp same]
        exact List.mem_map_of_mem hv
      have off : a - 128 * u.line = a % 128 := by omega
      rw [none, if_pos (by omega), off]
      simp [e]
    · have other : (u.line == a / 128) = false := beq_eq_false_iff_ne.mpr e
      rw [other, if_neg (by omega)]

/-! ## The log is applied -/

/-- A line of global memory takes its old contents. -/
theorem State.undoLine_hbm (s : State) (lost : List Nat) {u : Undo} (h : u.area = .hbm) :
    s.undoLine lost u = { s with hbm := (s.undoLine lost u).hbm, lines := (s.undoLine lost u).lines, copies := (s.undoLine lost u).copies
                                 upsets := (s.undoLine lost u).upsets } ∧
    (s.undoLine lost u).hbm.mem = s.hbm.mem.putAll (128 * u.line) u.bytes := by
  have same : s.undoLine lost u = s.undoBytes lost u := by unfold State.undoLine; rw [h]
  rw [same]
  unfold State.undoBytes
  simp only [h, beq_self_eq_true, if_true, State.setArea, State.area, State.renew]
  exact ⟨trivial, by split <;> rfl⟩

/-- The state as a log has been applied. -/
def State.undone (s : State) (lost : List Nat) (us : List Undo) : State := us.foldl (fun s u => s.undoLine lost u) s

/-- A log of lines of global memory changes nothing else. -/
theorem State.undone_hbm {us : List Undo} (lost : List Nat) : ∀ s : State, (∀ u ∈ us, u.area = .hbm) →
    s.undone lost us = { s with hbm := (s.undone lost us).hbm, lines := (s.undone lost us).lines, copies := (s.undone lost us).copies
                                upsets := (s.undone lost us).upsets } ∧
    (s.undone lost us).hbm.mem = s.hbm.mem.undo us := by
  induction us with
  | nil => exact fun s _ => ⟨rfl, rfl⟩
  | cons u us ih =>
    intro s area
    obtain ⟨first, mem⟩ := s.undoLine_hbm lost (area u (.head _))
    obtain ⟨rest, mems⟩ := ih (s.undoLine lost u) fun v hv => area v (.tail _ hv)
    have step : s.undone lost (u :: us) = (s.undoLine lost u).undone lost us := rfl
    rw [step]
    refine ⟨?_, mems.trans (congrArg (Memory.undo · us) mem)⟩
    obtain ⟨t, ht⟩ : ∃ t, t = (s.undoLine lost u).undone lost us := ⟨_, rfl⟩
    rw [← ht] at rest ⊢
    rw [rest, first]

/-- Of a line of global memory no time is stamped. -/
theorem State.stampUndone_hbm {s : State} {us : List Undo} (h : ∀ u ∈ us, u.area = .hbm) : us.foldl (fun s u => s.stampUndone u) s = s := by
  refine List.foldlRecOn (motive := (· = s)) _ _ rfl fun t e u hu => ?_
  subst e
  unfold State.stampUndone
  simp only [h u hu]

/-! ## The rollback -/

/-- The tasks that a checkpoint has given back are those it keeps. -/
theorem State.imageTasks_self {s : State} {im : Image} (h : ∀ x ∈ im.tasks, s.task x.id = some x) : s.imageTasks im = im := by
  unfold State.imageTasks
  have same : im.tasks.map (fun t => match s.task t.id with | some x => { t with shr := x.shr, scr := x.scr, tile := x.tile } | none => t) = im.tasks := by
    refine (List.map_congr_left fun x hx => ?_).trans (List.map_id _)
    rw [h x hx]
    rfl
  exact congrArg (fun ts => { im with tasks := ts }) same

/-- A task given back stands under its name. -/
theorem Back.task {s t : State} {part : Nat} {im : Image} (back : Back s t part im) (apart : (im.tasks.map (·.id)).Nodup)
    (free : ∀ x ∈ im.tasks, ∀ nt ∈ s.tasks, nt.1 = x.id → nt.2.part = part) : ∀ x ∈ im.tasks, t.task x.id = some x := by
  intro x hx
  have none : Tab.find (s.tasks.filter (fun x => x.2.part != part)) x.id = none := by
    refine Tab.find_eq_none.mpr fun nt hnt e => ?_
    obtain ⟨mem, other⟩ := List.mem_filter.mp hnt
    exact absurd (free x hx nt mem e) (by simpa using other)
  rw [State.task, back.2.1, Tab.find_append, none, Option.none_or]
  refine Tab.find_of_mem ?_ (List.mem_map.mpr ⟨x, hx, rfl⟩)
  rw [List.map_map]
  exact apart

/-- A PARTITION HAS GONE BACK to its checkpoint, the log of lines of global memory applied: `s` before, `t` after. -/
structure RolledBack (s t : State) (part : Nat) (p : Part) (im : Image) (lost : List Nat) : Prop where
  rest : t = { s with warps := t.warps, tasks := t.tasks, jobs := t.jobs, ops := t.ops, contribs := t.contribs, past := t.past
                      cores := t.cores, clusters := t.clusters, fes := t.fes, parts := t.parts, l2 := t.l2, l1 := t.l1, hbm := t.hbm
                      lines := t.lines, copies := t.copies, upsets := t.upsets }
  back : Back s t part im
  l1 : t.l1 = s.l1.filter (fun x => x.part != part)
  record : t.part part = some { p.back im with undo := [], heldFx := [], ckBegan := none, epoch := p.epoch + 1 }
  others : ∀ j, j ≠ part → t.part j = s.part j
  hbm : t.hbm = (State.undone { s with l1 := s.l1.filter (fun x => x.part != part) } lost p.undo).hbm

/-- What a rollback does to a partition's record once its image is restored. -/
def Part.settled (p : Part) : Part := { p with undo := [], heldFx := [], ckBegan := none, epoch := p.epoch + 1 }

/-- The steps of a rollback, by their names. -/
theorem State.rollback_steps {s : State} {part : Nat} {p : Part} {im : Image} (hp : s.part part = some p) (him : p.image = some im) (lost : List Nat) :
    s.rollback part lost =
      (let t := p.undo.foldl (fun s u => s.stampUndone u)
        ((State.undone { s with l1 := s.l1.filter (fun x => x.part != part) } lost p.undo).restoreImage p im)
       let t := t.onPart part (fun q => { q with image := q.image.map t.imageTasks })
       ((((t.trace part 9 0xFF 0 0 (p.epoch.toNat + im.epoch.toNat * 2 ^ 32)).onPart part Part.settled).feSettle part).postIrqs part)) := by
  unfold State.rollback
  simp only [hp, him]
  rfl

/-- A partition that a function leaves as it is. -/
theorem State.onPart_self {s : State} {n : Nat} {p : Part} {f : Part → Part} (hp : s.part n = some p) (same : f p = p) : s.onPart n f = s := by
  unfold State.onPart
  rw [hp]
  show s.putPart n (f p) = s
  rw [same, State.putPart, Tab.set_self hp]

/-- THE ROLLBACK (04 R101 steps 1 to 5) of a partition whose log holds only lines of global memory. -/
theorem State.rollback_rolledBack {s : State} {part : Nat} {p : Part} {im : Image} (hp : s.part part = some p) (id : p.id = part)
    (untraced : p.trace = none) (him : p.image = some im) (tidy : s.tidy) (whole : s.whole part im) (posted : s.posted part)
    (area : ∀ u ∈ p.undo, u.area = .hbm) (lost : List Nat) : RolledBack s (s.rollback part lost) part p im lost := by
  subst id
  let s0 : State := { s with l1 := s.l1.filter (fun x => x.part != p.id) }
  obtain ⟨u, hu⟩ : ∃ u, u = s0.undone lost p.undo := ⟨_, rfl⟩
  have undone : u = { s0 with hbm := u.hbm, lines := u.lines, copies := u.copies, upsets := u.upsets } := hu ▸ (State.undone_hbm lost s0 area).1
  have whole' : u.whole p.id im := by rw [undone]; exact ⟨whole.pins, whole.clusters⟩
  obtain ⟨t, ht⟩ : ∃ t, t = u.restoreImage p im := ⟨_, rfl⟩
  have restored : Restored u t p.id im := ht ▸ State.restoreImage_restored whole'
  have back : Back s t p.id im := by
    have := restored.back
    rw [undone] at this
    exact this
  have part : ∀ n, t.part n = (s.onPart p.id (·.back im)).part n := fun n =>
    congrArg (Tab.find · n) (restored.parts.trans (State.onPart_parts (by rw [undone])))
  have here : t.part p.id = some (p.back im) := by rw [part, State.part_onPart_same, hp]; rfl
  have listed := Tab.mem_of_find hp
  have kept : t.imageTasks im = im := by
    obtain ⟨-, ids, -, own⟩ := tidy.images _ listed im him
    exact State.imageTasks_self (back.task ids fun x hx nt hnt e => ((tidy.apart _ listed im him).2.1 x hx nt hnt e).trans (own x hx).1)
  have imaged : t.onPart p.id (fun q => { q with image := q.image.map t.imageTasks }) = t :=
    State.onPart_self here (by
      show { p.back im with image := p.image.map t.imageTasks } = p.back im
      rw [him, Option.map_some, kept, ← him]
      rfl)
  have steps := State.rollback_steps hp him lost
  rw [← hu, ← ht, State.stampUndone_hbm area] at steps
  simp only at steps
  rw [imaged, State.trace_off (fun q hq => by cases here.symm.trans hq; exact untraced)] at steps
  obtain ⟨v, hv⟩ : ∃ v, v = t.onPart p.id Part.settled := ⟨_, rfl⟩
  have only : v = { t with parts := v.parts } := hv ▸ State.onPart_only ..
  obtain ⟨settled, -⟩ := v.feSettle_eq p.id
  have fe : ∀ n, ((v.feSettle p.id).fe n).part = (s.fe n).part ∧ ((v.feSettle p.id).fe n).irqDue = (s.fe n).irqDue := by
    intro n
    have vt : v.fe n = t.fe n := hv ▸ State.fe_onPart ..
    have us : u.fe n = s.fe n := by rw [undone]; rfl
    obtain ⟨part, irq⟩ := v.fe_feSettle_kept p.id n
    obtain ⟨part', irq'⟩ := restored.fes n
    exact ⟨by rw [part, vt, part', us], by rw [irq, vt, irq', us]⟩
  rw [← hv, State.postIrqs_idle (posted.of_fe fe)] at steps
  rw [steps]
  obtain ⟨w, hw⟩ : ∃ w, w = v.feSettle p.id := ⟨_, rfl⟩
  rw [← hw] at settled ⊢
  have records : ∀ n, w.part n = v.part n := fun n => by rw [settled]; rfl
  exact {
    rest := by rw [settled, only, restored.rest, undone]
    back := by rw [settled, only]; exact back
    l1 := by rw [settled, only, restored.rest, undone]
    record := by rw [records, hv, State.part_onPart_same, here]; rfl
    others := fun j ne => by rw [records, hv, State.part_onPart_ne _ _ ne, part, State.part_onPart_ne _ _ ne]
    hbm := by rw [settled, only, restored.rest, hu] }

end Sys2Proof.Machine
end

section
/-! SUPPORT. The commit of a checkpoint (04 R98, R100): the held host writes reach host memory, the partition keeps an image. -/

namespace Sys2Proof.Machine

/-- Host memory as a held effect is released to it. -/
def Held.onto (m : Memory) : Held → Memory
  | .hostWrite a bs => m.putAll a bs
  | _ => m

theorem State.foldl_hostWrites {f : State → Held → State} (step : ∀ t a bs, f t (.hostWrite a bs) = { t with hostMem := t.hostMem.putAll a bs })
    (hs : List Held) : ∀ t : State, (∀ h ∈ hs, ∃ a bs, h = .hostWrite a bs) → hs.foldl f t = { t with hostMem := hs.foldl Held.onto t.hostMem } := by
  induction hs with
  | nil => exact fun _ _ => rfl
  | cons h hs ih =>
    intro t all
    obtain ⟨a, bs, rfl⟩ := all h (.head _)
    rw [List.foldl_cons, List.foldl_cons, step]
    exact ih _ fun h hh => all h (.tail _ hh)

/-- Held host writes are released in their order, and the front ends owe none. -/
theorem State.releaseHeld_writes {s : State} {p : Part} (writes : ∀ h ∈ p.heldFx, ∃ a bs, h = .hostWrite a bs) :
    s.releaseHeld p = State.feSettle { s.putPart p.id { p with heldFx := [] } with hostMem := p.heldFx.foldl Held.onto s.hostMem } p.id := by
  unfold State.releaseHeld
  exact congrArg (State.feSettle · p.id) (State.foldl_hostWrites (fun _ _ _ => rfl) p.heldFx _ writes)

/-- Where every job has a task none ends. -/
theorem State.endJobs_idle {s : State} (h : ∀ j ∈ s.jobs, ∃ x ∈ s.tasks, x.2.job = j.2.id) : s.endJobs = s := by
  unfold State.endJobs
  rw [List.filter_eq_nil_iff.mpr]
  · rfl
  · intro j hj
    obtain ⟨k, hk⟩ := Tab.mem_vals.mp hj
    obtain ⟨x, hx, own⟩ := h _ hk
    have going : s.jobOver j = false := by
      rw [State.jobOver, List.all_eq_false]
      exact ⟨x.2, Tab.mem_vals.mpr ⟨x.1, hx⟩, by simpa using own⟩
    rw [State.jobDue, going]
    simp

/-- A warp with the dirty bit of each register clear. -/
def Warp.cleaned (w : Warp) : Warp := { w with regs := w.regs.map (fun r => { r with dirty := false }) }

theorem State.cleanRegs_eq (s : State) (part : Nat) : s.cleanRegs part =
    { s with warps := s.warps.map (fun x => (x.1, if x.2.part = part then x.2.cleaned else x.2)) } := by
  refine congrArg (fun ws => { s with warps := ws }) (List.map_congr_left fun x _ => ?_)
  by_cases e : x.2.part = part <;> simp [e, Warp.cleaned]

/-- What the release of held host writes and the clearing of the dirty bits leave. -/
theorem State.released_cleaned {s : State} {p : Part} (writes : ∀ h ∈ p.heldFx, ∃ a bs, h = .hostWrite a bs) {t : State}
    (ht : t = (s.releaseHeld p).cleanRegs p.id) : t = { s with
      parts := s.parts.set p.id { p with heldFx := [] }, warps := s.warps.map (fun x => (x.1, if x.2.part = p.id then x.2.cleaned else x.2))
      hostMem := p.heldFx.foldl Held.onto s.hostMem, fes := t.fes } ∧
    ∀ n, t.fe n = if (s.fe n).part = some p.id then { s.fe n with owes := false } else s.fe n := by
  rw [State.cleanRegs_eq, State.releaseHeld_writes writes] at ht
  obtain ⟨rest, fe⟩ := State.feSettle_eq { s.putPart p.id { p with heldFx := [] } with hostMem := p.heldFx.foldl Held.onto s.hostMem } p.id
  subst ht
  refine ⟨?_, fe⟩
  rw [rest]
  rfl

/-! ## The commit -/

/-- The record of a partition whose checkpoint commits, and the image that it keeps. -/
def State.recordCommit (s : State) (part : Nat) (p : Part) : State :=
  s.onPart part (fun q => { s.extendSlice q with undo := [], ckBegan := none, ckFails := 0, ckNext := s.nextInterval p })
def State.keepImage (s : State) (part : Nat) : State := s.onPart part (fun q => { q with image := some (s.snapshot q), epoch := q.epoch + 1 })

theorem execCheckpointCommit_due {s : State} {part : Nat} {p : Part} (hp : s.part part = some p) (due : s.commitDue p = true) :
    ∃ began, p.ckBegan = some began ∧ ∀ u p', u = s.writeBack (fun x => x.part == part) → u.part part = some p' →
      exec (.checkpointCommit part) s = .next
        (((((((u.trace part 8 0xFF 0 0 began.toNat).releaseHeld p').cleanRegs part).recordCommit part p').keepImage part).postIrqs part).endJobs.watch) := by
  have run : exec (.checkpointCommit part) s = execCheckpointCommit part s := rfl
  obtain ⟨began, e⟩ : ∃ b, p.ckBegan = some b := by
    simp only [State.commitDue, Bool.and_eq_true] at due
    exact Option.isSome_iff_exists.mp due.1.1.1.1
  refine ⟨began, e, fun u p' hu hp' => ?_⟩
  rw [run]
  unfold execCheckpointCommit
  simp only [hp, e, due, Bool.not_true, Bool.false_eq_true, if_false]
  rw [← hu, hp']
  rfl

/-- A CHECKPOINT COMMITS: `s` before, `u` as the private lines have been written back, `t` after. -/
theorem execCheckpointCommit_commits {s : State} {part : Nat} {p : Part} (hp : s.part part = some p) (id : p.id = part) (untraced : p.trace = none)
    (due : s.commitDue p = true) (quiet : s.unwatched) (posted : s.posted part) (writes : ∀ h ∈ p.heldFx, ∃ a bs, h = .hostWrite a bs)
    (going : ∀ j ∈ s.jobs, ∃ x ∈ s.tasks, x.2.job = j.2.id) :
    ∃ u t p' im, LinesBack s u (fun l => l.part = part) ∧ u.part part = some p' ∧
      exec (.checkpointCommit part) s = .next t ∧ t = { u with parts := t.parts, warps := t.warps, hostMem := t.hostMem, fes := t.fes } ∧
      (∀ n, t.fe n = if (s.fe n).part = some part then { s.fe n with owes := false } else s.fe n) ∧
      (∀ j, j ≠ part → t.part j = s.part j) ∧
      t.part part = some { p' with heldFx := [], undo := [], ckBegan := none, ckFails := 0, ckNext := s.intervalEnd p, image := some im
                                   epoch := p.epoch + 1, sliceEnd := p.sliceEnd + (s.gtime - p.ckBegan.getD s.gtime) } ∧
      (im.epoch = p.epoch ∧ im.events = p.events ∧ im.past = s.past.filter (fun x => x.task.part == part) ∧
        im.tasks = s.tasks.vals.filter (fun x => x.part == part) ∧ im.warps = t.warps.vals.filter (fun w => w.part == part)) ∧
      t.warps = s.warps.map (fun x => (x.1, if x.2.part = part then x.2.cleaned else x.2)) ∧
      t.hostMem = p.heldFx.foldl Held.onto s.hostMem := by
  subst id
  obtain ⟨began, hb, step⟩ := execCheckpointCommit_due hp due
  obtain ⟨u, hu⟩ : ∃ u, u = s.writeBack (fun x => x.part == p.id) := ⟨_, rfl⟩
  have lines : LinesBack s u (fun l => l.part = p.id) := hu ▸ (s.writeBack_linesBack _).congr fun l => beq_iff_eq
  have others : ∀ j, j ≠ p.id → u.part j = s.part j := fun j ne => hu ▸ s.writeBack_part_ne p.id ne
  obtain ⟨p', hp', same, -⟩ := Part.part_of_uncounted (lines.2.1 p.id) hp
  have id : p'.id = p.id := by rw [same]
  have held : p'.heldFx = p.heldFx := by rw [same]
  have start : u.trace p.id 8 0xFF 0 0 began.toNat = u := State.trace_off (fun q hq => by
    cases hp'.symm.trans hq
    exact (congrArg Part.trace same).trans untraced) ..
  have step := step u p' hu hp'
  obtain ⟨b, hb'⟩ : ∃ b, b = (u.releaseHeld p').cleanRegs p'.id := ⟨_, rfl⟩
  obtain ⟨only, fe⟩ := State.released_cleaned (held ▸ writes) hb'
  rw [id] at hb' only fe
  rw [start, ← hb'] at step
  have before : u.fes = s.fes ∧ u.warps = s.warps ∧ u.hostMem = s.hostMem ∧ u.gtime = s.gtime ∧ u.jobs = s.jobs ∧ u.tasks = s.tasks ∧ u.past = s.past := by
    rw [lines.1]; exact ⟨rfl, rfl, rfl, rfl, rfl, rfl, rfl⟩
  obtain ⟨fes, warps, bytes, time, jobs, tasks, past⟩ := before
  have now : b.gtime = s.gtime := by rw [only]; exact time
  obtain ⟨ctxs, rfl⟩ : ∃ ctxs, p' = { p with ctxs := ctxs } := ⟨_, same⟩
  have here : b.part p.id = some { p with ctxs := ctxs, heldFx := [] } := by rw [only]; exact Tab.find_set_same u.parts p.id _
  obtain ⟨c, hc⟩ : ∃ c, c = b.recordCommit p.id { p with ctxs := ctxs } := ⟨_, rfl⟩
  have recorded : c = { b with parts := c.parts } := hc ▸ State.onPart_only ..
  have record : c.part p.id = some { p with
      ctxs := ctxs, heldFx := [], undo := [], ckBegan := none, ckFails := 0, ckNext := s.intervalEnd p
      sliceEnd := p.sliceEnd + (s.gtime - p.ckBegan.getD s.gtime) } := by
    rw [hc, State.recordCommit, State.part_onPart_same, here, Option.map_some, State.extendSlice, State.nextInterval, now, hb]
    rfl
  obtain ⟨d, hd⟩ : ∃ d, d = c.keepImage p.id := ⟨_, rfl⟩
  have kept : d = { c with parts := d.parts } := hd ▸ State.onPart_only ..
  have fe' : ∀ n, d.fe n = if (s.fe n).part = some p.id then { s.fe n with owes := false } else s.fe n := by
    intro n
    have first : d.fe n = b.fe n := by rw [kept, recorded]; rfl
    have last : u.fe n = s.fe n := congrArg (fun v => v.toList.getD n FrontEnd.fresh) fes
    rw [first, fe n, last]
  have warps' : d.warps = s.warps.map (fun x => (x.1, if x.2.part = p.id then x.2.cleaned else x.2)) := by rw [kept, recorded, only, ← warps]
  have irqs : d.posted p.id := posted.of_fe fun n => by rw [fe']; split <;> exact ⟨rfl, rfl⟩
  have ending : d.endJobs = d := State.endJobs_idle (by
    have jobs' : d.jobs = s.jobs := by rw [kept, recorded, only]; exact jobs
    have tasks' : d.tasks = s.tasks := by rw [kept, recorded, only]; exact tasks
    rw [jobs', tasks']
    exact going)
  have idle : d.watch = d := State.watch_idle fun x hx e he => by
    rw [warps'] at hx
    obtain ⟨y, hy, rfl⟩ := List.mem_map.mp hx
    have queue : (if y.2.part = p.id then y.2.cleaned else y.2).queue = y.2.queue := by split <;> rfl
    exact quiet y hy e (queue ▸ he)
  rw [← hc, ← hd, State.postIrqs_idle irqs, ending, idle] at step
  obtain ⟨im, him⟩ : ∃ im, im = c.snapshot { p with
      ctxs := ctxs, heldFx := [], undo := [], ckBegan := none, ckFails := 0, ckNext := s.intervalEnd p
      sliceEnd := p.sliceEnd + (s.gtime - p.ckBegan.getD s.gtime) } := ⟨_, rfl⟩
  have gathered : im.past = c.past.filter (fun x => x.task.part == p.id) ∧ im.tasks = c.tasks.vals.filter (fun x => x.part == p.id) ∧
      im.warps = c.warps.vals.filter (fun w => w.part == p.id) := by rw [him]; exact ⟨rfl, rfl, rfl⟩
  obtain ⟨gone, crews, standing⟩ := gathered
  refine ⟨u, d, _, im, lines, hp', step, ?_, fe', fun j ne => ?_, ?_, ⟨by rw [him]; rfl, by rw [him]; rfl, ?_, ?_, ?_⟩, warps', ?_⟩
  · rw [kept, recorded, only]
  · have after : c.part j = b.part j := by rw [hc]; exact State.part_onPart_ne b _ ne
    have first : b.part j = u.part j := by rw [only]; exact Tab.find_set_ne _ _ ne
    rw [hd, State.keepImage, State.part_onPart_ne c _ ne, after, first, others j ne]
  · rw [hd, State.keepImage, State.part_onPart_same, record, Option.map_some, ← him]
  · rw [gone, recorded, only, ← past]
  · rw [crews, recorded, only, ← tasks]
  · rw [standing, kept]
  · rw [kept, recorded, only, ← bytes]

end Sys2Proof.Machine
end

section
/-! O50: checkpoints begin, commit and fail, slices end and begin (04 R97-R101, 26 R453, R454). -/

namespace Sys2Proof.Machine

/-! ## The failure of a checkpoint -/

theorem State.memOk_hbm {s : State} (h : s.memOk = true) : s.hbm.mem.wf = true := by
  simp only [State.memOk, Bool.and_eq_true] at h
  exact h.1.1.1.1.1.1

/-- A checkpoint's failure in the record of its partition. -/
def State.countFailure (s : State) (p q : Part) : Part :=
  { q with ckFails := p.ckFails + 1, ckNext := s.nextInterval p, sliceEnd := (s.extendSlice p).sliceEnd }

/-- What a checkpoint reads of a partition beside its stores is whole again. -/
def State.mended (s : State) (part : Nat) : State := { s with upsets := s.upsets.filter (fun u => u.area != Area.image part) }

/-- CHECKPOINT_FAILURE of a partition that may still fail again, of whose log no entry is lost. -/
theorem execCheckpointFailure_rollsBack {s : State} {part : Nat} {p : Part} (hp : s.part part = some p) (due : s.failureDue p = true)
    (sound : ∀ u ∈ p.undo, u.bad = false) (few : p.ckFails < 2) :
    exec (.checkpointFailure part) s = .next (((s.rollback part []).onPart part (s.countFailure p)).mended part).watch := by
  have run : exec (.checkpointFailure part) s = execCheckpointFailure part s := rfl
  have whole : p.undo.any Undo.bad = false := List.any_eq_false.mpr fun u hu => by simp [sound u hu]
  have again : p.ckFails + 1 < 3 := by omega
  rw [run]
  unfold execCheckpointFailure
  simp only [hp, due, whole, again, Bool.not_true, Bool.false_eq_true, if_false, if_true]
  rfl

/-- The time a checkpoint took comes on top of the slice. -/
theorem State.extendSlice_sliceEnd {s : State} {p : Part} (began : p.ckBegan.isSome = true) :
    (s.extendSlice p).sliceEnd = p.sliceEnd + (s.gtime - p.ckBegan.getD s.gtime) := by
  obtain ⟨b, e⟩ := Option.isSome_iff_exists.mp began
  unfold State.extendSlice
  rw [e]
  rfl

/-- No lane of a partition that has gone back watches a word, where none of the others and of its checkpoint does. -/
theorem Back.unwatched {s t : State} {part : Nat} {im : Image} (back : Back s t part im) (quiet : s.unwatched)
    (kept : ∀ w ∈ im.warps, ∀ e ∈ w.queue, e.watching = []) : t.unwatched := by
  intro x hx
  rw [back.1, List.mem_append] at hx
  obtain hx | hx := hx
  · exact quiet x (List.mem_filter.mp hx).1
  · obtain ⟨w, hw, rfl⟩ := List.mem_map.mp hx
    exact kept w hw

/-! ## The end of a slice -/

/-- Where no harvest warp runs on a partition's clusters the end of its slice demands nothing. -/
theorem State.endHarvest_idle {s : State} {p : Part} (h : ∀ kw ∈ s.warps, kw.2.inHarvest = true → kw.2.parked = false →
    ∀ pl, kw.2.place = some pl → p.clusters.getLsbD pl.core.cluster = false) : s.endHarvest p = s := by
  unfold State.endHarvest
  simp only
  rw [List.filter_eq_nil_iff.mpr]
  · rfl
  · intro c hc own
    obtain ⟨w, hw, place⟩ := List.mem_filterMap.mp (List.mem_eraseDups.mp hc)
    obtain ⟨mem, running⟩ := List.mem_filter.mp hw
    obtain ⟨k, hk⟩ := Tab.mem_vals.mp mem
    obtain ⟨pl, hpl, rfl⟩ := Option.map_eq_some_iff.mp place
    simp only [Bool.and_eq_true, Bool.not_eq_true'] at running
    have owned : p.clusters.getLsbD pl.core.cluster = true := (List.mem_filter.mp (List.contains_iff_mem.mp own)).2
    rw [h _ hk running.1 running.2 pl hpl] at owned
    cases owned

/-- SLICE_END_ROLLBACK of a partition with an empty log, and no next tenant. -/
theorem execSliceEndRollback_ends {s : State} {part : Nat} {p : Part} (hp : s.part part = some p) (done : s.sliceOver p = true) (clean : p.undo = [])
    (parked : ∀ kw ∈ s.warps, kw.2.inHarvest = true → kw.2.parked = false → ∀ pl, kw.2.place = some pl → p.clusters.getLsbD pl.core.cluster = false) :
    exec (.sliceEndRollback part none []) s = .next ((((s.rollback part []).onPart part (fun q => { q with active := false })).unload p).watch) := by
  have run : exec (.sliceEndRollback part none []) s = execSliceEndRollback part none [] s := rfl
  rw [run]
  unfold execSliceEndRollback
  simp only [hp, done, clean, State.endHarvest_idle parked, Bool.not_true, Bool.false_eq_true, if_false, List.filter_nil, List.isEmpty_nil, List.all_nil,
    Bool.and_self, if_true]

/-- Of a table in which only some entries are of a partition, the others are left as its entries leave. -/
theorem filter_append_own {α : Type} (own : α → Bool) (xs ys : List α) (h : ∀ y ∈ ys, own y = false) : (xs.filter own ++ ys).filter own = xs.filter own := by
  have none : ys.filter own = [] := List.filter_eq_nil_iff.mpr fun y hy => by simp [h y hy]
  rw [List.filter_append, List.filter_filter, none, List.append_nil]
  exact List.filter_congr fun x _ => Bool.and_self _

/-! ## A slice begins -/

/-- SLICE_END_ROLLBACK where no slice is over: the next tenant's begins. -/
theorem execSliceEndRollback_starts {s : State} {part next : Nat} {p q : Part} {im : Image} (hp : s.part part = some p) (away : p.active = false)
    (hq : s.part next = some q) (him : q.image = some im) (may : s.mayStartSlice q = true) :
    exec (.sliceEndRollback part (some next) []) s = .next ((s.restoreImage q im).onPart next (fun r => { r with
      active := true, sliceEnd := (s.restoreImage q im).gtime + BitVec.ofNat 64 (r.arg.slice * 1000), ckNext := (s.restoreImage q im).nextInterval r
      roundsDue := max 1 r.roundsDue })) := by
  have run : exec (.sliceEndRollback part (some next) []) s = execSliceEndRollback part (some next) [] s := rfl
  have waits : s.sliceOver p = false := by simp [State.sliceOver, away]
  rw [run]
  unfold execSliceEndRollback State.startSlice
  simp only [hp, waits, Bool.not_false, if_true, hq, may, him, Bool.not_true, Bool.false_eq_true, if_false]

/-- Settles O50, clause by clause: the commit by what each of its steps leaves (`execCheckpointCommit_commits`), the failure and the end of
a slice by the rollback (`State.rollback_rolledBack`), the start of a slice by the restored image (`State.restoreImage_restored`). -/
theorem checkpointing : Obligations.Checkpointing := by
  unfold Obligations.Checkpointing
  refine ⟨?start, ?commit, ?failure, ?sliceEnd, ?sliceStart⟩
  case start =>
    intro s part p hp sliced active sound idle due
    have run : exec (.checkpointStart part) s = execCheckpointStart part s := rfl
    have begins : s.checkpointDue p = true := by simpa [State.checkpointDue, sliced, active, sound, idle] using due
    refine ⟨s.putPart part { p with ckBegan := some s.gtime }, ?_, rfl, fun j ne => State.part_putPart_ne _ _ ne, State.part_putPart_same ..⟩
    rw [run]
    unfold execCheckpointStart
    simp only [hp, begins, if_true]
  case commit =>
    intro s part p hp id untraced due quiet posted writes going
    obtain ⟨u, t, p', im, lines, hp', step, rest, fes, others, record, ⟨epoch, events, past, tasks, warps⟩, cleaned, bytes⟩ :=
      execCheckpointCommit_commits hp id untraced due quiet posted writes going
    refine ⟨u, t, p', _, im, lines, hp', step, rest, fes, others, record, rfl, epoch, events, past, tasks, warps, fun k w hw => ?_, bytes⟩
    refine (congrArg (Tab.find · k) cleaned).trans ((Tab.find_map s.warps (fun _ w => if w.part = part then w.cleaned else w) k).trans ?_)
    exact congrArg (Option.map _) hw
  case failure =>
    intro s part p im hp id untraced him due quiet tidy whole posted watching few memOk log apart
    have area : ∀ u ∈ p.undo, u.area = .hbm := fun u hu => (log u hu).1
    have gone := State.rollback_rolledBack hp id untraced him tidy whole posted area []
    have step := execCheckpointFailure_rollsBack hp due (fun u hu => (log u hu).2.2) few
    obtain ⟨r, hr⟩ : ∃ r, r = s.rollback part [] := ⟨_, rfl⟩
    rw [← hr] at gone step
    obtain ⟨t, ht⟩ : ∃ t, t = (r.onPart part (s.countFailure p)).mended part := ⟨_, rfl⟩
    have only : t = { r with parts := (r.onPart part (s.countFailure p)).parts, upsets := t.upsets } := by
      rw [ht, State.mended, State.onPart_only]
    have back : Back s t part im := by rw [only]; exact gone.back
    have record : ∀ n, t.part n = (r.onPart part (s.countFailure p)).part n := fun n => by rw [only]; rfl
    have began : p.ckBegan.isSome = true := by
      simp only [State.failureDue, Bool.and_eq_true] at due
      exact due.1.1
    rw [← ht, State.watch_idle (back.unwatched quiet watching)] at step
    refine ⟨t, step, back, ?_, fun j ne => ?_, ?_, fun a => ?_⟩
    · rw [only]; exact gone.l1
    · rw [record, State.part_onPart_ne _ _ ne]; exact gone.others j ne
    · rw [record, State.part_onPart_same, gone.record, Option.map_some, State.countFailure, State.extendSlice_sliceEnd began]
      rfl
    · have mem : t.hbm.mem = s.hbm.mem.undo p.undo := by
        have bytes : t.hbm = r.hbm := by rw [only]
        rw [bytes, gone.hbm]
        exact (State.undone_hbm [] _ area).2
      rw [mem, Memory.byte_undo (State.memOk_hbm memOk) (fun u hu => (log u hu).2.1) apart]
      cases p.undo.find? (fun u => u.line == a / 128) <;> rfl
  case sliceEnd =>
    intro s part p im hp id untraced him clean quiet tidy whole posted jobs ops sliced active late parked
    have done : s.sliceOver p = true := by simp [State.sliceOver, sliced, active, late]
    have gone := State.rollback_rolledBack hp id untraced him tidy whole posted (by rw [clean]; exact nofun) []
    have step := execSliceEndRollback_ends hp done clean parked
    obtain ⟨r, hr⟩ : ∃ r, r = s.rollback part [] := ⟨_, rfl⟩
    rw [← hr] at gone step
    subst id
    obtain ⟨-, -, crews, own⟩ := tidy.images _ (Tab.mem_of_find hp) im him
    obtain ⟨t, ht⟩ : ∃ t, t = (r.onPart p.id (fun q => { q with active := false })).unload p := ⟨_, rfl⟩
    have left : t.warps = r.warps.filter (fun x => x.2.part != p.id) ∧ t.tasks = r.tasks.filter (fun x => x.2.part != p.id) ∧
        t.jobs = r.jobs.filter (fun x => x.2.part != p.id) ∧ t.ops = r.ops.filter (fun o => o.part != p.id) ∧ t.hbm = r.hbm ∧
        t.parts = (r.onPart p.id (fun q => { q with active := false })).parts := by
      rw [ht, State.onPart_only]
      exact ⟨rfl, rfl, rfl, rfl, rfl, rfl⟩
    obtain ⟨warps, tasks, js, os, bytes, parts⟩ := left
    obtain ⟨warps', tasks', jobs', ops'⟩ := gone.back
    have standing : t.warps = s.warps.filter (fun x => x.2.part != p.id) := by
      rw [warps, warps']
      refine filter_append_own (fun x : WarpKey × Warp => x.2.part != p.id) s.warps _ fun x hx => ?_
      obtain ⟨w, hw, rfl⟩ := List.mem_map.mp hx
      have mine : w.part = p.id := (crews w hw).1
      exact bne_eq_false_iff_eq.mpr mine
    have quiet' : t.unwatched := by
      intro x hx
      rw [standing] at hx
      exact quiet x (List.mem_filter.mp hx).1
    rw [← ht, State.watch_idle quiet'] at step
    refine ⟨t, step, ?_, standing, ?_, ?_, ?_, ?_⟩
    · refine (congrArg (Tab.find · p.id) parts).trans ((State.part_onPart_same r ..).trans ?_)
      rw [gone.record, Option.map_some, ← clean]
      rfl
    · rw [tasks, tasks']
      refine filter_append_own (fun x : Nat × Task => x.2.part != p.id) s.tasks _ fun x hx => ?_
      obtain ⟨y, hy, rfl⟩ := List.mem_map.mp hx
      simpa using (own y hy).1
    · rw [js, jobs']
      refine filter_append_own (fun x : Nat × Job => x.2.part != p.id) s.jobs _ fun x hx => ?_
      obtain ⟨y, hy, rfl⟩ := List.mem_map.mp hx
      simpa using jobs y hy
    · rw [os, ops']
      exact filter_append_own (fun o : EngOp => o.part != p.id) s.ops _ fun o ho => by simpa using ops o ho
    · rw [bytes, gone.hbm, clean]
      rfl
  case sliceStart =>
    intro s part next p q im hp away hq id him may whole
    subst id
    have restored := State.restoreImage_restored whole
    have step := execSliceEndRollback_starts hp away hq him may
    obtain ⟨r, hr⟩ : ∃ r, r = s.restoreImage q im := ⟨_, rfl⟩
    rw [← hr] at restored step
    have time : r.gtime = s.gtime := by rw [restored.rest]
    have part : ∀ n, r.part n = (s.onPart q.id (·.back im)).part n := fun n => congrArg (Tab.find · n) restored.parts
    refine ⟨_, step, ?_, fun j ne => ?_, ?_, ?_⟩
    · rw [State.onPart_only]
      exact restored.back
    · rw [State.part_onPart_ne _ _ ne, part, State.part_onPart_ne _ _ ne]
    · rw [State.part_onPart_same, part, State.part_onPart_same, hq, Option.map_some, Option.map_some]
      simp [Part.back, State.nextInterval, State.intervalEnd, PartArg.interval, time]
    · rw [State.onPart_only, restored.rest]

end Sys2Proof.Machine
end

section
/-! SUPPORT. The first byte of a page-table entry, in which a walk sets A and D (05 R119, R121). -/

namespace Sys2Proof.Machine

/-! ## A bit of the first byte of a number -/

theorem leNat_testBit_head (b : Byte) (bs : List Byte) {k : Nat} (hk : k < 8) : (leNat (b :: bs)).testBit k = b.getLsbD k := by
  have low : leNat (b :: bs) % 2 ^ 8 = b.toNat := by
    have := b.isLt
    rw [leNat]
    omega
  rw [← BitVec.testBit_toNat, ← low, Nat.testBit_mod_two_pow, decide_eq_true hk, Bool.true_and]

/-- The bytes of the number that bytes make. -/
theorem leBytes_leNat (bs : List Byte) : leBytes bs.length (leNat bs) = bs := by
  induction bs with
  | nil => rfl
  | cons b bs ih =>
    have := b.isLt
    have head : BitVec.ofNat 8 (leNat (b :: bs)) = b := by
      apply BitVec.eq_of_toNat_eq
      rw [BitVec.toNat_ofNat, leNat]
      omega
    have tail : leNat (b :: bs) / 256 = leNat bs := by
      rw [leNat]
      omega
    rw [List.length_cons, leBytes, head, tail, ih]

/-- A clear bit added to a byte is set in it. -/
theorem Byte.add_twoPow (b : Byte) {k : Nat} (hk : k < 8) (clear : b.getLsbD k = false) :
    b.toNat + 2 ^ k = (b ||| BitVec.twoPow 8 k).toNat := by
  have apart : b &&& BitVec.twoPow 8 k = 0#8 := by
    rw [BitVec.and_twoPow, clear]
    rfl
  rw [← BitVec.add_eq_or_of_and_eq_zero _ _ apart, BitVec.toNat_add_of_and_eq_zero apart, BitVec.toNat_twoPow_of_lt hk]

/-- A clear bit of the first byte added to a number is set in that byte, and the other bytes stand. -/
theorem leBytes_add_twoPow (b : Byte) (bs : List Byte) {k : Nat} (hk : k < 8) (clear : b.getLsbD k = false) :
    leBytes (bs.length + 1) (leNat (b :: bs) + 2 ^ k) = (b ||| BitVec.twoPow 8 k) :: bs := by
  have sum : leNat (b :: bs) + 2 ^ k = leNat ((b ||| BitVec.twoPow 8 k) :: bs) := by
    rw [leNat, leNat, ← Byte.add_twoPow b hk clear]
    omega
  rw [sum]
  exact leBytes_leNat ((b ||| BitVec.twoPow 8 k) :: bs)

@[simp] theorem Memory.length_bytes (m : Memory) (n : Nat) : ∀ a, (m.bytes a n).length = n := by
  induction n with
  | zero => exact fun _ => rfl
  | succ n ih => exact fun a => congrArg (· + 1) (ih (a + 1))

theorem Memory.getD_bytes (m : Memory) {n : Nat} : ∀ {a i : Nat}, i < n → (m.bytes a n).getD i 0 = m.byte (a + i) := by
  induction n with
  | zero => exact fun h => absurd h (Nat.not_lt_zero _)
  | succ n ih =>
    intro a i h
    cases i with
    | zero => rfl
    | succ i =>
      have next : a + 1 + i = a + (i + 1) := by omega
      rw [Memory.bytes, List.getD_cons_succ, ih (by omega), next]

/-- The bit of an entry, added where it is clear, is set in the entry's first byte, and every other byte reads as before. -/
theorem Memory.byte_setBit {m : Memory} {dev k : Nat} (wf : m.wf = true) (hk : k < 8) (clear : (leNat (m.bytes dev 8)).testBit k = false)
    (a : Nat) : (m.putAll dev (leBytes 8 (leNat (m.bytes dev 8) + 2 ^ k))).byte a
      = if a = dev then m.byte dev ||| BitVec.twoPow 8 k else m.byte a := by
  have entry : m.bytes dev 8 = m.byte dev :: m.bytes (dev + 1) 7 := rfl
  rw [entry, leNat_testBit_head _ _ hk] at clear
  have set := leBytes_add_twoPow (m.byte dev) (m.bytes (dev + 1) 7) hk clear
  rw [Memory.length_bytes] at set
  rw [entry, set, Memory.byte_putAll wf, List.length_cons, Memory.length_bytes]
  by_cases first : a = dev
  · rw [if_pos first, if_pos (by omega), first, Nat.sub_self]
    rfl
  · rw [if_neg first]
    split
    next inside =>
      obtain ⟨n, rfl⟩ : ∃ n, a = dev + 1 + n := ⟨a - (dev + 1), by omega⟩
      have off : dev + 1 + n - dev = n + 1 := by omega
      rw [off, List.getD_cons_succ, Memory.getD_bytes m (by omega)]
    · rfl

end Sys2Proof.Machine
end

section
/-! SUPPORT. What a translation leaves (05 R118-R123, R127). -/

namespace Sys2Proof.Machine

/-! ## Bits set in the first bytes of entries -/

/-- A state in which the bytes of global memory stand. -/
theorem WalkedOnly.of_bytes {s t : State} (rest : t = { s with parts := t.parts, l2 := t.l2, fresh := t.fresh })
    (still : ∀ n, (t.part n).map Part.still = (s.part n).map Part.still) (marks : List Nat) : WalkedOnly s t marks := by
  have bytes : t.hbm = s.hbm := by rw [rest]
  exact ⟨by rw [rest], still, fun _ _ => by rw [bytes], fun _ _ => ⟨0, rfl, by rw [bytes]; exact BitVec.or_zero.symm⟩⟩

theorem WalkedOnly.refl (s : State) (marks : List Nat) : WalkedOnly s s marks := .of_bytes rfl (fun _ => rfl) marks

theorem WalkedOnly.trans {s t u : State} {marks : List Nat} (h : WalkedOnly s t marks) (g : WalkedOnly t u marks) :
    WalkedOnly s u marks := by
  obtain ⟨rest, still, same, set⟩ := h
  obtain ⟨rest', still', same', set'⟩ := g
  refine ⟨by rw [rest', rest], fun n => (still' n).trans (still n), fun a ha => (same' a ha).trans (same a ha), fun a ha => ?_⟩
  obtain ⟨m, hm, e⟩ := set a ha
  obtain ⟨m', hm', e'⟩ := set' a ha
  exact ⟨m ||| m', by rw [BitVec.and_or_distrib_right, hm, hm']; rfl, by rw [e', e, BitVec.or_assoc]⟩

theorem WalkedOnly.mono {s t : State} {marks more : List Nat} (h : WalkedOnly s t marks) (sub : marks ⊆ more) : WalkedOnly s t more := by
  obtain ⟨rest, still, same, set⟩ := h
  refine ⟨rest, still, fun a ha => same a fun b => ha (sub b), fun a _ => ?_⟩
  by_cases marked : a ∈ marks
  · exact set a marked
  · exact ⟨0, rfl, by rw [same a marked]; exact BitVec.or_zero.symm⟩

/-- No bit of a byte is cleared. -/
theorem WalkedOnly.keeps_bit {s t : State} {marks : List Nat} (h : WalkedOnly s t marks) {a k : Nat}
    (set : (s.hbm.mem.byte a).getLsbD k = true) : (t.hbm.mem.byte a).getLsbD k = true := by
  obtain ⟨-, -, same, or⟩ := h
  by_cases marked : a ∈ marks
  · obtain ⟨m, -, e⟩ := or a marked
    rw [e, BitVec.getLsbD_or, set, Bool.true_or]
  · rw [same a marked, set]

/-! ## A store at a home leaves of each partition all but its log -/

/-- A partition but for its undo log and what its contexts count of their traffic. -/
def Part.unlogged (p : Part) : Part := { p.uncounted with undo := [] }

/-- The second state has the first one's partitions, but for their logs and what their contexts count. -/
def State.SameParts (s t : State) : Prop := ∀ n, (t.part n).map Part.unlogged = (s.part n).map Part.unlogged

theorem State.SameParts.refl (s : State) : s.SameParts s := fun _ => rfl
theorem State.SameParts.trans {s t u : State} (h : s.SameParts t) (g : t.SameParts u) : s.SameParts u := fun n => (g n).trans (h n)

theorem State.SameParts.of_uncounted {s t : State} (h : ∀ n, (t.part n).map Part.uncounted = (s.part n).map Part.uncounted) :
    s.SameParts t := by
  intro n
  have unlogged : ∀ x : Option Part, x.map Part.unlogged = (x.map Part.uncounted).map (fun p => { p with undo := [] }) := by
    intro x
    rw [Option.map_map]
    rfl
  rw [unlogged, unlogged, h]

/-- What is read of a partition without its log and counts. -/
theorem State.SameParts.map {s t : State} {β : Type} (h : s.SameParts t) (g : Part → β) (read : ∀ p, g p = g p.unlogged) (n : Nat) :
    (t.part n).map g = (s.part n).map g := by
  have unlogged : ∀ x : Option Part, x.map g = (x.map Part.unlogged).map g := by
    intro x
    rw [Option.map_map]
    exact Option.map_congr fun p _ => read p
  rw [unlogged (t.part n), unlogged (s.part n), h]

theorem State.SameParts.still {s t : State} (h : s.SameParts t) (n : Nat) : (t.part n).map Part.still = (s.part n).map Part.still :=
  h.map Part.still (fun p => by simp [Part.still, Part.unlogged, Part.uncounted]) n

/-- What the function leaves of a partition stays. -/
theorem State.part_onPart_map {β : Type} (s : State) (n : Nat) {f : Part → Part} (g : Part → β) (h : ∀ p, g (f p) = g p) (m : Nat) :
    ((s.onPart n f).part m).map g = (s.part m).map g := by
  by_cases e : m = n
  · rw [e, State.part_onPart_same, Option.map_map]
    exact Option.map_congr fun p _ => h p
  · rw [State.part_onPart_ne s f e]

/-- An access at a home L2 changes no byte (05 R127). -/
theorem State.l2Touch_serves (s : State) (part : Nat) (ctx : BitVec 6) (line : Nat) (write : Bool) (ch : Nat) :
    let t := s.l2Touch part ctx line write ch
    t = { s with parts := t.parts, l2 := t.l2, fresh := t.fresh } ∧ s.SameParts t := by
  obtain ⟨ps, l2, n, h⟩ := s.l2Touch_only part ctx line write ch
  exact ⟨by rw [h], .of_uncounted fun n => State.Counts.uncounted (s.l2Touch_part part ctx line write ch) n⟩

/-- Lines logged change nothing but logs (04 R99). -/
theorem State.logLines_only (part : Nat) (a : Area) (lines : List Nat) (s : State) :
    let t := lines.foldl (fun s l => s.logLine part a l) s
    t = { s with parts := t.parts } ∧ s.SameParts t := by
  refine List.foldlRecOn (motive := fun t => t = { s with parts := t.parts } ∧ s.SameParts t) lines _ ⟨rfl, .refl s⟩
    fun t ⟨rest, same⟩ l _ => ⟨?_, same.trans (t.part_onPart_map part Part.unlogged fun p => ?_)⟩
  · rw [State.onPart_only, rest]
  · split <;> rfl

/-- A store at a home writes its bytes, and changes nothing but its line and logs (04 R99, 06 R134). -/
theorem State.homeStore_only (s : State) (part dev : Nat) (bs : List Byte) (who : Option WarpKey) (t : Nat) (tag : Bool) :
    let u := (s.homeStore part dev bs who t tag).1
    u = { s with parts := u.parts, hbm := s.hbm.write dev bs, lines := u.lines } ∧ s.SameParts u := by
  obtain ⟨rest, same⟩ := (s.homeAccept dev bs who t tag).1.logLines_only part .hbm (blocks 128 dev bs.length)
  simp only [State.homeStore, State.writeArea, State.setArea, State.area]
  refine ⟨?_, same⟩
  rw [rest]
  rfl

/-! ## A bit is set in an entry -/

/-- A bit of an entry, where it is clear, is stored at the entry's home; nothing else is changed but what serves the access. -/
theorem State.orEntry_sets (s : State) (part : Nat) (ctx : BitVec 6) (dev : Nat) {k : Nat} (hk : k = 2 ∨ k = 3) (canon : s.hbm.ok = true) :
    let t := s.orEntry part ctx dev k
    WalkedOnly s t [dev] ∧ t.hbm.ok = true ∧ s.SameParts t ∧ (t.hbm.mem.byte dev).getLsbD k = true := by
  have small : k < 8 := by omega
  unfold State.orEntry
  simp only
  split
  next set =>
    exact ⟨.refl s _, canon, .refl s, (leNat_testBit_head _ (s.hbm.mem.bytes (dev + 1) 7) small).symm.trans set⟩
  next clear =>
    obtain ⟨touched, touchedParts⟩ := s.l2Touch_serves part ctx (dev / 128) true 0
    obtain ⟨v, hv⟩ : ∃ v, v = s.l2Touch part ctx (dev / 128) true 0 := ⟨_, rfl⟩
    rw [← hv] at touched touchedParts ⊢
    obtain ⟨rest, stored⟩ := v.homeStore_only part dev (leBytes 8 (s.tableWord dev + 2 ^ k)) none (s.timeAt part (dev / 128)) false
    obtain ⟨t, ht⟩ : ∃ t, t = (v.homeStore part dev (leBytes 8 (s.tableWord dev + 2 ^ k)) none (s.timeAt part (dev / 128))).1 := ⟨_, rfl⟩
    rw [← ht] at rest stored ⊢
    have bytes : v.hbm = s.hbm := by rw [touched]
    have same := touchedParts.trans stored
    have mem : t.hbm.mem = s.hbm.mem.putAll dev (leBytes 8 (leNat (s.hbm.mem.bytes dev 8) + 2 ^ k)) := by rw [rest, bytes]; rfl
    have byte := Memory.byte_setBit (dev := dev) canon small (Bool.eq_false_iff.mpr clear)
    refine ⟨⟨by rw [rest, touched], same.still, fun a ha => ?_, fun a ha => ⟨BitVec.twoPow 8 k, ?_, ?_⟩⟩, ?_, same, ?_⟩
    · rw [mem, byte, if_neg (by simpa using ha)]
    · obtain rfl | rfl := hk <;> rfl
    · rw [mem, byte, if_pos (by simpa using ha), List.mem_singleton.mp ha]
    · exact (congrArg Memory.wf mem).trans (Memory.putAll_wf canon)
    · rw [mem, byte, if_pos rfl, BitVec.getLsbD_or, BitVec.getLsbD_twoPow]
      simp [small]

/-! ## A walk -/

/-- The state as a walk has read its entries and set A in those it visits (05 R121, R127). -/
def State.accessed (s : State) (part : Nat) (ctx : BitVec 6) (reads seen : List Nat) : State :=
  seen.foldl (fun s dev => s.orEntry part ctx dev 2) (reads.foldl (fun s dev => s.l2Touch part ctx (dev / 128) false 0) s)

/-- The result of a walk as it is held, the leaf's D as it stands. -/
def State.entryFound (s : State) (ctx : BitVec 6) (base size : Nat) (w : Walk) (leaf : Nat) : TlbEntry :=
  { ctx := ctx, base := base, size := size, walk := w, leaf := leaf, dset := (s.tableWord leaf).testBit 3 }

/-- The partition with a translation held in the place of those of its range. -/
def Part.hold (p : Part) (e : TlbEntry) : Part :=
  { p with tlb := e :: p.tlb.filter (fun x => !(x.ctx == e.ctx && x.base == e.base && x.size == e.size)) }

/-- The entries that a walk reads go through the home L2, which changes no byte. -/
theorem State.accessed_nil (s : State) (part : Nat) (ctx : BitVec 6) (reads : List Nat) :
    let t := s.accessed part ctx reads []
    t = { s with parts := t.parts, l2 := t.l2, fresh := t.fresh } ∧ s.SameParts t := by
  refine List.foldlRecOn (motive := fun t => t = { s with parts := t.parts, l2 := t.l2, fresh := t.fresh } ∧ s.SameParts t) reads _ ⟨rfl, .refl s⟩
    fun t ⟨rest, same⟩ dev _ => ?_
  obtain ⟨touched, more⟩ := t.l2Touch_serves part ctx (dev / 128) false 0
  exact ⟨by rw [touched, rest], same.trans more⟩

/-- A walk sets A in the entries visited, and changes no other bit. -/
theorem State.accessed_sets (s : State) (part : Nat) (ctx : BitVec 6) (reads seen : List Nat) (canon : s.hbm.ok = true) :
    let t := s.accessed part ctx reads seen
    WalkedOnly s t seen ∧ t.hbm.ok = true ∧ s.SameParts t ∧ ∀ a ∈ seen, (t.hbm.mem.byte a).getLsbD 2 = true := by
  induction seen using List.reverseRecOn with
  | nil =>
    obtain ⟨rest, same⟩ := s.accessed_nil part ctx reads
    exact ⟨.of_bytes rest same.still [], by rw [rest]; exact canon, same, by simp⟩
  | append_singleton seen dev ih =>
    obtain ⟨walked, ok, same, set⟩ := ih
    have next : s.accessed part ctx reads (seen ++ [dev]) = (s.accessed part ctx reads seen).orEntry part ctx dev 2 := by
      unfold State.accessed
      rw [List.foldl_append]
      rfl
    obtain ⟨one, ok', more, here⟩ := (s.accessed part ctx reads seen).orEntry_sets part ctx dev (.inl rfl) ok
    rw [next]
    refine ⟨(walked.mono (by simp)).trans (one.mono (by simp)), ok', same.trans more, fun a ha => ?_⟩
    obtain old | rfl := by simpa using ha
    · exact one.keeps_bit (set a old)
    · exact here

section
variable {s : State} {part : Nat} {p : Part} {ctx : BitVec 6} {c : Context} {va : Nat}

theorem State.walk_found (hp : s.part part = some p) (hc : p.ctxs.find ctx = some c) {reads seen : List Nat} {base size leaf : Nat} {w : Walk}
    (h : s.walkFrom p va 4 c.root.toNat [] [] = .found reads seen base size w leaf) :
    let t := s.accessed part ctx reads seen
    s.walk part ctx va = (t.onPart part (·.hold (t.entryFound ctx base size w leaf)), some (t.entryFound ctx base size w leaf)) := by
  unfold State.walk
  simp only [hp, hc, h]
  rfl

theorem State.walk_poisoned (hp : s.part part = some p) (hc : p.ctxs.find ctx = some c) {reads : List Nat}
    (h : s.walkFrom p va 4 c.root.toNat [] [] = .poisoned reads) : s.walk part ctx va = (s.accessed part ctx reads [], none) := by
  unfold State.walk
  simp only [hp, hc, h]
  rfl

theorem State.walked_found (hp : s.part part = some p) (hc : p.ctxs.find ctx = some c) {reads seen : List Nat} {base size leaf : Nat} {w : Walk}
    (h : s.walkFrom p va 4 c.root.toNat [] [] = .found reads seen base size w leaf) : s.walked part ctx va = seen := by
  unfold State.walked
  simp only [hp, hc, h]

theorem State.walked_poisoned (hp : s.part part = some p) (hc : p.ctxs.find ctx = some c) {reads : List Nat}
    (h : s.walkFrom p va 4 c.root.toNat [] [] = .poisoned reads) : s.walked part ctx va = [] := by
  unfold State.walked
  simp only [hp, hc, h]

theorem State.walked_nowhere (h : (s.part part).bind (·.ctxs.find ctx) = none) : s.walked part ctx va = [] := by
  unfold State.walked
  cases hp : s.part part with
  | none => rfl
  | some p =>
    rw [hp, Option.bind_some] at h
    simp only [h]

theorem State.walk_nowhere (h : (s.part part).bind (·.ctxs.find ctx) = none) : s.walk part ctx va = (s, none) := by
  unfold State.walk
  cases hp : s.part part with
  | none => rfl
  | some p =>
    rw [hp, Option.bind_some] at h
    simp only [h]

end
end Sys2Proof.Machine
end

section
/-! O29: a translation, and PAGE_WALK (05 R118-R123, R127). -/

namespace Sys2Proof.Machine

/-! ## What a walk finds -/

/-- One level of a walk (05 R118, R119): the entry is read, and the walk ends there or goes on with the table it names. -/
def State.walkLevel (s : State) (p : Part) (va level table : Nat) (reads seen : List Nat) (next : Nat → List Nat → List Nat → WalkOut) : WalkOut :=
  let bits := levelBits level
  let base := va / 2 ^ bits * 2 ^ bits
  match p.phys (table + 16 * (va / 2 ^ bits % (if level = 0 then 32 else 512))) with
  | none => .found reads seen (va / 2 ^ levelBits (level + 1) * 2 ^ levelBits (level + 1)) (2 ^ levelBits (level + 1)) .outside 0
  | some dev =>
    let v := s.tableEntry p dev
    let reads := reads ++ [dev]
    if v.poison then .poisoned reads
    else
      let e := leNat (v.bytes.take 8)
      let x := leNat (v.bytes.drop 8)
      let leaf := e / 2 % 2 == 1
      let addr := e / 256 % 2 ^ 40 * 256
      if e % 2 == 0 then .found reads seen base (2 ^ bits) (.invalid level) 0
      else if e / 2 ^ 48 != 0 || (leaf && 3 ≤ level) || (!leaf && level == 0)
          || (if leaf then x / 8 != 0 || (x / 2 % 2 == 1 && x / 4 % 2 == 1) || addr % 2 ^ bits != 0
              else x != 0 || addr % tableBytes level != 0) then
        .found reads seen base (2 ^ bits) (.malformed level) 0
      else if leaf then
        match p.phys addr with
        | some _ => .found reads (seen ++ [dev]) base (2 ^ bits) (.page addr (2 ^ bits) (x % 2 == 1) (x / 2 % 2 == 1) (x / 4 % 2 == 1)) dev
        | none => .found reads (seen ++ [dev]) base (2 ^ bits) .outside 0
      else next addr reads (seen ++ [dev])

theorem State.walkFrom_zero (s : State) (p : Part) (va table : Nat) (reads seen : List Nat) :
    s.walkFrom p va 0 table reads seen = s.walkLevel p va 0 table reads seen
      (fun _ reads _ => .found reads seen (va / 2 ^ levelBits 0 * 2 ^ levelBits 0) (2 ^ levelBits 0) (.malformed 0) 0) := by
  delta State.walkFrom State.walkLevel
  dsimp only [State.walkFrom._f]
  rfl
theorem State.walkFrom_succ (s : State) (p : Part) (va k table : Nat) (reads seen : List Nat) :
    s.walkFrom p va (k + 1) table reads seen = s.walkLevel p va (k + 1) table reads seen (s.walkFrom p va k) := by
  delta State.walkFrom State.walkLevel
  dsimp only [State.walkFrom._f, Nat.succ_eq_add_one] <;> rfl

/-- The range of what a walk finds holds the address, and the leaf of a page is an entry visited. -/
inductive WalkOut.Fits (va : Nat) : WalkOut → Prop
  | found {reads seen : List Nat} {base size leaf : Nat} {w : Walk} (range : base ≤ va ∧ va < base + size)
      (visited : ∀ pa n u wr x, w = .page pa n u wr x → leaf ∈ seen) : Fits va (.found reads seen base size w leaf)
  | poisoned (reads : List Nat) : Fits va (.poisoned reads)

/-- The range of an entry of a level holds the addresses that lead to it. -/
theorem levelRange (va b : Nat) : va / 2 ^ b * 2 ^ b ≤ va ∧ va < va / 2 ^ b * 2 ^ b + 2 ^ b :=
  ⟨Nat.div_mul_le_self .., Nat.lt_div_mul_add (Nat.two_pow_pos b)⟩

theorem State.walkLevel_fits (s : State) (p : Part) (va level table : Nat) (reads seen : List Nat) {next : Nat → List Nat → List Nat → WalkOut}
    (h : ∀ addr reads seen, (next addr reads seen).Fits va) : (s.walkLevel p va level table reads seen next).Fits va := by
  unfold State.walkLevel
  simp only
  generalize p.phys (table + _) = place
  split
  · exact .found (levelRange va _) (by simp)
  split
  · exact .poisoned _
  split
  · exact .found (levelRange va _) (by simp)
  generalize (_ / 2 ^ 48 != 0 || _ || _ || _) = malformed
  split
  · exact .found (levelRange va _) (by simp)
  split
  · split
    · exact .found (levelRange va _) (by simp)
    · exact .found (levelRange va _) (by simp)
  · exact h ..

theorem State.walkFrom_fits (s : State) (p : Part) (va fuel : Nat) :
    ∀ table reads seen, (s.walkFrom p va fuel table reads seen).Fits va := by
  induction fuel with
  | zero =>
    intro table reads seen
    rw [State.walkFrom_zero]
    exact s.walkLevel_fits p va 0 table reads seen fun _ _ _ => .found (levelRange va _) (by simp)
  | succ k ih =>
    intro table reads seen
    rw [State.walkFrom_succ]
    exact s.walkLevel_fits p va (k + 1) table reads seen ih

/-! ## A walk -/

/-- What a walk does: it ends at a poisoned entry, or goes nowhere, and marks nothing; or it marks the entries visited and its
result is held (05 R121, R122). -/
theorem State.walk_cases (s : State) (part : Nat) (ctx : BitVec 6) (va : Nat) :
    (s.walked part ctx va = [] ∧ (∃ reads, s.walk part ctx va = (s.accessed part ctx reads [], none)) ∧
      ∀ p x, s.part part = some p → p.ctxs.find ctx = some x → ∃ r, s.walkFrom p va 4 x.root.toNat [] [] = .poisoned r) ∨
    ∃ reads base size w leaf, (WalkOut.found reads (s.walked part ctx va) base size w leaf).Fits va ∧
      let t := s.accessed part ctx reads (s.walked part ctx va)
      let e := t.entryFound ctx base size w leaf
      s.walk part ctx va = (t.onPart part (·.hold e), some e) := by
  cases place : (s.part part).bind (·.ctxs.find ctx) with
  | none =>
    refine .inl ⟨State.walked_nowhere place, ⟨[], State.walk_nowhere place⟩, fun p x hp hx => ?_⟩
    rw [hp, Option.bind_some, hx] at place
    exact absurd place (Option.some_ne_none x)
  | some c =>
    obtain ⟨p, hp, hc⟩ := Option.bind_eq_some_iff.mp place
    have fits := s.walkFrom_fits p va 4 c.root.toNat [] []
    generalize walk : s.walkFrom p va 4 c.root.toNat [] [] = out at fits
    cases fits with
    | poisoned reads =>
      refine .inl ⟨State.walked_poisoned hp hc walk, ⟨reads, State.walk_poisoned hp hc walk⟩, fun q x hq hx => ⟨reads, ?_⟩⟩
      obtain rfl : p = q := Option.some_inj.mp (hp.symm.trans hq)
      obtain rfl : c = x := Option.some_inj.mp (hc.symm.trans hx)
      exact walk
    | found range visited =>
      rw [State.walked_found hp hc walk]
      exact .inr ⟨_, _, _, _, _, .found range visited, State.walk_found hp hc walk⟩

/-- A partition changed where it stands, but in no more than its translations, its log and its counts. -/
theorem State.onPart_walkedOnly (s : State) (part : Nat) {f : Part → Part} (h : ∀ p, (f p).still = p.still) (marks : List Nat) :
    WalkedOnly s (s.onPart part f) marks :=
  .of_bytes (by rw [State.onPart_only]) (s.part_onPart_map part Part.still h) marks

/-- A walk changes no bit but A of the entries visited, in each of which it is set. -/
theorem State.walk_sets (s : State) (part : Nat) (ctx : BitVec 6) (va : Nat) (canon : s.hbm.ok = true) :
    let t := (s.walk part ctx va).1
    WalkedOnly s t (s.walked part ctx va) ∧ t.hbm.ok = true ∧ ∀ a ∈ s.walked part ctx va, (t.hbm.mem.byte a).getLsbD 2 = true := by
  obtain ⟨none, ⟨reads, walk⟩, -⟩ | ⟨reads, base, size, w, leaf, -, walk⟩ := s.walk_cases part ctx va
  · rw [walk, none]
    obtain ⟨walked, ok, -, set⟩ := s.accessed_sets part ctx reads [] canon
    exact ⟨walked, ok, set⟩
  · obtain ⟨walked, ok, -, set⟩ := s.accessed_sets part ctx reads (s.walked part ctx va) canon
    rw [walk]
    simp only
    obtain ⟨t, ht⟩ : ∃ t, t = s.accessed part ctx reads (s.walked part ctx va) := ⟨_, rfl⟩
    rw [← ht] at walked ok set ⊢
    have bytes : (t.onPart part (·.hold (t.entryFound ctx base size w leaf))).hbm = t.hbm := by rw [State.onPart_only]
    exact ⟨walked.trans (t.onPart_walkedOnly part (f := (·.hold _)) (fun _ => rfl) _), bytes ▸ ok, bytes ▸ set⟩

/-- The translation held last is the one found, for an address in its range. -/
theorem Part.tlbHit_hold (p : Part) {e : TlbEntry} {ctx : BitVec 6} {va : Nat} (own : e.ctx = ctx) (range : e.base ≤ va ∧ va < e.base + e.size) :
    (p.hold e).tlbHit ctx va = some e := by
  unfold Part.tlbHit Part.hold
  simp [own, range]

/-- The result of a walk is held for the address, and the leaf of a page is an entry visited. -/
theorem State.walk_holds {s : State} {part : Nat} {ctx : BitVec 6} {va : Nat} {p : Part} {e : TlbEntry} (canon : s.hbm.ok = true)
    (hp : s.part part = some p) (h : (s.walk part ctx va).2 = some e) : (∀ pa n u w x, e.walk = .page pa n u w x → e.leaf ∈ s.walked part ctx va) ∧
      ∃ q, (s.walk part ctx va).1.part part = some q ∧ q.tlbHit ctx va = some e := by
  obtain ⟨none, ⟨reads, walk⟩, -⟩ | ⟨reads, base, size, w, leaf, fits, walk⟩ := s.walk_cases part ctx va
  · rw [walk] at h
    cases h
  · cases fits with
    | found range visited =>
      rw [walk] at h ⊢
      cases h
      obtain ⟨-, -, same, -⟩ := s.accessed_sets part ctx reads (s.walked part ctx va) canon
      have there := same part
      rw [hp, Option.map_some] at there
      obtain ⟨q, hq, -⟩ := Option.map_eq_some_iff.mp there
      refine ⟨visited, _, ?_, q.tlbHit_hold rfl range⟩
      rw [State.part_onPart_same, hq, Option.map_some]

/-! ## A translation -/

/-- The partition as D has been set in the leaf of a translation that it holds. -/
def Part.markDirty (p : Part) (e : TlbEntry) : Part := { p with tlb := p.tlb.map (fun x => if x == e then { x with dset := true } else x) }

/-- An address that has a translation held keeps one. -/
theorem Part.tlbHit_markDirty {p : Part} (e : TlbEntry) {ctx : BitVec 6} {va : Nat} (h : p.tlbHit ctx va ≠ none) :
    (p.markDirty e).tlbHit ctx va ≠ none := by
  unfold Part.tlbHit Part.markDirty at *
  rw [ne_eq, List.find?_eq_none] at h ⊢
  simp only [not_forall] at h ⊢
  obtain ⟨x, hx, hit⟩ := h
  refine ⟨_, List.mem_map_of_mem hx, ?_⟩
  split
  · exact hit
  · exact hit

/-- An answer that a translation gives leaves the state, or sets D in the leaf of a page (05 R121). -/
theorem State.translated_cases (s : State) (p : Part) (part : Nat) (ctx : BitVec 6) (va : Nat) (use : Use) (priv : Bool) (e : Option TlbEntry) :
    (s.translated p part ctx va use priv e).1 = s ∨
    ∃ x pa n u w y, e = some x ∧ x.walk = .page pa n u w y ∧
      (s.translated p part ctx va use priv e).1 = (s.orEntry part ctx x.leaf 3).onPart part (·.markDirty x) := by
  unfold State.translated
  cases e with
  | none => exact .inl rfl
  | some x =>
    cases h : x.walk with
    | page pa n u w y =>
      have page := h
      simp only [h]
      split
      · exact .inl rfl
      split
      · exact .inl rfl
      cases use with
      | read => exact .inl rfl
      | exec =>
        simp only
        split <;> exact .inl rfl
      | write =>
        simp only
        split
        · exact .inl rfl
        split
        · exact .inl rfl
        · exact .inr ⟨x, pa, n, u, w, y, rfl, page, rfl⟩
    | _ => exact .inl (by simp only [h])

/-- An answer that a translation gives changes no bit but D of the leaf of its page. -/
theorem State.translated_walkedOnly {s : State} {p : Part} {part : Nat} {ctx : BitVec 6} {va : Nat} {use : Use} {priv : Bool}
    {e : Option TlbEntry} {marks : List Nat} (canon : s.hbm.ok = true)
    (leaf : ∀ x pa n u w y, e = some x → x.walk = .page pa n u w y → x.leaf ∈ marks) :
    WalkedOnly s (s.translated p part ctx va use priv e).1 marks := by
  obtain same | ⟨x, pa, n, u, w, y, he, page, set⟩ := s.translated_cases p part ctx va use priv e
  · rw [same]
    exact .refl s marks
  · obtain ⟨one, -⟩ := s.orEntry_sets part ctx x.leaf (.inr rfl) canon
    rw [set]
    have mine : [x.leaf] ⊆ marks := by simpa using leaf x pa n u w y he page
    exact (one.mono mine).trans (State.onPart_walkedOnly _ part (f := (·.markDirty x)) (fun _ => rfl) marks)

/-- An address that has a translation held keeps one. -/
theorem State.translated_holds {s : State} {p q : Part} {part : Nat} {ctx : BitVec 6} {va : Nat} {use : Use} {priv : Bool}
    {e : Option TlbEntry} (canon : s.hbm.ok = true) (hq : s.part part = some q) (hit : q.tlbHit ctx va ≠ none) :
    ∃ r, (s.translated p part ctx va use priv e).1.part part = some r ∧ r.tlbHit ctx va ≠ none := by
  obtain same | ⟨x, pa, n, u, w, y, he, page, set⟩ := s.translated_cases p part ctx va use priv e
  · rw [same]
    exact ⟨q, hq, hit⟩
  · obtain ⟨-, -, same, -⟩ := s.orEntry_sets part ctx x.leaf (.inr rfl) canon
    have held := same.map (·.tlbHit ctx va) (fun _ => rfl) part
    rw [hq, Option.map_some] at held
    obtain ⟨r, hr, e⟩ := Option.map_eq_some_iff.mp held
    rw [set, State.part_onPart_same, hr, Option.map_some]
    exact ⟨_, rfl, r.tlbHit_markDirty x (e ▸ hit)⟩

/-- The entries that a translation may mark, where one is held, and where none is. -/
theorem State.marked_of_hit {s : State} {part : Nat} {p : Part} {ctx : BitVec 6} {va : Nat} {e : TlbEntry} (hp : s.part part = some p)
    (hit : p.tlbHit ctx va = some e) : s.marked part ctx va = [e.leaf] := by
  unfold State.marked
  rw [hp, Option.bind_some, hit]
theorem State.marked_of_miss {s : State} {part : Nat} {p : Part} {ctx : BitVec 6} {va : Nat} (hp : s.part part = some p)
    (miss : p.tlbHit ctx va = none) : s.marked part ctx va = s.walked part ctx va := by
  unfold State.marked
  rw [hp, Option.bind_some, miss]

theorem State.translation_of_hit (s : State) {p : Part} {ctx : BitVec 6} {va : Nat} {e : TlbEntry} (hit : p.tlbHit ctx va = some e) (part : Nat) :
    s.translation p part ctx va = (s, some e) := by
  unfold State.translation
  rw [hit]
theorem State.translation_of_miss (s : State) {p : Part} {ctx : BitVec 6} {va : Nat} (miss : p.tlbHit ctx va = none) (part : Nat) :
    s.translation p part ctx va = s.walk part ctx va := by
  unfold State.translation
  rw [miss]

/-- A TRANSLATION CHANGES NO BYTE but A and D of the entries it may mark (05 R121). -/
theorem State.translate_walkedOnly {s : State} (canon : s.hbm.ok = true) (part : Nat) (ctx : BitVec 6) (va : Nat) (use : Use) (priv : Bool) :
    WalkedOnly s (s.translate part ctx va use priv).1 (s.marked part ctx va) := by
  cases hp : s.part part with
  | none =>
    rw [State.translate_none hp]
    exact .refl s _
  | some p =>
    rw [State.translate_some hp]
    cases hit : p.tlbHit ctx va with
    | some e =>
      rw [s.translation_of_hit hit, State.marked_of_hit hp hit]
      exact State.translated_walkedOnly canon fun x _ _ _ _ _ he _ => by cases he; exact List.mem_singleton_self _
    | none =>
      rw [s.translation_of_miss hit, State.marked_of_miss hp hit]
      obtain ⟨walked, ok, -⟩ := s.walk_sets part ctx va canon
      exact walked.trans (State.translated_walkedOnly ok fun x pa n u w y he page => (State.walk_holds canon hp he).1 pa n u w y page)

/-- Where an access goes is found without a translation, through an aperture (09 R214), or by one. -/
theorem State.locate_walkedOnly {s : State} (canon : s.hbm.ok = true) (part : Nat) (ctx : BitVec 6) (va n : Nat) (use : Use) (priv : Bool) :
    WalkedOnly s (s.locate part ctx va n use priv).1 (s.marked part ctx va) := by
  have found := State.translate_walkedOnly canon part ctx va use priv
  unfold State.locate
  split
  · simp only
    repeat' split
    all_goals exact .refl s _
  · split
    next h => rw [h] at found; exact found
    next h => rw [h] at found; exact found

theorem State.globAddr_walkedOnly {s : State} (canon : s.hbm.ok = true) (c : Ctx) (va n : Nat) (use : Use) :
    WalkedOnly s (s.globAddr c va n use).1 (s.marked c.w.part (s.ctxOf c.w) va) := by
  have found := State.locate_walkedOnly canon c.w.part (s.ctxOf c.w) va n use c.priv
  unfold State.globAddr
  simp only
  split
  next h => rw [h] at found; exact found
  next h => rw [h] at found; exact found

/-- The checks of a lane's address change nothing but what its translation does (16 R344). -/
theorem State.laneAddr_walkedOnly {s : State} (canon : s.hbm.ok = true) (c : Ctx) (m : MemArg) (disp : Int) (n align : Nat) (perm : BitVec 8)
    (use : Use) (l : Lane) : WalkedOnly s (s.laneAddr c m disp n align perm use l).1
      (s.marked c.w.part (s.ctxOf c.w) (effOffset (s.quadAt c .a m.a l) (s.word c .b m.b l) m.sh disp)) := by
  unfold State.laneAddr
  simp only
  split
  · exact .refl s _
  split
  · exact .refl s _
  split
  · exact State.globAddr_walkedOnly canon c _ n use
  · exact .refl s _

/-! ## PAGE_WALK -/

/-- A walk that meets a poisoned entry, or has no tables, is all there is. -/
theorem exec_pageWalk_none {s : State} {part : Nat} {ctx : BitVec 6} {va : VA} (write : Bool) (h : (s.walk part ctx va.toNat).2 = none) :
    exec (.pageWalk part ctx va write) s = .next (s.walk part ctx va.toNat).1 := by
  show execPageWalk part ctx va write s = _
  unfold execPageWalk
  generalize s.walk part ctx va.toNat = r at h
  obtain ⟨t, e⟩ := r
  cases h
  rfl

/-- After a walk whose result is held the address is translated by it. -/
theorem exec_pageWalk_some {s : State} {part : Nat} {ctx : BitVec 6} {va : VA} (write : Bool) {q : Part} {e : TlbEntry}
    (h : (s.walk part ctx va.toNat).2 = some e) (hq : (s.walk part ctx va.toNat).1.part part = some q) (hit : q.tlbHit ctx va.toNat = some e) :
    exec (.pageWalk part ctx va write) s
      = .next ((s.walk part ctx va.toNat).1.translated q part ctx va.toNat (if write then .write else .read) true (some e)).1 := by
  show execPageWalk part ctx va write s = _
  unfold execPageWalk
  generalize s.walk part ctx va.toNat = r at h hq
  obtain ⟨t, e'⟩ := r
  cases h
  simp only
  rw [State.translate_some hq, t.translation_of_hit hit]

/-- A partition without tables for a context has no walk. -/
theorem State.walk_nowhere_of_part {s : State} {part : Nat} (h : s.part part = none) (ctx : BitVec 6) (va : Nat) :
    s.walk part ctx va = (s, none) := State.walk_nowhere (by rw [h]; rfl)

/-- PAGE_WALK sets A in each entry visited, changes no bit but A and D of those, and leaves its result held (05 R121, R122). -/
theorem exec_pageWalk_walks {s : State} (canon : s.hbm.ok = true) (part : Nat) (ctx : BitVec 6) (va : VA) (write : Bool) :
    ∃ t, exec (.pageWalk part ctx va write) s = .next t ∧ WalkedOnly s t (s.walked part ctx va.toNat) ∧
      (∀ a ∈ s.walked part ctx va.toNat, (t.hbm.mem.byte a).getLsbD 2 = true) ∧
      ∀ p x, s.part part = some p → p.ctxs.find ctx = some x → (∀ r, s.walkFrom p va.toNat 4 x.root.toNat [] [] ≠ .poisoned r) →
        ∃ q, t.part part = some q ∧ q.tlbHit ctx va.toNat ≠ none := by
  obtain ⟨walked, ok, set⟩ := s.walk_sets part ctx va.toNat canon
  cases found : (s.walk part ctx va.toNat).2 with
  | none =>
    refine ⟨_, exec_pageWalk_none write found, walked, set, fun p x hp hx whole => ?_⟩
    obtain ⟨-, -, poisoned⟩ | ⟨reads, base, size, w, leaf, -, walk⟩ := s.walk_cases part ctx va.toNat
    · obtain ⟨r, hr⟩ := poisoned p x hp hx
      exact absurd hr (whole r)
    · rw [walk] at found
      cases found
  | some e =>
    cases hp : s.part part with
    | none =>
      rw [State.walk_nowhere_of_part hp] at found
      cases found
    | some p =>
      obtain ⟨visited, q, hq, hit⟩ := State.walk_holds canon hp found
      have dirty : WalkedOnly _ _ (s.walked part ctx va.toNat) :=
        State.translated_walkedOnly (p := q) (part := part) (ctx := ctx) (va := va.toNat) (use := if write then .write else .read) (priv := true)
          (e := some e) ok fun x pa n u w y he page => by cases he; exact visited pa n u w y page
      refine ⟨_, exec_pageWalk_some write found hq hit, walked.trans dirty, fun a ha => dirty.keeps_bit (set a ha), fun _ _ _ _ _ => ?_⟩
      exact State.translated_holds ok hq (by rw [hit]; exact Option.some_ne_none e)

/-- Global memory is in canonical form. -/
theorem State.hbm_ok {s : State} (h : s.memOk = true) : s.hbm.ok = true := by
  unfold State.memOk at h
  simp only [Bool.and_eq_true] at h
  obtain ⟨⟨⟨⟨⟨⟨hbm, -⟩, -⟩, -⟩, -⟩, -⟩, -⟩ := h
  exact hbm

/-- Settles O29: every store of a walk or a translation sets one clear bit of the first byte of one entry (`State.orEntry_sets`), A in
the entries visited one after the other (`State.accessed_sets`), D in the leaf, which is one of them (`State.walkFrom_fits`). -/
theorem translationFrame : Obligations.TranslationFrame := by
  refine ⟨fun s u part ctx va use priv r ok h => ?_, fun s u c m disp n align perm use l r ok h => ?_,
    fun s part ctx va write ok => exec_pageWalk_walks (State.hbm_ok ok) part ctx va write⟩
  · have frame := State.translate_walkedOnly (State.hbm_ok ok) part ctx va use priv
    rw [h] at frame
    exact frame
  · have frame := State.laneAddr_walkedOnly (State.hbm_ok ok) c m disp n align perm use l
    rw [h] at frame
    exact frame

end Sys2Proof.Machine
end

section
/-! O22: two paths of one warp that go by one name (21 R407, R411, R415, R417). -/

namespace Sys2Proof.Machine

/-! ## A load that one lane of a path cannot make, on a core with one frame left -/

/-- LD.priv at an offset that is the lane's number, under p0. -/
def laneLoad : Instr := .ld ⟨⟨false, 0⟩, ⟨false, 7⟩, 0, false, false, 0, 0⟩ .thread .rlx false .b32 .z ⟨.z, .lid, 0, .priv⟩ 0

/-- A path of that name, as the debug agent holds it (21 R417). -/
def heldPath (pid : Nat) (lns : Mask) : Path := { Path.new pid lns 0x10000 0 with wait := .debug }

/-- Lanes 0 and 1 are a held path of the name 1, lane 2 stands on a path of the same name that is not held, and six further
lanes are held: seven frames of the core are in use. p0 is lane 1 alone. -/
def twinWarp : Warp :=
  { (Task.queued 0 0 1 0 (TaskRec.of 0) (KDesc.of 0)).startWarp 0 0 ⟨⟨0, 0⟩, 0⟩ 0 0 0 with
    wres := 64, preds := Vector.replicate 7 2
    paths := [heldPath 1 3, Path.new 1 4 0x10000 0] ++ (List.range 6).map (fun n => heldPath (n + 2) (BitVec.twoPow 32 (n + 3))) }

/-- The partition's one context has its handler at 0x40000. -/
def twinPart : Part :=
  { Part.create 0 awayArg [] (BitVec.allOnes 32) (BitVec.allOnes 256) with ctxs := [(0, ⟨0, 0, 0x40000, 0, 0⟩)] }

/-- The path of the name 1 is to issue. -/
def twinState : State :=
  { State.reset with fresh := 9, cur := some (⟨0, 0, 0⟩, 1), warps := [(⟨0, 0, 0⟩, twinWarp)], parts := [(0, twinPart)] }

/-- Lane 1 is written. -/
def twinCtx : Ctx :=
  { k := ⟨0, 0, 0⟩, pid := 1, w := twinWarp, rd := twinWarp, p := heldPath 1 3, x := 0x10000, h := laneLoad.hdr, act := 3, wr := 2, priv := false }

theorem twinCtx_issues : Issues twinState laneLoad false none twinCtx where
  ctx := by decide +kernel
  mode := by decide
  calm := by decide
  written := by decide
  role := nofun
  allowed := rfl
  owner := by decide
  range := by decide

theorem twinCtx_roomy : Roomy twinState laneLoad twinCtx where
  resident := by
    have none : laneLoad.names = [] := by decide
    simp [none]
  lines := fun j hj => by
    have free : twinCtx.w.wuse = 0 := by decide +kernel
    have reserved : twinCtx.w.wres = 64 := rfl
    omega

/-- A frame is free for the handler. -/
theorem twinCtx_canTrap : CanTrap twinState twinCtx (twinCtx.x.setWidth 64) where
  user := rfl
  free := by decide
  frames := fun pl h => by cases h; decide
  pc := by decide
  fresh := by decide

/-- Lane 1, the one lane that is written, is misaligned. -/
theorem twinState_privAll : twinState.privAll twinCtx ⟨.z, .lid, 0, .priv⟩ (0 : BitVec 24).toInt (Ty.bytes .b32) .read
    = (twinState, [(1, accessCause 0x06 0 1)], []) := by
  have lanes : lanes.filter twinCtx.wr.has = [1] := by decide
  unfold State.privAll
  rw [lanes]
  rfl

/-- After the load no path of the warp has a frame: as the first path of the name 1 goes on, `Warp.setPath` sets the second to it
as well, and the group that is then held takes the core's last frame, so lane 1 stands deferred. -/
theorem exec_laneLoad_frameless {t : State} {w : Warp} (step : exec laneLoad twinState = .next t) (warp : t.warp twinCtx.k = some w) :
    ∀ p ∈ w.paths, p.frame = none := by
  have bare : (match exec laneLoad twinState with
      | .next t => (t.warp twinCtx.k).all (fun w => w.paths.all (·.frame.isNone))
      | _ => false) = true := by decide +kernel
  rw [step] at bare
  simpa [warp] using bare

/-- Refutes O22: nothing sets the names of a warp's paths apart. Where two paths have one name and the first, which issues, is held
by the debug agent (21 R417), going on makes both of them held groups; with seven frames of the core in use, the lanes that fault
then find none free (21 R411, R415) and stand deferred, though `CanTrap` found one. -/
theorem not_privateMemory : ¬ Obligations.PrivateMemory := by
  intro h
  obtain ⟨-, -, -, loadFaults, -⟩ := h
  obtain ⟨t, w, f, step, -, -, -, -, warp, -, -, -, faulted, -⟩ := loadFaults twinState twinState _ _ _ _ _ _ _ _ twinCtx [] 1 _ []
    twinCtx_issues twinCtx_roomy rfl twinCtx_canTrap (by decide) twinState_privAll
  obtain ⟨p, mine, -, entered⟩ := faulted.handler
  have framed : p.frame ≠ none := by rw [entered]; exact Option.some_ne_none _
  exact framed (exec_laneLoad_frameless step warp p mine)

end Sys2Proof.Machine
end

section
/-! O28: the return of a load whose type moves no bytes (07 R153, 16 R344, R349). -/

namespace Sys2Proof.Machine

/-! ## An answered load of type F16 -/

/-- A load of type F16 into v30, its one access answered with the bytes 1 and 0 for all lanes. -/
def halfLoad : Entry :=
  { id := 7, kind := .ld, space := .glob, scope := .thread, ord := .rlx, ty := .f16, x := 0x10000, pid := 0, runId := 0
    accs := [{ lns := Mask.all, off := 0x1000, pa := 0x1000, len := 2, view := none, data := [], cmp := [], tag := false, seen := false
               served := true, res := [1, 0], g := 0 }]
    instr := .ld ⟨⟨false, 7⟩, ⟨false, 7⟩, 0, false, false, 0, 0⟩ .thread .rlx false .f16 (.v 30) ⟨.v 4, .z, 0, .glob⟩ 0, priv := false
    ch := 0, dst := some (.v 30, 1), held := [], lns := Mask.all, shape := .u, relDone := false, relSeq := 0, frame := none, issued := 0
    gated := none }

/-- The warp whose queue holds the load, on core 0 of cluster 0 with 64 lines of its own, of which it holds none. -/
def halfWarp : Warp :=
  { (Task.queued 0 0 1 0 (TaskRec.of 0) (KDesc.of 0)).startWarp 0 0 ⟨⟨0, 0⟩, 0⟩ 0 0 0 with wres := 64, queue := [halfLoad] }

/-- The module after reset, with that warp alone. -/
def halfState : State := { State.reset with warps := [(⟨0, 0, 0⟩, halfWarp)] }

theorem halfLoad_lined : Lined halfState (halfLoad.ctx halfWarp) := by
  intro j _
  have free : (halfLoad.ctx halfWarp).w.wuse = 0 := by decide +kernel
  have reserved : (halfLoad.ctx halfWarp).w.wres = 64 := rfl
  omega

theorem halfWarp_resident (n : Nat) (h : n < 128) : halfWarp.regs[n].spl = false := by
  have all : halfWarp.regs.toList.all (fun r => !r.spl) = true := by decide +kernel
  simpa using List.all_eq_true.mp all halfWarp.regs[n] (by simp)

/-- When the load returns, v30 holds 0 in lane 0: of a type that moves no bytes, `loadedWord` reads none. -/
theorem loadReturn_halfLoad {t : State} {v : Warp} (step : exec (.loadReturn ⟨0, 0, 0⟩ 7) halfState = .next t)
    (warp : t.warp ⟨0, 0, 0⟩ = some v) : v.regs[30].val.at 0 = 0 := by
  have zero : (match exec (.loadReturn ⟨0, 0, 0⟩ 7) halfState with
      | .next t => (t.warp ⟨0, 0, 0⟩).all (fun v => v.regs[30].val.at 0 == 0)
      | _ => false) = true := by decide +kernel
  rw [step] at zero
  simpa [warp] using zero

/-! ## The statement asks for another value -/

/-- Refutes O28: the statement takes the type of an entry as it comes, F16 among them, which moves no bytes (`Ty.bytes`) and which no
encoded LD has (16 R344). Of an answered load of that type `loadOf`, which extends a value of 1 or 2 bytes and takes every other type for
whole words, gives the lanes the answer's first word, here 1, while the model writes 0 (`loadedWord`). -/
theorem not_loadsServed : ¬ Obligations.LoadsServed := by
  rintro ⟨-, returns⟩
  obtain ⟨returned, -⟩ := returns halfState ⟨0, 0, 0⟩ 7 halfWarp halfLoad rfl rfl rfl (by decide) (by decide) halfLoad_lined
    (by rintro d n ⟨⟩; decide) (fun n h _ => halfWarp_resident n h) .nil nofun (.inr ⟨rfl, _, rfl⟩)
  obtain ⟨t, step, v, -, -, warp, -, -, -, received⟩ := returned (.inl rfl)
  have got : Got (halfLoad.ctx halfWarp) v (.v 30) 0 (resultOf halfLoad 0) _ := received (.v 30) 1 0 rfl (by decide) (by decide) nofun
  have one : v.regs[30].val.at 0 = resultOf halfLoad 0 0 := ((got (by decide)).1 0 (by decide)).1
  rw [loadReturn_halfLoad step warp] at one
  exact absurd one (by decide)

end Sys2Proof.Machine
end

section
/-! O30: the waits of the access queue (06 R139-R141, 16 R353, R354, 23 R437), and a path that waits for remote loads (04 R87). -/

namespace Sys2Proof.Machine

/-! ## An access queue is changed -/

theorem State.onEntry_eq {s : State} {k : WarpKey} {w : Warp} (h : s.warp k = some w) (id : Nat) (f : Entry → Entry) :
    s.onEntry k id f = s.putWarp k { w with queue := w.queue.map (fun e => if e.id = id then f e else e) } := by
  simp only [State.onEntry, State.onWarp_eq h, beq_iff_eq]

theorem State.dropEntry_eq {s : State} {k : WarpKey} {w : Warp} (h : s.warp k = some w) (id : Nat) :
    s.dropEntry k id = s.putWarp k { w with queue := w.queue.filter (·.id != id) } := State.onWarp_eq h _

/-- An entry that leaves the queue leaves it whatever has just been noted in it. -/
theorem State.dropEntry_onEntry {s : State} {k : WarpKey} {w : Warp} (h : s.warp k = some w) (id : Nat) {f : Entry → Entry}
    (named : ∀ e, (f e).id = e.id) : (s.onEntry k id f).dropEntry k id = s.dropEntry k id := by
  have gone : ∀ q : List Entry, (q.map (fun e => if e.id = id then f e else e)).filter (·.id != id) = q.filter (·.id != id) := by
    intro q
    induction q with
    | nil => rfl
    | cons e q ih => by_cases own : e.id = id <;> simp [own, named, ih]
  rw [State.onEntry_eq h, State.dropEntry_eq (State.warp_putWarp_same ..), State.putWarp_putWarp, State.dropEntry_eq h, gone]

theorem QueueOnly.refl {s : State} {k : WarpKey} {w : Warp} (h : s.warp k = some w) : QueueOnly s s k w w.queue :=
  ⟨rfl, fun _ _ => rfl, h⟩

theorem QueueOnly.putWarp (s : State) (k : WarpKey) (w : Warp) (q : List Entry) :
    QueueOnly s (s.putWarp k { w with queue := q }) k w q :=
  ⟨rfl, fun _ ne => State.warp_putWarp_ne _ _ ne, State.warp_putWarp_same ..⟩

theorem QueueOnly.onEntry {s : State} {k : WarpKey} {w : Warp} (h : s.warp k = some w) (id : Nat) (f : Entry → Entry) :
    QueueOnly s (s.onEntry k id f) k w (w.queue.map (fun e => if e.id = id then f e else e)) := by
  rw [State.onEntry_eq h]
  exact .putWarp ..

theorem QueueOnly.dropEntry {s : State} {k : WarpKey} {w : Warp} (h : s.warp k = some w) (id : Nat) :
    QueueOnly s (s.dropEntry k id) k w (w.queue.filter (·.id != id)) := by
  rw [State.dropEntry_eq h]
  exact .putWarp ..

/-! ## The three steps -/

section
variable {s : State} {k : WarpKey} {id : Nat} {w : Warp} {e : Entry}

/-- The release wait of an entry ends now. -/
def State.releaseDue (s : State) (w : Warp) (e : Entry) : Bool := e.waits && !e.relDone && s.releaseOver w e

/-- The entry, its release wait over as the n-th of the module's (06 R141). -/
def Entry.released (n : Nat) (e : Entry) : Entry := { e with relDone := true, relSeq := n }

/-- The release wait of an entry ends as the next of the module's. -/
def State.endRelease (s : State) (k : WarpKey) (id : Nat) : State := s.name.2.onEntry k id (Entry.released s.fresh)

theorem State.endRelease_queueOnly (hw : s.warp k = some w) (id : Nat) : QueueOnly s.name.2 (s.endRelease k id) k w
    (w.queue.map (fun f => if f.id = id then { f with relDone := true, relSeq := s.fresh } else f)) :=
  .onEntry (s := s.name.2) hw id (Entry.released s.fresh)

theorem State.dropEntry_endRelease_queueOnly (hw : s.warp k = some w) (id : Nat) :
    QueueOnly s.name.2 ((s.endRelease k id).dropEntry k id) k w (w.queue.filter (·.id != id)) := by
  unfold State.endRelease
  rw [State.dropEntry_onEntry (s := s.name.2) (f := Entry.released s.fresh) hw id fun _ => rfl]
  exact .dropEntry (s := s.name.2) hw id

theorem exec_releaseWaitElapsed_due (hw : s.warp k = some w) (he : w.entry id = some e) (due : s.releaseDue w e = true) :
    exec (.releaseWaitElapsed k id) s = .next
      (if e.kind = .fence ∧ w.fenceOver { e with relDone := true } = true then (s.endRelease k id).dropEntry k id else s.endRelease k id) := by
  have run : exec (.releaseWaitElapsed k id) s = execReleaseWaitElapsed k id s := rfl
  unfold State.releaseDue at due
  simp only [run, execReleaseWaitElapsed, hw, he, due, if_true, State.name, State.endRelease, Bool.and_eq_true, beq_iff_eq]
  rfl

theorem exec_releaseWaitElapsed_idle (hw : s.warp k = some w) (he : w.entry id = some e) (idle : s.releaseDue w e = false) :
    exec (.releaseWaitElapsed k id) s = .next (if e.kind = .fence ∧ w.fenceOver e = true then s.dropEntry k id else s) := by
  have run : exec (.releaseWaitElapsed k id) s = execReleaseWaitElapsed k id s := rfl
  unfold State.releaseDue at idle
  simp only [run, execReleaseWaitElapsed, hw, he, idle, Bool.false_eq_true, if_false, Bool.and_eq_true, beq_iff_eq]

/-- An access of the entry is still to be made at a peer that is out (23 R437). -/
theorem State.stuck_iff : s.stuck e = true ↔ ∃ a ∈ e.accs, a.served = false ∧ e.space = .glob ∧ isPeer a.pa = true ∧
    (s.portsDown = BitVec.allOnes 18 ∨ a.pa / (384 * 2 ^ 30) - 1 ∈ s.gatedPeers) := by
  simp only [State.stuck, State.unreachable, State.homeGated, State.portsOut, peerOf, List.any_eq_true, Bool.and_eq_true, Bool.or_eq_true,
    Bool.not_eq_true', beq_iff_eq, List.contains_iff_mem]

theorem exec_targetGatedRetry_free {t0 : DWord} (hw : s.warp k = some w) (he : w.entry id = some e) (gated : e.gated = some t0)
    (free : s.stuck e = false) : exec (.targetGatedRetry k id) s = .next (s.onEntry k id (fun f => { f with gated := none })) := by
  have run : exec (.targetGatedRetry k id) s = execTargetGatedRetry k id s := rfl
  simp only [run, execTargetGatedRetry, hw, he, gated, free, Bool.not_false, if_true]

theorem exec_targetGatedRetry_stuck {t0 : DWord} (hw : s.warp k = some w) (he : w.entry id = some e) (gated : e.gated = some t0)
    (stuck : s.stuck e = true) (early : s.gtime.toNat < t0.toNat + 10000) : exec (.targetGatedRetry k id) s = .next s := by
  have run : exec (.targetGatedRetry k id) s = execTargetGatedRetry k id s := rfl
  simp only [run, execTargetGatedRetry, hw, he, gated, stuck, early, Bool.not_true, Bool.false_eq_true, if_false, if_true]

theorem exec_remoteLoadBlock_due {n : Nat} {p : Path} (hw : s.warp k = some w) (hp : w.path n = some p) (due : s.remoteDue w p = true) :
    exec (.remoteLoadBlock k n) s = .next (s.putWarp k (w.setPath { p with remote := true })) := by
  have run : exec (.remoteLoadBlock k n) s = execRemoteLoadBlock k n s := rfl
  simp only [run, execRemoteLoadBlock, hw, hp, Option.bind_some, Option.map_some, due, if_true, State.onPath_eq hw hp]

end

/-- Settles O30: the end of a release wait is noted in its entry, with the next number, before a fence whose conditions then hold
leaves the queue, whatever was noted in it (`State.dropEntry_onEntry`); a gated target is retried, and a path marked, by the steps' own
conditions (`State.stuck_iff`, `State.remoteDue`). -/
theorem queueWaits : Obligations.QueueWaits := by
  refine ⟨fun s k id w e hw he => ?_, fun s k id w e t0 hw he gated => ?_, fun s k n w p hw hp wait run begun behind remote since => ?_⟩
  · cases due : s.releaseDue w e with
    | true =>
      have ends : (e.waits && !e.relDone && s.releaseOver w e) = true := due
      simp only [ends, if_true, exec_releaseWaitElapsed_due hw he due]
      split
      · exact ⟨_, rfl, State.dropEntry_endRelease_queueOnly hw id⟩
      · exact ⟨_, rfl, State.endRelease_queueOnly hw id⟩
    | false =>
      have stands : (e.waits && !e.relDone && s.releaseOver w e) = false := due
      simp only [stands, Bool.false_eq_true, if_false, exec_releaseWaitElapsed_idle hw he due]
      split
      · exact ⟨_, rfl, .dropEntry hw id⟩
      · exact ⟨_, rfl, .refl hw⟩
  · refine ⟨fun reached => ?_, fun out early => exec_targetGatedRetry_stuck hw he gated (State.stuck_iff.mpr out) early⟩
    have free : s.stuck e = false := Bool.eq_false_iff.mpr fun stuck => reached (State.stuck_iff.mp stuck)
    exact ⟨_, exec_targetGatedRetry_free hw he gated free, .onEntry hw id _⟩
  · have due : s.remoteDue w p = true := by
      unfold State.remoteDue
      simpa [wait, run, begun, behind, and_assoc] using ⟨remote, since⟩
    have pid : p.pid = n := Warp.path_pid hp
    exact ⟨_, _, exec_remoteLoadBlock_due hw hp due, rfl, fun _ ne => State.warp_putWarp_ne _ _ ne, State.warp_putWarp_same .., rfl,
      Warp.path_setPath_at hp pid, fun m ne => Warp.path_setPath_ne fun same => ne (same.trans pid)⟩

end Sys2Proof.Machine
end

section
/-! SUPPORT. What is read of every storage after bytes have been written to one of a task or a partition, its window spaces and tiles
(05 R110-R112, 08 R174), and what such a write leaves of the rest. -/

namespace Sys2Proof.Machine

/-! ## The storage of an area -/

/-- The task or the partition is there, so that what is written to its storage is kept. -/
def State.keeps (s : State) : Area → Prop
  | .shr t | .tile t => s.task t ≠ none
  | .scr t k => ∃ x, s.task t = some x ∧ k < x.scr.length
  | .chip p => s.part p ≠ none
  | _ => False

/-- Every storage of the module is in canonical form. -/
def State.sound (s : State) : Prop := ∀ ar, (s.area ar).ok = true

theorem State.task_ok {s : State} (h : s.memOk = true) {n : Nat} {x : Task} (hx : s.task n = some x) : x.ok = true := by
  simp only [State.memOk, Bool.and_eq_true, List.all_eq_true] at h
  obtain ⟨⟨⟨-, tasks⟩, -⟩, -⟩ := h
  exact tasks _ (Tab.mem_of_find hx)

theorem State.chip_ok {s : State} (h : s.memOk = true) {n : Nat} {p : Part} (hp : s.part n = some p) : p.chip.ok = true := by
  simp only [State.memOk, Bool.and_eq_true, List.all_eq_true] at h
  obtain ⟨⟨⟨⟨-, parts⟩, -⟩, -⟩, -⟩ := h
  exact parts _ (Tab.mem_of_find hp)

theorem State.ws_ok {s : State} (h : s.memOk = true) (n : Nat) : (s.cluster n).ws.ok = true := by
  simp only [State.memOk, Bool.and_eq_true, List.all_eq_true] at h
  obtain ⟨⟨-, clusters⟩, -⟩ := h
  unfold State.cluster
  cases hc : s.clusters.find n with
  | none => rfl
  | some c => exact clusters _ (Tab.mem_of_find hc)

theorem State.sound_of_memOk {s : State} (h : s.memOk = true) : s.sound := by
  have task : ∀ n x, s.task n = some x → x.shr.ok = true ∧ (∀ st ∈ x.scr, st.ok = true) ∧ x.tile.ok = true := fun n x hx => by
    simpa [Task.ok, and_assoc] using State.task_ok h hx
  intro ar
  cases ar with
  | hbm => exact State.memOk_hbm h
  | shr t =>
    simp only [State.area]
    split
    next x hx => exact (task _ _ hx).1
    next => rfl
  | scr t k =>
    simp only [State.area]
    split
    next x hx =>
      obtain ⟨-, scr, -⟩ := task _ _ hx
      by_cases inside : k < x.scr.length
      · rw [List.getD_eq_getElem _ _ inside]
        exact scr _ (List.getElem_mem inside)
      · rw [List.getD_eq_default _ _ (Nat.le_of_not_lt inside)]
        rfl
    next => rfl
  | tile t =>
    simp only [State.area]
    split
    next x hx => exact (task _ _ hx).2.2
    next => rfl
  | chip n =>
    simp only [State.area]
    split
    next p hp => exact State.chip_ok h hp
    next => rfl
  | ws k => exact State.ws_ok h k
  | _ => rfl

/-- A storage is what global memory and the tables of tasks, partitions and clusters say. -/
theorem State.area_congr {s t : State} (hbm : t.hbm = s.hbm) (tasks : t.tasks = s.tasks) (parts : t.parts = s.parts)
    (clusters : t.clusters = s.clusters) (ar : Area) : t.area ar = s.area ar := by
  unfold State.area State.task State.part State.cluster
  rw [hbm, tasks, parts, clusters]

/-- A cluster set with its weight store as it was leaves every storage. -/
theorem State.area_setCluster {s : State} {k : Nat} {x : Cluster} (h : x.ws = (s.cluster k).ws) (ar : Area) :
    (s.setCluster k x).area ar = s.area ar := by
  cases ar with
  | ws n =>
    simp only [State.area]
    by_cases e : n = k
    · rw [e, State.cluster_setCluster_same, h]
    · rw [State.cluster_setCluster_ne _ _ e]
  | _ => rfl

theorem State.task_onTask (s : State) (n m : Nat) (f : Task → Task) :
    (s.onTask n f).task m = if m = n then (s.task n).map f else s.task m := by
  split
  next e =>
    rw [e]
    cases hx : s.task n with
    | none => unfold State.onTask; rw [hx]; exact hx
    | some x => exact State.task_onTask_same hx f
  next e => exact State.task_onTask_ne s f e

/-- What is read of the storages of tasks after a task has been changed. -/
theorem State.area_onTask {s : State} {t : Nat} {x : Task} (h : s.task t = some x) (f : Task → Task) (ar : Area) :
    (s.onTask t f).area ar = match ar with
      | .shr n => if n = t then (f x).shr else s.area ar
      | .scr n k => if n = t then (f x).scr.getD k .empty else s.area ar
      | .tile n => if n = t then (f x).tile else s.area ar
      | _ => s.area ar := by
  cases ar with
  | shr n | scr n k | tile n => by_cases e : n = t <;> simp [State.area, State.task_onTask, h, e]
  | _ => rw [State.onTask_only]; rfl

/-- A storage of a task or partition that is set is the one found, and every other storage stands. -/
theorem State.area_setArea {s : State} {a : Area} (h : s.keeps a) (st : Store) (ar : Area) :
    (s.setArea a st).area ar = if ar = a then st else s.area ar := by
  cases a with
  | shr t | tile t =>
    obtain ⟨x, hx⟩ := Option.ne_none_iff_exists'.mp h
    refine (State.area_onTask hx _ ar).trans ?_
    cases ar <;> simp
    all_goals rintro rfl; simp [State.area, hx]
  | scr t k =>
    obtain ⟨x, hx, inside⟩ := h
    refine (State.area_onTask hx _ ar).trans ?_
    cases ar with
    | scr n m =>
      by_cases e : n = t
      · subst e
        by_cases e : m = k
        · simp [e, inside]
        · simp [State.area, hx, e, List.getD, List.getElem?_set_ne (Ne.symm e)]
      · simp [e]
    | shr n | tile n => simp; rintro rfl; simp [State.area, hx]
    | _ => simp
  | chip n =>
    obtain ⟨p, hp⟩ := Option.ne_none_iff_exists'.mp h
    have rest : s.setArea (.chip n) st = s.putPart n { p with chip := st } := State.onPart_eq hp _
    rw [rest]
    cases ar with
    | chip m =>
      by_cases e : m = n
      · simp [State.area, e]
      · simp [State.area, e, State.part_putPart_ne]
    | _ => simp; rfl
  | _ => exact h.elim

/-! ## A write changes storage and logs, and upsets that it makes good -/

/-- A task without what its storages hold. -/
def Task.shell (x : Task) : Task := { x with shr := .empty, scr := List.replicate x.scr.length .empty, tile := .empty }

/-- The second state is the first but for what its storages hold, the logs of its partitions and the upsets that stand. -/
structure State.StorageOnly (s t : State) : Prop where
  rest : t = { s with tasks := t.tasks, parts := t.parts, upsets := t.upsets }
  tasks : ∀ n, (t.task n).map Task.shell = (s.task n).map Task.shell
  parts : ∀ n, (t.part n).map Part.bare = (s.part n).map Part.bare

section
variable {s t u : State}

theorem State.StorageOnly.refl (s : State) : s.StorageOnly s := ⟨rfl, fun _ => rfl, fun _ => rfl⟩

theorem State.StorageOnly.trans (h : s.StorageOnly t) (g : t.StorageOnly u) : s.StorageOnly u :=
  ⟨by rw [g.rest, h.rest], fun n => (g.tasks n).trans (h.tasks n), fun n => (g.parts n).trans (h.parts n)⟩

theorem State.StorageOnly.warps (h : s.StorageOnly t) : t.warps = s.warps := by rw [h.rest]
theorem State.StorageOnly.ops (h : s.StorageOnly t) : t.ops = s.ops := by rw [h.rest]

theorem State.StorageOnly.warp (h : s.StorageOnly t) (k : WarpKey) : t.warp k = s.warp k := by rw [State.warp, h.warps]; rfl
theorem State.StorageOnly.op (h : s.StorageOnly t) (id : Nat) : t.op id = s.op id := by rw [State.op, h.ops]; rfl

/-- No lane watches a word, where the warps are those of a state in which none does. -/
theorem State.unwatched.of_warps (calm : s.unwatched) (same : t.warps = s.warps) : t.unwatched := by
  unfold State.unwatched
  rw [same]
  exact calm

/-- What is read of a task without its storages, but of how many they are. -/
theorem State.StorageOnly.task_map {β : Type} (h : s.StorageOnly t) (g : Task → β) (read : ∀ x, g x = g x.shell) (n : Nat) :
    (t.task n).map g = (s.task n).map g := by
  have shell : ∀ x : Option Task, x.map g = (x.map Task.shell).map g := fun x => by
    rw [Option.map_map]
    exact Option.map_congr fun x _ => read x
  rw [shell (t.task n), shell (s.task n), h.tasks]

/-- What is read of a partition without its chip window and logs. -/
theorem State.StorageOnly.part_map {β : Type} (h : s.StorageOnly t) (g : Part → β) (read : ∀ p, g p = g p.bare) (n : Nat) :
    (t.part n).map g = (s.part n).map g := by
  have bare : ∀ x : Option Part, x.map g = (x.map Part.bare).map g := fun x => by
    rw [Option.map_map]
    exact Option.map_congr fun p _ => read p
  rw [bare (t.part n), bare (s.part n), h.parts]

theorem State.StorageOnly.untraced (h : s.StorageOnly t) {n : Nat} {p : Part} (hp : s.part n = some p) (off : p.trace = none) :
    ∀ q, t.part n = some q → q.trace = none := by
  intro q hq
  have same := h.part_map Part.trace (fun _ => rfl) n
  rw [hp, hq] at same
  simpa [off] using same

/-- A storage that is there stays. -/
theorem State.StorageOnly.keeps (h : s.StorageOnly t) {a : Area} (ha : s.keeps a) : t.keeps a := by
  cases a with
  | shr n | tile n => exact fun none => ha (by simpa [none] using (h.tasks n).symm)
  | chip n => exact fun none => ha (by simpa [none] using (h.parts n).symm)
  | scr n k =>
    obtain ⟨x, hx, inside⟩ := ha
    have same := h.task_map (·.scr.length) (fun x => by simp [Task.shell]) n
    rw [hx, Option.map_some] at same
    obtain ⟨y, hy, len⟩ := Option.map_eq_some_iff.mp same
    exact ⟨y, hy, len ▸ inside⟩
  | _ => exact ha.elim

/-- Where a window lies, by the tables that say it. -/
theorem State.window_eq (s : State) (w : Warp) (sp : Space) : s.window w sp = match sp with
    | .scr =>
      if w.harvest then
        (w.place.bind (fun pl => (s.core pl.core).lent)).elim (.scr w.key.task w.key.team, 0, 0)
          (fun l => if w.lentMap then (.scr l.task l.team, l.off, l.len) else (.scr w.key.task w.key.team, 0, 0))
      else (.scr w.key.task w.key.team, 0, ((s.task w.key.task).map Task.scrLen).getD 0)
    | .shr => (.shr w.key.task, 0, ((s.task w.key.task).map Task.shrLen).getD 0)
    | _ => (.chip w.part, 0, ((s.part w.part).map (fun p => p.chipColours.length * 2 ^ 21)).getD 0) := by
  unfold State.window
  cases sp with
  | scr =>
    simp only
    cases w.place.bind (fun pl => (s.core pl.core).lent) <;> cases s.task w.key.task <;> rfl
  | shr => simp only; cases s.task w.key.task <;> rfl
  | _ => simp only; cases s.part w.part <;> rfl

/-- Every window lies where it lay. -/
theorem State.StorageOnly.window (h : s.StorageOnly t) (w : Warp) (sp : Space) : t.window w sp = s.window w sp := by
  have core : ∀ c, t.core c = s.core c := fun c => by rw [h.rest]; rfl
  simp only [State.window_eq, core, h.task_map Task.scrLen (fun _ => rfl), h.task_map Task.shrLen (fun _ => rfl),
    h.part_map (fun p => p.chipColours.length * 2 ^ 21) (fun _ => rfl)]

end

theorem State.logLines_storageOnly (s : State) (part : Nat) (a : Area) (lines : List Nat) :
    s.StorageOnly (lines.foldl (fun s l => s.logLine part a l) s) := by
  obtain ⟨rest, same⟩ := s.logLines_only part a lines
  exact ⟨rest.trans (by rw [rest]), fun n => by rw [rest]; rfl, same.map Part.bare fun p => by rfl⟩

theorem State.area_chip (s : State) (n : Nat) : s.area (.chip n) = ((s.part n).map Part.chip).getD .empty := by
  simp only [State.area]
  cases s.part n <;> rfl

/-- Lines logged leave every storage. -/
theorem State.area_logLines (s : State) (part : Nat) (a : Area) (lines : List Nat) (ar : Area) :
    (lines.foldl (fun s l => s.logLine part a l) s).area ar = s.area ar := by
  obtain ⟨rest, same⟩ := s.logLines_only part a lines
  cases ar with
  | chip n => rw [State.area_chip, State.area_chip, same.map Part.chip (fun _ => rfl)]
  | _ => rw [rest]; rfl

/-- A storage set changes nothing but that storage. -/
theorem State.setArea_storageOnly {s : State} {a : Area} (h : s.keeps a) (st : Store) : s.StorageOnly (s.setArea a st) := by
  have task : ∀ (n : Nat) (f : Task → Task), (∀ x, (f x).shell = x.shell) → s.StorageOnly (s.onTask n f) := fun n f hf =>
    ⟨by rw [State.onTask_only], fun m => by
      rw [State.task_onTask]
      split
      next e => rw [e, Option.map_map]; exact Option.map_congr fun x _ => hf x
      next => rfl, fun m => by rw [State.onTask_only]; rfl⟩
  cases a with
  | shr n | tile n => exact task n _ fun _ => rfl
  | scr n k => exact task n _ fun x => by simp [Task.shell]
  | chip n =>
    have only : s.setArea (.chip n) st = { s with parts := (s.setArea (.chip n) st).parts } := s.onPart_only n _
    exact ⟨by rw [only], fun m => by rw [only]; rfl, s.part_onPart_map n Part.bare fun _ => rfl⟩
  | _ => exact h.elim

/-! ## Bytes written to a storage -/

/-- Bytes have been written to a storage from an address; no other storage is changed, and no unit is poisoned that was not. -/
structure State.Puts (s t : State) (a : Area) (off : Nat) (bs : List Byte) : Prop where
  only : s.StorageOnly t
  mem : ∀ ar, (t.area ar).mem = if ar = a then (s.area ar).mem.putAll off bs else (s.area ar).mem
  poison : ∀ ar, (t.area ar).poison ⊆ (s.area ar).poison

theorem State.Puts.sound {s t : State} {a : Area} {off : Nat} {bs : List Byte} (h : s.Puts t a off bs) (sound : s.sound) : t.sound := by
  intro ar
  show Memory.wf _ = true
  rw [h.mem]
  split
  · exact Memory.putAll_wf (sound ar)
  · exact sound ar

theorem State.Puts.landed {s t : State} {a : Area} {off : Nat} {bs : List Byte} (h : s.Puts t a off bs) (sound : s.sound) :
    Landed s t (a, off, bs.length) bs := by
  intro ar x
  rw [h.mem]
  by_cases e : ar = a
  · rw [if_pos e, Memory.byte_putAll (sound ar)]
    simp [e]
  · simp [e]

theorem State.writeArea_puts {s : State} {a : Area} (h : s.keeps a) (part off : Nat) (bs : List Byte) :
    s.Puts (s.writeArea part a off bs) a off bs := by
  have logged := s.logLines_storageOnly part a (blocks 128 off bs.length)
  have kept := s.area_logLines part a (blocks 128 off bs.length)
  unfold State.writeArea
  simp only
  generalize List.foldl _ s _ = t at logged kept
  have found := State.area_setArea (logged.keeps h) ((t.area a).write off bs)
  refine ⟨logged.trans (State.setArea_storageOnly (logged.keeps h) _), fun ar => ?_, fun ar => ?_⟩
  · rw [found, kept, kept]
    split
    next e => rw [e]; rfl
    next => rfl
  · rw [found, kept, kept]
    split
    next e => rw [e]; exact List.filter_subset_self _
    next => exact List.Subset.refl _

/-- The lines of a storage are stamped after a write: its bytes and poison stand. -/
theorem State.stampWrite_puts {s : State} {a : Area} (h : s.keeps a) (part off : Nat) (bs : List Byte) (g : Nat) :
    s.Puts (s.stampWrite part a off bs g) a off bs := by
  have wrote := State.writeArea_puts h part off bs
  unfold State.stampWrite
  simp only
  generalize s.writeArea part a off bs = t at wrote
  have found := State.area_setArea (wrote.only.keeps h) ((t.area a).stamp off bs.length g)
  refine ⟨wrote.only.trans (State.setArea_storageOnly (wrote.only.keeps h) _), fun ar => ?_, fun ar => ?_⟩
  · rw [found, ← wrote.mem]
    split
    next e => rw [e]; rfl
    next => rfl
  · rw [found]
    refine List.Subset.trans ?_ (wrote.poison ar)
    split
    next e => rw [e]; exact List.Subset.refl _
    next => exact List.Subset.refl _

theorem State.area_renew (s : State) (a : Area) (written : Nat → Bool) (ar : Area) : (s.renew a written).area ar = s.area ar :=
  State.area_congr rfl rfl rfl rfl ar

/-- Upsets made good after a write change no byte. -/
theorem State.Puts.renew {s t : State} {a : Area} {off : Nat} {bs : List Byte} (h : s.Puts t a off bs) (b : Area) (written : Nat → Bool) :
    s.Puts (t.renew b written) a off bs :=
  ⟨h.only.trans ⟨rfl, fun _ => rfl, fun _ => rfl⟩, fun ar => by rw [State.area_renew]; exact h.mem ar,
    fun ar => by rw [State.area_renew]; exact h.poison ar⟩

/-! ## Accesses inside a window -/

/-- The scratchpad window lies in a scratchpad. -/
theorem State.window_scr (s : State) (w : Warp) : ∃ t k, (s.window w .scr).1 = .scr t k := by
  rw [State.window_eq]
  simp only
  split
  · cases w.place.bind (fun pl => (s.core pl.core).lent) with
    | none => exact ⟨_, _, rfl⟩
    | some l => simp only [Option.elim_some]; split <;> exact ⟨_, _, rfl⟩
  · exact ⟨_, _, rfl⟩

/-- A window whose storage is there lies in one that keeps what is written. -/
theorem State.keeps_window {s : State} {w : Warp} {sp : Space} (h : s.holds (s.window w sp).1) : s.keeps (s.window w sp).1 := by
  cases sp with
  | scr =>
    obtain ⟨t, k, e⟩ := s.window_scr w
    rw [e] at h ⊢
    exact h
  | _ => exact h

theorem State.windowWrite_puts {s : State} {w : Warp} {sp : Space} {off : Nat} {bs : List Byte} (h : s.keeps (s.window w sp).1)
    (inside : s.windowIn w sp off bs.length = true) :
    s.Puts (s.windowWrite w sp off bs) (s.window w sp).1 ((s.window w sp).2.1 + off) bs := by
  have whole : off + bs.length ≤ (s.window w sp).2.2 := of_decide_eq_true inside
  have all : bs.take ((s.window w sp).2.2 - off) = bs := List.take_of_length_le (by omega)
  unfold State.windowWrite
  simp only [all]
  split
  next none =>
    obtain rfl : bs = [] := by
      rw [Bool.or_eq_true, List.isEmpty_iff, decide_eq_true_iff] at none
      exact none.elim id fun (out : (s.window w sp).2.2 ≤ off) => List.eq_nil_of_length_eq_zero (by omega)
    exact ⟨.refl s, fun ar => by simp [Memory.putAll], fun ar => List.Subset.refl _⟩
  next => exact State.stampWrite_puts h ..

/-! ## A part of a window -/

section
variable {s : State} {w : Warp} {sp : Space} {off n : Nat}

theorem mem_blocks {g a n x : Nat} : x ∈ blocks g a n ↔ 0 < n ∧ a / g ≤ x ∧ x ≤ (a + n - 1) / g := by
  unfold blocks
  split
  next none => simp [none]
  next some =>
    have rise : a / g ≤ (a + n - 1) / g := Nat.div_le_div_right (by omega)
    rw [List.mem_map]
    refine ⟨?_, fun ⟨_, lo, hi⟩ => ⟨x - a / g, List.mem_range.mpr (by omega), by omega⟩⟩
    rintro ⟨y, hy, rfl⟩
    have := List.mem_range.mp hy
    omega

/-- The blocks of a part of a range are among those of the range. -/
theorem blocks_part {g a n i m : Nat} (part : i + m ≤ n) : blocks g (a + i) m ⊆ blocks g a n := by
  intro x hx
  obtain ⟨some, lo, hi⟩ := mem_blocks.mp hx
  exact mem_blocks.mpr ⟨by omega, (Nat.div_le_div_right (Nat.le_add_right a i)).trans lo, hi.trans (Nat.div_le_div_right (by omega))⟩

/-- A part of a range without poison has none, in a storage where no more is poisoned. -/
theorem Store.clean_part {x y : Store} {a i m : Nat} (clean : x.poisoned a n = false) (less : y.poison ⊆ x.poison) (part : i + m ≤ n) :
    y.poisoned (a + i) m = false := by
  simp only [Store.poisoned, List.any_eq_false, List.contains_iff_mem] at clean ⊢
  exact fun b hb bad => clean b (blocks_part part hb) (less bad)

/-- What lies inside a window is read whole. -/
theorem State.windowRead_poison (inside : s.windowIn w sp off n = true) :
    (s.windowRead w sp off n).poison = (s.area (s.window w sp).1).poisoned ((s.window w sp).2.1 + off) n := by
  have whole : off + n ≤ (s.window w sp).2.2 := of_decide_eq_true inside
  have all : min n ((s.window w sp).2.2 - off) = n := by omega
  simp only [State.windowRead, all]

theorem State.windowIn_part {i m : Nat} (inside : s.windowIn w sp off n = true) (part : i + m ≤ n) : s.windowIn w sp (off + i) m = true := by
  have whole : off + n ≤ (s.window w sp).2.2 := of_decide_eq_true inside
  exact decide_eq_true (by omega : off + i + m ≤ (s.window w sp).2.2)

end

end Sys2Proof.Machine
end

section
/-! SUPPORT. The operations that engines hold, by their names, and an engine's accesses inside a window (06 R146, 17 R367). -/

namespace Sys2Proof.Machine

/-! ## The operations of the engines -/

section
variable {s : State} {o o' : EngOp} {id : Nat}

theorem State.op_id (h : s.op id = some o) : o.id = id := by simpa using List.find?_some h

/-- Of names that stand once an operation is the one found by its name. -/
theorem State.plainOps.eq_of_id (plain : s.plainOps) (h : o ∈ s.ops) (h' : o' ∈ s.ops) (same : o'.id = o.id) : o' = o :=
  List.inj_on_of_nodup_map plain.1 h' h same

theorem State.plainOps.op (plain : s.plainOps) (h : o ∈ s.ops) : s.op o.id = some o := by
  obtain ⟨x, hx⟩ : ∃ x, s.op o.id = some x :=
    Option.isSome_iff_exists.mp (List.find?_isSome.mpr ⟨o, h, by simp⟩)
  rw [hx, plain.eq_of_id h (List.mem_of_find?_eq_some hx) (State.op_id hx)]

theorem State.plainOps.of_ops {t : State} (plain : s.plainOps) (same : t.ops = s.ops) : t.plainOps := by
  unfold State.plainOps
  rw [same]
  exact plain

/-- The operation set is the one found. -/
theorem State.op_setOp (h : s.op id = some o) (same : o'.id = id) : (s.setOp o').op id = some o' := by
  subst same
  have pick : (fun x : EngOp => x.id == o'.id) ∘ (fun x => if x.id == o'.id then o' else x) = fun x => x.id == o'.id := by
    funext x
    by_cases e : x.id = o'.id <;> simp [e]
  have found : s.ops.find? (fun x => x.id == o'.id) = some o := h
  have name : o.id = o'.id := State.op_id h
  simp only [State.op, State.setOp, List.find?_map, pick, found, Option.map_some]
  simp [name]

/-- Without an operation that was set the operations are those that stood without it. -/
theorem State.filter_setOp (s : State) (o : EngOp) : (s.setOp o).ops.filter (·.id != o.id) = s.ops.filter (·.id != o.id) := by
  simp only [State.setOp]
  induction s.ops with
  | nil => rfl
  | cons x xs ih =>
    rw [List.map_cons, List.filter_cons, List.filter_cons, ih]
    by_cases e : x.id = o.id <;> simp [e]

theorem State.plainOps.setOp (plain : s.plainOps) (done : ∀ h c n, o.phase ≠ .collecting h c n) : (s.setOp o).plainOps := by
  obtain ⟨apart, idle⟩ := plain
  refine ⟨?_, fun x hx => ?_⟩
  · have names : (s.setOp o).ops.map (·.id) = s.ops.map (·.id) := by
      simp only [State.setOp, List.map_map]
      refine List.map_congr_left fun x _ => ?_
      by_cases e : x.id = o.id <;> simp [e]
    rwa [names]
  · obtain ⟨y, hy, rfl⟩ := List.mem_map.mp hx
    split
    · exact done
    · exact idle y hy

/-- Where no collective waits for its members none is finished. -/
theorem State.collect_idle (plain : s.plainOps) : s.collect = s := by
  unfold State.collect
  refine List.foldlRecOn (motive := (· = s)) _ _ rfl fun t e x _ => ?_
  subst e
  split
  next o ho =>
    have idle := plain.2 o (List.mem_of_find?_eq_some ho)
    unfold State.finishColl
    split
    next phase => exact (idle _ _ _ phase).elim
    next => rfl
  next => rfl

/-- Where in addition no lane watches a word nothing comes of a write. -/
theorem State.settle_idle (plain : s.plainOps) (calm : s.unwatched) : s.collect.watch = s := by
  rw [State.collect_idle plain, State.watch_idle calm]

theorem State.setOp_self (plain : s.plainOps) (h : s.op o.id = some o) : s.setOp o = s := by
  have same : s.ops.map (fun x => if x.id == o.id then o else x) = s.ops := by
    refine (List.map_congr_left fun x hx => ?_).trans (List.map_id _)
    split
    next e => exact (plain.eq_of_id (List.mem_of_find?_eq_some h) hx (beq_iff_eq.mp e)).symm
    next => rfl
  unfold State.setOp
  rw [same]

/-- An operation set in its own place is the oldest of its class where it was. -/
theorem State.oldest_setOp (plain : s.plainOps) (h : s.op o.id = some o) (name : o'.id = o.id) (warp : o'.w = o.w) (cls : o'.cls = o.cls) :
    (s.setOp o').oldest o' = s.oldest o := by
  have pick : ∀ x ∈ s.ops, ((fun x : EngOp => x.w == o.w && x.cls == o.cls) ∘ fun x => if x.id == o'.id then o' else x) x
      = (fun x : EngOp => x.w == o.w && x.cls == o.cls) x := fun x hx => by
    by_cases e : x.id = o.id
    · simp [plain.eq_of_id (List.mem_of_find?_eq_some h) hx e, name, warp, cls]
    · simp [e, name]
  have named : ∀ x : EngOp, ((if x.id == o'.id then o' else x).id == o'.id) = (x.id == o.id) := fun x => by
    by_cases e : x.id = o.id <;> simp [e, name]
  simp only [State.oldest, State.setOp, cls, warp, List.find?_map]
  rw [List.find?_congr pick]
  simp only [Option.any_map, named]

end

@[simp] theorem State.area_setOp (s : State) (o : EngOp) (ar : Area) : (s.setOp o).area ar = s.area ar := State.area_congr rfl rfl rfl rfl ar

/-! ## Reads and writes of an engine inside a window (17 R367) -/

section
variable {s : State} {o : EngOp} {w : Warp} {sp : Space} {off n : Nat}

theorem State.checkGuard_inside (inside : s.windowIn w sp off n = true) : s.checkGuard w sp off n = s := if_pos inside

theorem State.engRead_window (o : EngOp) (windowed : sp ≠ .glob) (inside : s.windowIn w sp off n = true)
    (clean : (s.windowRead w sp off n).poison = false) :
    s.engRead o w sp off n = (s, .ok (s.windowBytes w sp off n, (s.windowRead w sp off n).g)) := by
  have read : (s.windowRead w sp off n).bytes = s.windowBytes w sp off n := rfl
  unfold State.engRead
  simp only [beq_eq_false_iff_ne.mpr windowed, clean, read, State.checkGuard_inside inside, Bool.false_eq_true, if_false]

theorem State.engWrite_window (o : EngOp) {bs : List Byte} (windowed : sp ≠ .glob) (inside : s.windowIn w sp off bs.length = true)
    (keeps : s.keeps (s.window w sp).1) : s.engWrite o w sp off bs = (s.windowWrite w sp off bs, .ok (s.windowNow w sp off)) := by
  have still : (s.windowWrite w sp off bs).windowIn w sp off bs.length = true := by
    unfold State.windowIn
    rw [(State.windowWrite_puts keeps inside).only.window]
    exact inside
  unfold State.engWrite
  simp only [beq_eq_false_iff_ne.mpr windowed, State.checkGuard_inside still, Bool.false_eq_true, if_false]

theorem State.readRows_one (o : EngOp) {q : CapBits} {tag : Bool} {start pitch r a : Nat} {perm : BitVec 8} (windowed : sp ≠ .glob)
    (row : rowAt q tag start pitch r n perm = .ok a) (inside : s.windowIn w sp a n = true)
    (clean : (s.windowRead w sp a n).poison = false) :
    s.readRows o w q tag sp start pitch n perm [r] = (s, .ok ([s.windowBytes w sp a n], max 0 (s.windowRead w sp a n).g)) := by
  unfold State.readRows
  simp only [List.foldl_cons, List.foldl_nil, row, State.engRead_window o windowed inside clean, List.nil_append]

theorem State.writeRows_one (o : EngOp) {c : Card} {pitch r b : Nat} {bs : List Byte} (windowed : sp ≠ .glob)
    (row : rowAt c.dcap c.dtag c.doff pitch r bs.length (permW ||| permAsync) = .ok b) (inside : s.windowIn w sp b bs.length = true)
    (keeps : s.keeps (s.window w sp).1) (calm : s.unwatched) :
    s.writeRows o w c sp [(r, bs)] pitch = (s.windowWrite w sp b bs, .ok (max 0 (s.windowNow w sp b))) := by
  have quiet := State.watch_idle (calm.of_warps (State.windowWrite_puts keeps inside).only.warps)
  unfold State.writeRows
  simp only [List.foldl_cons, List.foldl_nil, row, State.engWrite_window o windowed inside keeps, quiet]

/-- The pitch of a capability's rows is nothing to its first row. -/
theorem rowAt_first (q : CapBits) (tag : Bool) (off pitch pitch' len : Nat) (perm : BitVec 8) :
    rowAt q tag off pitch 0 len perm = rowAt q tag off pitch' 0 len perm := by
  simp only [rowAt, Nat.cast_zero, zero_mul]

end

end Sys2Proof.Machine
end

section
/-! O39: an engine takes an operation and works it, a contribution arrives, an operation completes (06 R146, R147, 08 R176, R177,
09 R195-R199, R211). -/

namespace Sys2Proof.Machine

/-! ## COLLECTIVE_CONTRIBUTION -/

theorem exec_collectiveContribution_keeps {s : State} (plain : s.plainOps) (calm : s.unwatched) (part k : Nat) (set pos : BitVec 8)
    (cols : BitVec 16) (data : List Word) : exec (.collectiveContribution part set k pos cols data) s = .next { s with
      contribs := s.contribs ++ [{ part := part, set := set, k := k, pos := pos.toNat, cols := cols, data := data }] } :=
  congrArg Host.Outcome.next (State.settle_idle (s := { s with contribs := _ }) plain calm)

/-! ## ENGINE_OP_COMPLETE -/

/-- A warp whose counter has fallen by one for an operation (06 R147). -/
def EngOp.leaves (o : EngOp) (w : Warp) : Warp := match o.cls with | some cls => w.setCnt cls (w.cnt cls - 1) | none => w

@[simp] theorem EngOp.leaves_queue (o : EngOp) (w : Warp) : (o.leaves w).queue = w.queue := by
  unfold EngOp.leaves
  split
  next cls _ => cases cls <;> rfl
  next => rfl

/-- The state without an operation. -/
def State.dropOp (s : State) (o : EngOp) : State := { s with ops := s.ops.filter (·.id != o.id) }
/-- The state without an operation, its counter fallen. -/
def State.without (s : State) (o : EngOp) (w : Warp) : State := (s.dropOp o).putWarp o.w (o.leaves w)

@[simp] theorem State.area_without (s : State) (o : EngOp) (w : Warp) (ar : Area) : (s.without o w).area ar = s.area ar :=
  State.area_congr rfl rfl rfl rfl ar

theorem State.without_unwatched {s : State} {o : EngOp} {w : Warp} (calm : s.unwatched) (hw : s.warp o.w = some w) :
    (s.without o w).unwatched := by
  intro kw hk e he
  obtain rfl | old := Tab.mem_set hk
  · exact calm _ (Tab.mem_of_find hw) e (by simpa using he)
  · exact calm kw old e he

/-- Without a failure and without a trace buffer an operation is gone and its counter has fallen; nothing else comes of it. -/
theorem State.retireOp_eq {s : State} {o : EngOp} {w : Warp} (hw : s.warp o.w = some w)
    (untraced : ∀ p, s.part o.part = some p → p.trace = none) : s.retireOp o none = s.without o w := by
  have off : ∀ t : State, t.parts = s.parts → ∀ kind cluster core slot data, t.trace o.part kind cluster core slot data = t :=
    fun t same => State.trace_off (by unfold State.part; rw [same]; exact untraced)
  unfold State.retireOp State.without EngOp.leaves
  simp only
  cases hc : o.cls with
  | none => exact (off (s.dropOp o) rfl ..).trans (State.putWarp_self (s := s.dropOp o) hw).symm
  | some cls => exact (off (State.onWarp (s.dropOp o) o.w _) (by rw [State.onWarp_only]; rfl) ..).trans (State.onWarp_eq (s := s.dropOp o) hw _)

section
variable {s : State} {o o' : EngOp} {id : Nat} {w : Warp}

/-- ENGINE_OP_COMPLETE of an operation without a barrier object, the oldest of its class. -/
theorem exec_engineOpComplete_bare {g : DWord} (hop : s.op id = some o) (hw : s.warp o.w = some w) (phase : o.phase = .worked g none)
    (released : s.opReleased o g = true) (oldest : s.oldest o = true) (untraced : ∀ p, s.part o.part = some p → p.trace = none)
    (plain : s.plainOps) (calm : s.unwatched) (bar : o.bar = none) : exec (.engineOpComplete id) s = .next (s.without o w) := by
  have run : exec (.engineOpComplete id) s = execEngineOpComplete id s := rfl
  have stands : s.setOp o = s := State.setOp_self plain (by rw [State.op_id hop]; exact hop)
  rw [run]
  unfold execEngineOpComplete
  simp only [hop, phase, hw, released, bar, stands, oldest, Bool.not_true, Bool.false_eq_true, if_false, if_true]
  rw [State.retireOp_eq hw untraced, State.watch_idle (State.without_unwatched calm hw)]

theorem barPut_eq (b pbyt parr : Nat) (phase : Bool) :
    barPut b pbyt parr phase = pbyt + parr * 2 ^ 32 + phase.toNat * 2 ^ 48 + b / 2 ^ 49 * 2 ^ 49 := by
  cases phase <;> simp [barPut]

theorem barPhase_toNat (b : Nat) : (barPhase b).toNat = b / 2 ^ 48 % 2 := Nat.toNat_testBit b 48

/-- A barrier object from which bytes have been subtracted; with nothing pending its phase flips and its counts are loaded again
(08 R178, 06 R149). -/
theorem barDeliver_eq {b n : Nat} (h : n ≤ b % 2 ^ 32) : barDeliver b n = some (
    if b % 2 ^ 32 - n = 0 ∧ b / 2 ^ 32 % 2 ^ 16 = 0
    then b / 2 ^ 64 % 2 ^ 32 + b / 2 ^ 96 % 2 ^ 16 * 2 ^ 32 + (1 - b / 2 ^ 48 % 2) * 2 ^ 48 + b / 2 ^ 49 * 2 ^ 49
    else b % 2 ^ 32 - n + b / 2 ^ 32 % 2 ^ 16 * 2 ^ 32 + b / 2 ^ 48 % 2 * 2 ^ 48 + b / 2 ^ 49 * 2 ^ 49) := by
  have fits : ¬ barPbyt b < n := Nat.not_lt.mpr h
  obtain ⟨x, hx⟩ : ∃ x, x = barPut b (barPbyt b - n) (barParr b) (barPhase b) := ⟨_, rfl⟩
  have sum : x = b % 2 ^ 32 - n + b / 2 ^ 32 % 2 ^ 16 * 2 ^ 32 + b / 2 ^ 48 % 2 * 2 ^ 48 + b / 2 ^ 49 * 2 ^ 49 := by
    rw [hx, barPut_eq, barPhase_toNat]
    rfl
  have pbyt : x % 2 ^ 32 = b % 2 ^ 32 - n := by omega
  have parr : x / 2 ^ 32 % 2 ^ 16 = b / 2 ^ 32 % 2 ^ 16 := by omega
  have high : x / 2 ^ 48 = b / 2 ^ 48 := by omega
  have loads : x / 2 ^ 64 = b / 2 ^ 64 ∧ x / 2 ^ 96 = b / 2 ^ 96 ∧ x / 2 ^ 49 = b / 2 ^ 49 := by omega
  obtain ⟨ibyt, iarr, upper⟩ := loads
  have flips : (!barPhase x).toNat = 1 - (barPhase x).toNat := by cases barPhase x <;> rfl
  rw [barDeliver, if_neg fits, ← hx, barFlip, barPut_eq, flips, barPhase_toNat]
  simp only [barPbyt, barParr, barIbyt, barIarr, pbyt, parr, high, ibyt, iarr, upper, Bool.and_eq_true, beq_iff_eq]
  rw [← sum]

/-- A barrier object inside its window that holds enough bytes takes an operation's. -/
theorem State.barrierUpdate_delivers {scr : Bool} {off n : Nat} (bytes : o.bytes = some n) (inside : s.windowIn w (spSpace scr) off 16 = true)
    (clean : (s.windowRead w (spSpace scr) off 16).poison = false) {new : Nat}
    (delivers : barDeliver (leNat (s.windowBytes w (spSpace scr) off 16)) n = some new) :
    s.barrierUpdate o w false scr off = (s.windowWrite w (spSpace scr) off (leBytes 16 new), n, none) := by
  have read : (s.windowRead w (spSpace scr) off 16).bytes = s.windowBytes w (spSpace scr) off 16 := rfl
  unfold State.barrierUpdate
  simp only [inside, clean, read, bytes, delivers, Bool.not_true, Bool.false_eq_true, if_false]

/-- An operation whose barrier update has been made. -/
def EngOp.updated (o : EngOp) (n : Nat) (g : DWord) : EngOp := { o with bar := none, bytes := some n, phase := .worked g none }

/-- ENGINE_OP_COMPLETE of an operation whose barrier object takes its bytes. -/
theorem exec_engineOpComplete_barrier {g : DWord} (hop : s.op id = some o) (hw : s.warp o.w = some w) (phase : o.phase = .worked g none)
    (released : s.opReleased o g = true) (oldest : s.oldest o = true) {p : Part} (hp : s.part o.part = some p) (untraced : p.trace = none)
    (plain : s.plainOps) (calm : s.unwatched) {scr : Bool} {off n : Nat} (bar : o.bar = some (scr, off)) {t : State}
    (update : s.barrierUpdate o w false scr off = (t, n, none)) (only : s.StorageOnly t) :
    exec (.engineOpComplete id) s = .next ((t.setOp (o.updated n g)).without (o.updated n g) w) := by
  have run : exec (.engineOpComplete id) s = execEngineOpComplete id s := rfl
  rw [run]
  unfold execEngineOpComplete
  simp only [hop, phase, hw, released, bar, update, Option.isSome_none, Option.map_none, Bool.not_true, Bool.false_eq_true, if_false]
  have found : t.op o.id = some o := by rw [only.op, State.op_id hop, hop]
  have first : (t.setOp (o.updated n g)).oldest (o.updated n g) = true :=
    (State.oldest_setOp (o' := o.updated n g) (plain.of_ops only.ops) found rfl rfl rfl).trans (by unfold State.oldest; rw [only.ops]; exact oldest)
  have here : (t.setOp (o.updated n g)).warp o.w = some w := (only.warp o.w).trans hw
  have retired := State.retireOp_eq (o := o.updated n g) here (only.untraced hp untraced)
  have quiet := State.watch_idle (State.without_unwatched (s := t.setOp (o.updated n g)) (o := o.updated n g) (calm.of_warps only.warps) here)
  exact congrArg Host.Outcome.next ((congrArg State.watch ((if_pos first).trans retired)).trans quiet)

end

/-! ## MATRIX_GRANT of MZERO -/

theorem leBytes_zero (n : Nat) : leBytes n 0 = List.replicate n 0 := by
  induction n with
  | zero => rfl
  | succ n ih => rw [leBytes, Nat.zero_div, ih]; rfl

/-- A byte of a row of a slot. -/
def inTileRow (f : AccFmt) (slot y i : Nat) : Bool := decide (tileAt f slot i 0 ≤ y) && decide (y < tileAt f slot i 0 + 512 * accBytes f)

theorem State.putTileRow_puts {s : State} {o : EngOp} (h : s.keeps (.tile o.w.task)) (f : AccFmt) (slot i : Nat) (xs : List Nat) :
    s.Puts (s.putTileRow o f slot i xs) (.tile o.w.task) (tileAt f slot i 0) (xs.map (leBytes (accBytes f))).flatten :=
  (State.writeArea_puts h ..).renew ..

/-- A row of zeros. -/
def zeroRow : List Nat := List.replicate 512 0
theorem zeroRow_bytes (n : Nat) : (zeroRow.map (leBytes n)).flatten = List.replicate (512 * n) 0 := by
  rw [zeroRow, List.map_replicate, leBytes_zero, List.flatten_replicate_replicate]

/-- A row of zeros written in a slot: zero is read in it, and every other byte as before. -/
theorem State.putTileRow_zero {s : State} {o : EngOp} (h : s.keeps (.tile o.w.task)) (sound : s.sound) (f : AccFmt) (slot i : Nat)
    (ar : Area) (y : Nat) : ((s.putTileRow o f slot i zeroRow).area ar).mem.byte y
      = if ar = .tile o.w.task ∧ inTileRow f slot y i = true then 0 else (s.area ar).mem.byte y := by
  have put := State.putTileRow_puts h f slot i zeroRow
  rw [zeroRow_bytes] at put
  have zero : ∀ k, (List.replicate (512 * accBytes f) (0 : Byte)).getD k 0 = 0 := fun k => by
    rw [List.getD, List.getElem?_replicate]
    split <;> rfl
  rw [put.landed sound ar y, List.length_replicate, zero]
  simp only [inTileRow, Bool.and_eq_true, decide_eq_true_eq]

/-- Rows of zeros written in a slot one after the other. -/
theorem State.putTileRows_zero {o : EngOp} (f : AccFmt) (slot : Nat) (rows : List Nat) : ∀ {s : State}, s.keeps (.tile o.w.task) → s.sound →
    let t := rows.foldl (fun s i => s.putTileRow o f slot i zeroRow) s
    s.StorageOnly t ∧ ∀ ar y, (t.area ar).mem.byte y
      = if ar = .tile o.w.task ∧ rows.any (inTileRow f slot y) = true then 0 else (s.area ar).mem.byte y := by
  induction rows with
  | nil => exact fun {s} _ _ => ⟨.refl s, fun ar y => (if_neg (by rintro ⟨-, ⟨⟩⟩)).symm⟩
  | cons i rows ih =>
    intro s keeps sound
    have put := State.putTileRow_puts keeps f slot i zeroRow
    obtain ⟨only, bytes⟩ := ih (put.only.keeps keeps) (put.sound sound)
    refine ⟨put.only.trans only, fun ar y => (bytes ar y).trans ?_⟩
    rw [State.putTileRow_zero keeps sound]
    by_cases head : inTileRow f slot y i = true
    · simp only [List.any_cons, head, Bool.true_or, and_true]
      split <;> simp [*]
    · simp only [List.any_cons, head, Bool.false_or, Bool.false_eq_true, and_false, if_false]

/-- The rows of an operation's lanes, lane by lane (08 R176). -/
theorem EngOp.any_rowsOf (o : EngOp) (p : Nat → Bool) :
    o.rowsOf.any p = lanes.any (fun l => o.lns.has l && (List.range 4).any (fun r => p (4 * l.val + r))) := by
  simp only [EngOp.rowsOf, List.any_flatten, List.any_map, List.any_filter, Function.comp_def, Nat.add_comm]

/-- A byte lies in a row of an operation's lanes (08 R176): four rows to a lane. -/
theorem EngOp.any_tileRow (o : EngOp) (f : AccFmt) (slot y : Nat) :
    o.rowsOf.any (inTileRow f slot y) = lanes.any (fun l => o.lns.has l && (List.range 4).any (fun r =>
      decide (slot * (65536 * accBytes f) + (4 * l.val + r) * 512 * accBytes f ≤ y) &&
      decide (y < slot * (65536 * accBytes f) + (4 * l.val + r) * 512 * accBytes f + 512 * accBytes f))) := by
  have row : ∀ i, inTileRow f slot y i = (decide (slot * (65536 * accBytes f) + i * 512 * accBytes f ≤ y)
      && decide (y < slot * (65536 * accBytes f) + i * 512 * accBytes f + 512 * accBytes f)) := fun i => by
    rw [inTileRow, tileAt, Nat.add_zero]
  simp only [EngOp.any_rowsOf, row]

/-- The state with the turn of a cluster's matrix engine noted (08 R177). -/
def State.granted (s : State) (k : Nat) (o : EngOp) : State :=
  s.setCluster k { s.cluster k with lastGrant := some (o.core.core, o.slot) }
@[simp] theorem State.area_granted (s : State) (k : Nat) (o : EngOp) (ar : Area) : (s.granted k o).area ar = s.area ar :=
  State.area_setCluster (x := { s.cluster k with lastGrant := some (o.core.core, o.slot) }) rfl ar
@[simp] theorem State.cluster_granted (s : State) (k : Nat) (o : EngOp) :
    (s.granted k o).cluster k = { s.cluster k with lastGrant := some (o.core.core, o.slot) } := s.cluster_setCluster_same ..

/-- MATRIX_GRANT of an MZERO (08 R176, R177). -/
theorem exec_matrixGrant_zeroes {s : State} {k : BitVec 5} {o : EngOp} {w : Warp} {h : Hdr} {sc : Scope} {fmt : AccFmt} {bar : Option Spec}
    {slot : BitVec 6} (next : s.nextGrant k.toNat = some o) (hw : s.warp o.w = some w) (hi : o.instr = .mzero h sc fmt bar slot)
    {t : State} (ht : t = o.rowsOf.foldl (fun s i => s.putTileRow o fmt slot.toNat i zeroRow) s) (calm : t.unwatched) :
    exec (.matrixGrant k) s = .next ((t.granted k.toNat o).setOp { o with phase := .worked 0 none }) := by
  have run : exec (.matrixGrant k) s = execMatrixGrant k s := rfl
  have work : s.workMatrix o w = (t, 0, none) := by
    unfold State.workMatrix
    rw [hi, ht]
    rfl
  have fine : s.retryGated o none = false := rfl
  rw [run]
  unfold execMatrixGrant
  simp only [next, hw, work, Option.map_none, OpPhase.failure, fine, Bool.false_eq_true, if_false]
  exact congrArg Host.Outcome.next (State.watch_idle calm)

/-! ## ENGINE_OP_START of a CPY of one row (09 R195-R199) -/

/-- The bytes of a row of a card's source. -/
def Card.rowLen (c : Card) : Nat := c.cols * elemBytes (capFmt c.scap)

/-- A card that a CPY takes as it is: one row without a stage, between window spaces, in one format of whole elements (09 R196-R199). -/
structure Card.OneRow (c : Card) (dst : DstWin) (sp : Space) : Prop where
  clear : c.clear = true
  mode : c.mode < 4
  stg : c.stg = [0, 0, 0, 0, 0, 0]
  ben : c.ben = false
  rows : c.rows = 1
  cols : c.cols ≠ 0
  srcLocal : capGlobal c.scap = false
  dstLocal : capGlobal c.dcap = false
  same : capFmt c.scap = capFmt c.dcap
  fmt : capFmt c.scap < 10
  space : dstSpace c.dcap dst = some sp
  src : capBad c.stag c.scap (permR ||| permAsync) = false
  dst : capBad c.dtag c.dcap (permW ||| permAsync) = false

section
variable {c : Card} {dst : DstWin} {sp : Space}

theorem Card.OneRow.stages (h : c.OneRow dst sp) : c.stages = [] := by
  rw [Card.stages, h.stg]
  rfl

theorem Card.OneRow.ne_glob (h : c.OneRow dst sp) : sp ≠ .glob := by
  have space := h.space
  unfold dstSpace at space
  rw [h.dstLocal] at space
  cases dst <;> cases space <;> exact fun e => nomatch e

theorem srcSpace_window (h : c.OneRow dst sp) (src : SrcWin) : srcSpace c.scap src = srcWindow src := by
  rw [srcSpace, h.srcLocal]
  rfl

theorem srcWindow_ne_glob (src : SrcWin) : srcWindow src ≠ .glob := by cases src <;> exact fun e => nomatch e

/-- Such a card shows no failure when it is read. -/
theorem Card.OneRow.cardFault (h : c.OneRow dst sp) {o : EngOp} (copies : o.gathers = false) (src : SrcWin) :
    o.cardFault c src dst = none := by
  have ok : c.modeOk = true := by simp [Card.modeOk, h.mode]
  have final : c.final false = some (capFmt c.dcap) := by
    simp [Card.final, h.stages, h.stg, h.same, finalFormat]
  have coded : (capFmt c.scap == 10) = false := by simpa using h.fmt.ne
  unfold EngOp.cardFault
  simp only [h.space, h.clear, ok, h.stages, final, copies, h.src, h.dst, h.rows, coded, Option.isNone_some, extentBad]
  simp [h.cols]

variable {s : State} {o : EngOp} {w : Warp} {src : SrcWin} {a b : Nat} {row : List Byte}

theorem EngOp.sourceRows_one (copies : o.gathers = false) (h : c.OneRow dst sp) : o.sourceRows c = [0] := by
  rw [EngOp.sourceRows, copies, h.rows]
  rfl

/-- The source of such a card is its row. -/
theorem State.readSource_oneRow (h : c.OneRow dst sp) (copies : o.gathers = false)
    (placed : rowAt c.scap c.stag c.soff (pitchOf c.scap c.rowLen) 0 c.rowLen (permR ||| permAsync) = .ok a)
    (inside : s.windowIn w (srcWindow src) a c.rowLen = true) (clean : (s.windowRead w (srcWindow src) a c.rowLen).poison = false) :
    s.readSource o w c src = (s, .ok (⟨capFmt c.scap, [s.windowBytes w (srcWindow src) a c.rowLen], 0⟩,
      max 0 (s.windowRead w (srcWindow src) a c.rowLen).g)) := by
  have coded : (capFmt c.scap == 10) = false := beq_eq_false_iff_ne.mpr h.fmt.ne
  have cols : (c.cols == 0) = false := beq_eq_false_iff_ne.mpr h.cols
  have read := State.readRows_one o (srcWindow_ne_glob src) placed inside clean
  unfold Card.rowLen at read
  unfold State.readSource
  simp only [cols, coded, srcSpace_window h, EngOp.sourceRows_one copies h, read, Bool.false_eq_true, if_false]
  rfl

/-- A row delivered as it is stands at its destination. -/
theorem State.deliver_oneRow (h : c.OneRow dst sp) (copies : o.gathers = false) {pitch : Nat}
    (placed : rowAt c.dcap c.dtag c.doff pitch 0 row.length (permW ||| permAsync) = .ok b) (inside : s.windowIn w sp b row.length = true)
    (keeps : s.keeps (s.window w sp).1) (calm : s.unwatched) :
    s.deliver o w c dst ⟨⟨capFmt c.scap, [row], 0⟩, none, false⟩
      = (s.windowWrite w sp b row, .ok ⟨false, 0, row.length, max 0 (s.windowNow w sp b)⟩) := by
  have coded : (capFmt c.scap == 10) = false := beq_eq_false_iff_ne.mpr h.fmt.ne
  have wrote := State.writeRows_one o h.ne_glob ((rowAt_first _ _ _ (pitchOf c.dcap row.length) _ _ _).trans placed) inside keeps calm
  have dest : o.destRows 1 = [0] := by
    rw [EngOp.destRows, copies]
    rfl
  unfold State.deliver
  simp only [Stream.out, coded, h.space, dest, List.length_singleton, List.zip_cons_cons, List.zip_nil_right, wrote, h.stages,
    Bool.false_eq_true, if_false]
  simp

/-- A card's results after a copy without flags, mismatch or fingerprint. -/
theorem State.writeResult_plain (inside : s.windowIn w .scr (o.off + 52) 12 = true)
    (clean : (s.windowRead w .scr (o.off + 52) 12).poison = false) (keeps : s.keeps (s.window w .scr).1) :
    s.writeResult o w 0 false 0
      = (s.windowWrite w .scr (o.off + 52) (leBytes 12 (2 ^ 31)), s.windowNow w .scr (o.off + 52)) := by
  have still : (s.windowWrite w .scr (o.off + 52) (leBytes 12 (2 ^ 31))).windowIn w .scr (o.off + 52) 12 = true := by
    unfold State.windowIn
    rw [(State.windowWrite_puts keeps inside).only.window]
    exact inside
  unfold State.writeResult
  simp only [clean, Bool.false_eq_true, if_false]
  exact congrArg (·, _) (State.checkGuard_inside still)

/-- The card of an operation, as the scratchpad window holds it. -/
def State.cardOf (s : State) (o : EngOp) (w : Warp) : Card :=
  Card.of (s.windowBytes w .scr o.off 64) (s.windowRead w .scr o.off 16).tag (s.windowRead w .scr (o.off + 16) 16).tag

/-- A CPY of such a card may be worked: card, source and destination lie inside their windows, and no byte that is read is poisoned. -/
structure State.CopiesRow (s : State) (o : EngOp) (w : Warp) (src : SrcWin) (dst : DstWin) (sp : Space) (a b : Nat) : Prop where
  copies : o.gathers = false
  calm : s.unwatched
  cardIn : s.windowIn w .scr o.off 64 = true
  cardClean : (s.windowRead w .scr o.off 64).poison = false
  cardKept : s.keeps (s.window w .scr).1
  card : (s.cardOf o w).OneRow dst sp
  srcRow : let c := s.cardOf o w
    rowAt c.scap c.stag c.soff (pitchOf c.scap c.rowLen) 0 c.rowLen (permR ||| permAsync) = .ok a
  srcIn : s.windowIn w (srcWindow src) a (s.cardOf o w).rowLen = true
  srcClean : (s.windowRead w (srcWindow src) a (s.cardOf o w).rowLen).poison = false
  dstRow : let c := s.cardOf o w
    rowAt c.dcap c.dtag c.doff (pitchOf c.dcap c.rowLen) 0 c.rowLen (permW ||| permAsync) = .ok b
  dstIn : s.windowIn w sp b (s.cardOf o w).rowLen = true
  dstKept : s.keeps (s.window w sp).1

/-- The state with the row copied, and that with the results in the card as well. -/
def State.rowCopied (s : State) (o : EngOp) (w : Warp) (src : SrcWin) (sp : Space) (a b : Nat) : State :=
  s.windowWrite w sp b (s.windowBytes w (srcWindow src) a (s.cardOf o w).rowLen)
def State.cardDone (s : State) (o : EngOp) (w : Warp) : State := s.windowWrite w .scr (o.off + 52) (leBytes 12 (2 ^ 31))

theorem State.length_windowBytes (s : State) (w : Warp) (sp : Space) (off n : Nat) : (s.windowBytes w sp off n).length = n := by
  simp [State.windowBytes]

theorem State.CopiesRow.puts_row (h : s.CopiesRow o w src dst sp a b) :
    s.Puts (s.rowCopied o w src sp a b) (s.window w sp).1 ((s.window w sp).2.1 + b)
      (s.windowBytes w (srcWindow src) a (s.cardOf o w).rowLen) :=
  State.windowWrite_puts h.dstKept (by rw [State.length_windowBytes]; exact h.dstIn)

/-- After the row has been copied the card's results lie inside the window still. -/
theorem State.CopiesRow.resultIn (h : s.CopiesRow o w src dst sp a b) : (s.rowCopied o w src sp a b).windowIn w .scr (o.off + 52) 12 = true := by
  have part := State.windowIn_part (i := 52) (m := 12) h.cardIn (by decide)
  unfold State.windowIn at part ⊢
  rw [h.puts_row.only.window]
  exact part

theorem State.CopiesRow.puts_result (h : s.CopiesRow o w src dst sp a b) : let u := s.rowCopied o w src sp a b
    u.Puts (u.cardDone o w) (s.window w .scr).1 ((s.window w .scr).2.1 + o.off + 52) (leBytes 12 (2 ^ 31)) := by
  have put := State.windowWrite_puts (bs := leBytes 12 (2 ^ 31)) (h.puts_row.only.window w .scr ▸ h.puts_row.only.keeps h.cardKept) h.resultIn
  rw [h.puts_row.only.window] at put
  exact put

theorem State.CopiesRow.resultClean (h : s.CopiesRow o w src dst sp a b) :
    ((s.rowCopied o w src sp a b).windowRead w .scr (o.off + 52) 12).poison = false := by
  have clean := h.cardClean
  rw [State.windowRead_poison h.cardIn] at clean
  rw [State.windowRead_poison h.resultIn, h.puts_row.only.window, ← Nat.add_assoc]
  exact Store.clean_part clean (h.puts_row.poison _) (by decide)

/-- The work of such a CPY. -/
theorem State.CopiesRow.workCard (h : s.CopiesRow o w src dst sp a b) (gen : Gen) : ∃ g,
    s.workCard o w src dst gen = ((s.rowCopied o w src sp a b).cardDone o w, ⟨g, none, some (s.cardOf o w).rowLen, none, gen⟩) := by
  have card : s.readCard o w = (s, .ok (s.cardOf o w, (s.windowRead w .scr o.off 64).g)) := by
    unfold State.readCard
    rw [State.engRead_window o (by decide) h.cardIn h.cardClean]
    rfl
  have source := State.readSource_oneRow h.card h.copies h.srcRow h.srcIn h.srcClean
  have length := s.length_windowBytes w (srcWindow src) a (s.cardOf o w).rowLen
  have delivered := State.deliver_oneRow (row := s.windowBytes w (srcWindow src) a (s.cardOf o w).rowLen) h.card h.copies
    (by rw [length]; exact h.dstRow) (by rw [length]; exact h.dstIn) h.dstKept h.calm
  have result := State.writeResult_plain h.resultIn h.resultClean (h.puts_row.only.window w .scr ▸ h.puts_row.only.keeps h.cardKept)
  have bar : (s.cardOf o w).barrier = none := by rw [Card.barrier, h.card.ben]; rfl
  unfold State.workCard
  simp only [card, h.card.cardFault h.copies, h.copies, Bool.false_eq_true, if_false]
  unfold State.copyStream
  simp only [source, h.card.stages, runStages, delivered, length, bar]
  unfold State.rowCopied at result ⊢
  rw [result]
  exact ⟨_, rfl⟩

end

/-! ## An operation is taken up -/

/-- The second state is the first but for what the clusters keep of their engines; every storage stands. -/
def State.EnginesOnly (s t : State) : Prop := t = { s with clusters := t.clusters } ∧ ∀ ar, t.area ar = s.area ar

theorem State.EnginesOnly.trans {s t u : State} (h : s.EnginesOnly t) (g : t.EnginesOnly u) : s.EnginesOnly u :=
  ⟨by rw [g.1, h.1], fun ar => (g.2 ar).trans (h.2 ar)⟩

theorem State.EnginesOnly.setCluster (s : State) {k : Nat} {x : Cluster} (h : x.ws = (s.cluster k).ws) : s.EnginesOnly (s.setCluster k x) :=
  ⟨rfl, State.area_setCluster h⟩

theorem State.EnginesOnly.warps {s t : State} (h : s.EnginesOnly t) : t.warps = s.warps := by rw [h.1]
theorem State.EnginesOnly.ops {s t : State} (h : s.EnginesOnly t) : t.ops = s.ops := by rw [h.1]

theorem State.tookFrom_enginesOnly (s : State) (o : EngOp) (eng : Bool) : s.EnginesOnly (s.tookFrom o eng) := by
  refine .setCluster s ?_
  split
  · rfl
  · split <;> rfl

/-- A CPY worked without failure and without a barrier object. -/
theorem State.workOp_cpy {s t : State} {o : EngOp} {w : Warp} {h : Hdr} {sc : Scope} {src : SrcWin} {dst : DstWin} {m : EngArg} {eng : Bool}
    (hi : o.instr = .cpy h sc src dst m)
    (work : ∀ gen, ∃ g n, s.workCard o w src dst gen = (t, ⟨g, none, some n, none, gen⟩)) :
    ∃ v g, s.workOp o w eng = (v, { o with phase := .worked g none, bytes := some 0, bar := none }) ∧ t.EnginesOnly v := by
  obtain ⟨g, n, e⟩ := work (.lfsr (if eng then (s.cluster o.core.cluster).genCopy1 else (s.cluster o.core.cluster).genCopy0))
  unfold State.workOp
  simp only [hi, e]
  refine ⟨_, _, rfl, .setCluster t ?_⟩
  split <;> rfl

/-- ENGINE_OP_START of a CPY that comes to no failure. -/
theorem exec_engineOpStart_works {s t : State} {id : Nat} {eng : Bool} {o o' : EngOp} {w : Warp} (hop : s.op id = some o)
    (queued : o.phase = .queued) (copies : o.copies = true) (gathers : o.gathers = false)
    (next : s.nextCopy o.core.cluster false eng = some o) (hw : s.warp o.w = some w) (work : s.workOp o w eng = (t, o'))
    (fine : o'.phase.failure = none) : exec (.engineOpStart id eng) s = .next (((t.tookFrom o eng).setOp o').collect).watch := by
  have run : exec (.engineOpStart id eng) s = execEngineOpStart id eng s := rfl
  have retry : s.retryGated o none = false := rfl
  have mine : ((some o).map (·.id) != some id) = false := by simp [State.op_id hop]
  rw [run]
  unfold execEngineOpStart
  simp only [hop, queued, copies, gathers, next, mine, hw, work, fine, retry, Bool.true_or, Bool.not_true, Bool.or_self, Bool.false_eq_true,
    if_false]

/-! ## O39 -/

/-- ENGINE_OP_START of a CPY of one row: the row is copied, then the results are in the card. -/
theorem exec_engineOpStart_copiesRow {s : State} {id : Nat} {eng : Bool} {o : EngOp} {w : Warp} {h : Hdr} {sc : Scope} {src : SrcWin} {dst : DstWin}
    {m : EngArg} {sp : Space} {a b : Nat} (copy : s.CopiesRow o w src dst sp a b) (hi : o.instr = .cpy h sc src dst m) (hop : s.op id = some o)
    (plain : s.plainOps) (queued : o.phase = .queued) (next : s.nextCopy o.core.cluster false eng = some o) (hw : s.warp o.w = some w) :
    ∃ t, exec (.engineOpStart id eng) s = .next t ∧ (∀ k, t.warp k = s.warp k) ∧ Worked t id o 0 none ∧
      ∀ ar, t.area ar = ((s.rowCopied o w src sp a b).cardDone o w).area ar := by
  have copies : o.copies = true := by rw [EngOp.copies, hi]
  obtain ⟨v, g, work, engines⟩ := State.workOp_cpy (eng := eng) hi fun gen =>
    let ⟨g, done⟩ := copy.workCard gen
    ⟨g, _, done⟩
  have took := engines.trans (v.tookFrom_enginesOnly o eng)
  have only := copy.puts_row.only.trans copy.puts_result.only
  have step := exec_engineOpStart_works hop queued copies copy.copies next hw work rfl
  generalize v.tookFrom o eng = x at took step
  have ops : x.ops = s.ops := took.ops.trans only.ops
  have warps : x.warps = s.warps := took.warps.trans only.warps
  have settled := State.settle_idle (s := x.setOp { o with phase := .worked g none, bytes := some 0, bar := none })
    ((plain.of_ops ops).setOp fun _ _ _ => nofun) (copy.calm.of_warps warps)
  have found : x.op id = some o := by rw [State.op, ops]; exact hop
  exact ⟨_, step.trans (congrArg Host.Outcome.next settled), fun k => congrArg (Tab.find · k) warps,
    ⟨g, State.op_setOp found (show o.id = id from State.op_id hop)⟩, took.2⟩

/-- What is left of the warps and the operations without an operation. -/
theorem State.without_gone {s t : State} {o q : EngOp} {w : Warp} (warps : t.warps = s.warps) (warp : q.w = o.w) (cls : q.cls = o.cls) :
    (∀ k, k ≠ o.w → (t.without q w).warp k = s.warp k) ∧ (t.without q w).ops = t.ops.filter (·.id != q.id) ∧
      (t.without q w).warp o.w = some (o.leaves w) := by
  have leaves : q.leaves w = o.leaves w := by rw [EngOp.leaves, cls]; rfl
  refine ⟨fun k ne => ?_, rfl, ?_⟩
  · rw [State.without, State.warp_putWarp_ne _ _ (warp ▸ ne)]
    exact congrArg (Tab.find · k) warps
  · rw [State.without, warp, leaves, State.warp_putWarp_same]

/-- Settles O39, clause by clause: what an engine does to storage is a write in its place (`State.Puts`), of which `Landed` follows
(`State.Puts.landed`); that no collective is finished and no word watched leaves the rest as it is (`State.settle_idle`). The accesses of
a CPY are one step of the model, log entry 53. -/
theorem engineWork : Obligations.EngineWork := by
  refine ⟨?_, ?_, fun s part k set pos cols data plain calm => exec_collectiveContribution_keeps plain calm part k set pos cols data, ?_⟩
  · intro s id eng o w h sc src dst m a b sp bs c len row hop plain hi queued next hw key calm memOk cardIn cardClean clear mode stg ben rows
      cols srcLocal dstLocal same fmt space srcOk dstOk srcRow dstRow srcIn srcClean dstIn dstHolds cardHolds
    have copy : s.CopiesRow o w src dst sp a b :=
      ⟨by rw [EngOp.gathers, hi], calm, cardIn, cardClean, State.keeps_window cardHolds,
        ⟨clear, mode, stg, ben, rows, cols, srcLocal, dstLocal, same, fmt, space, srcOk, dstOk⟩, srcRow, srcIn, srcClean, dstRow, dstIn,
        State.keeps_window dstHolds⟩
    have sound := State.sound_of_memOk memOk
    obtain ⟨t, exec, warps, worked, areas⟩ := exec_engineOpStart_copiesRow copy hi hop plain queued next hw
    have first := copy.puts_row.landed sound
    have second := copy.puts_result.landed (copy.puts_row.sound sound)
    rw [State.length_windowBytes] at first
    exact ⟨t, _, exec, warps, worked, first, fun ar x => by rw [areas]; exact second ar x⟩
  · intro s k o w x h sc fmt bar slot next hw hi plain ho hx calm memOk n
    have tile : s.keeps (.tile o.w.task) := by rw [State.keeps, hx]; exact nofun
    obtain ⟨only, bytes⟩ := State.putTileRows_zero (o := o) fmt slot.toNat o.rowsOf tile (State.sound_of_memOk memOk)
    have grant := exec_matrixGrant_zeroes next hw hi rfl (calm.of_warps only.warps)
    generalize o.rowsOf.foldl (fun s i => s.putTileRow o fmt slot.toNat i zeroRow) s = t at only bytes grant
    have rows : accBytes fmt = n := by cases fmt <;> rfl
    refine ⟨_, grant, only.warp, State.op_setOp (o := o) ((only.op o.id).trans (plain.op ho)) rfl,
      congrArg Cluster.lastGrant (t.cluster_granted ..), fun ar y => ?_⟩
    rw [State.area_setOp, State.area_granted, bytes, EngOp.any_tileRow, rows]
  · intro s id o w g p hop hw key phase released oldest hp untraced plain calm memOk gone
    obtain rfl := State.op_id hop
    constructor
    · intro bar
      have step := exec_engineOpComplete_bare hop hw phase released oldest (fun q hq => by rw [hp] at hq; cases hq; exact untraced) plain calm bar
      exact ⟨_, step, State.without_gone rfl rfl rfl, rfl⟩
    · intro scr off n bar bytes inside clean holds b fits byt new
      have update := State.barrierUpdate_delivers bytes inside clean (barDeliver_eq fits)
      have put := State.windowWrite_puts (bs := leBytes 16 new) (State.keeps_window holds) inside
      have step := exec_engineOpComplete_barrier hop hw phase released oldest hp untraced plain calm bar update put.only
      obtain ⟨others, ops, warp⟩ := State.without_gone (s := s) (t := State.setOp _ (o.updated n g)) (o := o) (q := o.updated n g) (w := w)
        put.only.warps rfl rfl
      have left := (State.filter_setOp _ (o.updated n g)).trans (congrArg (List.filter (·.id != o.id)) put.only.ops)
      refine ⟨_, step, ⟨others, ops.trans left, warp⟩, fun ar x => ?_⟩
      rw [State.area_without, State.area_setOp]
      exact put.landed (State.sound_of_memOk memOk) ar x

end Sys2Proof.Machine
end

section
/-! SUPPORT. The canonical form of the memories, part by part, and what an operation must keep for it: the seven fields that hold
memories. -/

namespace Sys2Proof.Machine

/-- The memories that a checkpoint keeps are canonical. -/
def Image.sound (im : Image) : Prop := (∀ x ∈ im.tasks, x.ok = true) ∧ ∀ x ∈ im.past, x.task.ok = true

/-- The memories of a partition are canonical, those of its checkpoint with its own. -/
def Part.sound (p : Part) : Prop := p.chip.ok = true ∧ ∀ im, p.image = some im → im.sound

/-- What `State.canonical` says of the seven fields that hold memories. -/
structure Canonical (hbm : Store) (staging hostMem : Memory) (parts : Tab Nat Part) (tasks : Tab Nat Task) (clusters : Tab Nat Cluster)
    (past : List Past) : Prop where
  hbm : hbm.ok = true
  staging : staging.wf = true
  host : hostMem.wf = true
  parts : ∀ x ∈ parts, x.2.sound
  tasks : ∀ x ∈ tasks, x.2.ok = true
  clusters : ∀ x ∈ clusters, x.2.ws.ok = true
  past : ∀ x ∈ past, x.task.ok = true

theorem State.canonical_iff (s : State) :
    s.canonical ↔ Canonical s.hbm s.staging s.hostMem s.parts s.tasks s.clusters s.past := by
  simp only [State.canonical, State.memOk, Bool.and_eq_true, List.all_eq_true]
  constructor
  · rintro ⟨⟨⟨⟨⟨⟨⟨hbm, staging⟩, host⟩, chips⟩, tasks⟩, clusters⟩, past⟩, images⟩
    exact ⟨hbm, staging, host, fun x hx => ⟨chips x hx, images x hx⟩, tasks, clusters, past⟩
  · rintro ⟨hbm, staging, host, parts, tasks, clusters, past⟩
    exact ⟨⟨⟨⟨⟨⟨⟨hbm, staging⟩, host⟩, fun x hx => (parts x hx).1⟩, tasks⟩, clusters⟩, past⟩, fun x hx => (parts x hx).2⟩

theorem Task.queued_ok {id part job ctx r k} : (Task.queued id part job ctx r k).ok = true := rfl

/-- What is kept is all that counts. -/
theorem Part.sound.of {p q : Part} (h : p.sound) (chip : q.chip = p.chip := by rfl) (image : q.image = p.image := by rfl) :
    q.sound := by
  unfold Part.sound
  rw [chip, image]
  exact h

theorem Task.ok_of {x y : Task} (h : x.ok = true) (shr : y.shr = x.shr := by rfl) (scr : y.scr = x.scr := by rfl)
    (tile : y.tile = x.tile := by rfl) : y.ok = true := by
  unfold Task.ok
  rw [shr, scr, tile]
  exact h

theorem Task.freshWindows_ok {t : Task} : t.freshWindows.ok = true := by
  have windows : (List.replicate t.trec.teams Store.empty).all Store.ok = true :=
    List.all_eq_true.2 fun x hx => List.eq_of_mem_replicate hx ▸ rfl
  simp only [Task.freshWindows, Task.ok, windows]
  rfl

theorem Task.passedOver_ok {t : Task} (h : t.ok = true) : t.passedOver.ok = true := by
  unfold Task.passedOver
  split <;> exact h

theorem Store.addPoisons_ok {xs : List Nat} {f : Nat → Nat} {st : Store} (h : st.ok = true) :
    (xs.foldl (fun st i => st.addPoison (f i)) st).ok = true := by
  induction xs generalizing st with
  | nil => exact h
  | cons x xs ih => exact ih (Store.addPoison_ok h)

theorem Part.sound.dropRange {p : Part} (h : p.sound) {a n : Nat} : (p.dropRange a n).sound := h

theorem Part.sound.chargeTraffic {p : Part} (h : p.sound) {ctx : BitVec 6} {fill wback : Bool} :
    (p.chargeTraffic ctx fill wback).sound := by
  unfold Part.chargeTraffic
  split <;> exact h

theorem Part.create_sound {id a units clpres chpres} : (Part.create id a units clpres chpres).sound := ⟨rfl, nofun⟩
theorem Task.turned_ok {t : Task} (h : t.ok = true) : t.turned.ok = true := by
  unfold Task.turned
  split <;> exact h

/-! ## What is found in a canonical state -/

theorem Tab.forall_set {κ α : Type} [DecidableEq κ] {t : Tab κ α} {k : κ} {v : α} {P : α → Prop} (h : ∀ x ∈ t, P x.2)
    (hv : P v) : ∀ x ∈ t.set k v, P x.2 := by
  intro x hx
  rcases Tab.mem_set hx with hx | hx
  · exact hx ▸ hv
  · exact h x hx

theorem State.canonical_of {s : State} (h : Canonical s.hbm s.staging s.hostMem s.parts s.tasks s.clusters s.past) : s.canonical :=
  s.canonical_iff.2 h

theorem Canonical.of {s : State} (h : s.canonical) : Canonical s.hbm s.staging s.hostMem s.parts s.tasks s.clusters s.past :=
  s.canonical_iff.1 h

namespace State.canonical
variable {s : State} (h : s.canonical)
include h

theorem fields : Canonical s.hbm s.staging s.hostMem s.parts s.tasks s.clusters s.past := s.canonical_iff.1 h
theorem part {n : Nat} {p : Part} (hp : s.part n = some p) : p.sound := h.fields.parts _ (Tab.mem_of_find hp)
theorem task {n : Nat} {x : Task} (hx : s.task n = some x) : x.ok = true := State.task_ok h.1 hx
theorem area {a : Area} : (s.area a).ok = true := State.sound_of_memOk h.1 _
theorem hbm : s.hbm.ok = true := h.fields.hbm
theorem cluster {k : Nat} : (s.cluster k).ws.ok = true := State.ws_ok h.1 _

/-! ## A table is set, an entry is changed where it stands -/

theorem putWarp {k : WarpKey} {w : Warp} : (s.putWarp k w).canonical := h
theorem setWarp {w : Warp} : (s.setWarp w).canonical := h
theorem setJob {j : Job} : (s.setJob j).canonical := h
theorem setCore {c : CoreKey} {x : Core} : (s.setCore c x).canonical := h
theorem name : s.name.2.canonical := h
theorem draw : s.draw.2.canonical := h
theorem putPart {n : Nat} {p : Part} (hp : p.sound) : (s.putPart n p).canonical :=
  State.canonical_of { h.fields with parts := Tab.forall_set h.fields.parts hp }

theorem setPart {p : Part} (hp : p.sound) : (s.setPart p).canonical := h.putPart hp
theorem setTask {x : Task} (hx : x.ok = true) : (s.setTask x).canonical :=
  State.canonical_of { h.fields with tasks := Tab.forall_set (P := fun x : Task => x.ok = true) h.fields.tasks hx }

theorem setCluster {k : Nat} {x : Cluster} (hx : x.ws.ok = true) : (s.setCluster k x).canonical :=
  State.canonical_of { h.fields with clusters := Tab.forall_set (P := fun x : Cluster => x.ws.ok = true) h.fields.clusters hx }

theorem onWarp {k : WarpKey} {f : Warp → Warp} : (s.onWarp k f).canonical := by unfold State.onWarp; split <;> exact h
theorem onPath {k : WarpKey} {n : Nat} {f : Path → Path} : (s.onPath k n f).canonical := h.onWarp
theorem onJob {n : Nat} {f : Job → Job} : (s.onJob n f).canonical := by unfold State.onJob; split <;> exact h
theorem onTask {n : Nat} {f : Task → Task} (hf : ∀ x, x.ok = true → (f x).ok = true := by exact fun _ hx => hx) :
    (s.onTask n f).canonical := by
  unfold State.onTask
  split
  next x hx => exact State.canonical_of { h.fields with
    tasks := Tab.forall_set (P := fun x : Task => x.ok = true) h.fields.tasks (hf x (h.task hx)) }
  next => exact h

theorem onPart {n : Nat} {f : Part → Part} (hf : ∀ p, p.sound → (f p).sound := by exact fun _ hp => hp) :
    (s.onPart n f).canonical := by
  unfold State.onPart
  split
  next p hp => exact h.putPart (hf p (h.part hp))
  next => exact h

/-- A storage is set. -/
theorem setArea {a : Area} {st : Store} (hst : st.ok = true) : (s.setArea a st).canonical := by
  unfold State.setArea
  split
  case h_1 => exact State.canonical_of { h.fields with hbm := hst }
  case h_2 => exact h.onTask fun x hx => by simp_all [Task.ok]
  case h_3 =>
    refine h.onTask fun x hx => ?_
    simp only [Task.ok, Bool.and_eq_true, List.all_eq_true] at hx ⊢
    obtain ⟨⟨shr, scr⟩, tile⟩ := hx
    refine ⟨⟨shr, fun y hy => ?_⟩, tile⟩
    rcases List.mem_or_eq_of_mem_set hy with hy | rfl
    · exact scr y hy
    · exact hst
  case h_4 => exact h.onTask fun x hx => by simp_all [Task.ok]
  case h_5 => exact h.onPart fun p hp => ⟨hst, hp.2⟩
  case h_6 => exact h.setCluster hst
  all_goals exact h
end State.canonical

/-- A state given field by field. -/
theorem State.canonical.mk {agenda cur dual fresh draws gtime wall skew0 skew1 boot clPres chPres chRetired secFused staging
    measurement report secVer mbReq mbResp mbBusy fwReq fwResp fwBusy pwrcap watts grants idle emergency hot0 hot1 portsDown gatedPeers
    timeSrc tLast lastPtp lastFabric lastPtm slew offset regaining hPeers crossHarvest scrubQ cleanPool scrubbed hostMem hostData irqs
    reports corrected softErrors upsets fes vfLink parts jobs tasks past warps cores clusters ops contribs hbm lines copies l2 l1}
    (h : Canonical hbm staging hostMem parts tasks clusters past) :
    State.canonical ⟨agenda, cur, dual, fresh, draws, gtime, wall, skew0, skew1, boot, clPres, chPres, chRetired, secFused, staging,
      measurement, report, secVer, mbReq, mbResp, mbBusy, fwReq, fwResp, fwBusy, pwrcap, watts, grants, idle, emergency, hot0, hot1,
      portsDown, gatedPeers, timeSrc, tLast, lastPtp, lastFabric, lastPtm, slew, offset, regaining, hPeers, crossHarvest, scrubQ,
      cleanPool, scrubbed, hostMem, hostData, irqs, reports, corrected, softErrors, upsets, fes, vfLink, parts, jobs, tasks, past, warps,
      cores, clusters, ops, contribs, hbm, lines, copies, l2, l1⟩ :=
  (State.canonical_iff _).2 h

/-- What is done for one after another keeps the form where each does. -/
theorem State.canonical.foldl {α : Type} {f : State → α → State} {xs : List α} {s : State} (h : s.canonical)
    (hf : ∀ s x, s.canonical → (f s x).canonical) : (xs.foldl f s).canonical := by
  induction xs generalizing s with
  | nil => exact h
  | cons x xs ih => exact ih (hf _ x h)

theorem State.canonical.foldlMem {α : Type} {f : State → α → State} {xs : List α} {s : State} (h : s.canonical)
    (hf : ∀ s x, x ∈ xs → s.canonical → (f s x).canonical) : (xs.foldl f s).canonical := by
  induction xs generalizing s with
  | nil => exact h
  | cons x xs ih => exact ih (hf _ x (.head _) h) fun s y hy => hf s y (.tail _ hy)

theorem State.canonical.vals {s : State} (h : s.canonical) : ∀ x ∈ s.tasks.vals, x.ok = true := by
  intro x hx
  obtain ⟨y, hy, rfl⟩ := List.mem_map.1 hx
  exact h.fields.tasks y hy
/-- What a checkpoint takes, and what it takes over from the machine. -/
theorem State.canonical.snapshot {s : State} (h : s.canonical) {p : Part} : (s.snapshot p).sound :=
  ⟨fun x hx => h.vals x (List.mem_of_mem_filter hx), fun x hx => h.fields.past x (List.mem_of_mem_filter hx)⟩

theorem State.canonical.imageTasks {s : State} (h : s.canonical) {im : Image} (hi : im.sound) : (s.imageTasks im).sound := by
  refine ⟨fun x hx => ?_, hi.2⟩
  obtain ⟨y, hy, rfl⟩ := List.mem_map.1 hx
  split
  next z hz => exact (h.task hz : z.ok = true)
  next => exact hi.1 y hy

theorem State.canonical.foldlFst {α β : Type} {f : State × β → α → State × β} {xs : List α} {r : State × β} (h : r.1.canonical)
    (hf : ∀ r x, r.1.canonical → (f r x).1.canonical) : (xs.foldl f r).1.canonical := by
  induction xs generalizing r with
  | nil => exact h
  | cons x xs ih => exact ih (hf _ x h)

theorem State.canonical.ite {p : Prop} [Decidable p] {s t : State} (hs : s.canonical) (ht : t.canonical) :
    (if p then s else t).canonical := by
  split
  · exact hs
  · exact ht

theorem State.canonical.fst {α : Type} {s : State} {x : α} {r : State × α} (e : r = (s, x)) (h : r.1.canonical) : s.canonical := by
  rw [e] at h; exact h

theorem State.canonical.snd {α : Type} {s : State} {x : α} {r : α × State} (e : r = (x, s)) (h : r.2.canonical) : s.canonical := by
  rw [e] at h; exact h

/-- The step, if it is made whole, leaves every memory canonical. -/
def StaysCanonical (o : Host.Outcome State Fault Refusal) : Prop := ∀ t, o = .next t → t.canonical

theorem StaysCanonical.next {t : State} (h : t.canonical) : StaysCanonical (.next t) := by simpa [StaysCanonical] using h
theorem StaysCanonical.refused {r : Refusal} : StaysCanonical (.refused r) := by simp [StaysCanonical]
theorem StaysCanonical.andThen {o : Host.Outcome State Fault Refusal} {f : State → Host.Outcome State Fault Refusal}
    (h : StaysCanonical o) (hf : ∀ t, t.canonical → StaysCanonical (f t)) : StaysCanonical (andThen o f) := by
  unfold Sys2Proof.Machine.andThen
  split
  next t => exact hf t (h t rfl)
  all_goals simp [StaysCanonical]

end Sys2Proof.Machine
end

section
/-! SUPPORT. The operations that an instruction is made of keep every memory canonical.
The lemmas are many and short: they are elaborated one after another, so that no thread waits for another. -/

set_option Elab.async false

namespace Sys2Proof.Machine

namespace State.canonical
variable {s : State} (h : s.canonical)
include h

/-! ## The operations of the state -/

theorem crewError {t e} : (s.crewError t e).canonical := .onJob (.onTask h)

theorem releaseDefers {k} : (s.releaseDefers k).canonical := by
  unfold State.releaseDefers
  split
  · exact h
  · exact .foldl (.putWarp h) (fun _ _ h => .onWarp (.mk h.fields))

theorem frameFreed {c} : (s.frameFreed c).canonical := .foldl h (fun _ _ h => .releaseDefers h)

theorem endCrew {k ecode edet eaddr} : (s.endCrew k ecode edet eaddr).canonical := by
  unfold State.endCrew
  split
  · exact h
  · refine .foldl (.mk (.of (.foldl (.crewError h) (fun s x h => ?_)))) (fun _ _ h => .frameFreed h)
    split
    · exact .crewError h
    · exact h

theorem offPath {k pid lns} : (s.offPath k pid lns).canonical := .onWarp h

theorem takeTrap {k lns x xpc c hold} : (s.takeTrap k lns x xpc c hold).canonical := by
  unfold State.takeTrap
  split
  · exact h
  · split
    · split
      · split
        · exact .putWarp h
        · split
          · split
            · dsimp only
              split
              · exact .endCrew h
              · exact .putWarp (.snd ‹_› (.name h))
            · dsimp only
              split
              · exact .endCrew h
              · exact .putWarp (.snd ‹_› (.name h))
      · split
        · exact .putWarp h
        · split
          · split
            · dsimp only
              split
              · exact .endCrew h
              · exact .putWarp (.snd ‹_› (.name h))
            · dsimp only
              split
              · exact .endCrew h
              · exact .putWarp (.snd ‹_› (.name h))
    · split
      · exact .putWarp h
      · split
        · split
          · dsimp only
            split
            · exact .endCrew h
            · exact .putWarp (.snd ‹_› (.name h))
          · dsimp only
            split
            · exact .endCrew h
            · exact .putWarp (.snd ‹_› (.name h))

theorem defer {k lns x} : (s.defer k lns x).canonical := .onWarp h

theorem park {k pid x xpc faults hold} : (s.park k pid x xpc faults hold).canonical := by
  unfold State.park
  split
  · exact h
  · split
    · exact h
    · split
      · exact .endCrew h
      · split
        · dsimp only
          split
          · exact .takeTrap (.offPath h)
          · exact .defer (.takeTrap (.offPath h))

theorem illegalWord {k pid e} : (s.illegalWord k pid e).canonical := by
  unfold State.illegalWord
  split
  · exact h
  · split
    · exact h
    · exact .park (.onPath h)

theorem afterWord {c slot yld} : (s.afterWord c slot yld).canonical := by
  unfold State.afterWord
  dsimp only
  split
  · exact h
  · split
    · exact .onWarp (.setCore h)
    · exact .setCore h

theorem l2Touch {part ctx line write ch} : (s.l2Touch part ctx line write ch).canonical := by
  unfold State.l2Touch
  split
  · exact h
  · split
    · exact h
    · split
      · exact .mk h.fields
      · split
        · split
          · exact h
          · exact .putPart h (.chargeTraffic (State.canonical.part h ‹_›))
        · refine .mk (.of (.putPart h ?_))
          split
          · split
            · exact .chargeTraffic (.chargeTraffic (State.canonical.part h ‹_›))
            · exact .chargeTraffic (State.canonical.part h ‹_›)
          · exact .chargeTraffic (State.canonical.part h ‹_›)

theorem homeAccept {dev bs who t tag} : (s.homeAccept dev bs who t tag).1.canonical := .mk h.fields

theorem logLine {part a line} : (s.logLine part a line).canonical := by
  unfold State.logLine
  refine .onPart h (fun p hx => ?_)
  split <;> exact hx

theorem writeArea {part a off bs} : (s.writeArea part a off bs).canonical :=
  .setArea (.foldl h (fun _ _ h => .logLine h)) (Store.write_ok (State.canonical.area (.foldl h (fun _ _ h => .logLine h))))
theorem homeStore {part dev bs who t tag} : (s.homeStore part dev bs who t tag).1.canonical := .writeArea (.mk h.fields)

theorem orEntry {part ctx dev bit} : (s.orEntry part ctx dev bit).canonical := by
  unfold State.orEntry
  dsimp only
  split
  · exact h
  · exact .homeStore (.l2Touch h)

theorem walk {part ctx va} : (s.walk part ctx va).1.canonical := by
  unfold State.walk
  split
  · exact h
  · split
    · exact h
    · split
      · exact .foldl h (fun _ _ h => .l2Touch h)
      · exact .onPart (.foldl (.foldl h (fun _ _ h => .l2Touch h)) (fun _ _ h => .orEntry h))

theorem translate {part ctx va use priv} : (s.translate part ctx va use priv).1.canonical := by
  unfold State.translate
  dsimp only
  split
  · exact h
  · split
    · split
      · exact h
      · exact .walk h
    · split
      · split
        · exact h
        · exact .walk h
      · split
        · exact h
        · exact .walk h
      · split
        · exact h
        · exact .walk h
      · split
        · split
          · exact h
          · exact .walk h
        · split
          · split
            · exact h
            · exact .walk h
          · split
            · split
              · exact h
              · exact .walk h
            · split
              · split
                · exact h
                · exact .walk h
              · split
                · exact h
                · exact .walk h
            · split
              · split
                · exact h
                · exact .walk h
              · split
                · split
                  · exact h
                  · exact .walk h
                · refine .onPart (.orEntry ?_)
                  split
                  · exact h
                  · exact .walk h

theorem locate {part ctx va n use priv} : (s.locate part ctx va n use priv).1.canonical := by
  unfold State.locate
  split
  · split
    · exact h
    · split
      · split
        · exact h
        · split <;> exact h
  · split <;> exact .fst ‹_› (.translate h)

theorem advance {c i} : (s.advance c i).canonical := .onPath h
theorem faultAt {c i faults} : (s.faultAt c i faults).canonical := .park (.advance h)

theorem revokeCycles {c lines} : (s.revokeCycles c lines).2.canonical := by
  unfold State.revokeCycles
  split
  · exact h
  · split
    · exact .draw h
    · exact h

theorem trace {part kind cluster core slot data} : (s.trace part kind cluster core slot data).canonical := by
  unfold State.trace
  split
  · exact h
  · split
    · exact h
    · split
      · exact h
      · split
        · exact .putPart h (.of (State.canonical.part h ‹_›))
        · exact .setArea (.mk (.of (.putPart h (.of (State.canonical.part h ‹_›))))) (Store.write_ok h.hbm)

theorem revoke {c away lines} : (s.revoke c away lines).canonical := by
  unfold State.revoke
  dsimp only
  exact .foldl (.setCore (.revokeCycles h)) (fun _ _ h => .trace (.setWarp h))

theorem locWrite {part x bs} : (s.locWrite part x bs).canonical := by
  unfold State.locWrite
  split
  · exact .homeStore h
  · exact .foldl h (fun _ _ h => .homeStore h)

theorem l2Access {part ctx line write ch} : (s.l2Access part ctx line write ch).canonical := by
  unfold State.l2Access
  split
  · exact .l2Touch (.l2Touch h)
  · exact .l2Touch h

theorem l1Access {c part ctx va line write ch} : (s.l1Access c part ctx va line write ch).canonical := by
  unfold State.l1Access
  split
  · split
    · exact .mk h.fields
    · exact h
  · exact .mk (.of (.l2Access h))

theorem touchPriv {w ctx va x write ch} : (s.touchPriv w ctx va x write ch).canonical := .foldl h (fun _ _ h => .l1Access h)

/-! ## Operands and issue -/

theorem spill {k priv named taken} : (s.spill k priv named taken).1.canonical := by
  unfold State.spill
  split
  · exact h
  · split
    · split
      · exact .fst ‹_› (.locate h)
      · split
        · exact .putWarp (.locWrite (.touchPriv (.fst ‹_› (.locate h))))
        · exact .fst ‹_› (.locate h)
    · exact h

theorem takeLine {k priv x named taken n more} : (s.takeLine k priv x named taken n more).1.canonical := by
  unfold State.takeLine
  split
  · exact h
  · split
    · dsimp only
      split
      · exact h
      · split
        · exact .revoke h
        · exact .fst ‹_› (.spill h)
    · dsimp only
      split
      · exact h
      · split
        · exact .revoke h
        · exact .fst ‹_› (.spill h)
    · dsimp only
      split
      · exact h
      · split
        · exact .revoke h
        · exact .fst ‹_› (.spill h)

theorem reload {k priv n line} : (s.reload k priv n line).1.canonical := by
  unfold State.reload
  split
  · exact h
  · split
    · dsimp only
      split
      · exact .fst ‹_› (.locate h)
      · split
        · exact .fst ‹_› (.locate h)
        · exact .putWarp (.touchPriv (.fst ‹_› (.locate h)))
    · exact h

theorem gather {k priv x named needs taken} : (s.gather k priv x named needs taken).1.canonical := by
  induction needs generalizing s taken with
  | nil => exact h
  | cons n needs ih =>
    unfold State.gather
    split
    · exact .fst ‹_› (.takeLine h)
    · have line := State.canonical.fst ‹_› (.takeLine h)
      split
      · split
        · exact .fst ‹_› (.reload line)
        · exact ih (.fst ‹_› (.reload line))
      · exact ih line

theorem writeDest {k wr taken d} : (s.writeDest k wr taken d).canonical := by
  unfold State.writeDest
  split
  · exact h
  · split
    · exact .onWarp h
    · exact .onWarp h
    · exact h

theorem putThen {c wr i reads uses dests preds flags fin} (hf : ∀ t, t.canonical → (fin t).canonical) :
    (s.putThen c wr i reads uses dests preds flags fin).canonical := by
  unfold State.putThen
  dsimp only
  split
  · exact .faultAt (.fst ‹_› (.gather h))
  · exact hf _ (.onWarp (.foldl (.fst ‹_› (.gather h)) (fun _ _ h => .writeDest h)))

theorem commitThen {c wr i dests preds flags fin} (hf : ∀ t, t.canonical → (fin t).canonical) :
    (s.commitThen c wr i dests preds flags fin).canonical := .putThen h (fun _ h => hf _ h)
theorem commitTo {c wr i faults dests preds flags more} (hf : ∀ t, t.canonical → (more t).canonical) :
    (s.commitTo c wr i faults dests preds flags more).canonical := .commitThen h (fun _ h => .faultAt (hf _ h))
theorem commit {c i faults dests preds flags more} (hf : ∀ t, t.canonical → (more t).canonical) :
    (s.commit c i faults dests preds flags more).canonical := .commitTo h (fun _ h => hf _ h)
theorem result {c i d sh x} : (s.result c i d sh x).canonical := .commit h (fun _ h => h)
theorem result64 {c i d sh x} : (s.result64 c i d sh x).canonical := .commit h (fun _ h => h)
theorem resultP {c i pd f} : (s.resultP c i pd f).canonical := .commit h (fun _ h => h)
theorem resultF {c i d srcs more g} (hf : ∀ t, t.canonical → (more t).canonical) : (s.resultF c i d srcs more g).canonical :=
  .commit h (fun _ h => hf _ h)
theorem setLfsr {k g} : (s.setLfsr k g).canonical := .setCore h

theorem arriveCross {c i a srcs} : (s.arriveCross c i a srcs).canonical := by
  unfold State.arriveCross
  split
  · exact .faultAt (.fst ‹_› (.gather h))
  · dsimp only
    split
    · exact .advance (.onWarp (.fst ‹_› (.gather h)))
    · split
      · exact .onPath (.onWarp (.fst ‹_› (.gather h)))
      · exact .onWarp (.name (.onPath (.onWarp (.fst ‹_› (.gather h)))))

/-! ## Faults and waits -/

theorem regroup {c groups} : (s.regroup c groups).canonical := by
  unfold State.regroup
  split
  · exact h
  · split
    · exact .onWarp h
    · exact .foldl (.onPath h) (fun _ _ h => .onWarp (.mk h.fields))

theorem joinRelease {k x hand} : (s.joinRelease k x hand).canonical := by
  unfold State.joinRelease
  split
  · exact h
  · split
    · exact h
    · split
      · exact h
      · exact .putWarp h

theorem block {c wait} : (s.block c wait).canonical := .onPath h

theorem reportImp {c i e} : (s.reportImp c i e).canonical := by
  unfold State.reportImp
  refine .faultAt ?_
  split
  · exact h
  · exact .onWarp h

/-! ## The operations of the state -/

theorem freedBy {k} : (s.freedBy k).canonical := by
  unfold State.freedBy
  split
  · exact .frameFreed h
  · exact .releaseDefers h

theorem leaveFrame {k pids f x} : (s.leaveFrame k pids f x).canonical := by
  unfold State.leaveFrame
  split
  · exact h
  · split
    · exact .endCrew h
    · exact .freedBy (.putWarp (.mk h.fields))

theorem returnTrap {k} : (s.returnTrap k).canonical := by
  unfold State.returnTrap
  split
  · exact h
  · dsimp only
    split
    · exact h
    · split
      · exact h
      · split
        · exact .leaveFrame h
        · exact h

/-! ## Faults and waits -/

theorem exitLanes {c} : (s.exitLanes c).canonical := by
  unfold State.exitLanes
  split
  · dsimp only
    split
    · split
      · refine .returnTrap (.offPath ?_)
        split
        · exact .onTask (.onWarp h)
        · exact .onWarp h
      · refine .freedBy (.offPath ?_)
        split
        · exact .onTask (.onWarp h)
        · exact .onWarp h
    · refine .offPath ?_
      split
      · exact .onTask (.onWarp h)
      · exact .onWarp h
  · refine .offPath ?_
    split
    · exact .onTask (.onWarp h)
    · exact .onWarp h

theorem stopWith {c i cause code hold} : (s.stopWith c i cause code hold).canonical := .park (.advance h)

theorem gathered {c i dests body} (hb : ∀ t, t.canonical → (body t).canonical) : (s.gathered c i dests body).canonical := by
  unfold State.gathered
  split
  · exact .faultAt (.fst ‹_› (.gather h))
  · exact hb _ (.fst ‹_› (.gather h))

/-! ## Accesses, pins and page walks -/

theorem privPiece {c use o va k} : (s.privPiece c use o va k).1.canonical := by
  unfold State.privPiece
  split
  · exact .fst ‹_› (.locate h)
  · split <;> exact .fst ‹_› (.locate h)

theorem privForm {c m disp n use l} : (s.privForm c m disp n use l).1.canonical := by
  unfold State.privForm
  dsimp only
  split
  · exact h
  · split
    · exact h
    · split
      · refine .foldlFst h (fun r x h => ?_)
        split <;> exact .fst ‹_› (.privPiece h)
      · refine .foldlFst h (fun r x h => ?_)
        split <;> exact .fst ‹_› (.privPiece h)

theorem privAll {c m disp n use} : (s.privAll c m disp n use).1.canonical := by
  unfold State.privAll
  refine .foldlFst h (fun r x h => ?_)
  split <;> exact .fst ‹_› (.privForm h)

theorem join {k g} : (s.join k g).canonical := .onWarp h
theorem privTouch {c ps write} : (s.privTouch c ps write).canonical := .foldl h (fun _ _ h => .touchPriv h)

theorem privLoad {c i t d m disp} : (s.privLoad c i t d m disp).canonical := by
  unfold State.privLoad
  refine .commit (.foldlFst h (fun r x h => ?_)) (fun _ h => .foldl (.foldl h (fun _ _ h => .privTouch h)) (fun _ _ h => .join h))
  split <;> exact .fst ‹_› (.privForm h)

theorem globAddr {c va n use} : (s.globAddr c va n use).1.canonical := by
  unfold State.globAddr
  split <;> exact .fst ‹_› (.locate h)

theorem laneAddr {c m disp n align perm use l} : (s.laneAddr c m disp n align perm use l).1.canonical := by
  unfold State.laneAddr
  split
  · dsimp only
    split
    · exact h
    · split
      · exact h
      · exact .globAddr h
  · dsimp only
    split
    · exact h
    · split <;> exact h

theorem formOnce {form m} (hf : ∀ t l, t.canonical → (form t l).1.canonical) : (s.formOnce form m).1.canonical := by
  unfold State.formOnce
  split
  · exact h
  · split <;> exact .fst ‹_› (hf _ _ h)

theorem formAll {form m} (hf : ∀ t l, t.canonical → (form t l).1.canonical) : (s.formAll form m).1.canonical := by
  unfold State.formAll
  refine .foldlFst h (fun r x h => ?_)
  split <;> exact .fst ‹_› (hf _ _ h)

theorem demandRange {c sp accs} : (s.demandRange c sp accs).1.canonical := by
  unfold State.demandRange
  split
  · exact h
  · dsimp only
    split
    · exact .revoke h
    · exact h

theorem reserve {c taken n} : (s.reserve c taken n).canonical := by
  unfold State.reserve
  split
  · exact .onWarp h
  · exact h

theorem enqueue {k e} : (s.enqueue k e).canonical := .onWarp (.mk h.fields)

theorem issueAccess {c i faults dst e} : (s.issueAccess c i faults dst e).canonical := by
  unfold State.issueAccess
  split
  · exact h
  · split
    · exact .fst ‹_› (.demandRange h)
    · split
      · dsimp only
        split
        · exact .faultAt (.fst ‹_› (.gather (.fst ‹_› (.demandRange h))))
        · refine .faultAt (.onWarp ?_)
          split
          · exact .fst ‹_› (.gather (.fst ‹_› (.demandRange h)))
          · refine .foldl (.fst ‹_› (.gather (.fst ‹_› (.demandRange h)))) (fun s x h => ?_)
            split
            · exact .reserve h
            · exact h
      · dsimp only
        split
        · exact .faultAt (.fst ‹_› (.gather (.fst ‹_› (.demandRange h))))
        · refine .faultAt (.enqueue (.onWarp ?_))
          split
          · exact .fst ‹_› (.gather (.fst ‹_› (.demandRange h)))
          · refine .foldl (.fst ‹_› (.gather (.fst ‹_› (.demandRange h)))) (fun s x h => ?_)
            split
            · exact .reserve h
            · exact h

theorem privWrite {c ps bs} : (s.privWrite c ps bs).canonical := .foldlFst (.privTouch h) (fun _ _ h => .locWrite h)

theorem privStore {c i t d m disp} : (s.privStore c i t d m disp).canonical := by
  unfold State.privStore
  refine .commit (.foldlFst h (fun r x h => ?_)) (fun _ h => .foldl h (fun _ _ h => .privWrite h))
  split <;> exact .fst ‹_› (.privForm h)

theorem lineAddr {c m disp l} : (s.lineAddr c m disp l).1.canonical := by
  unfold State.lineAddr
  dsimp only
  split
  · exact h
  · split
    · exact .fst ‹_› (.locate h)
    · split <;> exact .fst ‹_› (.locate h)

theorem lineAddrs {c m disp} : (s.lineAddrs c m disp).1.canonical := by
  unfold State.lineAddrs
  refine .foldlFst h (fun r x h => ?_)
  split <;> exact .fst ‹_› (.lineAddr h)

theorem pinLine {part ctx line} : (s.pinLine part ctx line).1.canonical := by
  unfold State.pinLine
  split
  · exact h
  · split
    · split
      · split
        · exact h
        · dsimp only
          split
          · split
            · exact h
            · exact .mk h.fields
          · split
            · exact h
            · exact .mk h.fields
      · dsimp only
        split
        · split
          · exact h
          · exact .mk (.of (.mk h.fields))
        · split
          · exact h
          · exact .mk (.of (.l2Touch h))
    · split
      · split
        · exact h
        · dsimp only
          split
          · split
            · exact h
            · exact .mk h.fields
          · split
            · exact h
            · exact .mk h.fields
      · dsimp only
        split
        · split
          · exact h
          · exact .mk (.of (.mk h.fields))
        · split
          · exact h
          · exact .mk (.of (.l2Touch h))

theorem pinAll {part ctx lines} : (s.pinAll part ctx lines).1.canonical := by
  unfold State.pinAll
  refine .foldlFst h (fun r x h => ?_)
  split <;> split <;> exact .fst ‹_› (.pinLine h)

theorem unpinLine {ctx line} : (s.unpinLine ctx line).canonical := .mk h.fields
theorem touchLoc {part ctx x write ch} : (s.touchLoc part ctx x write ch).canonical := .foldl h (fun _ _ h => .l2Access h)

/-! ## The operations of the state -/

theorem noteRead {p c who line seq} : (s.noteRead p c who line seq).canonical := by
  unfold State.noteRead
  split
  · exact h
  · split
    · exact h
    · exact .onWarp h

theorem grantLease {hd line t dur} : (s.grantLease hd line t dur).canonical := .mk h.fields

theorem serveLoad {part ctx c who dev n scope ch} : (s.serveLoad part ctx c who dev n scope ch).1.canonical := by
  unfold State.serveLoad
  split
  · exact h
  · split
    · split
      · dsimp only
        split
        · exact .noteRead h
        · split
          · exact .l2Access (.noteRead h)
          · exact .grantLease (.l2Access (.noteRead h))
          · exact .l2Access (.noteRead h)
      · dsimp only
        split
        · exact .noteRead h
        · split
          · exact .grantLease (.l2Access (.noteRead h))
          · exact .grantLease (.l2Access (.noteRead h))
          · exact .l2Access (.noteRead h)
    · split
      · dsimp only
        split
        · exact .noteRead h
        · split
          · exact .l2Access (.noteRead h)
          · exact .grantLease (.l2Access (.noteRead h))
          · exact .l2Access (.noteRead h)
      · dsimp only
        split
        · exact .noteRead h
        · split
          · exact .grantLease (.l2Access (.noteRead h))
          · exact .grantLease (.l2Access (.noteRead h))
          · exact .l2Access (.noteRead h)

theorem prefetch {c a} : (s.prefetch c a).canonical := by
  unfold State.prefetch
  split
  · exact h
  · split
    · exact h
    · dsimp only
      split
      · exact .touchLoc h
      · split
        · exact .serveLoad h
        · exact .l2Access (.serveLoad h)

theorem icDrop {part ctx va} : (s.icDrop part ctx va).canonical := .mk h.fields
theorem faultAll {c i e} : (s.faultAll c i e).canonical := .faultAt h
theorem outOfRange {c i detail} : (s.outOfRange c i detail).canonical := .faultAll h

theorem engThen {c i dests m glob n align perm body} (hb : ∀ n, (body n).canonical) :
    (s.engThen c i dests m glob n align perm body).canonical := by
  unfold State.engThen
  refine .gathered h (fun t h => ?_)
  split
  · exact .faultAll h
  · exact hb _

theorem issueOp {c i faults op} : (s.issueOp c i faults op).canonical := by
  unfold State.issueOp
  refine .commit h (fun t h => ?_)
  split
  · split
    · exact .onWarp (.mk (.of (.snd ‹_› (.name h))))
    · exact .mk (.of (.snd ‹_› (.name h)))

theorem issueCard {c i m cls scope fill} (hf : ∀ t o, t.canonical → (fill t o).1.canonical) :
    (s.issueCard c i m cls scope fill).canonical := by
  unfold State.issueCard
  split
  · exact .outOfRange h
  · split
    · exact h
    · exact .engThen h (fun _ => .issueOp (hf _ _ h))

theorem putIndex {part cluster n v} : (s.putIndex part cluster n v).canonical :=
  .setCluster (.logLine h) (State.canonical.cluster (.logLine h))

theorem enterWith {c i dests e k} (hk : ∀ t n, t.canonical → (k t n).canonical) : (s.enterWith c i dests e k).canonical := by
  unfold State.enterWith
  split
  · exact h
  · split
    · exact .fst ‹_› (.demandRange h)
    · split
      · exact .faultAll (.fst ‹_› (.gather (.fst ‹_› (.demandRange h))))
      · refine hk _ _ (.enqueue (.onWarp (.foldl (.fst ‹_› (.gather (.fst ‹_› (.demandRange h)))) (fun s x h => ?_))))
        split
        · exact .reserve h
        · exact h

theorem enterOnce {c i e k} (hk : ∀ t n, t.canonical → (k t n).canonical) : (s.enterOnce c i e k).canonical :=
  .enterWith h (fun _ _ h => hk _ _ h)
theorem atHome {c id} : (s.atHome c id).canonical := .onPath h

theorem bankOf {w sp off} : (s.bankOf w sp off).2.canonical := by
  unfold State.bankOf
  split
  · split
    · exact h
    · exact h
    · split
      · exact h
      · exact .mk h.fields
  · split
    · exact h
    · exact h
    · split
      · exact h
      · exact .mk h.fields

theorem guardAccess {k sp off} : (s.guardAccess k sp off).canonical := by
  unfold State.guardAccess
  split
  · exact h
  · split
    · exact .putWarp h
    · refine .putWarp ?_
      split
      · exact h
      · exact h
      · split
        · exact h
        · exact .mk h.fields

theorem ringEntry {c i m dst ord data k} (hk : ∀ t m n, t.canonical → (k t m n).canonical) :
    (s.ringEntry c i m dst ord data k).canonical :=
  .engThen h (fun _ => .enterWith h (fun _ _ h => hk _ _ _ h))

theorem spawnFault {c va n} : (s.spawnFault c va n).1.canonical := by
  induction n generalizing s va with
  | zero => exact h
  | succ n ih =>
    unfold State.spawnFault
    split
    · split
      · exact ih (.fst ‹_› (.locate h))
      · exact .fst ‹_› (.locate h)
    · exact ih (.fst ‹_› (.locate h))

/-! ## Tasks, rings and engines at issue -/

theorem resultU64 {c i d v} : (s.resultU64 c i d v).canonical := .result64 h
theorem resultU {c i d v more} (hf : ∀ t, t.canonical → (more t).canonical) : (s.resultU c i d v more).canonical :=
  .commit h (fun _ h => hf _ h)
theorem setLent {c l} : (s.setLent c l).canonical := .setCore h

theorem setAperture {part n which v} : (s.setAperture part n which v).canonical := by
  unfold State.setAperture
  refine .onPart h fun p hp => ?_
  have put : Part.sound { p with apertures := Vector.ofFn fun i : Fin 16 =>
    if i.val == n then (p.apertures.toList.getD n Aperture.off).put which v else p.apertures[i.val] } := hp
  exact put.dropRange.dropRange

theorem sysWrite {c r v} : (s.sysWrite c r v).canonical := by
  unfold State.sysWrite
  dsimp only
  split
  · exact .onWarp h
  · split
    · exact .onWarp h
    · split
      · exact .setLfsr h
      · split
        · exact .setCluster h (State.canonical.cluster h)
        · split
          · exact .setAperture h
          · exact h

theorem onEntry {k id f} : (s.onEntry k id f).canonical := .onWarp h
theorem setAcc {k id old new} : (s.setAcc k id old new).canonical := .onEntry h

theorem findOn {k e code faults p} : (s.findOn k e code faults p).canonical := by
  unfold State.findOn
  split <;> exact .park h

theorem dropAcc {k id a} : (s.dropAcc k id a).canonical := .onEntry h

theorem findAll {k e as code detail} : (s.findAll k e as code detail).canonical := by
  unfold State.findAll
  split
  · exact h
  · split
    · exact .foldl h (fun _ _ h => .setAcc h)
    · exact .foldl (.foldl h (fun _ _ h => .dropAcc h)) (fun _ _ h => .findOn h)

theorem rewatch {w e a} : (s.rewatch w e a).canonical := by
  unfold State.rewatch
  split
  · exact .setAcc (.fst ‹_› (.locate h))
  · exact .findAll (.fst ‹_› (.locate h))

theorem retranslate {part ctx ranges} : (s.retranslate part ctx ranges).canonical :=
  .foldl h (fun _ _ h => .foldl h (fun _ _ h => .foldl h (fun _ _ h => .rewatch h)))
theorem shootdown {part ctx range} : (s.shootdown part ctx range).canonical := .onPart h

/-! ## Cross-lane instructions -/

theorem meet {k x hand} : (s.meet k x hand).canonical := by
  unfold State.meet
  split
  · exact h
  · split
    · exact h
    · split
      · exact h
      · split
        · dsimp only
          split
          · exact .endCrew h
          · split
            · split
              · exact .advance (.putWarp h)
              · exact .putThen (.putWarp h) (fun _ h => .advance h)
            · exact .putWarp h
        · dsimp only
          split
          · exact .takeTrap (.foldl h (fun _ _ h => .offPath h))
          · split
            · split
              · exact .advance (.putWarp h)
              · exact .putThen (.putWarp h) (fun _ h => .advance h)
            · exact .putWarp h

theorem release {k pid} : (s.release k pid).canonical := by
  unfold State.release
  split
  · exact h
  · exact .onPath h

end State.canonical

end Sys2Proof.Machine
end

section
/-! SUPPORT. The access queue and the engines keep every memory canonical.
The lemmas are many and short: they are elaborated one after another, so that no thread waits for another. -/

set_option Elab.async false

namespace Sys2Proof.Machine

namespace State.canonical
variable {s : State} (h : s.canonical)
include h

/-! ## The access queue -/

theorem gate {k id} : (s.gate k id).canonical := .onEntry h

theorem checkGuard {w sp off n} : (s.checkGuard w sp off n).canonical := by
  unfold State.checkGuard
  split
  · exact h
  · exact .guardAccess h

theorem findPoison {k e a detail} : (s.findPoison k e a detail).canonical := by
  unfold State.findPoison
  split
  · exact .setAcc h
  · exact .findAll h

theorem noteLines {p w lines} : (s.noteLines p w lines).canonical := .foldl h (fun _ _ h => .noteRead h)

theorem evaluate {k id a} : (s.evaluate k id a).canonical := by
  unfold State.evaluate
  split
  · exact h
  · split
    · exact h
    · split
      · split
        · exact .findPoison h
        · split
          · dsimp only
            split
            · exact .noteLines (.setAcc h)
            · exact .setAcc h
          · exact h
      · exact h

theorem arrive {k id a} : (s.arrive k id a).canonical := by
  unfold State.arrive
  split
  · exact h
  · split
    · exact h
    · refine .evaluate ?_
      split
      · exact .touchLoc (.setAcc h)
      · exact .checkGuard (.setAcc h)

theorem dropEntry {k id} : (s.dropEntry k id).canonical := .onWarp h

theorem perform' {k id lns kinds f} (hf : ∀ t a, t.canonical → (f t a).canonical) : (s.perform' k id lns kinds f).canonical := by
  unfold State.perform'
  split
  · exact h
  · split
    · exact h
    · split
      · dsimp only
        split
        · exact h
        · split
          · exact .gate h
          · exact .foldl (.onEntry h) (fun _ _ h => hf _ _ h)
      · dsimp only
        split
        · exact h
        · split
          · exact .gate h
          · exact .foldl h (fun _ _ h => hf _ _ h)

theorem watch : s.watch.canonical := .foldl h (fun _ _ h => .foldl h (fun _ _ h => .foldl h (fun _ _ h => .evaluate h)))

theorem postEvent {cluster r t} (ht : s.postEvent cluster r = some t) : t.canonical := by
  unfold State.postEvent at ht
  dsimp only at ht
  split at ht
  · cases ht
  · exact Option.some.inj ht ▸ .setCluster h (State.canonical.cluster h)

/-! ## Records of tasks -/

theorem readVirtual {part ctx priv va n} : (s.readVirtual part ctx priv va n).1.canonical := by
  unfold State.readVirtual
  split
  · exact h
  · refine .foldlFst h (fun r x h => ?_)
    split
    · exact h
    · dsimp only
      split
      · exact .fst ‹_› (.locate h)
      · split
        · exact .fst ‹_› (.locate h)
        · exact .touchLoc (.fst ‹_› (.locate h))

theorem checkRecord {part ctx priv va} : (s.checkRecord part ctx priv va).1.canonical := by
  unfold State.checkRecord
  split
  · exact h
  · split
    · exact .fst ‹_› (.readVirtual h)
    · dsimp only
      split
      · exact .fst ‹_› (.readVirtual h)
      · split
        · exact .fst ‹_› (.readVirtual h)
        · split
          · exact .fst ‹_› (.readVirtual h)
          · split
            · exact .fst ‹_› (.readVirtual (.fst ‹_› (.readVirtual h)))
            · split <;> exact .fst ‹_› (.readVirtual (.fst ‹_› (.readVirtual h)))

theorem checkRecords {part ctx priv va n} : (s.checkRecords part ctx priv va n).1.canonical := by
  induction n generalizing s va with
  | zero => exact h
  | succ n ih =>
    unfold State.checkRecords
    split
    · exact .fst ‹_› (.checkRecord h)
    · have rest := ih (va := va + 64) (.fst ‹_› (.checkRecord h))
      split
      · exact .fst ‹_› rest
      · exact .fst ‹_› rest

theorem callRound {part} : (s.callRound part).canonical := .onPart h

theorem makeReady {tid} : (s.makeReady tid).canonical := by
  unfold State.makeReady
  split
  · exact h
  · refine .callRound ?_
    split
    · exact .onPart (.setTask (.mk h.fields) (Task.ok_of (State.canonical.task h ‹_›)))
    · exact .setTask (.mk h.fields) (Task.ok_of (State.canonical.task h ‹_›))

theorem queueTask {part job ctx r k} : (s.queueTask part job ctx r k).canonical := by
  unfold State.queueTask
  split
  · dsimp only
    split
    · exact .makeReady (.setTask (.snd ‹_› (.name h)) (by rfl))
    · exact .setTask (.snd ‹_› (.name h)) (by rfl)

/-! ## The access queue -/

theorem spawn {w e a} : (s.spawn w e a).canonical := by
  unfold State.spawn
  split
  · exact h
  · dsimp only
    split
    · exact .endCrew (.fst ‹_› (.checkRecords h))
    · exact .foldl (.fst ‹_› (.checkRecords h)) (fun _ _ h => .queueTask h)

theorem signalAcc {k id a} : (s.signalAcc k id a).canonical := by
  unfold State.signalAcc
  split
  · exact h
  · split
    · exact h
    · split
      · split
        · exact .setAcc (.postEvent h ‹_›)
        · exact h
      · exact .spawn (.setAcc h)

theorem homeDone {k e} : (s.homeDone k e).canonical := by
  unfold State.homeDone
  split
  · exact h
  · dsimp only
    split
    · exact .advance (.onPath h)
    · exact .onPath h

theorem homeTurn {k e} : (s.homeTurn k e).canonical := by
  unfold State.homeTurn
  dsimp only
  split
  · exact .afterWord h
  · exact h

theorem homeTrap {k e m c} : (s.homeTrap k e m c).canonical := by
  unfold State.homeTrap
  split
  · exact .dropEntry h
  · refine .homeTurn (.park (.onWarp (.dropEntry ?_)))
    split
    · exact .homeDone h
    · exact .onPath h

theorem homeFault {k e a code detail} : (s.homeFault k e a code detail).canonical := .homeTrap h
theorem dropL1 {c line} : (s.dropL1 c line).canonical := .mk h.fields
theorem setHbmTag {dev t} : (s.setHbmTag dev t).canonical := .mk { h.fields with hbm := Store.setTag_ok (State.canonical.hbm h) }

theorem globalStore {w id dev bs tag ch} : (s.globalStore w id dev bs tag ch).1.canonical := by
  unfold State.globalStore
  split
  · exact h
  · split
    · exact .putPart h (.of (State.canonical.part h ‹_›))
    · refine .dropL1 ?_
      split
      · exact .setHbmTag (.writeArea (.mk (.of (.l2Access h))))
      · exact .writeArea (.mk (.of (.l2Access h)))

theorem windowTag {w sp off t} : (s.windowTag w sp off t).canonical := by
  unfold State.windowTag
  split
  · split
    · exact .setArea h (Store.setTag_ok (State.canonical.area h))
    · exact h

theorem stampWrite {part a off bs t} : (s.stampWrite part a off bs t).canonical :=
  .setArea (.writeArea h) (Store.stamp_ok (State.canonical.area (.writeArea h)))

theorem windowWrite {w sp off bs} : (s.windowWrite w sp off bs).canonical := by
  unfold State.windowWrite
  split
  · dsimp only
    split
    · exact h
    · exact .stampWrite h

theorem writeLocation {w e a bs tag} : (s.writeLocation w e a bs tag).1.canonical := by
  unfold State.writeLocation
  split
  · exact .globalStore h
  · exact .windowTag (.windowWrite h)

theorem storeAcc {k id a} : (s.storeAcc k id a).canonical := by
  unfold State.storeAcc
  dsimp only
  split
  · exact h
  · split
    · exact h
    · split
      · exact .findPoison h
      · split
        · exact .homeFault h
        · refine .setAcc ?_
          split
          · exact .writeLocation h
          · exact .checkGuard (.writeLocation h)

theorem bararrAcc {k id a} : (s.bararrAcc k id a).canonical := by
  unfold State.bararrAcc
  dsimp only
  split
  · exact h
  · split
    · exact h
    · split
      · exact .homeFault h
      · split
        · exact .homeFault h
        · exact .homeTurn (.homeDone (.setAcc (.checkGuard (.writeLocation h))))

theorem ringResult {w e slot ok} : (s.ringResult w e slot ok).1.canonical := by
  unfold State.ringResult
  split
  · split
    · split
      · split
        · dsimp only
          split
          · exact .fst ‹_› (.gather (.putWarp h))
          · exact .onWarp (.foldl (.fst ‹_› (.gather (.putWarp h))) (fun _ _ h => .writeDest h))
        · dsimp only
          split
          · exact .fst ‹_› (.gather (.putWarp h))
          · exact .onWarp (.foldl (.fst ‹_› (.gather (.putWarp h))) (fun _ _ h => .writeDest h))
      · exact .onWarp (.foldl (.putWarp h) (fun _ _ h => .writeDest h))
  · exact h

theorem ringAcc {k id a} : (s.ringAcc k id a).canonical := by
  unfold State.ringAcc
  split
  · exact h
  · split
    · exact h
    · split
      · exact .homeFault h
      · split
        · split
          · dsimp only
            split
            · exact .homeFault h
            · exact h
            · split
              · exact .homeTrap (.fst ‹_› (.ringResult h))
              · exact .release (.setAcc (.writeLocation (.fst ‹_› (.ringResult h))))
          · dsimp only
            split
            · exact .homeFault h
            · exact h
            · split
              · exact .homeTrap (.fst ‹_› (.ringResult h))
              · exact .homeTurn (.homeDone (.setAcc (.writeLocation (.fst ‹_› (.ringResult h)))))
        · split
          · dsimp only
            split
            · exact .homeFault h
            · exact .checkGuard (.setAcc h)
            · split
              · exact .homeTrap (.fst ‹_› (.ringResult h))
              · exact .release (.setAcc (.checkGuard (.writeLocation (.fst ‹_› (.ringResult h)))))
          · dsimp only
            split
            · exact .homeFault h
            · exact .checkGuard (.setAcc h)
            · split
              · exact .homeTrap (.fst ‹_› (.ringResult h))
              · exact .homeTurn (.homeDone (.setAcc (.checkGuard (.writeLocation (.fst ‹_› (.ringResult h))))))

theorem atomAcc {k id op a} : (s.atomAcc k id op a).canonical := by
  unfold State.atomAcc
  dsimp only
  split
  · exact h
  · split
    · exact h
    · split
      · exact .findPoison h
      · refine .setAcc ?_
        split
        · refine .writeLocation ?_
          split
          · exact .noteRead h
          · exact h
        · refine .checkGuard (.writeLocation ?_)
          split <;> exact h

theorem complete {w e} : (s.complete w e).canonical := by
  unfold State.complete
  split
  · dsimp only
    split
    · exact h
    · exact .dropEntry (.join (.onWarp (.foldl (.fst ‹_› (.gather (.putWarp h))) (fun _ _ h => .writeDest h))))

theorem writeResult {op w flags mism res} : (s.writeResult op w flags mism res).1.canonical := by
  unfold State.writeResult
  split
  · split
    · exact h
    · exact .checkGuard (.windowWrite h)
  · split
    · exact h
    · exact .checkGuard (.windowWrite h)

theorem setOp {op} : (s.setOp op).canonical := .mk h.fields

theorem engLoc {op w va n use} : (s.engLoc op w va n use).1.canonical := by
  unfold State.engLoc
  split
  · exact .fst ‹_› (.locate h)
  · split
    · exact .fst ‹_› (.locate h)
    · split
      · exact .fst ‹_› (.locate h)
      · exact .touchLoc (.fst ‹_› (.locate h))

theorem engPut {op w va bs} : (s.engPut op w va bs).1.canonical := by
  unfold State.engPut
  split
  · exact .fst ‹_› (.engLoc h)
  · split
    · exact .fst ‹_› (.engLoc h)
    · split
      · exact .onPart (.fst ‹_› (.engLoc h))
      · refine .foldlFst (.fst ‹_› (.engLoc h)) (fun r x h => ?_)
        split
        · exact h
        · exact .writeArea (.mk h.fields)

theorem engWrite {op w sp off bs} : (s.engWrite op w sp off bs).1.canonical := by
  unfold State.engWrite
  split
  · refine .foldlFst h (fun r x h => ?_)
    split
    · exact h
    · dsimp only
      split <;> exact .fst ‹_› (.engPut h)
  · exact .checkGuard (.windowWrite h)

/-! ## The copy engines -/

theorem writeRows {op w c sp rows pitch} : (s.writeRows op w c sp rows pitch).1.canonical := by
  unfold State.writeRows
  refine .foldlFst h (fun r x h => ?_)
  split
  · split
    · exact h
    · split
      · exact h
      · split
        · exact .fst ‹_› (.engWrite h)
        · exact .watch (.fst ‹_› (.engWrite h))

theorem writeColl {op} : (s.writeColl op).canonical := by
  unfold State.writeColl
  split
  · dsimp only
    split
    · exact h
    · split
      · exact .setOp (.writeResult (.mk h.fields))
      · split <;> exact .setOp (.writeResult (.fst ‹_› (.writeRows (.mk h.fields))))
  · exact h

theorem finishColl {op} : (s.finishColl op).canonical := by
  unfold State.finishColl
  split
  · dsimp only
    split
    · exact .setOp h
    · exact .writeColl h
  · exact h

theorem engPiece {op w va n} : (s.engPiece op w va n).1.canonical := by
  unfold State.engPiece
  split
  · exact .fst ‹_› (.engLoc h)
  · split <;> exact .fst ‹_› (.engLoc h)

theorem engRead {op w sp off n} : (s.engRead op w sp off n).1.canonical := by
  unfold State.engRead
  split
  · refine .foldlFst h (fun r x h => ?_)
    split
    · exact h
    · dsimp only
      split <;> exact .fst ‹_› (.engPiece h)
  · dsimp only
    split
    · exact h
    · exact .checkGuard h

theorem readCard {op w} : (s.readCard op w).1.canonical := by
  unfold State.readCard
  split <;> exact .fst ‹_› (.engRead h)

theorem readRows {op w q tag sp off pitch len perm rows} : (s.readRows op w q tag sp off pitch len perm rows).1.canonical := by
  unfold State.readRows
  refine .foldlFst h (fun r x h => ?_)
  split
  · exact h
  · split
    · exact h
    · split <;> exact .fst ‹_› (.engRead h)

theorem gatherRow {op w c src dst env l} : (s.gatherRow op w c src dst env l).1.canonical := by
  unfold State.gatherRow
  dsimp only
  split
  · exact .fst ‹_› (.readRows h)
  · split
    · exact .fst ‹_› (.readRows h)
    · split <;> exact .fst ‹_› (.writeRows (.fst ‹_› (.readRows h)))

theorem gatherRows {op w c src dst env} : (s.gatherRows op w c src dst env).1.canonical := by
  unfold State.gatherRows
  split
  · exact h
  · refine .foldlFst h (fun r x h => ?_)
    split
    · exact h
    · split <;> exact .fst ‹_› (.gatherRow h)

theorem readImages {op w c sp n off imgs g} : (s.readImages op w c sp n off imgs g).1.canonical := by
  induction n generalizing s off imgs g with
  | zero => exact h
  | succ n ih =>
    unfold State.readImages
    split
    · exact h
    · split
      · exact .fst ‹_› (.engRead h)
      · have head := State.canonical.fst ‹_› (.engRead h)
        dsimp only
        split
        · exact head
        · split
          · exact .fst ‹_› (.engRead head)
          · exact ih (.fst ‹_› (.engRead head))

theorem readSource {op w c src} : (s.readSource op w c src).1.canonical := by
  unfold State.readSource
  split
  · exact h
  · dsimp only
    split
    · split <;> exact .fst ‹_› (.readImages h)
    · split <;> exact .fst ‹_› (.readRows h)

theorem renew {a written} : (s.renew a written).canonical := .mk h.fields

theorem placeTile {op c x} : (s.placeTile op c x).1.canonical := by
  unfold State.placeTile
  dsimp only
  split
  · exact h
  · exact .renew (.foldl h (fun _ _ h => .writeArea h))

theorem deliver {op w c dst o} : (s.deliver op w c dst o).1.canonical := by
  unfold State.deliver
  split
  · split
    · split
      · dsimp only
        split
        · exact h
        · exact .fst ‹_› (.placeTile h)
      · dsimp only
        split
        · exact h
        · exact .fst ‹_› (.placeTile h)
    · split
      · dsimp only
        split
        · exact .fst ‹_› (.readRows h)
        · split <;> exact .fst ‹_› (.readRows h)
      · dsimp only
        split <;> exact .fst ‹_› (.writeRows h)
  · split
    · split
      · dsimp only
        split
        · exact h
        · exact .fst ‹_› (.placeTile h)
      · dsimp only
        split
        · exact h
        · exact .fst ‹_› (.placeTile h)
    · split
      · dsimp only
        split
        · exact .fst ‹_› (.readRows h)
        · split <;> exact .fst ‹_› (.readRows h)
      · dsimp only
        split <;> exact .fst ‹_› (.writeRows h)

theorem copyStream {op w c src dst env} : (s.copyStream op w c src dst env).1.canonical := by
  unfold State.copyStream
  split
  · exact .fst ‹_› (.readSource h)
  · split
    · exact .fst ‹_› (.readSource h)
    · split <;> exact .fst ‹_› (.deliver (.fst ‹_› (.readSource h)))

theorem workCard {op w src dst gen} : (s.workCard op w src dst gen).1.canonical := by
  unfold State.workCard
  dsimp only
  split
  · exact .writeResult (.fst ‹_› (.readCard h))
  · split
    · refine .writeResult ?_
      split
      · exact .fst ‹_› (.readCard h)
      · split
        · exact .gatherRows (.fst ‹_› (.readCard h))
        · exact .copyStream (.fst ‹_› (.readCard h))
    · refine .writeResult ?_
      split
      · exact .fst ‹_› (.readCard h)
      · split
        · exact .gatherRows (.fst ‹_› (.readCard h))
        · exact .copyStream (.fst ‹_› (.readCard h))

theorem startColl {op w src} : (s.startColl op w src).1.canonical := by
  unfold State.startColl
  split
  · exact .writeResult (.fst ‹_› (.readCard h))
  · have card := State.canonical.fst ‹_› (.readCard h)
    dsimp only
    split
    · exact .writeResult card
    · split
      · exact .writeResult (.fst ‹_› (.engRead card))
      · have table := State.canonical.fst ‹_› (.engRead card)
        split
        · exact .writeResult table
        · split
          · exact .writeResult table
          · split
            · exact .writeResult (.fst ‹_› (.readRows table))
            · have rows := State.canonical.fst ‹_› (.readRows table)
              split
              · refine .writeResult (.fst ‹_› (.engRead (.onPart (.mk rows.fields) fun p hp => ?_)))
                split <;> exact hp
              · refine .fst ‹_› (.engRead (.onPart (.mk rows.fields) fun p hp => ?_))
                split <;> exact hp

theorem workOp {op w eng} : (s.workOp op w eng).1.canonical := by
  unfold State.workOp
  dsimp only
  split
  · refine .setCluster (.workCard h) ?_
    split <;> exact State.canonical.cluster (.workCard h)
  · split
    · exact .mk (.of (.workCard h))
    · exact .workCard h
  · exact .startColl h
  · exact h

theorem collect : s.collect.canonical := by
  unfold State.collect
  refine .foldl h (fun s x h => ?_)
  split
  · exact .finishColl h
  · exact h

theorem tookFrom {op eng} : (s.tookFrom op eng).canonical := by
  unfold State.tookFrom
  refine .setCluster h ?_
  split
  · exact State.canonical.cluster h
  · split <;> exact State.canonical.cluster h

theorem putTileRow {op f slot i xs} : (s.putTileRow op f slot i xs).canonical := .renew (.writeArea h)

theorem barrierUpdate {op w failed scr off} : (s.barrierUpdate op w failed scr off).1.canonical := by
  unfold State.barrierUpdate
  dsimp only
  split
  · exact .guardAccess h
  · split
    · exact h
    · split
      · exact h
      · exact .windowWrite h

theorem retireOp {op err} : (s.retireOp op err).canonical := by
  have off : ({ s with ops := s.ops.filter (·.id != op.id) } : State).canonical := .mk h.fields
  have counted : ∀ {cls : Option CntClass}, (match cls with
      | some cls => ({ s with ops := s.ops.filter (·.id != op.id) } : State).onWarp op.w fun w => w.setCnt cls (w.cnt cls - 1)
      | none => { s with ops := s.ops.filter (·.id != op.id) }).canonical := by
    rintro (_ | cls)
    · exact off
    · exact .onWarp off
  cases err with
  | none => exact .trace counted
  | some e => exact .endCrew (.trace counted)

end State.canonical

end Sys2Proof.Machine
end

section
/-! SUPPORT. Scheduling, checkpoints, power, the hypervisor and the front ends keep every memory canonical.
The lemmas are many and short: they are elaborated one after another, so that no thread waits for another. -/

set_option Elab.async false

namespace Sys2Proof.Machine

namespace State.canonical
variable {s : State} (h : s.canonical)
include h

/-! ## Tasks, crews and scheduling -/

theorem fetchPiece {w priv va n} : (s.fetchPiece w priv va n).1.canonical := by
  unfold State.fetchPiece
  dsimp only
  split
  · exact .fst ‹_› (.locate h)
  · split
    · exact .fst ‹_› (.locate h)
    · split
      · exact .setCore (.touchLoc (.fst ‹_› (.locate h)))
      · split <;> exact .touchLoc (.fst ‹_› (.locate h))

theorem fetchWord {w priv va} : (s.fetchWord w priv va).1.canonical := by
  unfold State.fetchWord
  dsimp only
  split
  · exact .fst ‹_› (.fetchPiece h)
  · split
    · exact .fst ‹_› (.fetchPiece h)
    · split <;> exact .fst ‹_› (.fetchPiece (.fst ‹_› (.fetchPiece h)))

theorem fetchRun {w priv n va run} : (s.fetchRun w priv n va run).1.canonical := by
  induction n generalizing s va run with
  | zero => exact h
  | succ n ih =>
    unfold State.fetchRun
    split
    · exact .fst ‹_› (.fetchWord h)
    · split
      · exact .fst ‹_› (.fetchWord h)
      · exact ih (.fst ‹_› (.fetchWord h))

theorem cutHarvest {c} : (s.cutHarvest c).canonical := by
  unfold State.cutHarvest
  dsimp only
  split
  · exact h
  · split
    · exact .setCore h
    · split
      · exact .setCore h
      · split
        · exact .onWarp (.setCore h)
        · exact h

theorem forgetOwner {c} : (s.forgetOwner c).canonical := by
  unfold State.forgetOwner
  split
  · exact h
  · exact .setCore h

theorem withdraw {t cores} : (s.withdraw t cores).canonical := by
  unfold State.withdraw
  refine .foldl h (fun s x h => ?_)
  split
  · exact .revoke h
  · exact h

theorem dropTask {t} (ht : t.ok = true) : (s.dropTask t).canonical :=
  .mk { h.fields with
    tasks := fun x hx => h.fields.tasks x (List.mem_of_mem_filter hx)
    past := List.forall_mem_cons.mpr ⟨ht, h.fields.past⟩ }

theorem signalEnd {t} : (s.signalEnd t).canonical := by
  unfold State.signalEnd
  cases e : s.postEvent t.cluster ⟨t.part, t.trec.devt, t.trec.dinc.setWidth 32, some t.trec.taskid⟩ with
  | none => exact h
  | some u => exact h.postEvent e

theorem refuse {t ecode edet eaddr} : (s.refuse t ecode edet eaddr).canonical := .crewError h
theorem writeBack {which} : (s.writeBack which).canonical := .mk (.of (.foldl h (fun _ _ h => .l2Access h)))

theorem placeWarps {t lo hi} : (s.placeWarps t lo hi).canonical := by
  unfold State.placeWarps
  refine .foldl h (fun s x h => ?_)
  split
  · split
    · dsimp only
      split
      · exact .setWarp (.writeBack (.snd ‹_› (.name h)))
      · exact h

theorem demandLines {t k cores} : (s.demandLines t k cores).canonical := by
  unfold State.demandLines
  refine .foldl h (fun s x h => ?_)
  split
  · dsimp only
    split
    · exact .revoke h
    · exact h

theorem takePlace {n} : (s.takePlace n).canonical := by
  unfold State.takePlace
  split
  · exact .placeWarps (.demandLines h)
  · exact h

theorem takeAdm {part} : (s.takeAdm part).2.canonical := by
  unfold State.takeAdm
  split
  · exact .putPart h (.of (State.canonical.part h ‹_›))
  · exact h

theorem traceCrew {t kind extra} : (s.traceCrew t kind extra).canonical := .trace h

theorem startHeld {tid} : (s.startHeld tid).canonical := by
  unfold State.startHeld
  split
  · exact h
  · dsimp only
    split
    · exact .takePlace h
    · exact .traceCrew (.setTask (.takeAdm (.takePlace h)) (Task.ok_of (State.canonical.task h ‹_›)))

theorem succeed {t r k} (ht : t.ok = true) : (s.succeed t r k).canonical := by
  unfold State.succeed
  split
  · exact .queueTask (.dropTask h ht)
  · have base : ({ s.name.2.dropTask t with past := s.name.2.past } : State).canonical :=
      .mk { (h.name.dropTask ht).fields with past := h.fields.past }
    obtain ⟨⟨shr, scr⟩, tile⟩ : (t.shr.ok = true ∧ (∀ st ∈ t.scr, st.ok = true)) ∧ t.tile.ok = true := by
      simpa [Task.ok] using ht
    have inherited : ∀ n : Task, n.shr = t.shr.clear (r.shr * 1024) (2 ^ 40) → n.tile = t.tile.clear (r.tslot * 2 ^ 18) (2 ^ 40) →
        n.scr = (t.scr.take r.teams).map (fun st => st.clear (r.scr * 1024) (2 ^ 40)) → n.ok = true := by
      intro n e1 e2 e3
      simp only [Task.ok, e1, e2, e3, Bool.and_eq_true, List.all_eq_true, List.mem_map]
      refine ⟨⟨Store.clear_ok shr, ?_⟩, Store.clear_ok tile⟩
      rintro _ ⟨st, hst, rfl⟩
      exact Store.clear_ok (scr st (List.mem_of_mem_take hst))
    dsimp only
    split
    · exact .startHeld (.takePlace (.setTask base (inherited _ rfl rfl rfl)))
    · exact .takePlace (.setTask base (inherited _ rfl rfl rfl))

theorem hostWrite {part a bs} : (s.hostWrite part a bs).canonical := by
  unfold State.hostWrite
  split
  · exact h
  · next p hp =>
    have sound := h.part hp
    split
    · exact .putPart h sound
    · exact .mk { h.fields with host := Memory.putAll_wf h.fields.host }

theorem setFe {n f} : (s.setFe n f).canonical := .mk h.fields

theorem owe {fe} : (s.owe fe).canonical := by
  unfold State.owe
  dsimp only
  split
  · split
    · exact .setFe h
    · exact h
  · exact h

theorem raiseMsix {part fe} : (s.raiseMsix part fe).canonical := by
  unfold State.raiseMsix
  split
  · exact h
  · split
    · exact .putPart h (.of (State.canonical.part h ‹_›))
    · exact .mk h.fields

theorem postEntry {fe seq status irq} : (s.postEntry fe seq status irq).canonical := by
  unfold State.postEntry
  split
  · dsimp only
    split
    · exact h
    · exact .raiseMsix (.hostWrite (.owe (.setFe h)))
  · dsimp only
    split
    · exact h
    · exact .hostWrite (.owe (.setFe h))

theorem endJob {j} : (s.endJob j).canonical := .mk (.of (.postEntry (.trace h)))

theorem endJobs : s.endJobs.canonical := by
  unfold State.endJobs
  refine .foldl h (fun s x h => ?_)
  split
  · exact .endJob h
  · exact h

theorem completeCrew {t} (ht : t.ok = true) : (s.completeCrew t).canonical := by
  unfold State.completeCrew
  refine .endJobs (.callRound ?_)
  split
  · exact .dropTask (.onJob (.withdraw h)) ht
  · split
    · exact .dropTask (.signalEnd (.onJob (.withdraw h))) ht
    · split
      · exact .dropTask (.refuse (.onJob (.withdraw h))) ht
      · split
        · exact .dropTask (.refuse (.onJob (.withdraw h))) ht
        · split
          · exact .dropTask (.refuse (.fst ‹_› (.checkRecord (.onJob (.withdraw h))))) ht
          · exact .succeed (.signalEnd (.fst ‹_› (.checkRecord (.onJob (.withdraw h))))) ht

theorem settleTask {t} (ht : t.ok = true) : (s.settleTask t).canonical := by
  unfold State.settleTask
  split
  · split
    · exact .setTask h (Task.ok_of ht)
    · exact h
  · split
    · exact h
    · exact .setTask h (Task.ok_of ht)
  · split
    · exact h
    · exact .setTask h (Task.ok_of ht)
  · split
    · exact .callRound (.setTask (.mk h.fields) (Task.ok_of ht))
    · exact h
  · exact h

theorem addEvent {part name amount} : (s.addEvent part name amount).canonical := by
  unfold State.addEvent
  split
  · exact h
  · next p hp =>
    have sound := h.part hp
    split
    · exact h
    · refine .foldlMem (.putPart h sound) fun u x hx hu => ?_
      have ok : x.ok = true := h.vals x (List.mem_of_mem_filter hx)
      have set := fun {cells} => State.canonical.setTask hu (x := { x with cells := cells }) ok
      dsimp only
      split
      · exact hu
      · split
        · split
          · exact .makeReady set
          · exact set
        · split
          · exact .callRound (.startHeld set)
          · exact set
        · exact .settleTask set ok
        · exact set

theorem startAll {part} : (s.startAll part).canonical := .foldl h (fun _ _ h => .startHeld h)
theorem settle : s.settle.canonical := .foldlMem h fun _ x hx hu => .settleTask hu (h.vals x hx)
theorem forgetPast {k} : (s.forgetPast k).canonical :=
  .mk { h.fields with past := fun x hx => h.fields.past x (List.mem_of_mem_filter hx) }

theorem takeLines {k} : (s.takeLines k).canonical := by
  unfold State.takeLines
  refine .foldl h (fun s x h => ?_)
  split
  · exact h
  · split
    · dsimp only
      split
      · exact .setWarp h
      · exact h
    · exact h

theorem replace {w pl} : (s.replace w pl).canonical := .takeLines (.setWarp (.writeBack h))

theorem resume {t cores} (ht : t.ok = true) : (s.resume t cores).canonical := by
  unfold State.resume
  refine .traceCrew (.onPart (.foldl (.foldl (.setCluster (.setTask (.forgetPast (.demandLines h)) ?_) ?_) ?_) ?_))
  · exact ht
  · exact (State.canonical.forgetPast (.demandLines h)).cluster
  · intro s w h
    dsimp only
    split
    · exact .replace h
    · exact h
  · intro s c h
    split
    · exact .frameFreed h
    · exact h

theorem admitTask {t k cores} (ht : t.ok = true) : (s.admitTask t k cores).canonical := by
  unfold State.admitTask
  dsimp only
  refine .traceCrew (.onPart (.placeWarps (.setCluster (.setTask (.takeAdm (.forgetPast (.demandLines h))) ?_) ?_)))
  · exact Task.freshWindows_ok
  · exact (State.canonical.takeAdm (.forgetPast (.demandLines h))).cluster

omit h in
theorem consider {r : State × List (Nat × Nat) × List Nat} (h : r.1.canonical) {n} : (State.consider r n).1.canonical := by
  obtain ⟨s, kept, left⟩ := r
  unfold State.consider
  dsimp only
  split
  · exact h
  · next t ht =>
    have ok : t.ok = true := State.canonical.task h ht
    split
    · exact h
    · split
      · dsimp only
        split
        · exact .resume h ok
        · exact .admitTask h ok
      · exact .setTask h (Task.passedOver_ok ok)

theorem choose {tid} : (s.choose tid).canonical := by
  unfold State.choose
  split
  · exact h
  · exact .traceCrew (.setTask h (Task.ok_of (State.canonical.task h ‹_›)))

theorem evictFor {tid} : (s.evictFor tid).canonical := by
  unfold State.evictFor
  split
  · exact h
  · split
    · exact h
    · dsimp only
      split
      · exact h
      · split
        · exact .foldl h (fun _ _ h => .choose h)
        · exact h

theorem evict {t} (ht : t.ok = true) : (s.evict t).canonical := by
  unfold State.evict
  refine .callRound (.settleTask (.setTask (.foldl (.mk (.of (.writeBack (.withdraw h)))) ?_) (Task.ok_of ht)) (Task.ok_of ht))
  exact fun _ _ h => .forgetOwner h

/-! ## Checkpoints -/

theorem cleanRegs {part} : (s.cleanRegs part).canonical := .mk h.fields
theorem feSettle {part} : (s.feSettle part).canonical := .foldl h (fun _ _ h => .setFe h)

theorem peerRelease {id a bs tag} : (s.peerRelease id a bs tag).canonical := by
  unfold State.peerRelease
  split
  · have home := State.canonical.fst ‹_› (.homeAccept h)
    split
    · exact .mk (.of (.mk (.of (.setHbmTag (.mk { home.fields with hbm := Store.write_ok home.hbm })))))
    · exact .mk (.of (.mk (.of (.mk { home.fields with hbm := Store.write_ok home.hbm }))))

theorem releaseHeld {p} (hp : p.sound) : (s.releaseHeld p).canonical := by
  unfold State.releaseHeld
  refine .feSettle (.foldl (.setPart h (.of hp)) (fun s x h => ?_))
  split
  · exact .mk { h.fields with host := Memory.putAll_wf h.fields.host }
  · exact .watch (.peerRelease h)
  · exact h
  · exact .mk h.fields

theorem postIrqs {part} : (s.postIrqs part).canonical := by
  unfold State.postIrqs
  refine .foldl h (fun s x h => ?_)
  dsimp only
  split
  · exact .raiseMsix (.setFe h)
  · exact h

theorem undoIndex {k u} : (s.undoIndex k u).canonical := .setCluster h (State.canonical.cluster h)

theorem undoBytes {lost u} : (s.undoBytes lost u).canonical := by
  have put : ∀ st : Store, st.mem = (s.area u.area).mem.putAll (128 * u.line) u.bytes → st.ok = true := by
    intro st e
    unfold Store.ok
    rw [e]
    exact Memory.putAll_wf h.area
  have back : ∀ st : Store, st.ok = true →
      ((s.setArea u.area st).renew u.area fun x => 128 * u.line ≤ x && x < 128 * u.line + 128).canonical :=
    fun st hst => .renew (.setArea h hst)
  unfold State.undoBytes
  dsimp only
  split
  · refine .mk (back _ ?_).fields
    split
    · exact Store.addPoisons_ok (put _ rfl)
    · exact put _ rfl
  · refine back _ (Store.stamp_ok ?_)
    split
    · exact Store.addPoisons_ok (put _ rfl)
    · exact put _ rfl

theorem undoLine {lost u} : (s.undoLine lost u).canonical := by
  unfold State.undoLine
  split
  · exact .undoIndex h
  · exact .undoBytes h

theorem unload {p} : (s.unload p).canonical :=
  .mk { h.fields with
    tasks := fun x hx => h.fields.tasks x (List.mem_of_mem_filter hx)
    past := fun x hx => h.fields.past x (List.mem_of_mem_filter hx) }

theorem endWith {t ecode edet addr} : (s.endWith t ecode edet addr).canonical := by
  unfold State.endWith
  split
  · exact .foldl h (fun _ _ h => .endCrew h)
  · split
    · dsimp only
      split
      · exact .endCrew h
      · exact .crewError h
    · dsimp only
      split
      · exact .endCrew h
      · exact h

theorem endTask {t ecode edet addr} : (s.endTask t ecode edet addr).canonical := by
  unfold State.endTask
  dsimp only
  split
  · exact .endWith h
  · split
    · exact .completeCrew (.endWith h) (State.canonical.task (.endWith h) ‹_›)
    · exact .endWith h

theorem endAbsent {part} : (s.endAbsent part).canonical := .foldl h (fun _ _ h => .endTask h)

theorem fetchPinned {part pin} : (s.fetchPinned part pin).canonical := by
  unfold State.fetchPinned
  split
  · exact h
  · split
    · exact .mk (.of (.mk h.fields))
    · exact .mk (.of (.l2Touch h))

theorem restorePins {part pins} : (s.restorePins part pins).canonical :=
  .mk (.of (.foldl (.mk h.fields) (fun _ _ h => .fetchPinned h)))

theorem restoreImage {p i} (hi : i.sound) : (s.restoreImage p i).canonical := by
  have base := State.canonical.unload h (p := p)
  have loaded : ∀ {warps jobs ops contribs}, ({ s.unload p with
      warps := warps, jobs := jobs, ops := ops, contribs := contribs
      tasks := (s.unload p).tasks ++ i.tasks.map fun (t : Task) => (t.id, t), past := (s.unload p).past ++ i.past } : State).canonical :=
    .mk { base.fields with
      tasks := List.forall_mem_append.2 ⟨base.fields.tasks, List.forall_mem_map.2 hi.1⟩
      past := List.forall_mem_append.2 ⟨base.fields.past, hi.2⟩ }
  unfold State.restoreImage
  refine .endAbsent (.restorePins (.onPart (.foldl (.foldl (.foldl loaded ?_) ?_) ?_) ?_))
  · exact fun _ _ h => .setLent h
  · exact fun _ _ h => .setCluster h (State.canonical.cluster h)
  · intro s x h
    dsimp only
    split
    · exact .setFe h
    · exact h
  · exact fun _ h => h

theorem stampUndone {u} : (s.stampUndone u).canonical := by
  unfold State.stampUndone
  dsimp only
  split
  case h_4 => exact h
  all_goals
    refine .setArea h ?_
    split
    · exact Store.addPoisons_ok (Store.stamp_ok h.area)
    · exact Store.stamp_ok h.area

theorem onImage {n} : (s.onPart n fun p => { p with image := p.image.map s.imageTasks }).canonical := by
  refine .onPart h fun p hp => ⟨hp.1, fun im e => ?_⟩
  obtain ⟨im', e', rfl⟩ := Option.map_eq_some_iff.1 e
  exact h.imageTasks (hp.2 im' e')

theorem rollback {part lost} : (s.rollback part lost).canonical := by
  unfold State.rollback
  split
  · exact h
  · next p hp =>
    have sound := h.part hp
    refine .postIrqs (.feSettle (.onPart (.trace (.onImage (.foldl ?_ ?_))) ?_))
    · split
      · next im e => exact .restoreImage (.foldl (.mk h.fields) fun _ _ h => .undoLine h) (sound.2 im e)
      · exact .foldl (.mk h.fields) fun _ _ h => .undoLine h
    · exact fun _ _ h => .stampUndone h
    · exact fun _ hq => hq

theorem failPart {part edet} : (s.failPart part edet).canonical := by
  unfold State.failPart
  refine .feSettle (.onPart (.foldl (.foldl h ?_) ?_))
  · exact fun _ _ h => .endWith h
  · exact fun _ _ h => .mk (.of (.trace (.setJob h)))

theorem endHarvest {p} : (s.endHarvest p).canonical := .foldl h (fun _ _ h => .revoke h)

theorem startSlice {part} : (s.startSlice part).canonical := by
  unfold State.startSlice
  split
  · exact h
  · split
    · exact h
    · refine .onPart ?_ fun p hp => hp
      split
      · exact .restoreImage h ((h.part ‹_›).2 _ ‹_›)
      · exact h

/-! ## Power -/

theorem charge {part n} : (s.charge part n).canonical := .onPart h

theorem chargeMeter {meters m} : (s.chargeMeter meters m).canonical := by
  unfold State.chargeMeter
  dsimp only
  split
  · split
    · exact .charge h
    · exact .charge (.charge (.foldl h (fun _ _ h => .charge h)))
  · exact .charge h

theorem traceCap {event} : (s.traceCap event).canonical := .foldl h (fun _ _ h => .trace h)

theorem ration {hi} : (s.ration hi).canonical := by
  unfold State.ration
  dsimp only
  split
  · split
    · split
      · exact .traceCap (.mk h.fields)
      · split
        · exact .traceCap (.mk h.fields)
        · exact .mk h.fields
    · split
      · exact .traceCap (.mk h.fields)
      · split
        · exact .traceCap (.mk h.fields)
        · exact .mk h.fields
  · split
    · split
      · exact .traceCap (.mk h.fields)
      · split
        · exact .traceCap (.mk h.fields)
        · exact .mk h.fields
    · split
      · exact .traceCap (.mk h.fields)
      · split
        · exact .traceCap (.mk h.fields)
        · exact .mk h.fields

theorem setHot {die t} : (s.setHot die t).canonical := by
  unfold State.setHot
  split <;> exact .mk h.fields

theorem endFailed {j} : (s.endFailed j).canonical := by
  unfold State.endFailed
  split
  · exact h
  · split
    · exact .endJob h
    · exact .mk (.of (.trace h))

theorem toRom {now} : (s.toRom now).canonical :=
  State.canonical_of (s := s.toRom now) {
    hbm := h.hbm, staging := rfl, host := h.fields.host, parts := List.forall_mem_nil _
    tasks := List.forall_mem_nil _, clusters := List.forall_mem_nil _, past := List.forall_mem_nil _ }

theorem setLast {src t} : (s.setLast src t).canonical := by
  unfold State.setLast
  split <;> exact .mk h.fields

theorem cold {b} : (s.cold b).canonical :=
  State.canonical_of (s := s.cold b) {
    hbm := rfl, staging := rfl, host := h.fields.host, parts := List.forall_mem_nil _
    tasks := List.forall_mem_nil _, clusters := List.forall_mem_nil _, past := List.forall_mem_nil _ }

theorem answer {status bs} : (s.answer status bs).canonical := .mk h.fields
theorem fwAnswer {status bs} : (s.fwAnswer status bs).canonical := .mk h.fields
theorem fwRuns : s.fwRuns.canonical := .mk h.fields

theorem forgetUnits {units} : (s.forgetUnits units).canonical := by
  refine .mk { h.fields with parts := ?_ }
  intro x hx
  obtain ⟨y, hy, rfl⟩ := List.mem_map.1 hx
  exact h.fields.parts y hy

/-! ## Front ends -/

theorem closeCmd {fe c d} : (s.closeCmd fe c d).canonical := by
  unfold State.closeCmd
  split
  · exact h
  · exact .setFe h
  · exact .postEntry (.setFe h)

theorem stopFe {fe} : (s.stopFe fe).canonical := by
  unfold State.stopFe
  dsimp only
  split
  · split
    · exact .setFe (.setFe h)
    · exact .raiseMsix (.setFe h)
  · exact .mk (.of (.setFe h))

theorem writeTail {fe v} : (s.writeTail fe v).canonical := by
  unfold State.writeTail
  dsimp only
  split
  · exact .stopFe (.setFe h)
  · exact .setFe h

theorem forgetHead {fe} : (s.forgetHead fe).canonical := by
  unfold State.forgetHead
  split
  · exact h
  · refine .onPart h fun p hp => ⟨hp.1, fun im e => ?_⟩
    obtain ⟨im', e', rfl⟩ := Option.map_eq_some_iff.1 e
    exact hp.2 im' e'

theorem writeQen {fe v} : (s.writeQen fe v).canonical := by
  unfold State.writeQen
  dsimp only
  split
  · split
    · exact .stopFe (.forgetHead (.setFe h))
    · exact .forgetHead (.setFe h)
  · split
    · exact .stopFe (.setFe h)
    · exact .setFe h

theorem writeChead {fe v} : (s.writeChead fe v).canonical := .endJobs (.setFe h)

/-! ## The hypervisor -/

theorem writePwrcap {v} : (s.writePwrcap v).canonical := .mk h.fields

theorem blockWrite {fe off w64 v} : (s.blockWrite fe off w64 v).canonical := by
  unfold State.blockWrite
  split
  · exact .setFe h
  · split
    · exact .writeQen h
    · split
      · exact .writeTail h
      · split
        · exact .writeChead h
        · exact .setFe h

theorem bar0Write {fn off w64 v} : (s.bar0Write fn off w64 v).canonical := by
  unfold State.bar0Write
  split
  · split
    · dsimp only
      split
      · exact h
      · split
        · exact .blockWrite h
        · exact h
    · split
      · dsimp only
        split <;> exact h
      · split
        · dsimp only
          split
          · exact h
          · exact .mk h.fields
        · split
          · dsimp only
            split
            · exact h
            · exact .writePwrcap h
          · split
            · dsimp only
              split
              · exact h
              · exact .mk h.fields
            · dsimp only
              split <;> exact h
  · split
    · dsimp only
      split
      · exact h
      · split
        · exact .blockWrite h
        · exact h
    · split
      · dsimp only
        split <;> exact h
      · split
        · dsimp only
          split
          · exact h
          · exact .mk h.fields
        · split
          · dsimp only
            split
            · exact h
            · exact .writePwrcap h
          · split
            · dsimp only
              split
              · exact h
              · exact .mk h.fields
            · dsimp only
              split <;> exact h

theorem grantWindow {part k idx v} : (s.grantWindow part k idx v).canonical := by
  unfold State.grantWindow
  split
  · exact h
  · next p hp =>
    have sound := h.part hp
    have put := fun {ws us} => State.canonical.putPart (n := part) h (p := { p with windows := ws, undo := us }) sound
    dsimp only
    split
    · exact .setCluster put h.cluster
    · exact .renew (.setCluster put (Store.clear_ok h.cluster))

theorem bar2Write {p pa bs} : (s.bar2Write p pa bs).canonical := by
  unfold State.bar2Write
  refine .foldl h (fun s x h => ?_)
  dsimp only
  split
  · exact .onPart (.homeStore h)
  · exact h

theorem bar2Read {p pa n} : (s.bar2Read p pa n).canonical := by
  unfold State.bar2Read
  refine .foldl (.mk h.fields) (fun s x h => ?_)
  split
  · exact .mk h.fields
  · exact .mk (.of (.mk h.fields))

theorem readAcc {w e a} : (s.readAcc w e a).1.canonical := by
  unfold State.readAcc
  split
  · split
    · exact .touchLoc (.noteLines h)
    · split <;> exact .fst ‹_› (.serveLoad h)
  · exact h

theorem serveAcc {k id a} : (s.serveAcc k id a).canonical := by
  unfold State.serveAcc
  split
  · exact h
  · split
    · exact h
    · split
      · split
        · exact .findPoison (.fst ‹_› (.readAcc h))
        · split
          · exact .setAcc (.fst ‹_› (.readAcc h))
          · exact .checkGuard (.setAcc (.fst ‹_› (.readAcc h)))

theorem abreast {k prim sec} : (s.abreast k prim sec).canonical := .onPath (.onPath h)

/-! ## Time and upsets -/

theorem markBusy : s.markBusy.canonical := by
  unfold State.markBusy
  refine .foldl h (fun s x h => ?_)
  split
  · exact .setCore h
  · exact h

theorem timedRounds {n} : (s.timedRounds n).canonical := by
  refine .mk { h.fields with parts := ?_ }
  intro x hx
  obtain ⟨y, hy, rfl⟩ := List.mem_map.1 hx
  exact h.fields.parts y hy

theorem pass {ns} : (s.pass ns).canonical := by
  unfold State.pass
  split
  · exact h
  · exact .watch (.endJobs (.settle (.markBusy (.timedRounds (.mk h.fields)))))

theorem discard {u t} (ht : s.discard u = some t) : t.canonical := by
  unfold State.discard at ht
  dsimp only at ht
  split at ht
  case h_5 => cases ht
  all_goals
    split at ht
    case isFalse => cases ht
  case h_3.isTrue => exact Option.some.inj ht ▸ .onPart h fun _ hp => hp
  all_goals exact Option.some.inj ht ▸ .mk h.fields

theorem countUpset {u} : (s.countUpset u).canonical := .mk h.fields
theorem noteError {u} : (s.noteError u).canonical := .mk h.fields

theorem strikeCoded {u} : (s.strikeCoded u).canonical := by
  unfold State.strikeCoded
  split
  · split
    · exact h
    · exact h
    · exact h
    · dsimp only
      split
      · exact h
      · exact .noteError (.countUpset h)
    · dsimp only
      split
      · exact h
      · exact .noteError (.countUpset h)
    · exact .noteError (.countUpset h)
  · split
    · exact h
    · exact h
    · exact h
    · dsimp only
      split
      · exact h
      · exact .mk { (State.canonical.fields (.noteError h)) with hbm := Store.addPoison_ok (State.canonical.hbm h) }
    · dsimp only
      split
      · exact h
      · exact .mk { (State.canonical.fields (.noteError h)) with hbm := Store.addPoison_ok (State.canonical.hbm h) }
    · split
      · exact .mk (.of (.noteError h))
      · exact .mk (.of (.noteError h))
      · exact .mk (.of (.noteError h))
      · exact .onPart (.noteError h)
      · exact .endCrew (.noteError h)
      · exact .setArea (.noteError h) (Store.addPoison_ok (State.canonical.area (.noteError h)))

theorem strike {u} : (s.strike u).canonical := by
  unfold State.strike
  split
  · exact .countUpset (h.discard ‹_›)
  · exact .strikeCoded h

/-! ## The matrix engine -/

theorem grantMma {op w bf acc slot} : (s.grantMma op w bf acc slot).1.canonical := by
  have rows : ∀ {xs : List Nat} {r : State × Except Fail (List (List Byte) × Nat)} {a : Nat → Nat} {len}, r.1.canonical →
      (xs.foldl (fun (r : State × Except Fail (List (List Byte) × Nat)) i =>
        match r with
        | (s, .error e) => (s, .error e)
        | (s, .ok (rs, g)) =>
          match s.engRead op w .shr (a i) len with
          | (s, .error e) => (s, .error (e.after g))
          | (s, .ok (b, g')) => (s, .ok (rs ++ [b], max g g'))) r).1.canonical := by
    intro xs r a len hr
    refine .foldlFst hr fun r i hr => ?_
    split
    · exact hr
    · split
      · exact .fst ‹_› (.engRead hr)
      · exact .fst ‹_› (.engRead hr)
  unfold State.grantMma
  dsimp only
  split
  · exact h
  · split
    · exact .fst ‹_› (rows h)
    · have read := State.canonical.fst ‹_› (rows h)
      split
      · exact read
      · split
        · exact read
        · exact read
        · exact .foldl read fun _ _ h => .putTileRow h

theorem grantDrain {op w fmt t r acc slot} : (s.grantDrain op w fmt t r acc slot).1.canonical := by
  unfold State.grantDrain
  split
  · exact h
  · split
    · exact h
    · refine .foldlFst (.setCluster h h.cluster) fun r d hr => ?_
      dsimp only
      split
      · exact hr
      · split
        · exact .fst ‹_› (.engWrite hr)
        · exact .watch (.fst ‹_› (.engWrite hr))

theorem grantZero {op fmt slot} : (s.grantZero op fmt slot).1.canonical := .foldl h fun _ _ h => .putTileRow h

theorem grantTable {op w src tbl} : (s.grantTable op w src tbl).1.canonical := by
  unfold State.grantTable
  split
  · exact .fst ‹_› (.engRead h)
  · exact .onTask (.fst ‹_› (.engRead h))

theorem workMatrix {op w} : (s.workMatrix op w).1.canonical := by
  unfold State.workMatrix
  split
  · exact .grantMma h
  · exact .grantDrain h
  · exact .grantZero h
  · exact .grantTable h
  · exact h

theorem nextCmd {fe i p c} (e : s.nextCmd fe = some (i, p, c)) : p.sound := by
  unfold State.nextCmd at e
  dsimp only at e
  split at e
  · cases e
  · split at e
    · cases e
    · next q hq =>
      split at e
      · cases e
      · split at e
        · cases e
          exact h.part hq
        · cases e

theorem partOr {n} {p : Part} (hp : p.sound) : ((s.part n).getD p).sound := by
  cases e : s.part n with
  | none => exact hp
  | some q => exact h.part e

theorem harvestNext {c t} (e : s.harvestNext c = some t) : t.ok = true := by
  unfold State.harvestNext at e
  split at e
  · cases e
  · obtain ⟨p, -, hp⟩ := List.exists_of_findSome?_eq_some e
    split at hp
    · cases hp
    · obtain ⟨n, -, hn⟩ := List.mem_filterMap.1 (List.mem_of_find?_eq_some (Option.eq_some_of_filter_eq_some hp))
      exact h.task hn

omit h in
theorem extendSlice {p : Part} (hp : p.sound) : (s.extendSlice p).sound := by
  unfold State.extendSlice
  split <;> exact hp

theorem startImage {n e} : 
    (s.onPart n fun p => if p.arg.sliced then { p with image := some { s.snapshot p with epoch := e } } else p).canonical := by
  refine .onPart h fun p hp => ?_
  dsimp only
  split
  · refine ⟨hp.1, fun im e => ?_⟩
    cases e
    exact h.snapshot (p := p)
  · exact hp

theorem takeImage {n} : (s.onPart n fun p => { p with image := some (s.snapshot p), epoch := p.epoch + 1 }).canonical := by
  refine .onPart h fun p hp => ⟨hp.1, fun im e => ?_⟩
  cases e
  exact h.snapshot (p := p)

end State.canonical

end Sys2Proof.Machine
end

section
/-! SUPPORT. Every instruction leaves every memory canonical.
The lemmas are many and short: they are elaborated one after another, so that no thread waits for another. -/

set_option Elab.async false

namespace Sys2Proof.Machine

namespace StaysCanonical
variable {s : State} (h : s.canonical)
include h

/-! ## Issue -/

theorem perform {exec k pid w} (he : ∀ i t, t.canonical → StaysCanonical (exec i t)) :
    StaysCanonical (State.perform exec s k pid w) := by
  unfold State.perform
  split
  · exact he _ _ (.mk h.fields)
  · exact .next (.illegalWord h)

theorem issueWord {exec k pid} (he : ∀ i t, t.canonical → StaysCanonical (exec i t)) :
    StaysCanonical (State.issueWord exec s k pid) := by
  unfold State.issueWord
  split
  · exact .next h
  · split
    · exact .next h
    · exact .andThen (.perform h he) fun _ h => .next (.afterWord (.mk h.fields))

theorem issueWith {i hd always role idle body} (hi : ∀ c, (idle c s).canonical) (hb : ∀ c, (body c s).canonical) :
    StaysCanonical (s.issueWith i hd always role idle body) := by
  unfold State.issueWith
  refine .next ?_
  split
  · split
    · exact .faultAt h
    · split
      · exact .faultAt h
      · split
        · exact hi _
        · split
          · exact .faultAt h
          · split
            · exact .faultAt h
            · exact hb _
  · exact h

theorem issue {i hd always role body} (hb : ∀ c, (body c s).canonical) : StaysCanonical (s.issue i hd always role body) :=
  .issueWith h (fun _ => .advance h) (fun _ => hb _)

/-! ## Integer instructions -/

theorem alu2 {i hd d a b aff f} : StaysCanonical (alu2 i hd d a b aff f s) := .issue h (fun _ => .result h)
theorem execIadd {hd t sat d a b} : StaysCanonical (execIadd hd t sat d a b s) := .alu2 h
theorem execIaddImm {hd t sat d a imm} : StaysCanonical (execIaddImm hd t sat d a imm s) := .alu2 h
theorem execIsub {hd t sat d a b} : StaysCanonical (execIsub hd t sat d a b s) := .alu2 h
theorem execIsubImm {hd t sat d a imm} : StaysCanonical (execIsubImm hd t sat d a imm s) := .alu2 h
theorem execImul {hd t sat d a b} : StaysCanonical (execImul hd t sat d a b s) := .alu2 h
theorem execImulImm {hd t sat d a imm} : StaysCanonical (execImulImm hd t sat d a imm s) := .alu2 h
theorem execImulh {hd t d a b} : StaysCanonical (execImulh hd t d a b s) := .alu2 h
theorem execImulhImm {hd t d a imm} : StaysCanonical (execImulhImm hd t d a imm s) := .alu2 h
theorem alu3 {i hd d a b e aff f} : StaysCanonical (alu3 i hd d a b e aff f s) := .issue h (fun _ => .result h)
theorem execImad {hd t sat d a b c} : StaysCanonical (execImad hd t sat d a b c s) := .alu3 h
theorem execImadImm {hd t sat d a b imm} : StaysCanonical (execImadImm hd t sat d a b imm s) := .alu3 h
theorem alu64 {i hd d srcs f} : StaysCanonical (alu64 i hd d srcs f s) := .issue h (fun _ => .result64 h)
theorem execImadw {hd t d a b c} : StaysCanonical (execImadw hd t d a b c s) := .alu64 h
theorem execImadwImm {hd t d a b imm} : StaysCanonical (execImadwImm hd t d a b imm s) := .alu64 h
theorem execIadd64 {hd t d a b} : StaysCanonical (execIadd64 hd t d a b s) := .alu64 h
theorem execIadd64Imm {hd t d a imm} : StaysCanonical (execIadd64Imm hd t d a imm s) := .alu64 h
theorem execImad64 {hd t d a b c} : StaysCanonical (execImad64 hd t d a b c s) := .alu64 h
theorem execImin {hd t d a b} : StaysCanonical (execImin hd t d a b s) := .alu2 h
theorem execIminImm {hd t d a imm} : StaysCanonical (execIminImm hd t d a imm s) := .alu2 h
theorem execImax {hd t d a b} : StaysCanonical (execImax hd t d a b s) := .alu2 h
theorem execImaxImm {hd t d a imm} : StaysCanonical (execImaxImm hd t d a imm s) := .alu2 h
theorem alu1 {i hd d a aff f} : StaysCanonical (alu1 i hd d a aff f s) := .issue h (fun _ => .result h)
theorem execIabs {hd sat d a} : StaysCanonical (execIabs hd sat d a s) := .alu1 h
theorem execIneg {hd t sat d a} : StaysCanonical (execIneg hd t sat d a s) := .alu1 h
theorem execIsad {hd t d a b c} : StaysCanonical (execIsad hd t d a b c s) := .alu3 h
theorem execIsadImm {hd t d a b imm} : StaysCanonical (execIsadImm hd t d a b imm s) := .alu3 h
theorem execAnd {hd d a b} : StaysCanonical (execAnd hd d a b s) := .alu2 h
theorem execAndImm {hd d a imm} : StaysCanonical (execAndImm hd d a imm s) := .alu2 h
theorem execOr {hd d a b} : StaysCanonical (execOr hd d a b s) := .alu2 h
theorem execOrImm {hd d a imm} : StaysCanonical (execOrImm hd d a imm s) := .alu2 h
theorem execXor {hd d a b} : StaysCanonical (execXor hd d a b s) := .alu2 h
theorem execXorImm {hd d a imm} : StaysCanonical (execXorImm hd d a imm s) := .alu2 h
theorem execAndn {hd d a b} : StaysCanonical (execAndn hd d a b s) := .alu2 h
theorem execAndnImm {hd d a imm} : StaysCanonical (execAndnImm hd d a imm s) := .alu2 h
theorem execNot {hd d a} : StaysCanonical (execNot hd d a s) := .alu1 h
theorem execShl {hd d a b} : StaysCanonical (execShl hd d a b s) := .alu2 h
theorem execShlImm {hd d a imm} : StaysCanonical (execShlImm hd d a imm s) := .alu2 h
theorem execShr {hd d a b} : StaysCanonical (execShr hd d a b s) := .alu2 h
theorem execShrImm {hd d a imm} : StaysCanonical (execShrImm hd d a imm s) := .alu2 h
theorem execSar {hd d a b} : StaysCanonical (execSar hd d a b s) := .alu2 h
theorem execSarImm {hd d a imm} : StaysCanonical (execSarImm hd d a imm s) := .alu2 h
theorem execRotl {hd d a b} : StaysCanonical (execRotl hd d a b s) := .alu2 h
theorem execRotlImm {hd d a imm} : StaysCanonical (execRotlImm hd d a imm s) := .alu2 h
theorem execPopc {hd d a} : StaysCanonical (execPopc hd d a s) := .alu1 h
theorem execClz {hd d a} : StaysCanonical (execClz hd d a s) := .alu1 h
theorem execBrev {hd d a} : StaysCanonical (execBrev hd d a s) := .alu1 h
theorem execBfx {hd t d a b} : StaysCanonical (execBfx hd t d a b s) := .alu2 h
theorem execBfxImm {hd t d a imm} : StaysCanonical (execBfxImm hd t d a imm s) := .alu2 h
theorem execBfi {hd d a b c} : StaysCanonical (execBfi hd d a b c s) := .alu3 h
theorem execBfiImm {hd d a b imm} : StaysCanonical (execBfiImm hd d a b imm s) := .alu3 h
theorem execBsel {hd d a b c} : StaysCanonical (execBsel hd d a b c s) := .alu3 h
theorem execBselImm {hd d a b sel} : StaysCanonical (execBselImm hd d a b sel s) := .alu3 h
theorem aluP {i hd pd f} : StaysCanonical (aluP i hd pd f s) := .issue h (fun _ => .resultP h)
theorem execIcmp {hd cond t pd a b} : StaysCanonical (execIcmp hd cond t pd a b s) := .aluP h
theorem execIcmpImm {hd cond t pd a imm} : StaysCanonical (execIcmpImm hd cond t pd a imm s) := .aluP h
theorem iselWith {i hd d p b e} : StaysCanonical (iselWith i hd d p b e s) := .issue h (fun _ => .result h)
theorem execIsel {hd d p b c} : StaysCanonical (execIsel hd d p b c s) := .iselWith h
theorem execIselImm {hd d p b imm} : StaysCanonical (execIselImm hd d p b imm s) := .iselWith h

theorem execMov {hd t d a} : StaysCanonical (execMov hd t d a s) := by
  unfold Machine.execMov
  refine .issue h (fun c => ?_)
  split
  · exact .commit h (fun _ h => h)
  · exact .result h

theorem execMovi {hd t d imm} : StaysCanonical (execMovi hd t d imm s) := by
  unfold Machine.execMovi
  refine .issue h (fun c => ?_)
  split
  · exact .result64 h
  · exact .result h

theorem execLea {hd sh d a b} : StaysCanonical (execLea hd sh d a b s) := .alu2 h
theorem execLeaImm {hd sh d a imm} : StaysCanonical (execLeaImm hd sh d a imm s) := .alu2 h

/-! ## Floating-point instructions -/

theorem flt2 {i hd d a b f} : StaysCanonical (flt2 i hd d a b f s) := .issue h (fun _ => .resultF h (fun _ h => h))
theorem execFadd {hd r d a b} : StaysCanonical (execFadd hd r d a b s) := .flt2 h
theorem execFaddImm {hd r d a imm} : StaysCanonical (execFaddImm hd r d a imm s) := .flt2 h
theorem execFsub {hd r d a b} : StaysCanonical (execFsub hd r d a b s) := .flt2 h
theorem execFsubImm {hd r d a imm} : StaysCanonical (execFsubImm hd r d a imm s) := .flt2 h
theorem execFmul {hd r d a b} : StaysCanonical (execFmul hd r d a b s) := .flt2 h
theorem execFmulImm {hd r d a imm} : StaysCanonical (execFmulImm hd r d a imm s) := .flt2 h
theorem flt3 {i hd d a b e f} : StaysCanonical (flt3 i hd d a b e f s) := .issue h (fun _ => .resultF h (fun _ h => h))
theorem execFfma {hd r d a b c} : StaysCanonical (execFfma hd r d a b c s) := .flt3 h
theorem execFfmaImm {hd r d a b imm} : StaysCanonical (execFfmaImm hd r d a b imm s) := .flt3 h
theorem execFscl {hd r d a b} : StaysCanonical (execFscl hd r d a b s) := .flt2 h
theorem execFsclImm {hd r d a imm} : StaysCanonical (execFsclImm hd r d a imm s) := .flt2 h
theorem execFmin {hd num d a b} : StaysCanonical (execFmin hd num d a b s) := .flt2 h
theorem execFminImm {hd num d a imm} : StaysCanonical (execFminImm hd num d a imm s) := .flt2 h
theorem execFmax {hd num d a b} : StaysCanonical (execFmax hd num d a b s) := .flt2 h
theorem execFmaxImm {hd num d a imm} : StaysCanonical (execFmaxImm hd num d a imm s) := .flt2 h
theorem fcmpWith {i hd cond pd a b} : StaysCanonical (fcmpWith i hd cond pd a b s) := .issue h (fun _ => .commit h (fun _ h => h))
theorem execFcmp {hd cond pd a b} : StaysCanonical (execFcmp hd cond pd a b s) := .fcmpWith h
theorem execFcmpImm {hd cond pd a imm} : StaysCanonical (execFcmpImm hd cond pd a imm s) := .fcmpWith h
theorem flt1 {i hd d a f} : StaysCanonical (flt1 i hd d a f s) := .issue h (fun _ => .resultF h (fun _ h => h))
theorem execFclass {hd d a} : StaysCanonical (execFclass hd d a s) := .flt1 h
theorem execHadd2 {hd sub r d a b} : StaysCanonical (execHadd2 hd sub r d a b s) := .flt2 h
theorem execHadd2Imm {hd sub r d a imm} : StaysCanonical (execHadd2Imm hd sub r d a imm s) := .flt2 h
theorem execHmul2 {hd r d a b} : StaysCanonical (execHmul2 hd r d a b s) := .flt2 h
theorem execHmul2Imm {hd r d a imm} : StaysCanonical (execHmul2Imm hd r d a imm s) := .flt2 h
theorem execHfma2 {hd r d a b c} : StaysCanonical (execHfma2 hd r d a b c s) := .flt3 h
theorem execHfma2Imm {hd r d a b imm} : StaysCanonical (execHfma2Imm hd r d a b imm s) := .flt3 h
theorem execBadd2 {hd sub r d a b} : StaysCanonical (execBadd2 hd sub r d a b s) := .flt2 h
theorem execBadd2Imm {hd sub r d a imm} : StaysCanonical (execBadd2Imm hd sub r d a imm s) := .flt2 h
theorem execBmul2 {hd r d a b} : StaysCanonical (execBmul2 hd r d a b s) := .flt2 h
theorem execBmul2Imm {hd r d a imm} : StaysCanonical (execBmul2Imm hd r d a imm s) := .flt2 h
theorem execBfma2 {hd r d a b c} : StaysCanonical (execBfma2 hd r d a b c s) := .flt3 h
theorem execBfma2Imm {hd r d a b imm} : StaysCanonical (execBfma2Imm hd r d a b imm s) := .flt3 h
theorem execHmnx2 {hd var d a b} : StaysCanonical (execHmnx2 hd var d a b s) := .flt2 h
theorem execHmnx2Imm {hd var d a imm} : StaysCanonical (execHmnx2Imm hd var d a imm s) := .flt2 h
theorem f2iFrom {f i hd t r d a} : StaysCanonical (f2iFrom f i hd t r d a s) := .issue h (fun _ => .commit h (fun _ h => h))
theorem execF2i {hd t r d a} : StaysCanonical (execF2i hd t r d a s) := .f2iFrom h
theorem execF2iFh {hd t r d a} : StaysCanonical (execF2iFh hd t r d a s) := .f2iFrom h
theorem execF2iFb {hd t r d a} : StaysCanonical (execF2iFb hd t r d a s) := .f2iFrom h
theorem i2fFrom {val pair i hd t r d a} : StaysCanonical (i2fFrom val pair i hd t r d a s) :=
  .issue h (fun _ => .resultF h (fun _ h => h))
theorem execI2f {hd t r d a} : StaysCanonical (execI2f hd t r d a s) := .i2fFrom h
theorem execI2fU {hd t r d a} : StaysCanonical (execI2fU hd t r d a s) := .i2fFrom h
theorem execI2fL {hd t r d a} : StaysCanonical (execI2fL hd t r d a s) := .i2fFrom h
theorem execI2fUl {hd t r d a} : StaysCanonical (execI2fUl hd t r d a s) := .i2fFrom h

theorem fcvtFrom {f i hd t r d a} : StaysCanonical (fcvtFrom f i hd t r d a s) := by
  unfold Machine.fcvtFrom
  refine .issue h (fun c => .resultF h (fun t h => ?_))
  split
  · exact .setLfsr h
  · exact h

theorem execFcvt {hd t r d a} : StaysCanonical (execFcvt hd t r d a s) := .fcvtFrom h
theorem execFcvtFh {hd t r d a} : StaysCanonical (execFcvtFh hd t r d a s) := .fcvtFrom h
theorem execFcvtFb {hd t r d a} : StaysCanonical (execFcvtFb hd t r d a s) := .fcvtFrom h

theorem f2f8To {f i hd sat r d a b c} : StaysCanonical (f2f8To f i hd sat r d a b c s) := by
  unfold Machine.f2f8To
  refine .issue h (fun c => .resultF h (fun t h => ?_))
  split
  · exact .setLfsr h
  · exact h

theorem execF2f8E4m3 {hd sat r d a b c} : StaysCanonical (execF2f8E4m3 hd sat r d a b c s) := .f2f8To h
theorem execF2f8E5m2 {hd sat r d a b c} : StaysCanonical (execF2f8E5m2 hd sat r d a b c s) := .f2f8To h
theorem execF82fE4m3 {hd r d a b c} : StaysCanonical (execF82fE4m3 hd r d a b c s) := .flt3 h
theorem execF82fE5m2 {hd r d a b c} : StaysCanonical (execF82fE5m2 hd r d a b c s) := .flt3 h
theorem execFrnd {hd r d a} : StaysCanonical (execFrnd hd r d a s) := .flt1 h
theorem execFrcp {hd d a} : StaysCanonical (execFrcp hd d a s) := .flt1 h
theorem execFrsq {hd d a} : StaysCanonical (execFrsq hd d a s) := .flt1 h
theorem execFsqrt {hd d a} : StaysCanonical (execFsqrt hd d a s) := .flt1 h
theorem execFexp2 {hd d a} : StaysCanonical (execFexp2 hd d a s) := .flt1 h
theorem execFlog2 {hd d a} : StaysCanonical (execFlog2 hd d a s) := .flt1 h
theorem execFsin {hd d a} : StaysCanonical (execFsin hd d a s) := .flt1 h
theorem execFcos {hd d a} : StaysCanonical (execFcos hd d a s) := .flt1 h
theorem execFtanh {hd d a} : StaysCanonical (execFtanh hd d a s) := .flt1 h

/-! ## Cross-lane instructions -/

theorem execPset {hd op pd a b} : StaysCanonical (execPset hd op pd a b s) := .issue h (fun _ => .resultP h)
theorem execPmov {hd bit pd a} : StaysCanonical (execPmov hd bit pd a s) := .issue h (fun _ => .resultP h)
theorem cross {i hd a srcs} : StaysCanonical (s.cross i hd a srcs) := .issueWith h (fun _ => .arriveCross h) (fun _ => .arriveCross h)
theorem execVote {hd var d pe a p} : StaysCanonical (execVote hd var d pe a p s) := .cross h
theorem execShfl {hd t var d pe a b c} : StaysCanonical (execShfl hd t var d pe a b c s) := .cross h
theorem execBcast {hd t d pe a b c} : StaysCanonical (execBcast hd t d pe a b c s) := .cross h
theorem execRedx {hd t op d pe a b} : StaysCanonical (execRedx hd t op d pe a b s) := .cross h
theorem execScanx {hd t excl op d pe a b} : StaysCanonical (execScanx hd t excl op d pe a b s) := .cross h
theorem execMatchx {hd t d pe a b} : StaysCanonical (execMatchx hd t d pe a b s) := .cross h
theorem execShq {hd d a} : StaysCanonical (execShq hd d a s) := .issue h (fun _ => .result h)

theorem execSha {hd a shape} : StaysCanonical (execSha hd a shape s) := by
  unfold Machine.execSha
  refine .issue h (fun c => ?_)
  split
  · split
    · exact .faultAt h
    · exact .advance h

theorem execShf {hd d a shape} : StaysCanonical (execShf hd d a shape s) := .issue h (fun _ => .commitTo h (fun _ h => h))

theorem execShrsv {hd pd n} : StaysCanonical (execShrsv hd pd n s) := by
  unfold Machine.execShrsv
  refine .issue h (fun c => .commit h (fun t h => ?_))
  split
  · exact .onWarp h
  · exact h

/-! ## Faults and waits -/

theorem branchTo {i hd off dests} : StaysCanonical (branchTo i hd off dests s) :=
  .issue h (fun _ => .commitThen h (fun _ h => .regroup h))
theorem execBra {hd off} : StaysCanonical (execBra hd off s) := .branchTo h
theorem branchReg {i hd a dests} : StaysCanonical (branchReg i hd a dests s) :=
  .issue h (fun _ => .commitThen h (fun _ h => .regroup (.park h)))
theorem execBrx {hd a} : StaysCanonical (execBrx hd a s) := .branchReg h
theorem execCall {hd d off} : StaysCanonical (execCall hd d off s) := .branchTo h
theorem execCallx {hd d a} : StaysCanonical (execCallx hd d a s) := .branchReg h
theorem execRet {hd a} : StaysCanonical (execRet hd a s) := .branchReg h
theorem joinWith {i hd m} : StaysCanonical (joinWith i hd m s) := .issue h (fun _ => .commitThen h (fun _ h => .joinRelease (.block h)))
theorem execJoin {hd a} : StaysCanonical (execJoin hd a s) := .joinWith h
theorem execJoinImm {hd m} : StaysCanonical (execJoinImm hd m s) := .joinWith h

theorem exitWith {i hd f} (hf : ∀ c t, t.canonical → (f c t).canonical) : StaysCanonical (exitWith i hd f s) := by
  unfold Machine.exitWith
  refine .issue h (fun c => ?_)
  split
  · exact .reportImp h
  · exact .commitThen h (fun _ h => .exitLanes (.advance (hf _ _ h)))

theorem execExit {hd} : StaysCanonical (execExit hd s) := .exitWith h (fun _ _ h => h)
theorem execExitSucc {hd a} : StaysCanonical (execExitSucc hd a s) := .exitWith h (fun _ _ h => .onTask h)

theorem execYield {hd} : StaysCanonical (execYield hd s) := by
  unfold Machine.execYield
  refine .issue h (fun c => ?_)
  split
  · exact .onPath h
  · exact .setCore (.onPath h)

theorem execSleept {hd a} : StaysCanonical (execSleept hd a s) := by
  unfold Machine.execSleept
  refine .issue h (fun c => .commitThen h (fun t h => ?_))
  split
  · exact .advance h
  · exact .block h

theorem execNop {hd} : StaysCanonical (execNop hd s) := .issue h (fun _ => .advance h)
theorem execTrap {hd code} : StaysCanonical (execTrap hd code s) := .issue h (fun _ => .stopWith h)

theorem execBrkpt {hd code} : StaysCanonical (execBrkpt hd code s) := by
  unfold Machine.execBrkpt
  refine .issue h (fun c => ?_)
  split
  · exact .stopWith h
  · exact .advance h

/-! ## Accesses, pins and page walks -/

theorem loadWith {i hd kind scope ord bc t d m disp} : StaysCanonical (loadWith i hd kind scope ord bc t d m disp s) := by
  unfold Machine.loadWith
  dsimp only
  refine .issue h (fun c => .gathered h (fun _ _ => ?_))
  split
  · exact .privLoad h
  · split
    · exact h
    · refine .issueAccess ?_
      split
      · exact .formOnce h (fun _ _ h => .laneAddr h)
      · exact .formAll h (fun _ _ h => .laneAddr h)

theorem execLd {hd scope ord bc t d m disp} : StaysCanonical (execLd hd scope ord bc t d m disp s) := .loadWith h

theorem storeWith {i hd kind scope ord t d m disp} : StaysCanonical (storeWith i hd kind scope ord t d m disp s) := by
  unfold Machine.storeWith
  refine .issue h (fun c => .gathered h (fun _ _ => ?_))
  split
  · exact .privStore h
  · split
    · exact h
    · refine .issueAccess (.foldlFst h (fun r x h => ?_))
      split <;> exact .fst ‹_› (.laneAddr h)

theorem execSt {hd scope ord t d m disp} : StaysCanonical (execSt hd scope ord t d m disp s) := .storeWith h
theorem execLdc {hd scope ord bc d m disp} : StaysCanonical (execLdc hd scope ord bc d m disp s) := .loadWith h
theorem execStc {hd scope ord d m disp} : StaysCanonical (execStc hd scope ord d m disp s) := .storeWith h

theorem execAtom {hd scope ord op t d m disp c} : StaysCanonical (execAtom hd scope ord op t d m disp c s) := by
  unfold Machine.execAtom
  refine .issue h (fun c => .gathered h (fun _ _ => ?_))
  split
  · exact h
  · refine .issueAccess (.foldlFst h (fun r x h => ?_))
    split <;> exact .fst ‹_› (.laneAddr h)

theorem execRed {hd scope ord op t d m disp} : StaysCanonical (execRed hd scope ord op t d m disp s) := by
  unfold Machine.execRed
  refine .issue h (fun c => .gathered h (fun _ _ => ?_))
  split
  · exact h
  · refine .issueAccess (.foldlFst h (fun r x h => ?_))
    split <;> exact .fst ‹_› (.laneAddr h)

theorem execFence {hd scope ord} : StaysCanonical (execFence hd scope ord s) := by
  unfold Machine.execFence
  refine .issue h (fun c => ?_)
  split
  · exact h
  · exact .issueAccess h

theorem execWaitmem {hd scope ord cond t d m disp} : StaysCanonical (execWaitmem hd scope ord cond t d m disp s) := by
  unfold Machine.execWaitmem
  refine .issue h (fun c => .gathered h (fun _ _ => ?_))
  split
  · exact h
  · dsimp only
    split
    · exact .fst ‹_› (.demandRange (.formAll h (fun _ _ h => .laneAddr h)))
    · have range := State.canonical.fst ‹_› (.demandRange (.formAll h (fun _ _ h => .laneAddr h)))
      split
      · exact .faultAt (.fst ‹_› (.gather range))
      · split
        · exact .faultAt (.onWarp (.fst ‹_› (.gather range)))
        · exact .block (.park (.enqueue (.onWarp (.fst ‹_› (.gather range)))))

theorem execPin {hd pd m disp} : StaysCanonical (execPin hd pd m disp s) := by
  unfold Machine.execPin
  refine .issue h (fun c => .gathered h (fun _ _ => .commit (.foldlFst h (fun r x h => ?_))
    (fun t h => .onWarp (.foldlFst h (fun r x h => ?_)))))
  · split <;> exact .fst ‹_› (.lineAddr h)
  · split <;> split <;> exact .fst ‹_› (.pinLine h)

theorem execUnpin {hd m disp} : StaysCanonical (execUnpin hd m disp s) := by
  unfold Machine.execUnpin
  refine .issue h (fun c => .gathered h (fun _ _ => .commit (.foldlFst h (fun r x h => ?_))
    (fun _ h => .foldl h (fun _ _ h => .unpinLine h))))
  split <;> exact .fst ‹_› (.lineAddr h)

theorem execPref {hd m disp} : StaysCanonical (execPref hd m disp s) := by
  unfold Machine.execPref
  refine .issue h (fun c => .gathered h (fun _ _ => .commit (.foldlFst h (fun r x h => ?_))
    (fun _ h => .foldl h (fun _ _ h => .prefetch h))))
  split <;> exact .fst ‹_› (.laneAddr h)

theorem execIcinv {hd m disp} : StaysCanonical (execIcinv hd m disp s) := by
  unfold Machine.execIcinv
  refine .issue h (fun c => ?_)
  split
  · exact h
  · exact .commit h (fun _ h => .foldl h (fun _ _ h => .icDrop h))

theorem execCapnar {hd fmt pitch l d pe a b c} : StaysCanonical (execCapnar hd fmt pitch l d pe a b c s) :=
  .issue h (fun _ => .commit h (fun _ h => h))
theorem execCapperm {hd d a mask} : StaysCanonical (execCapperm hd d a mask s) := .issue h (fun _ => .commit h (fun _ h => h))
theorem execCapget {hd sel d a} : StaysCanonical (execCapget hd sel d a s) := .issue h (fun _ => .result h)
theorem execCaptst {hd need pd a b c} : StaysCanonical (execCaptst hd need pd a b c s) := .issue h (fun _ => .resultP h)
theorem execCpy {hd scope src dst m} : StaysCanonical (execCpy hd scope src dst m s) := .issue h (fun _ => .issueCard h (fun _ _ h => h))
theorem execCpyg {hd scope src dst m e} : StaysCanonical (execCpyg hd scope src dst m e s) :=
  .issue h (fun _ => .issueCard h (fun _ _ h => h))

theorem execColl {hd scope src dst m e} : StaysCanonical (execColl hd scope src dst m e s) := by
  unfold Machine.execColl
  refine .issue h (fun c => ?_)
  split
  · exact .outOfRange h
  · refine .gathered h (fun t ht => ?_)
    split
    · exact .faultAll ht
    · split
      · split
        · exact h
        · exact .issueCard h (fun _ _ h => .onPart h)
      · split
        · exact h
        · exact .issueCard h (fun _ _ h => .onPart h)

/-! ## The matrix engine -/

theorem issueMatrix {i hd body} (hb : ∀ c, (body c s).canonical) : StaysCanonical (s.issueMatrix i hd body) := by
  unfold State.issueMatrix
  refine .issueWith h (fun c => ?_) (fun _ => hb _)
  split
  · split
    · exact hb _
    · exact .advance h
  · exact h

theorem execMma {hd scope bf acc bar slot m e f} : StaysCanonical (execMma hd scope bf acc bar slot m e f s) := by
  unfold Machine.execMma
  refine .issueMatrix h fun c => ?_
  split
  · exact .outOfRange h
  · refine .ite (.outOfRange h) (.ite (.outOfRange h) ?_)
    split
    · exact .outOfRange h
    · exact .ite h (.issueOp h)

theorem execMdrain {hd scope fmt t bar slot a r acc} : StaysCanonical (execMdrain hd scope fmt t bar slot a r acc s) := by
  unfold Machine.execMdrain
  refine .issueMatrix h fun c => .ite (.outOfRange h) (.ite (.outOfRange h) ?_)
  split
  · exact .outOfRange h
  · refine .ite h (.gathered h fun u hu => ?_)
    split
    · exact .faultAll hu
    · exact .issueOp h

theorem execMzero {hd scope fmt bar slot} : StaysCanonical (execMzero hd scope fmt bar slot s) := by
  unfold Machine.execMzero
  refine .issueMatrix h (fun c => ?_)
  split
  · exact .outOfRange h
  · split
    · exact .outOfRange h
    · split
      · exact h
      · exact .issueOp h

theorem execWtload {hd scope src bar tbl m} : StaysCanonical (execWtload hd scope src bar tbl m s) := by
  unfold Machine.execWtload
  refine .issue h (fun c => ?_)
  split
  · exact .outOfRange h
  · split
    · exact .outOfRange h
    · exact .engThen h (fun _ => .issueOp h)

theorem execWidx {hd a b} : StaysCanonical (execWidx hd a b s) := by
  unfold Machine.execWidx
  refine .issue h (fun c => ?_)
  split
  · exact .outOfRange h
  · split
    · dsimp only
      split
      · exact .outOfRange h
      · exact h
    · dsimp only
      split
      · exact .outOfRange h
      · exact .commit h (fun _ h => .putIndex h)

/-! ## Joining the access queue -/

theorem execBarinit {hd sp m e f} : StaysCanonical (execBarinit hd sp m e f s) := by
  unfold Machine.execBarinit
  refine .issue h (fun c => ?_)
  split
  · exact .outOfRange h
  · dsimp only
    split
    · exact .outOfRange h
    · refine .engThen h (fun n => .enterOnce h (fun t n h => ?_))
      split
      · exact .atHome h
      · exact .advance h

theorem execBararr {hd scope sp n m} : StaysCanonical (execBararr hd scope sp n m s) := by
  unfold Machine.execBararr
  refine .issue h (fun c => ?_)
  split
  · exact .engThen h (fun _ => .enterOnce h (fun _ _ h => .atHome h))
  · split
    · exact .outOfRange h
    · exact .engThen h (fun _ => .enterOnce h (fun _ _ h => .atHome h))

theorem execBarwait {hd sp m e} : StaysCanonical (execBarwait hd sp m e s) := by
  unfold Machine.execBarwait
  refine .issue h (fun c => ?_)
  split
  · exact .outOfRange h
  · split
    · exact .reportImp h
    · refine .engThen h (fun n => .enterOnce h (fun t n h => .block ?_))
      split
      · exact h
      · exact .guardAccess h

theorem execBartst {hd sp d m} : StaysCanonical (execBartst hd sp d m s) :=
  .issue h (fun _ => .engThen h (fun _ => .enterOnce h (fun _ _ h => .advance h)))
theorem execRngget {hd full d pe m} : StaysCanonical (execRngget hd full d pe m s) :=
  .issue h (fun _ => .ringEntry h (fun _ _ _ h => .block h))

theorem execRngput {hd full m e} : StaysCanonical (execRngput hd full m e s) := by
  unfold Machine.execRngput
  refine .issue h (fun c => ?_)
  split
  · exact .outOfRange h
  · exact .ringEntry h (fun _ _ _ h => .atHome h)

theorem execRngclose {hd m} : StaysCanonical (execRngclose hd m s) := .issue h (fun _ => .ringEntry h (fun _ _ _ h => .atHome h))

theorem execWaitcnt {hd cls n} : StaysCanonical (execWaitcnt hd cls n s) := by
  unfold Machine.execWaitcnt
  refine .issue h (fun c => ?_)
  split
  · exact .advance h
  · exact .block h

theorem execTbar {hd} : StaysCanonical (execTbar hd s) := by
  unfold Machine.execTbar
  refine .issue h (fun c => ?_)
  split
  · exact .reportImp h
  · exact .block h

theorem execTspawn {hd a b} : StaysCanonical (execTspawn hd a b s) := by
  unfold Machine.execTspawn
  refine .issue h (fun c => ?_)
  split
  · exact .outOfRange h
  · split
    · dsimp only
      split
      · exact .outOfRange h
      · refine .gathered h (fun t ht => ?_)
        split
        · exact .faultAll ht
        · exact h
    · dsimp only
      split
      · exact .outOfRange h
      · refine .gathered h (fun t ht => ?_)
        split
        · exact .faultAll ht
        · split
          · exact .faultAll (.fst ‹_› (.spawnFault h))
          · exact .enterOnce (.fst ‹_› (.spawnFault h)) (fun _ _ h => .advance h)

theorem execEvsig {hd a name} : StaysCanonical (execEvsig hd a name s) := by
  unfold Machine.execEvsig
  refine .issue h (fun c => ?_)
  split
  · exact .outOfRange h
  · exact .enterOnce h (fun _ _ h => .advance h)

theorem execEvwait {hd a name} : StaysCanonical (execEvwait hd a name s) := by
  unfold Machine.execEvwait
  refine .issue h (fun c => ?_)
  split
  · exact .outOfRange h
  · refine .commitThen h (fun t h => ?_)
    split
    · dsimp only
      split
      · exact .advance h
      · exact .block h
    · dsimp only
      split
      · exact .advance h
      · exact .block h

/-! ## Tasks, rings and engines at issue -/

theorem execRdtime {hd d} : StaysCanonical (execRdtime hd d s) := .issue h (fun _ => .resultU64 h)
theorem execRdid {hd sel d} : StaysCanonical (execRdid hd sel d s) := .issue h (fun _ => .resultU h (fun _ h => h))

theorem execRdcnt {hd sel d} : StaysCanonical (execRdcnt hd sel d s) := by
  unfold Machine.execRdcnt
  refine .issue h (fun c => ?_)
  split
  · exact .resultU64 h
  · refine .resultU h (fun t h => ?_)
    split
    · exact .onWarp h
    · exact h

theorem execHvlend {hd pd m e} : StaysCanonical (execHvlend hd pd m e s) := by
  unfold Machine.execHvlend
  refine .issue h (fun c => ?_)
  split
  · exact .outOfRange h
  · split
    · dsimp only
      split
      · exact .outOfRange h
      · split
        · exact .outOfRange h
        · refine .engThen h (fun n => ?_)
          split
          · refine .commit h (fun t h => ?_)
            split
            · exact h
            · exact .setLent h
          · split
            · exact .commit h (fun _ h => h)
            · split
              · exact .revoke h
              · exact .commit (.revoke h) (fun _ h => .setLent h)
    · dsimp only
      split
      · exact .outOfRange h
      · split
        · exact .outOfRange h
        · refine .engThen h (fun n => ?_)
          split
          · refine .commit h (fun t h => ?_)
            split
            · exact h
            · exact .setLent h
          · split
            · exact .commit h (fun _ h => h)
            · split
              · exact h
              · exact .commit h (fun _ h => .setLent h)

theorem execHvstat {hd d} : StaysCanonical (execHvstat hd d s) := .issue h (fun _ => .resultU h (fun _ h => h))
theorem execXret {hd} : StaysCanonical (execXret hd s) := .issue h (fun _ => .returnTrap (.block h))

theorem execMfx {hd reg d} : StaysCanonical (execMfx hd reg d s) := by
  unfold Machine.execMfx
  refine .issue h (fun c => ?_)
  split
  · exact .resultU64 h
  · exact .resultU h (fun _ h => h)

theorem execMtx {hd reg a} : StaysCanonical (execMtx hd reg a s) := by
  unfold Machine.execMtx
  refine .issue h (fun c => ?_)
  split
  · exact .outOfRange h
  · exact .commit h (fun _ h => .sysWrite h)

theorem execTlbinv {hd ctx a b d} : StaysCanonical (execTlbinv hd ctx a b d s) := by
  unfold Machine.execTlbinv
  refine .issue h (fun c => ?_)
  split
  · split
    · dsimp only
      split
      · exact .outOfRange h
      · split
        · exact .outOfRange h
        · split
          · exact h
          · exact .commit h (fun _ h => .retranslate (.shootdown h))
    · dsimp only
      split
      · exact .outOfRange h
      · split
        · exact .outOfRange h
        · split
          · exact h
          · exact .commit h (fun _ h => .retranslate (.shootdown h))
  · split
    · dsimp only
      split
      · exact .outOfRange h
      · split
        · exact .outOfRange h
        · split
          · exact h
          · exact .commit h (fun _ h => .retranslate (.shootdown h))
    · dsimp only
      split
      · exact .outOfRange h
      · split
        · exact .outOfRange h
        · split
          · exact h
          · exact .commit h (fun _ h => .retranslate (.shootdown h))

theorem execCaproot {hd d a} : StaysCanonical (execCaproot hd d a s) := .issue h (fun _ => .commit h (fun _ h => h))

theorem execCkpt {hd} : StaysCanonical (execCkpt hd s) := by
  unfold Machine.execCkpt
  refine .issue h (fun c => .commit h (fun t h => .onPart h (fun p hx => ?_)))
  split <;> exact hx

theorem execHalt {hd} : StaysCanonical (execHalt hd s) := .issue h (fun _ => .endCrew h)
theorem execCrossLaneComplete {w x} : StaysCanonical (execCrossLaneComplete w x s) := .next (.meet (.meet h))
theorem execJoinRelease {w x} : StaysCanonical (execJoinRelease w x s) := .next (.joinRelease (.joinRelease h))
theorem execYieldExpiry {w pid} : StaysCanonical (execYieldExpiry w pid s) := .next (.onWarp h)

theorem execSleeptRelease {w pid} : StaysCanonical (execSleeptRelease w pid s) := by
  unfold Machine.execSleeptRelease
  refine .next ?_
  split
  · exact h
  · split
    · exact h
    · split
      · exact .release h
      · exact h

end StaysCanonical

end Sys2Proof.Machine
end

section
/-! SUPPORT. Every event and command leaves every memory canonical, and so does every step.
The lemmas are many and short: they are elaborated one after another, so that no thread waits for another. -/

set_option Elab.async false

namespace Sys2Proof.Machine

namespace StaysCanonical
variable {s : State} (h : s.canonical)
include h

/-! ## The access queue -/

theorem execWaitmemSatisfied {k entry} : StaysCanonical (execWaitmemSatisfied k entry s) := by
  unfold Machine.execWaitmemSatisfied
  refine .next ?_
  split
  · exact h
  · split
    · exact h
    · dsimp only
      split
      · split
        · exact .gate h
        · exact .foldl h (fun _ _ h => .arrive h)
      · split
        · split
          · split
            · exact .gate h
            · exact .foldl h (fun _ _ h => .arrive h)
          · split
            · refine .release (.dropEntry (.join ?_))
              split
              · exact .gate h
              · exact .foldl h (fun _ _ h => .arrive h)
            · refine .dropEntry (.join ?_)
              split
              · exact .gate h
              · exact .foldl h (fun _ _ h => .arrive h)
        · split
          · exact .gate h
          · exact .foldl h (fun _ _ h => .arrive h)

theorem execWaitmemPoll {k entry} : StaysCanonical (execWaitmemPoll k entry s) := by
  unfold Machine.execWaitmemPoll
  refine .next ?_
  split
  · exact h
  · exact .foldl h (fun _ _ h => .arrive h)

theorem execStorePerform {k entry lns} : StaysCanonical (execStorePerform k entry lns s) := by
  unfold Machine.execStorePerform
  refine .next (.perform' h (fun t a h => .watch ?_))
  split
  · exact .signalAcc h
  · exact .signalAcc h
  · exact .storeAcc h

theorem execAtomicPerform {k entry lns} : StaysCanonical (execAtomicPerform k entry lns s) := by
  unfold Machine.execAtomicPerform
  refine .next (.perform' h (fun t a h => .watch ?_))
  split
  · exact .bararrAcc h
  · exact .ringAcc h
  · exact .atomAcc h
  · exact .atomAcc h
  · exact h

theorem execLoadReturn {k entry} : StaysCanonical (execLoadReturn k entry s) := by
  unfold Machine.execLoadReturn
  refine .next ?_
  split
  · exact h
  · split
    · exact h
    · split
      · exact .complete h
      · exact h

theorem execStoreAcknowledge {k entry} : StaysCanonical (execStoreAcknowledge k entry s) := by
  unfold Machine.execStoreAcknowledge
  refine .next ?_
  split
  · exact h
  · split
    · exact h
    · split
      · exact .complete h
      · exact h

theorem execRemoteLoadBlock {k pid} : StaysCanonical (execRemoteLoadBlock k pid s) := by
  unfold Machine.execRemoteLoadBlock
  refine .next ?_
  split
  · exact h
  · split
    · exact .onPath h
    · exact h

theorem execPageWalk {part ctx va write} : StaysCanonical (execPageWalk part ctx va write s) := by
  unfold Machine.execPageWalk
  refine .next ?_
  split
  · exact .translate (.fst ‹_› (.walk h))
  · exact .fst ‹_› (.walk h)

theorem execTargetGatedRetry {k entry} : StaysCanonical (execTargetGatedRetry k entry s) := by
  unfold Machine.execTargetGatedRetry
  refine .next ?_
  split
  · exact h
  · split
    · exact h
    · split
      · exact h
      · split
        · exact .onEntry h
        · split
          · exact h
          · exact .findAll (.onEntry h)

/-! ## The copy engines -/

theorem execEngineOpStart {op eng} : StaysCanonical (execEngineOpStart op eng s) := by
  unfold Machine.execEngineOpStart
  refine .next ?_
  split
  · exact h
  · split
    · split
      · exact .watch (.finishColl h)
      · split
        · exact h
        · split
          · exact h
          · split
            · split
              · exact .setOp h
              · exact .watch (.collect (.setOp (.tookFrom (.fst ‹_› (.workOp h)))))
    · split
      · exact .watch (.finishColl h)
      · split
        · exact h
        · split
          · exact h
          · split
            · split
              · exact .setOp h
              · exact .watch (.collect (.setOp (.tookFrom (.fst ‹_› (.workOp h)))))

theorem execMatrixGrant {cluster} : StaysCanonical (execMatrixGrant cluster s) := by
  unfold Machine.execMatrixGrant
  refine .next ?_
  split
  · exact h
  · split
    · exact h
    · dsimp only
      split
      · exact .setOp h
      · refine .watch (.setOp (.setCluster (.workMatrix h) ?_))
        exact (State.canonical.workMatrix h).cluster

theorem execCollectiveContribution {part set k pos cols data} : StaysCanonical (execCollectiveContribution part set k pos cols data s) :=
  .next (.watch (.collect (.mk h.fields)))

theorem execEngineOpComplete {op} : StaysCanonical (execEngineOpComplete op s) := by
  unfold Machine.execEngineOpComplete
  refine .next ?_
  split
  · exact h
  · split
    · split
      · exact h
      · refine .watch ?_
        split
        · split
          · exact .retireOp (.setOp h)
          · exact .setOp h
        · split
          · split
            · split
              · exact .retireOp (.setOp (.fst ‹_› (.barrierUpdate h)))
              · exact .setOp (.fst ‹_› (.barrierUpdate h))
            · split
              · exact .retireOp (.setOp (.fst ‹_› (.barrierUpdate h)))
              · exact .setOp (.fst ‹_› (.barrierUpdate h))
    · exact h

/-! ## The access queue -/

theorem execBarwaitRelease {k pid} : StaysCanonical (execBarwaitRelease k pid s) := by
  unfold Machine.execBarwaitRelease
  refine .next ?_
  split
  · exact h
  · split
    · split
      · exact h
      · split
        · split
          · exact h
          · dsimp only
            split
            · exact .homeFault h
            · split
              · exact h
              · exact .release (.dropEntry (.join h))
        · exact h
    · exact h

theorem execRnggetWake {k pid} : StaysCanonical (execRnggetWake k pid s) := by
  unfold Machine.execRnggetWake
  refine .next (.watch ?_)
  split
  · exact h
  · split
    · split
      · exact .foldl h (fun _ _ h => .ringAcc h)
      · exact h
    · exact h

/-! ## Joining the access queue -/

theorem execWaitcntRelease {k pid} : StaysCanonical (execWaitcntRelease k pid s) := by
  unfold Machine.execWaitcntRelease
  refine .next ?_
  split
  · exact h
  · split
    · split
      · exact .release h
      · exact h
    · exact h

theorem execTbarComplete {task team} : StaysCanonical (execTbarComplete task team s) := by
  unfold Machine.execTbarComplete
  refine .next ?_
  split
  · exact .foldl h (fun _ _ h => .foldl h (fun _ _ h => .release h))
  · exact h

theorem execEvwaitRelease {k pid} : StaysCanonical (execEvwaitRelease k pid s) := by
  unfold Machine.execEvwaitRelease
  refine .next ?_
  split
  · exact h
  · split
    · split
      · exact .release h
      · exact h
    · exact h

/-! ## Tasks, crews and scheduling -/

theorem execRunFetch {k pid} : StaysCanonical (execRunFetch k pid s) := by
  unfold Machine.execRunFetch
  refine .next ?_
  split
  · exact h
  · split
    · exact h
    · split
      · exact h
      · dsimp only
        split
        · exact .putWarp h
        · split
          · exact .putWarp h
          · split
            · exact .park (.fst ‹_› (.fetchRun (.putWarp h)))
            · exact .onPath (.name (.fst ‹_› (.fetchRun (.putWarp h))))

theorem execTurnArbitration {cluster core} : StaysCanonical (execTurnArbitration cluster core s) := by
  unfold Machine.execTurnArbitration
  refine .next ?_
  dsimp only
  split
  · exact .cutHarvest h
  · split
    · exact .cutHarvest h
    · split
      · exact .cutHarvest h
      · exact .setCore (.onTask (.setWarp (.cutHarvest h)) fun _ hx => Task.turned_ok hx)

theorem execWarpLeaveSlot {k} : StaysCanonical (execWarpLeaveSlot k s) := by
  have left : ∀ {w : Warp} {c : CoreKey},
      (((s.onTask k.task fun t => { t with hzn := maxHzn t.hzn w.hzn }).setWarp { w with place := none }).forgetOwner c).canonical :=
    .forgetOwner (.setWarp (.onTask h))
  have ended : ∀ {t : State}, t.canonical → (match t.task k.task with
      | none => t
      | some x => if (t.crew x.id).all (fun w => w.ended && w.place.isNone) then t.completeCrew x else t).canonical := by
    intro t ht
    split
    · exact ht
    · next x hx =>
      split
      · exact .completeCrew ht (ht.task hx)
      · exact ht
  unfold Machine.execWarpLeaveSlot
  refine .next ?_
  split
  · exact h
  · split
    · exact h
    · refine ended ?_
      split
      · exact .revoke left
      · exact left

theorem execEventRecordApply {cluster} : StaysCanonical (execEventRecordApply cluster s) := by
  unfold Machine.execEventRecordApply
  refine .next ?_
  dsimp only
  split
  · exact h
  · refine .addEvent (.setCluster h ?_)
    exact h.cluster

theorem execSchedulingRound {part} : StaysCanonical (execSchedulingRound part s) := by
  unfold Machine.execSchedulingRound
  refine .next ?_
  split
  · exact h
  · split
    · exact h
    · exact .foldl (.foldlFst (.startAll (.settle (.putPart h (.of (State.canonical.part h ‹_›))))) (fun _ _ h => .consider h))
        (fun _ _ h => .evictFor h)

theorem execEvictionSaveComplete {task} : StaysCanonical (execEvictionSaveComplete task s) := by
  unfold Machine.execEvictionSaveComplete
  refine .next ?_
  split
  · exact h
  · split
    · exact .evict h (State.canonical.task h ‹_›)
    · split
      · exact .setTask h (Task.ok_of (State.canonical.task h ‹_›))
      · split
        · exact .setTask h (Task.ok_of (State.canonical.task h ‹_›))
        · exact h
    · exact h

theorem execHarvestPlacement {cluster core} : StaysCanonical (execHarvestPlacement cluster core s) := by
  unfold Machine.execHarvestPlacement
  refine .next ?_
  dsimp only
  split
  · exact .foldl h fun _ _ h => .takeLines (.setWarp h)
  · split
    · exact h
    · next t ht =>
      refine .foldl (.placeWarps (.onPart (.setTask h ?_))) fun _ _ h => .setWarp h
      exact (State.canonical.harvestNext h ht : t.ok = true)

theorem execHarvestRevocation {cluster core} : StaysCanonical (execHarvestRevocation cluster core s) := by
  unfold Machine.execHarvestRevocation
  refine .next ?_
  dsimp only
  split
  · exact .revoke h
  · exact h

/-! ## Checkpoints -/

theorem execCheckpointStart {part} : StaysCanonical (execCheckpointStart part s) := by
  unfold Machine.execCheckpointStart
  refine .next ?_
  split
  · split
    · exact .putPart h (.of (State.canonical.part h ‹_›))
    · exact h
  · exact h

theorem execCheckpointCommit {part} : StaysCanonical (execCheckpointCommit part s) := by
  unfold Machine.execCheckpointCommit
  refine .next ?_
  split
  · exact h
  · next p hp =>
    split
    · exact h
    · split
      · exact h
      · refine .watch (.endJobs (.postIrqs (.takeImage (.onPart (.cleanRegs (.releaseHeld (.trace (.writeBack h)) ?_)) ?_))))
        · exact (State.canonical.writeBack h).partOr (h.part hp)
        · exact fun q hq => .of (State.canonical.extendSlice hq)

theorem execCheckpointFailure {part} : StaysCanonical (execCheckpointFailure part s) := by
  unfold Machine.execCheckpointFailure
  refine .next ?_
  split
  · exact h
  · split
    · exact h
    · refine .watch ?_
      split
      · exact .failPart (.mk (.of (.onPart (.rollback h))))
      · split
        · exact .mk (.of (.onPart (.rollback h)))
        · exact .failPart (.mk (.of (.onPart (.rollback h))))

theorem execSliceEndRollback {part nextPart lost} : StaysCanonical (execSliceEndRollback part nextPart lost s) := by
  unfold Machine.execSliceEndRollback
  refine .next ?_
  split
  · exact h
  · split
    · split
      · exact .startSlice h
      · exact h
    · split
      · refine .startSlice (.watch ?_)
        split
        · exact .unload (.onPart (.rollback (.endHarvest h)))
        · exact .failPart (.onPart (.rollback (.endHarvest h)))
      · refine .watch ?_
        split
        · exact .unload (.onPart (.rollback (.endHarvest h)))
        · exact .failPart (.onPart (.rollback (.endHarvest h)))

/-! ## Power -/

theorem execPowerMeasurement {watts meters} : StaysCanonical (execPowerMeasurement watts meters s) := by
  unfold Machine.execPowerMeasurement
  refine .next ?_
  dsimp only
  split
  · split
    · exact .traceCap (.mk (.of (.foldl h (fun _ _ h => .chargeMeter h))))
    · exact .ration (.mk (.of (.foldl h (fun _ _ h => .chargeMeter h))))
  · split
    · exact .mk (.of (.foldl h (fun _ _ h => .chargeMeter h)))
    · split
      · exact .traceCap (.mk (.of (.foldl h (fun _ _ h => .chargeMeter h))))
      · exact .mk (.of (.foldl h (fun _ _ h => .chargeMeter h)))
  · split
    · exact .traceCap (.mk (.of (.foldl h (fun _ _ h => .chargeMeter h))))
    · exact .mk (.of (.foldl h (fun _ _ h => .chargeMeter h)))

theorem execRailChange {cluster} : StaysCanonical (execRailChange cluster s) := by
  unfold Machine.execRailChange
  refine .next ?_
  dsimp only
  split
  · exact h
  · exact .foldl (.setCluster h (State.canonical.cluster h)) (fun _ _ h => .trace h)

theorem execThermalLimit {die} : StaysCanonical (execThermalLimit die s) := by
  unfold Machine.execThermalLimit
  refine .next ?_
  split
  · exact h
  · exact .setHot h

theorem execThermalStop {die} : StaysCanonical (execThermalStop die s) := by
  unfold Machine.execThermalStop
  refine .next ?_
  split
  · exact h
  · exact .setHot (.toRom (.foldl (.foldl h (fun _ _ h => .endTask h)) (fun _ _ h => .endFailed h)))

theorem execClusterRetirement {cluster} : StaysCanonical (execClusterRetirement cluster s) := by
  unfold Machine.execClusterRetirement
  refine .next ?_
  dsimp only
  split
  · exact h
  · refine .mk { (State.canonical.fields (.foldl h fun _ _ h => .endTask h)) with parts := List.forall_mem_map.2 ?_ }
    exact (State.canonical.fields (.foldl h fun _ _ h => .endTask h)).parts

theorem execChannelRetirement {ch} : StaysCanonical (execChannelRetirement ch s) := by
  unfold Machine.execChannelRetirement
  refine .next ?_
  split
  · exact h
  · exact .mk h.fields

theorem execTimeCorrection {src offset peers} : StaysCanonical (execTimeCorrection src offset peers s) := by
  unfold Machine.execTimeCorrection
  refine .next ?_
  split
  · exact .mk h.fields
  · dsimp only
    split
    · exact .mk (.of (.setLast (.mk h.fields)))
    · exact .setLast (.mk h.fields)

theorem execTimeSourceLost {src} : StaysCanonical (execTimeSourceLost src s) := by
  unfold Machine.execTimeSourceLost
  refine .next ?_
  split
  · exact h
  · dsimp only
    split
    · exact .mk (.of (.setLast h))
    · exact .setLast h

/-! ## The hypervisor -/

theorem execScrubUnit {unit} : StaysCanonical (execScrubUnit unit s) := by
  unfold Machine.execScrubUnit
  refine .next ?_
  split
  · exact h
  · exact .mk { h.fields with hbm := Store.clear_ok (State.canonical.hbm h) }

theorem execPowerUp : StaysCanonical (execPowerUp s) := by
  unfold Machine.execPowerUp
  refine .next ?_
  split
  · exact .cold h
  · exact h

theorem execReset : StaysCanonical (execReset s) := by
  unfold Machine.execReset
  refine .next ?_
  split
  · exact h
  · exact .toRom h

theorem mailbox {ok f} (hf : (f s).canonical) : StaysCanonical (s.mailbox ok f) := by
  unfold State.mailbox
  refine .next ?_
  split
  · exact h
  · split
    · exact hf
    · exact .answer h

theorem execIdent : StaysCanonical (execIdent s) := .mailbox h (.answer h)

theorem execSettime {v} : StaysCanonical (execSettime v s) := by
  unfold Machine.execSettime
  refine .mailbox h ?_
  split
  · exact .answer h
  · exact .mk (.of (.answer h))

theorem execLoadseg {host off len} : StaysCanonical (execLoadseg host off len s) := by
  unfold Machine.execLoadseg
  refine .mailbox h ?_
  dsimp only
  split
  · exact .answer (.mk h.fields)
  · exact .mk { h.fields with staging := Memory.putAll_wf h.fields.staging }

theorem execVerify {len} : StaysCanonical (execVerify len s) := by
  unfold Machine.execVerify
  refine .mailbox h ?_
  split
  · exact .answer h
  · dsimp only
    split
    · exact .answer h
    · exact .mk (.of (.answer h))

theorem execStart : StaysCanonical (execStart s) := .mailbox h (.mk (.of (.answer h)))
theorem execAttest {nonce} : StaysCanonical (execAttest nonce s) := .mailbox h (.mk (.of (.answer h)))

theorem firmware {f} (hf : (f s).canonical) : StaysCanonical (s.firmware f) := by
  unfold State.firmware
  refine .next ?_
  split
  · split
    · exact h
    · exact .fwAnswer h
  · exact hf

theorem execPartitionCreate {a} : StaysCanonical (execPartitionCreate a s) := by
  unfold Machine.execPartitionCreate
  refine .firmware h ?_
  dsimp only
  split
  · exact .fwAnswer h
  · split
    · exact .fwRuns h
    · split
      · exact .fwAnswer (.startSlice (.startImage (.foldl (.setPart (.mk h.fields) Part.create_sound) fun _ _ h => .setFe h)))
      · exact .fwAnswer (.startImage (.foldl (.setPart (.mk h.fields) Part.create_sound) fun _ _ h => .setFe h))

theorem firmwareOn {part f} (hf : ∀ p, p.sound → (f s p).canonical) : StaysCanonical (s.firmwareOn part f) := by
  unfold State.firmwareOn
  refine .firmware h ?_
  split
  · exact hf _ (State.canonical.part h ‹_›)
  · exact .fwAnswer h

theorem execPartitionDestroy {part} : StaysCanonical (execPartitionDestroy part s) := by
  unfold Machine.execPartitionDestroy
  refine .firmwareOn h fun p _ => .fwAnswer (.forgetUnits ?_)
  have left : (
      (p.owns.foldl (fun (s : State) k => s.setCluster k { s.cluster k with events := (s.cluster k).events.filter fun r => r.part != part })
      (((s.unload p).fesOf part).foldl (fun (s : State) n => s.setFe n FrontEnd.fresh) (s.unload p)))).canonical :=
    .foldl (.foldl (.unload h) fun _ _ h => .setFe h) fun _ _ h => .setCluster h (State.canonical.cluster h)
  exact .mk { left.fields with parts := fun x hx => left.fields.parts x (List.mem_of_mem_filter hx) }

theorem execMemoryRelease {part units} : StaysCanonical (execMemoryRelease part units s) := by
  unfold Machine.execMemoryRelease
  refine .firmwareOn h (fun p hx => ?_)
  split
  · exact .fwAnswer h
  · split
    · exact .fwRuns h
    · exact .fwAnswer (.forgetUnits (.mk (.of (.putPart h (.of hx)))))

theorem execCtxset {part ctx root pinq hentry} : StaysCanonical (execCtxset part ctx root pinq hentry s) := by
  unfold Machine.execCtxset
  refine .firmwareOn h (fun p hx => ?_)
  split
  · exact .fwAnswer h
  · dsimp only
    split
    · exact .fwRuns h
    · exact .fwAnswer (.retranslate (.shootdown (.putPart h (.of hx))))

theorem execCtxdel {part ctx} : StaysCanonical (execCtxdel part ctx s) := by
  unfold Machine.execCtxdel
  refine .firmwareOn h (fun p hx => ?_)
  dsimp only
  split
  · exact .fwAnswer h
  · split
    · exact .fwRuns h
    · exact .fwAnswer (.onPart (.mk (.of (.retranslate (.shootdown h)))))

theorem execFrontEndRangeSet {fe lo hi} : StaysCanonical (execFrontEndRangeSet fe lo hi s) := by
  unfold Machine.execFrontEndRangeSet
  refine .firmware h ?_
  dsimp only
  split
  · exact .fwAnswer h
  · exact .fwAnswer (.setFe h)

theorem execTraceBufferSet {part base size mask} : StaysCanonical (execTraceBufferSet part base size mask s) :=
  .firmwareOn h (fun _ hx => .fwAnswer (.putPart h (.of hx)))
theorem execDebugModeSet {part on} : StaysCanonical (execDebugModeSet part on s) :=
  .firmwareOn h (fun _ hx => .fwAnswer (.putPart h (.of hx)))

theorem execDebugRelease {w xpc xstat ks} : StaysCanonical (execDebugRelease w xpc xstat ks s) := by
  unfold Machine.execDebugRelease
  refine .next ?_
  split
  · split
    · exact .leaveFrame h
    · exact h
  · exact h

theorem execRailVote {part cluster r} : StaysCanonical (execRailVote part cluster r s) := by
  unfold Machine.execRailVote
  refine .firmwareOn h (fun p hx => ?_)
  split
  · exact .fwAnswer h
  · exact .fwAnswer (.putPart h (.of hx))

/-! ## Front ends -/

theorem command {fe ops body} (hb : ∀ p c, p.sound → (body s p c).1.canonical) : StaysCanonical (s.command fe ops body) := by
  unfold State.command
  refine .next ?_
  split
  · exact h
  · next p c e =>
    split
    · exact h
    · split
      · exact .closeCmd h
      · exact .watch (.closeCmd (hb p c (h.nextCmd e)))

theorem execFeNop {fe} : StaysCanonical (execFeNop fe s) := .command h (fun _ _ _ => h)

theorem execLaunch {fe} : StaysCanonical (execLaunch fe s) := by
  unfold Machine.execLaunch
  refine .command h (fun p c hx => ?_)
  split
  · dsimp only
    split <;> exact h
  · dsimp only
    split
    · exact h
    · split
      · exact .fst ‹_› (.checkRecords h)
      · exact .foldl (.trace (.setJob (.name (.fst ‹_› (.checkRecords h))))) (fun _ _ h => .queueTask h)

theorem execGrant {fe} : StaysCanonical (execGrant fe s) := by
  unfold Machine.execGrant
  refine .command h (fun p c hx => ?_)
  split
  · exact h
  · split
    · exact h
    · dsimp only
      split
      · split
        · exact h
        · split
          · exact .fst ‹_› (.translate h)
          · split
            · exact .owe (.onPart (.fst ‹_› (.translate h)))
            · exact .setHbmTag (.setFe (.homeStore (.l2Touch (.fst ‹_› (.translate h)))))
      · exact h

theorem execFeEvsig {fe} : StaysCanonical (execFeEvsig fe s) := by
  unfold Machine.execFeEvsig
  refine .command h (fun p c hx => ?_)
  split
  · exact h
  · split
    · exact h
    · exact .addEvent h

theorem execEvreset {fe} : StaysCanonical (execEvreset fe s) := .command h (fun _ _ hx => .onPart h)
theorem execCntread {fe} : StaysCanonical (execCntread fe s) := .command h (fun _ _ _ => .hostWrite (.owe h))
theorem execDrain {fe} : StaysCanonical (execDrain fe s) := .command h (fun _ _ _ => h)

theorem execXtload {fe} : StaysCanonical (execXtload fe s) := by
  unfold Machine.execXtload
  refine .command h (fun p c hx => ?_)
  split
  · exact h
  · split
    · exact .fst ‹_› (.readVirtual h)
    · exact .onPart (.fst ‹_› (.readVirtual h))

theorem inBlock {fn fe f} (hf : (f s).canonical) : StaysCanonical (s.inBlock fn fe f) := by
  unfold State.inBlock
  refine .next ?_
  split
  · exact hf
  · exact h

theorem execTailWrite {fe v} : StaysCanonical (execTailWrite fe v s) := .inBlock h (.writeTail h)
theorem execQenWrite {fe v} : StaysCanonical (execQenWrite fe v s) := .inBlock h (.writeQen h)
theorem execCheadWrite {fe v} : StaysCanonical (execCheadWrite fe v s) := .inBlock h (.writeChead h)

theorem execPwrcapWrite {v} : StaysCanonical (execPwrcapWrite v s) := by
  unfold Machine.execPwrcapWrite
  refine .next ?_
  split
  · exact .writePwrcap h
  · exact h

/-! ## The hypervisor -/

theorem ringRom {code} : StaysCanonical (s.ringRom code) := by
  unfold State.ringRom
  split
  · exact .execIdent h
  · exact .execSettime h
  · exact .execLoadseg h
  · exact .execVerify h
  · exact .execStart h
  · exact .execAttest h
  · exact .mailbox h h

theorem execRegisterWrite {r v} : StaysCanonical (execRegisterWrite r v s) := by
  unfold Machine.execRegisterWrite
  split
  · split
    · split
      · exact .ringRom h
      · exact .next (.bar0Write h)
    · split
      · exact .ringRom h
      · exact .next (.bar0Write h)
  · exact .next (.grantWindow h)
  · exact .next (.grantWindow h)
  · exact .next (.onPart h)
  · exact .next (.onPart h)
  · exact .next (.onPart h)
  · exact .next (.onPart h)
  · exact .next (.mk h.fields)
  · exact .next (.mk h.fields)

theorem execHostBar2Access {fn pa bytes len} : StaysCanonical (execHostBar2Access fn pa bytes len s) := by
  unfold Machine.execHostBar2Access
  refine .next ?_
  split
  · split
    · exact .watch (.bar2Write h)
    · exact h
  · exact .bar2Read h

theorem execLoadServed {k entry lns} : StaysCanonical (execLoadServed k entry lns s) := .next (.perform' h (fun _ _ h => .serveAcc h))

theorem execReleaseWaitElapsed {k entry} : StaysCanonical (execReleaseWaitElapsed k entry s) := by
  unfold Machine.execReleaseWaitElapsed
  refine .next ?_
  split
  · exact h
  · split
    · exact h
    · dsimp only
      split
      · split
        · exact .dropEntry (.onEntry (.name h))
        · exact .onEntry (.name h)
      · split
        · exact .dropEntry h
        · exact h

theorem execPowerGate {unit gate} : StaysCanonical (execPowerGate unit gate s) := by
  unfold Machine.execPowerGate
  refine .next ?_
  split
  · split
    · exact h
    · exact .setCluster h (State.canonical.cluster h)
  · exact .mk h.fields

theorem execFabricPortDown {port down} : StaysCanonical (execFabricPortDown port down s) := .next (.mk h.fields)

theorem execBelowJunctionLimit {die} : StaysCanonical (execBelowJunctionLimit die s) := by
  unfold Machine.execBelowJunctionLimit
  refine .next ?_
  split
  · exact h
  · exact .setHot h

theorem execPowerRemoved : StaysCanonical (execPowerRemoved s) := .next (.cold h)

/-! ## Every instruction -/

theorem exec {i} : StaysCanonical (exec i s) := by
  unfold Machine.exec
  split
  · exact .execIadd h
  · exact .execIaddImm h
  · exact .execIsub h
  · exact .execIsubImm h
  · exact .execImul h
  · exact .execImulImm h
  · exact .execImulh h
  · exact .execImulhImm h
  · exact .execImad h
  · exact .execImadImm h
  · exact .execImadw h
  · exact .execImadwImm h
  · exact .execIadd64 h
  · exact .execIadd64Imm h
  · exact .execImad64 h
  · exact .execImin h
  · exact .execIminImm h
  · exact .execImax h
  · exact .execImaxImm h
  · exact .execIabs h
  · exact .execIneg h
  · exact .execIsad h
  · exact .execIsadImm h
  · exact .execAnd h
  · exact .execAndImm h
  · exact .execOr h
  · exact .execOrImm h
  · exact .execXor h
  · exact .execXorImm h
  · exact .execAndn h
  · exact .execAndnImm h
  · exact .execNot h
  · exact .execShl h
  · exact .execShlImm h
  · exact .execShr h
  · exact .execShrImm h
  · exact .execSar h
  · exact .execSarImm h
  · exact .execRotl h
  · exact .execRotlImm h
  · exact .execPopc h
  · exact .execClz h
  · exact .execBrev h
  · exact .execBfx h
  · exact .execBfxImm h
  · exact .execBfi h
  · exact .execBfiImm h
  · exact .execBsel h
  · exact .execBselImm h
  · exact .execIcmp h
  · exact .execIcmpImm h
  · exact .execIsel h
  · exact .execIselImm h
  · exact .execMov h
  · exact .execMovi h
  · exact .execLea h
  · exact .execLeaImm h
  · exact .execFadd h
  · exact .execFaddImm h
  · exact .execFsub h
  · exact .execFsubImm h
  · exact .execFmul h
  · exact .execFmulImm h
  · exact .execFfma h
  · exact .execFfmaImm h
  · exact .execFscl h
  · exact .execFsclImm h
  · exact .execFmin h
  · exact .execFminImm h
  · exact .execFmax h
  · exact .execFmaxImm h
  · exact .execFcmp h
  · exact .execFcmpImm h
  · exact .execFclass h
  · exact .execHadd2 h
  · exact .execHadd2Imm h
  · exact .execHmul2 h
  · exact .execHmul2Imm h
  · exact .execHfma2 h
  · exact .execHfma2Imm h
  · exact .execBadd2 h
  · exact .execBadd2Imm h
  · exact .execBmul2 h
  · exact .execBmul2Imm h
  · exact .execBfma2 h
  · exact .execBfma2Imm h
  · exact .execHmnx2 h
  · exact .execHmnx2Imm h
  · exact .execF2i h
  · exact .execF2iFh h
  · exact .execF2iFb h
  · exact .execI2f h
  · exact .execI2fU h
  · exact .execI2fL h
  · exact .execI2fUl h
  · exact .execFcvt h
  · exact .execFcvtFh h
  · exact .execFcvtFb h
  · exact .execF2f8E4m3 h
  · exact .execF2f8E5m2 h
  · exact .execF82fE4m3 h
  · exact .execF82fE5m2 h
  · exact .execFrnd h
  · exact .execFrcp h
  · exact .execFrsq h
  · exact .execFsqrt h
  · exact .execFexp2 h
  · exact .execFlog2 h
  · exact .execFsin h
  · exact .execFcos h
  · exact .execFtanh h
  · exact .execPset h
  · exact .execPmov h
  · exact .execVote h
  · exact .execShfl h
  · exact .execBcast h
  · exact .execRedx h
  · exact .execScanx h
  · exact .execMatchx h
  · exact .execShq h
  · exact .execSha h
  · exact .execShf h
  · exact .execShrsv h
  · exact .execBra h
  · exact .execBrx h
  · exact .execCall h
  · exact .execCallx h
  · exact .execRet h
  · exact .execJoin h
  · exact .execJoinImm h
  · exact .execExit h
  · exact .execExitSucc h
  · exact .execYield h
  · exact .execSleept h
  · exact .execNop h
  · exact .execTrap h
  · exact .execBrkpt h
  · exact .execLd h
  · exact .execSt h
  · exact .execLdc h
  · exact .execStc h
  · exact .execAtom h
  · exact .execRed h
  · exact .execFence h
  · exact .execWaitmem h
  · exact .execPin h
  · exact .execUnpin h
  · exact .execPref h
  · exact .execIcinv h
  · exact .execCapnar h
  · exact .execCapperm h
  · exact .execCapget h
  · exact .execCaptst h
  · exact .execCpy h
  · exact .execCpyg h
  · exact .execColl h
  · exact .execMma h
  · exact .execMdrain h
  · exact .execMzero h
  · exact .execWtload h
  · exact .execWidx h
  · exact .execBarinit h
  · exact .execBararr h
  · exact .execBarwait h
  · exact .execBartst h
  · exact .execRngget h
  · exact .execRngput h
  · exact .execRngclose h
  · exact .execWaitcnt h
  · exact .execTbar h
  · exact .execTspawn h
  · exact .execEvsig h
  · exact .execEvwait h
  · exact .execRdtime h
  · exact .execRdid h
  · exact .execRdcnt h
  · exact .execHvlend h
  · exact .execHvstat h
  · exact .execXret h
  · exact .execMfx h
  · exact .execMtx h
  · exact .execTlbinv h
  · exact .execCaproot h
  · exact .execCkpt h
  · exact .execHalt h
  · exact .execCrossLaneComplete h
  · exact .execJoinRelease h
  · exact .execYieldExpiry h
  · exact .execSleeptRelease h
  · exact .execWaitmemSatisfied h
  · exact .execWaitmemPoll h
  · exact .execStorePerform h
  · exact .execAtomicPerform h
  · exact .execLoadReturn h
  · exact .execStoreAcknowledge h
  · exact .execRemoteLoadBlock h
  · exact .execPageWalk h
  · exact .execTargetGatedRetry h
  · exact .execEngineOpStart h
  · exact .execMatrixGrant h
  · exact .execCollectiveContribution h
  · exact .execEngineOpComplete h
  · exact .execBarwaitRelease h
  · exact .execRnggetWake h
  · exact .execWaitcntRelease h
  · exact .execTbarComplete h
  · exact .execEvwaitRelease h
  · exact .execRunFetch h
  · exact .execTurnArbitration h
  · exact .execWarpLeaveSlot h
  · exact .execEventRecordApply h
  · exact .execSchedulingRound h
  · exact .execEvictionSaveComplete h
  · exact .execHarvestPlacement h
  · exact .execHarvestRevocation h
  · exact .execCheckpointStart h
  · exact .execCheckpointCommit h
  · exact .execCheckpointFailure h
  · exact .execSliceEndRollback h
  · exact .execPowerMeasurement h
  · exact .execRailChange h
  · exact .execThermalLimit h
  · exact .execThermalStop h
  · exact .execClusterRetirement h
  · exact .execChannelRetirement h
  · exact .execTimeCorrection h
  · exact .execTimeSourceLost h
  · exact .execScrubUnit h
  · exact .execPowerUp h
  · exact .execReset h
  · exact .execIdent h
  · exact .execSettime h
  · exact .execLoadseg h
  · exact .execVerify h
  · exact .execStart h
  · exact .execAttest h
  · exact .execPartitionCreate h
  · exact .execPartitionDestroy h
  · exact .execMemoryRelease h
  · exact .execCtxset h
  · exact .execCtxdel h
  · exact .execFrontEndRangeSet h
  · exact .execTraceBufferSet h
  · exact .execDebugModeSet h
  · exact .execDebugRelease h
  · exact .execRailVote h
  · exact .execFeNop h
  · exact .execLaunch h
  · exact .execGrant h
  · exact .execFeEvsig h
  · exact .execEvreset h
  · exact .execCntread h
  · exact .execDrain h
  · exact .execXtload h
  · exact .execTailWrite h
  · exact .execQenWrite h
  · exact .execCheadWrite h
  · exact .execPwrcapWrite h
  · exact .execRegisterWrite h
  · exact .execHostBar2Access h
  · exact .execLoadServed h
  · exact .execReleaseWaitElapsed h
  · exact .execPowerGate h
  · exact .execFabricPortDown h
  · exact .execBelowJunctionLimit h
  · exact .execPowerRemoved h

theorem issuePair {exec k prim sec} (he : ∀ i t, t.canonical → StaysCanonical (exec i t)) :
    StaysCanonical (State.issuePair exec s k prim sec) := by
  unfold State.issuePair
  split
  · split
    · exact .next h
    · exact .andThen (.perform (.mk (.of (.abreast h))) he) fun t ht =>
        .andThen (.perform ht he) fun _ h => .next (.afterWord (.mk h.fields))
  · exact .next h

/-! ## The step -/

theorem doMove {m} : StaysCanonical (s.doMove m) := by
  cases m with
  | issue k pid => exact .issueWord h fun _ _ h => .exec h
  | pair k a b => exact .issuePair h fun _ _ h => .exec h
  | dev i =>
    dsimp only [State.doMove]
    split
    · exact .next h
    · exact .exec h
  | tick n => exact .next (.pass h)
  | upset u => exact .next (.strike h)
  | l1Evict c line => exact .next (.writeBack h)

theorem step : StaysCanonical (step s) := by
  unfold Machine.step
  split
  · exact .doMove (.mk h.fields)
  · refine .andThen (.doMove h) fun t ht => .next ?_
    split
    · exact ht
    · exact .pass ht

end StaysCanonical

end Sys2Proof.Machine
end

section
/-! O58 -/

namespace Sys2Proof.Machine

/-- The first address that a memory lists reads otherwise than an unlisted one, so that the same address stands first in every
memory that reads alike. -/
theorem Memory.le_of_byte_eq {m n : Memory} {lo x y : Nat} {b c : Byte} (hm : Memory.wfFrom lo ((x, b) :: m) = true)
    (hn : Memory.wfFrom lo ((y, c) :: n) = true) (e : ∀ a, Memory.byte ((x, b) :: m) a = Memory.byte ((y, c) :: n) a) : y ≤ x := by
  simp only [Memory.wfFrom, Bool.and_eq_true, decide_eq_true_eq, bne_iff_ne] at hm hn
  obtain ⟨⟨-, listed⟩, -⟩ := hm
  obtain ⟨-, rest⟩ := hn
  by_contra before
  have read := e x
  rw [Memory.byte, if_pos rfl, Memory.byte, if_neg (by omega), Memory.byte_lt rest (by omega)] at read
  exact listed read

/-- In the canonical form the data is the reading. -/
theorem Memory.eq_of_byte_eq {m : Memory} : ∀ {n : Memory} {lo : Nat}, Memory.wfFrom lo m = true → Memory.wfFrom lo n = true →
    (∀ a, m.byte a = n.byte a) → m = n := by
  induction m with
  | nil =>
    intro n lo _ hn e
    cases n with
    | nil => rfl
    | cons c n =>
      obtain ⟨y, c⟩ := c
      simp only [Memory.wfFrom, Bool.and_eq_true, bne_iff_ne] at hn
      exact absurd ((e y).trans (by rw [Memory.byte, if_pos rfl])).symm hn.1.2
  | cons b m ih =>
    intro n lo hm hn e
    obtain ⟨x, b⟩ := b
    cases n with
    | nil =>
      simp only [Memory.wfFrom, Bool.and_eq_true, bne_iff_ne] at hm
      exact absurd ((e x).symm.trans (by rw [Memory.byte, if_pos rfl])).symm hm.1.2
    | cons c n =>
      obtain ⟨y, c⟩ := c
      obtain rfl : x = y := Nat.le_antisymm (Memory.le_of_byte_eq hn hm fun a => (e a).symm) (Memory.le_of_byte_eq hm hn e)
      obtain rfl : b = c := by simpa only [Memory.byte, if_pos] using e x
      simp only [Memory.wfFrom, Bool.and_eq_true] at hm hn
      obtain rfl : m = n := by
        refine ih hm.2 hn.2 fun a => ?_
        by_cases h : a = x
        · rw [Memory.byte_lt hm.2 (by omega), Memory.byte_lt hn.2 (by omega)]
        · simpa only [Memory.byte, if_neg (Ne.symm h)] using e a
      rfl

/-- Settles O58: each function of the model that makes a state keeps the form, the step by the move it makes; two memories of
the form that read alike list the same bytes, by induction on their lists. -/
theorem memoryStaysCanonical : Obligations.MemoryStaysCanonical := by
  unfold Obligations.MemoryStaysCanonical
  exact ⟨fun s t h e => StaysCanonical.step h t e, fun m n hm hn e => Memory.eq_of_byte_eq hm hn e⟩

end Sys2Proof.Machine
end

section
/-! O60 -/

namespace Sys2Proof.Machine

@[simp] theorem State.reset_fe (n : Nat) : State.reset.fe n = FrontEnd.fresh := by
  have fes : State.reset.fes.toList = List.replicate 16 FrontEnd.fresh := rfl
  rw [State.fe, fes]
  exact (List.getD_eq_getElem?_getD ..).trans (List.getElem?_getD_replicate_default_eq _ _ n)

/-- Nothing bears a name yet. -/
theorem State.reset_tidy : State.reset.tidy where
  keyed := ⟨.nil, List.forall_mem_nil _⟩
  named := ⟨List.forall_mem_nil _, List.forall_mem_nil _⟩
  parts := ⟨.nil, List.forall_mem_nil _⟩
  tasks := ⟨.nil, List.forall_mem_nil _⟩
  crews := List.forall_mem_nil _
  images := List.forall_mem_nil _
  apart := List.forall_mem_nil _

theorem State.reset_emptied : Emptied State.reset where
  parts := rfl
  jobs := rfl
  tasks := rfl
  warps := rfl
  ops := rfl
  l2 := rfl
  l1 := rfl
  copies := rfl
  fronts := State.reset_fe
  clusters := rfl
  cores := rfl

/-- Settles O60: the registers are those of `State.reset`, every front end is a fresh one, and the tables are empty. -/
theorem resetState : Obligations.ResetState := by
  unfold Obligations.ResetState
  refine ⟨rfl, rfl, rfl, rfl, fun n => ?_, State.reset_emptied, fun _ => rfl, rfl, ⟨reset_memOk, List.forall_mem_nil _⟩, State.reset_tidy⟩
  rw [State.reset_fe]
  exact ⟨rfl, rfl, rfl, rfl, rfl, rfl, rfl, rfl⟩

end Sys2Proof.Machine
end

section
/-! O42 -/

namespace Sys2Proof.Machine

/-! ## Bytes and answers -/

@[simp] theorem length_leBytes (n x : Nat) : (leBytes n x).length = n := by
  induction n generalizing x with
  | zero => rfl
  | succ n ih => exact congrArg (· + 1) (ih _)

@[simp] theorem length_response (status : Nat) (bs : List Byte) : (response status bs).length = 256 := by
  simp only [response, List.length_take, List.length_append, List.length_map, List.length_range, length_leBytes]
  omega

/-- An answer of at most 252 bytes stands whole after its status. -/
theorem take_response {status n : Nat} {bs : List Byte} (fits : n ≤ 4 + bs.length) (le : n ≤ 256) :
    (response status bs).take n = (leBytes 4 status ++ bs).take n := by
  rw [response, List.take_take, Nat.min_eq_left le, List.take_append_of_le_length (by simpa using fits)]

@[simp] theorem length_pairBytes (p : Nat × Nat) : (pairBytes p).length = 96 := by
  simp [pairBytes]

@[simp] theorem length_fuses (s : State) : s.fuses.length = 40 := by
  simp [State.fuses]

@[simp] theorem length_reportBody (s : State) (nonce : BitVec 384) : (s.reportBody nonce).length = 160 := by
  simp [State.reportBody]

/-! ## Start-up -/

theorem State.cold_emptied (s : State) (b : Boot) : Emptied (s.cold b) where
  parts := rfl
  jobs := rfl
  tasks := rfl
  warps := rfl
  ops := rfl
  l2 := rfl
  l1 := rfl
  copies := rfl
  fronts := State.reset_fe
  clusters := rfl
  cores := rfl

theorem State.cold_lasting (s : State) (b : Boot) : Lasting s (s.cold b) where
  clusters := rfl
  channels := rfl
  fused := rfl
  host := rfl
  reports := rfl

theorem State.toRom_emptied (s : State) (now : DWord) : Emptied (s.toRom now) where
  parts := rfl
  jobs := rfl
  tasks := rfl
  warps := rfl
  ops := rfl
  l2 := rfl
  l1 := rfl
  copies := rfl
  fronts := State.reset_fe
  clusters := rfl
  cores := rfl

theorem State.toRom_lasting (s : State) (now : DWord) : Lasting s (s.toRom now) where
  clusters := rfl
  channels := rfl
  fused := rfl
  host := rfl
  reports := rfl

/-- What waits to be scrubbed after a reset: what waited, and the device's own units of each partition. -/
theorem State.mem_scrubQ_toRom (s : State) (now : DWord) (u : Nat) : u ∈ (s.toRom now).scrubQ ↔
    u < capacity (s.chPres &&& ~~~s.chRetired) ∧ (u ∈ s.scrubQ ∨ (u < 384 ∧ ∃ np ∈ s.parts, ∃ x ∈ np.2.units, x.2 = u)) := by
  have held : u ∈ (s.parts.vals.map (fun p => p.units.vals.filter (· < 384))).flatten ↔
      u < 384 ∧ ∃ np ∈ s.parts, ∃ x ∈ np.2.units, x.2 = u := by
    simp only [Tab.vals, List.mem_flatten, List.mem_map, exists_exists_and_eq_and, List.mem_filter, decide_eq_true_eq]
    constructor
    · rintro ⟨np, hnp, ⟨x, hx, e⟩, lt⟩
      exact ⟨lt, np, hnp, x, hx, e⟩
    · rintro ⟨lt, np, hnp, x, hx, e⟩
      exact ⟨np, hnp, ⟨x, hx, e⟩, lt⟩
  have stays : u ∈ (s.toRom now).scrubQ ↔ (u ∈ s.scrubQ ∨ u ∈ (s.parts.vals.map (fun p => p.units.vals.filter (· < 384))).flatten) ∧
      u < capacity (s.chPres &&& ~~~s.chRetired) := by
    rw [← List.mem_append, show (s.toRom now).scrubQ = (s.scrubQ ++ (s.parts.vals.map (fun p => p.units.vals.filter (· < 384))).flatten).filter
      (fun u => decide (u < capacity (s.chPres &&& ~~~s.chRetired))) from rfl, List.mem_filter, decide_eq_true_eq]
  rw [stays, held, and_comm]

/-- A command of the mailbox is refused where ROM does not take it. -/
theorem turned_of {i : Instr} {ok : Boot → Bool} {f : State → State} (h : ∀ s, exec i s = s.mailbox ok f) : Turned i ok := by
  refine ⟨fun s off => ?_, fun s on refused => ?_⟩
  · simp [Makes, h, State.mailbox, off]
  · simp [Makes, h, State.mailbox, on, refused, State.answer]

/-- A command of the mailbox acts where ROM takes it. -/
theorem State.mailbox_takes {s : State} {ok : Boot → Bool} {f : State → State} (on : s.boot ≠ .off) (takes : ok s.boot = true) :
    s.mailbox ok f = .next (f s) := by
  simp [State.mailbox, on, takes]

@[simp] theorem length_identityKey : identityKey.length = 96 := length_pairBytes _

@[simp] theorem length_identitySign (n : Nat) (msg : List Byte) : (identitySign n msg).length = 96 := length_pairBytes _

/-- After an IDENT's status and part number stand the fuses. -/
theorem ident_response (s : State) :
    ((response 0 (leBytes 4 Config.partNumber.toNat ++ s.fuses ++ identityKey)).drop 8).take 40 = s.fuses := by
  have front : (response 0 (leBytes 4 Config.partNumber.toNat ++ s.fuses ++ identityKey)).take 48 =
      (leBytes 4 0 ++ leBytes 4 Config.partNumber.toNat) ++ s.fuses := by
    rw [take_response (by simp) (by omega), ← List.append_assoc, ← List.append_assoc, List.take_left' (by simp)]
  rw [List.take_drop, front, List.drop_left' (by simp)]

theorem attest_report (s : State) (nonce : BitVec 384) :
    (s.reportBody nonce).take 100 = leBytes 48 nonce.toNat ++ leBytes 48 s.measurement.toNat ++ leBytes 4 s.secVer.toNat := by
  simp only [State.reportBody, List.append_assoc]
  rw [← List.append_assoc, ← List.append_assoc]
  exact List.take_left' (by simp)

/-- A good image, by its words and its signature. -/
theorem verify_good {img : List Byte} {len : Nat} {least : Word} :
    (imageWord img 0 == 0x4B465731 && imageWord img 1 == len &&
      signatureValid Config.romKeyDigest (Config.imageKey img) (signedPart img) ((img.drop 160).take 96) && decide (least.toNat ≤ imageWord img 2)) = true ↔
    leNat (img.take 4) = 0x4B465731 ∧ leNat ((img.drop 4).take 4) = len ∧ least.toNat ≤ leNat ((img.drop 8).take 4) ∧
      signatureValid Config.romKeyDigest (Config.imageKey img) (img.take 160 ++ List.replicate 96 0 ++ img.drop 256) ((img.drop 160).take 96) = true := by
  rw [Bool.and_eq_true, Bool.and_eq_true, Bool.and_eq_true, beq_iff_eq, beq_iff_eq, decide_eq_true_eq]
  exact ⟨fun ⟨⟨⟨magic, size⟩, sig⟩, ver⟩ => ⟨magic, size, ver, sig⟩, fun ⟨magic, size, ver, sig⟩ => ⟨⟨⟨magic, size⟩, sig⟩, ver⟩⟩

theorem makes_verify {s : State} {len : Nat} (rom : s.boot = .rom) :
    let img := s.staging.bytes 0 len
    let signed := img.take 160 ++ List.replicate 96 0 ++ img.drop 256
    let good := leNat (img.take 4) = 0x4B465731 ∧ leNat ((img.drop 4).take 4) = len ∧ s.secFused.toNat ≤ leNat ((img.drop 8).take 4) ∧
      signatureValid Config.romKeyDigest (Config.imageKey img) signed ((img.drop 160).take 96) = true
    (len < 256 ∨ 2 ^ 26 < len → Makes s (.verify len) { s with mbResp := response 2 [] }) ∧
    (256 ≤ len ∧ len ≤ 2 ^ 26 ∧ ¬ good → Makes s (.verify len) { s with mbResp := response 3 [] }) ∧
    (256 ≤ len ∧ len ≤ 2 ^ 26 ∧ good → Makes s (.verify len) { s with
      mbResp := response 0 [], boot := .verified, secVer := BitVec.ofNat 32 (leNat ((img.drop 8).take 4))
      measurement := BitVec.ofNat 384 (leNat (sha384 signed)) }) := by
  intro img signed good
  have acts : Makes s (.verify len) _ :=
    (State.mailbox_takes (by rw [rom]; decide) (by rw [rom]; rfl) : execVerify len s = _)
  have long : 256 ≤ len ∧ len ≤ 2 ^ 26 → ¬ (decide (len < 256) || decide (2 ^ 26 < len)) = true := by
    intro ⟨lo, hi⟩
    simp only [Bool.or_eq_true, decide_eq_true_eq]
    omega
  refine ⟨fun short => ?_, fun ⟨lo, hi, bad⟩ => ?_, fun ⟨lo, hi, ok⟩ => ?_⟩
  · rwa [if_pos (by simpa using short)] at acts
  · rw [if_neg (long ⟨lo, hi⟩)] at acts
    dsimp only at acts
    rwa [if_pos (by simpa only [Bool.not_eq_true', ← Bool.not_eq_true] using mt verify_good.1 bad)] at acts
  · rw [if_neg (long ⟨lo, hi⟩)] at acts
    dsimp only at acts
    rwa [if_neg (by simpa only [Bool.not_eq_true', ← Bool.not_eq_true, not_not] using verify_good.2 ok)] at acts

/-- LOADSEG copies what it is given of host memory, within the staging area. -/
theorem makes_loadseg {s : State} {host : DWord} {off len : Nat} (takes : s.boot = .rom ∨ s.boot = .verified) :
    (2 ^ 26 < off + len → Makes s (.loadseg host off len) { s with boot := .rom, mbResp := response 2 [] }) ∧
    (off + len ≤ 2 ^ 26 → s.memOk = true → ∃ t, Makes s (.loadseg host off len) t ∧
      t = { s with boot := .rom, mbResp := response 0 [], staging := t.staging } ∧
      ∀ a, t.staging.byte a = if off ≤ a ∧ a < off + len then s.hostMem.byte (host.toNat + (a - off)) else s.staging.byte a) := by
  have on : s.boot ≠ .off := by rcases takes with e | e <;> rw [e] <;> decide
  have acts : Makes s (.loadseg host off len) _ :=
    (State.mailbox_takes on (by simpa using takes) : execLoadseg host off len s = _)
  refine ⟨fun long => ?_, fun fits ok => ?_⟩
  · dsimp only at acts
    rwa [if_pos long] at acts
  · dsimp only at acts
    rw [if_neg (by omega)] at acts
    have wf : s.staging.wf = true := by
      simp only [State.memOk, Bool.and_eq_true] at ok
      tauto
    refine ⟨_, acts, rfl, fun a => ?_⟩
    rw [Memory.byte_putAll wf, Memory.length_bytes]
    exact if_ctx_congr Iff.rfl (fun ⟨lo, hi⟩ => Memory.getD_bytes _ (by omega)) fun _ => rfl

theorem makes_settime {s : State} {v : DWord} (rom : s.boot = .rom) :
    (v.toNat < s.gtime.toNat → Makes s (.settime v) { s with mbResp := response 2 [] }) ∧
    (s.gtime.toNat ≤ v.toNat → Makes s (.settime v) { s with mbResp := response 0 [], gtime := v }) := by
  have acts : Makes s (.settime v) _ := (State.mailbox_takes (by rw [rom]; decide) (by rw [rom]; rfl) : execSettime v s = _)
  refine ⟨fun back => ?_, fun ahead => ?_⟩
  · rwa [if_pos back] at acts
  · rwa [if_neg (by omega)] at acts

/-- The report is signed over its first 160 bytes, and they begin with the nonce, the measurement and the version. -/
theorem makes_attest {s : State} {nonce : BitVec 384} (on : s.boot ≠ .off) :
    ∃ t, Makes s (.attest nonce) t ∧ t = { s with mbResp := t.mbResp, report := t.report, draws := s.draws + 1 } ∧
    t.report.length = 256 ∧ t.report.drop 160 = identitySign s.draws (t.report.take 160) ∧
    t.report.take 100 = leBytes 48 nonce.toNat ++ leBytes 48 s.measurement.toNat ++ leBytes 4 s.secVer.toNat := by
  have body : (s.reportBody nonce ++ identitySign s.draws (s.reportBody nonce)).take 160 = s.reportBody nonce := List.take_left' (by simp)
  refine ⟨_, (State.mailbox_takes on rfl : execAttest nonce s = _), rfl, by simp, ?_, ?_⟩
  · dsimp only
    rw [body, List.drop_left' (by simp)]
  · dsimp only
    rw [List.take_append_of_le_length (by simp), attest_report]

/-- Settles O42: each command of the mailbox acts where ROM takes it and is turned away elsewhere; power and reset make the states
`State.cold` and `State.toRom`. -/
theorem startUp : Obligations.StartUp := by
  unfold Obligations.StartUp
  refine ⟨fun s => ⟨fun on => ?_, fun off => ?_, ?_⟩, fun s => ⟨fun off => ?_, fun on => ?_⟩, ?_, fun s on => ?_,
    fun _ _ => makes_settime, fun _ _ _ _ => makes_loadseg, fun _ _ => makes_verify, fun s ver => ?_, fun _ _ => makes_attest⟩
  · simp [Makes, exec, execPowerUp, on]
  · exact ⟨s.cold .rom, by simp [Makes, exec, execPowerUp, off], rfl, s.cold_lasting _, s.cold_emptied _, rfl, rfl⟩
  · exact ⟨s.cold .off, rfl, rfl, s.cold_lasting _, s.cold_emptied _, rfl⟩
  · simp [Makes, exec, execReset, off]
  · exact ⟨s.toRom s.gtime, by simp [Makes, exec, execReset, on], rfl, s.toRom_lasting _, s.toRom_emptied _, rfl, rfl, rfl, rfl,
      s.mem_scrubQ_toRom _⟩
  · exact ⟨turned_of fun _ => rfl, turned_of fun _ => rfl, turned_of fun _ => rfl, turned_of fun _ => rfl, turned_of fun _ => rfl,
      turned_of fun _ => rfl⟩
  · exact ⟨_, (State.mailbox_takes on rfl : execIdent s = _), rfl, length_response _ _, take_response (Nat.le_add_right _ _) (by omega),
      ident_response s⟩
  · exact (State.mailbox_takes (by rw [ver]; decide) (by rw [ver]; rfl) : execStart s = _)

end Sys2Proof.Machine
end

section
/-! SUPPORT. What power control is made of: a partition's charge, votes, and the traces of a module that has none. -/

namespace Sys2Proof.Machine

/-! ## Traces that are off -/

/-- No partition that is there has a trace buffer. -/
def State.traceless (s : State) : Prop := ∀ n p, s.part n = some p → p.trace = none

theorem State.untraced.traceless {s : State} (h : s.untraced) : s.traceless := fun _ _ hp => h _ (Tab.mem_of_find hp)

theorem State.traceCap_off {s : State} (h : s.traceless) (event : Nat) : s.traceCap event = s :=
  List.foldl_fixed' (fun p => State.trace_off (h p.id) _ _ _ _ _) _

/-! ## Charges (10 R236) -/

/-- The partition with a charge added. -/
def Part.charged (c : Nat) (p : Part) : Part := { p with charge := p.charge + c }

@[simp] theorem Part.charged_zero (p : Part) : p.charged 0 = p := rfl

@[simp] theorem Part.charged_charged (p : Part) (c d : Nat) : (p.charged c).charged d = p.charged (c + d) := by
  simp [Part.charged, Nat.add_assoc]

/-- Each partition is charged with what `c` says, and nothing else has changed. -/
structure Charged (s t : State) (c : Nat → Nat) : Prop where
  only : t = { s with parts := t.parts }
  part : ∀ n, t.part n = (s.part n).map (Part.charged (c n))

theorem Charged.refl (s : State) : Charged s s 0 := ⟨rfl, fun n => by simp [show Part.charged 0 = id from rfl]⟩

theorem Charged.trans {s t u : State} {c d : Nat → Nat} (h : Charged s t c) (g : Charged t u d) : Charged s u (fun n => c n + d n) := by
  refine ⟨g.only.trans (by rw [h.only]), fun n => ?_⟩
  rw [g.part, h.part, Option.map_map]
  congr 1
  funext p
  exact Part.charged_charged p _ _

theorem Charged.charge (s : State) (part n : Nat) : Charged s (s.charge part n) (fun m => if m = part then n else 0) := by
  refine ⟨?_, fun m => ?_⟩
  · unfold State.charge State.onPart
    split <;> rfl
  · by_cases h : m = part
    · subst h
      rw [if_pos rfl]
      exact s.part_onPart_same _ _
    · rw [if_neg h]
      refine (s.part_onPart_ne _ h).trans ?_
      simp [show Part.charged 0 = id from rfl]

theorem Charged.congr {s t : State} {c d : Nat → Nat} (h : Charged s t c) (e : ∀ n, c n = d n) : Charged s t d :=
  (funext e : c = d) ▸ h

theorem Charged.traceless {s t : State} {c : Nat → Nat} (h : Charged s t c) (off : s.traceless) : t.traceless := by
  intro n p hp
  rw [h.part] at hp
  obtain ⟨q, hq, rfl⟩ := Option.map_eq_some_iff.1 hp
  exact off n q hq

theorem Charged.cluster {s t : State} {c : Nat → Nat} (h : Charged s t c) (k : Nat) : t.cluster k = s.cluster k := by
  rw [h.only]
  rfl

/-- Whatever its meter says, a partition is charged and nothing else is done. -/
theorem Charged.chargeMeter (s : State) (ms : List Meter) (m : Meter) : ∃ c, Charged s (s.chargeMeter ms m) c := by
  have shares : ∀ (xs : List (Nat × Nat)) (u : State), ∃ c, Charged u (xs.foldl (fun s (p, n) => s.charge p n) u) c := by
    intro xs
    induction xs with
    | nil => exact fun u => ⟨_, .refl u⟩
    | cons x xs ih =>
      intro u
      obtain ⟨c, h⟩ := ih (u.charge x.1 x.2)
      exact ⟨_, (Charged.charge u x.1 x.2).trans h⟩
  unfold State.chargeMeter
  dsimp only
  split
  · split
    · exact ⟨_, .charge s _ _⟩
    · obtain ⟨c, h⟩ := shares _ s
      exact ⟨_, (h.trans (.charge _ _ _)).trans (.charge _ _ _)⟩
  · exact ⟨_, .charge s _ _⟩

theorem Charged.meters (ms xs : List Meter) (s : State) : ∃ c, Charged s (xs.foldl (fun s m => s.chargeMeter ms m) s) c := by
  induction xs generalizing s with
  | nil => exact ⟨_, .refl s⟩
  | cons x xs ih =>
    obtain ⟨c, h⟩ := Charged.chargeMeter s ms x
    obtain ⟨d, g⟩ := ih (s.chargeMeter ms x)
    exact ⟨_, h.trans g⟩

theorem Part.vote_eq (p : Part) (k : BitVec 5) : p.vote k = p.voteFor k := by
  unfold Part.vote Part.voteFor
  cases p.votes.find k <;> rfl

theorem Part.voteFor_charged (p : Part) (c : Nat) (k : BitVec 5) : (p.charged c).voteFor k = p.voteFor k := rfl

/-- No excess is what a meter finds where the partition's own vote is not below the rail. -/
theorem State.chargeMeter_own {s : State} {m : Meter} (own : ∀ p, s.part m.part = some p → p.voteFor m.cluster = .vhi ∨ (s.cluster m.cluster.toNat).rail = .vlo)
    (ms : List Meter) : s.chargeMeter ms m = s.charge m.part m.drawn := by
  have low : ((s.part m.part).any (fun p => p.vote m.cluster == .vlo) && (s.cluster m.cluster.toNat).rail == .vhi) = false := by
    cases e : s.part m.part with
    | none => rfl
    | some p =>
      rcases own p e with vhi | vlo
      · simp [Part.vote_eq, vhi]
      · simp [vlo]
  unfold State.chargeMeter
  dsimp only
  split
  · rw [low]
    rfl
  · rfl

/-- Where no work ran at a vote below the rail, each partition is charged what its meters drew. -/
theorem Charged.metersOwn (ms xs : List Meter) {s u : State} {c : Nat → Nat} (h : Charged s u c) (own : s.noExcess xs) :
    Charged s (xs.foldl (fun s m => s.chargeMeter ms m) u) (fun n => c n + drawnBy xs n) := by
  induction xs generalizing u c with
  | nil => exact h
  | cons m xs ih =>
    have here : ∀ p, u.part m.part = some p → p.voteFor m.cluster = .vhi ∨ (u.cluster m.cluster.toNat).rail = .vlo := by
      intro p hp
      rw [h.part] at hp
      obtain ⟨q, hq, rfl⟩ := Option.map_eq_some_iff.1 hp
      rw [h.cluster, Part.voteFor_charged]
      exact own m (.head _) q hq
    rw [List.foldl_cons, State.chargeMeter_own here]
    refine (ih (h.trans (.charge u m.part m.drawn)) fun x hx => own x (.tail _ hx)).congr fun n => ?_
    by_cases e : n = m.part
    · simp [drawnBy, e, Nat.add_assoc]
    · simp [drawnBy, e, Ne.symm e]

/-- The excess goes to the one partition that voted higher. -/
theorem State.chargeMeter_excess {s : State} {m : Meter} {p q : Part} (hp : s.part m.part = some p) (low : p.voteFor m.cluster = .vlo)
    (rail : (s.cluster m.cluster.toNat).rail = .vhi)
    (higher : s.parts.vals.filter (fun x => x.clusters.getLsbD m.cluster.toNat && x.voteFor m.cluster == .vhi) = [q]) :
    Charged s (s.chargeMeter [m] m) (fun n => (if n = q.id then m.drawn - m.own else 0) + if n = m.part then min m.own m.drawn else 0) := by
  have below : ((s.part m.part).any (fun p => p.vote m.cluster == .vlo) && (s.cluster m.cluster.toNat).rail == .vhi) = true := by
    simp [hp, Part.vote_eq, low, rail]
  simp only [← Part.vote_eq] at higher
  unfold State.chargeMeter
  rw [higher]
  dsimp only
  rw [below]
  refine (((Charged.charge s q.id _).trans (.charge _ q.id _)).trans (.charge _ m.part _)).congr fun n => congrArg (· + _) ?_
  by_cases e : n = q.id
  · simp only [if_pos e]
    simp only [List.map_cons, List.map_nil, List.sum_cons, List.sum_nil, Nat.add_zero]
    generalize ((([m].filter fun x => x.part == q.id && x.cluster == m.cluster).map Meter.time).sum) = ran
    have share : (m.drawn - m.own) * ran / max 1 ran ≤ m.drawn - m.own :=
      Nat.div_le_of_le_mul (by rw [Nat.mul_comm]; exact Nat.mul_le_mul_right _ (Nat.le_max_right ..))
    exact Nat.add_sub_cancel' share
  · simp only [if_neg e]

end Sys2Proof.Machine
end

section
/-! O40 -/

namespace Sys2Proof.Machine

theorem capW_eq (s : State) : s.capW = capNow s.pwrcap := by
  have field : (s.pwrcap.extractLsb' 0 11).toNat = s.pwrcap.toNat % 2048 := by simp
  unfold State.capW capNow
  rw [field]
  dsimp only
  split <;> [skip; split] <;> omega

theorem win_eq (s : State) : s.win = winNow s.pwrcap := by
  have field : (s.pwrcap.extractLsb' 16 11).toNat = s.pwrcap.toNat / 2 ^ 16 % 2048 := by
    simp [BitVec.extractLsb'_toNat, Nat.shiftRight_eq_div_pow]
  unfold State.win winNow
  rw [field]
  dsimp only
  split <;> [skip; split] <;> omega

theorem winNow_le (v : Word) : winNow v ≤ 2000 := by
  unfold winNow
  dsimp only
  split <;> [skip; split] <;> omega

/-- Without traces the controller sets its two steps and nothing else. -/
theorem State.ration_off {s : State} (off : s.traceless) (hi : Bool) : s.ration hi = { s with
    grants := if hi then max 1 (s.grants - 1) else if s.idle = 0 then min 8 (s.grants + 1) else s.grants
    idle := if hi then (if s.grants = 1 then min 8 (s.idle + 1) else s.idle) else s.idle - 1 } := by
  have quiet : ∀ {g i e}, State.traceCap { s with grants := g, idle := i } e = { s with grants := g, idle := i } :=
    fun {g i e} => State.traceCap_off (s := { s with grants := g, idle := i }) off e
  unfold State.ration
  cases hi <;> simp only [Bool.false_eq_true, if_false, if_true, beq_iff_eq, idleLimit, quiet, ite_self]

/-- What the controller does with a measurement once it is charged and stands with the earlier ones. -/
def State.controlled (s : State) (watts : Nat) : State :=
  let hi := decide (s.capW < watts)
  match s.emergency with
  | .none => if hi && s.atLimit then { s with emergency := .moved s.gtime }.traceCap 2 else s.ration (hi || s.averageHigh)
  | .moved t =>
    if !hi then { s with emergency := .none }
    else if t.toNat + 2000 ≤ s.gtime.toNat then { s with emergency := .stopped }.traceCap 3 else s
  | .stopped => if watts < s.capW then { s with emergency := .none }.traceCap 4 else s

theorem exec_powerMeasurement (s : State) (watts : Nat) (ms : List Meter) :
    let u := ms.foldl (fun s m => s.chargeMeter ms m) s
    Makes s (.powerMeasurement watts ms) (State.controlled { u with watts := (watts :: u.watts).take 2000 } watts) := rfl

/-- The average is above the cap. -/
def State.avgAbove (s : State) : Prop := capNow s.pwrcap * (s.watts.take (winNow s.pwrcap)).length < (s.watts.take (winNow s.pwrcap)).sum

/-- Of what the controller holds it sets the grants, the idle cycles and the stage of an emergency. -/
structure Controlled (s t : State) (grants idle : Nat) (stage : Emergency) : Prop where
  only : t = { s with grants := t.grants, idle := t.idle, emergency := t.emergency }
  grants : t.grants = grants
  idle : t.idle = idle
  stage : t.emergency = stage

section
variable {s : State} (off : s.traceless)
include off

theorem State.controlled_ration {watts : Nat} (e : s.emergency = .none) (below : ¬ (capNow s.pwrcap < watts ∧ s.grants = 1 ∧ s.idle = 8)) :
    (capNow s.pwrcap < watts ∨ s.avgAbove →
      Controlled s (s.controlled watts) (max 1 (s.grants - 1)) (if s.grants = 1 then min 8 (s.idle + 1) else s.idle) .none) ∧
    (¬ capNow s.pwrcap < watts ∧ ¬ s.avgAbove →
      Controlled s (s.controlled watts) (if s.idle = 0 then min 8 (s.grants + 1) else s.grants) (s.idle - 1) .none) := by
  have made : s.controlled watts = s.ration (decide (capNow s.pwrcap < watts) || s.averageHigh) := by
    unfold State.controlled
    rw [e, capW_eq]
    exact if_neg (by simpa [State.atLimit, idleLimit] using below)
  have high : s.averageHigh = true ↔ s.avgAbove := by
    unfold State.averageHigh State.avgAbove
    rw [capW_eq, win_eq]
    exact decide_eq_true_iff
  rw [made, State.ration_off off]
  refine ⟨fun above => ?_, fun under => ?_⟩
  · rw [show (decide (capNow s.pwrcap < watts) || s.averageHigh) = true by simpa [high] using above]
    exact ⟨rfl, rfl, rfl, e⟩
  · rw [show (decide (capNow s.pwrcap < watts) || s.averageHigh) = false by
      rw [Bool.eq_false_iff, ne_eq, Bool.or_eq_true, decide_eq_true_eq, high]; tauto]
    exact ⟨rfl, rfl, rfl, e⟩

theorem State.controlled_limit {watts : Nat} (e : s.emergency = .none) (hi : capNow s.pwrcap < watts) (limit : s.grants = 1 ∧ s.idle = 8) :
    Controlled s (s.controlled watts) s.grants s.idle (.moved s.gtime) := by
  have made : s.controlled watts = { s with emergency := .moved s.gtime } := by
    unfold State.controlled
    rw [e, capW_eq]
    refine (if_pos (by simpa [State.atLimit, idleLimit] using ⟨hi, limit⟩)).trans ?_
    exact State.traceCap_off (s := { s with emergency := .moved s.gtime }) off 2
  exact made ▸ ⟨rfl, rfl, rfl, rfl⟩

theorem State.controlled_moved {watts : Nat} {g : DWord} (e : s.emergency = .moved g) : Controlled s (s.controlled watts) s.grants s.idle
    (if ¬ capNow s.pwrcap < watts then .none else if g.toNat + 2000 ≤ s.gtime.toNat then .stopped else .moved g) := by
  unfold State.controlled
  rw [e, capW_eq]
  by_cases hi : capNow s.pwrcap < watts
  · simp only [hi, decide_true, Bool.not_true, Bool.false_eq_true, if_false, not_true_eq_false]
    split
    · rw [State.traceCap_off (s := { s with emergency := .stopped }) off]
      exact ⟨rfl, rfl, rfl, rfl⟩
    · exact ⟨rfl, rfl, rfl, e⟩
  · simp only [hi, decide_false, Bool.not_false, if_true, not_false_eq_true]
    exact ⟨rfl, rfl, rfl, rfl⟩

theorem State.controlled_stopped {watts : Nat} (e : s.emergency = .stopped) :
    Controlled s (s.controlled watts) s.grants s.idle (if watts < capNow s.pwrcap then .none else .stopped) := by
  unfold State.controlled
  rw [e, capW_eq]
  dsimp only
  split
  · rw [State.traceCap_off (s := { s with emergency := .none }) off]
    exact ⟨rfl, rfl, rfl, rfl⟩
  · exact ⟨rfl, rfl, rfl, e⟩

end

theorem avgAbove_iff (s : State) (watts : Nat) : State.avgAbove { s with watts := (watts :: s.watts).take 2000 } ↔
    capNow s.pwrcap * ((watts :: s.watts).take (winNow s.pwrcap)).length < ((watts :: s.watts).take (winNow s.pwrcap)).sum := by
  have window : ((watts :: s.watts).take 2000).take (winNow s.pwrcap) = (watts :: s.watts).take (winNow s.pwrcap) := by
    rw [List.take_take, Nat.min_eq_left (winNow_le _)]
  unfold State.avgAbove
  rw [window]

/-- A measurement is made: what is charged, and what the controller does. -/
theorem makes_powerMeasurement (s : State) (watts : Nat) (ms : List Meter) :
    ∃ ps c, Charged s { s with parts := ps } c ∧ ms.foldl (fun s m => s.chargeMeter ms m) s = { s with parts := ps } ∧
      Makes s (.powerMeasurement watts ms) (State.controlled { s with parts := ps, watts := (watts :: s.watts).take 2000 } watts) := by
  obtain ⟨c, h⟩ := Charged.meters ms ms s
  have acts := exec_powerMeasurement s watts ms
  rw [h.only] at acts h
  exact ⟨_, c, h, Charged.only (Charged.meters ms ms s).choose_spec, acts⟩

theorem measurement_charges {s t : State} {ps : Tab Nat Part} {c : Nat → Nat} {ms : List Meter} (h : Charged s { s with parts := ps } c)
    (made : ms.foldl (fun s m => s.chargeMeter ms m) s = { s with parts := ps }) (ht : t.parts = ps) :
      (∀ n p, s.part n = some p → ∃ c, t.part n = some { p with charge := c } ∧ p.charge ≤ c) ∧ (∀ n, s.part n = none → t.part n = none) ∧
      (s.noExcess ms → ∀ n p, s.part n = some p → t.part n = some { p with charge := p.charge + drawnBy ms n }) ∧
      (∀ m p q, ms = [m] → s.part m.part = some p → p.voteFor m.cluster = .vlo → (s.cluster m.cluster.toNat).rail = .vhi →
        s.parts.vals.filter (fun x => x.clusters.getLsbD m.cluster.toNat && x.voteFor m.cluster == .vhi) = [q] → q.id ≠ m.part →
        s.part q.id = some q →
        t.part m.part = some { p with charge := p.charge + min m.own m.drawn } ∧
        t.part q.id = some { q with charge := q.charge + (m.drawn - m.own) }) := by
  have part : ∀ {d}, Charged s { s with parts := ps } d → ∀ n, t.part n = (s.part n).map (Part.charged (d n)) := by
    intro d hd n
    rw [← hd.part, State.part, ht]
    rfl
  refine ⟨fun n p hp => ⟨_, by rw [part h, hp]; rfl, Nat.le_add_right _ _⟩, fun n hn => by rw [part h, hn]; rfl,
    fun own n p hp => ?_, fun m p q one hp low rail higher apart hq => ?_⟩
  · have exact := Charged.metersOwn ms ms (.refl s) own
    rw [made] at exact
    rw [part exact, hp]
    simp [Part.charged]
  · subst one
    have exact := State.chargeMeter_excess hp low rail higher
    rw [show s.chargeMeter [m] m = { s with parts := ps } from made] at exact
    rw [part exact, part exact, hp, hq]
    simp [Part.charged, apart, Ne.symm apart]

/-- What the controller does, stage by stage. -/
theorem State.controlled_cases {s : State} (off : s.traceless) (watts : Nat) :
    let t := s.controlled watts
    let hi := capNow s.pwrcap < watts
    let limit := s.grants = 1 ∧ s.idle = 8
    t = { s with grants := t.grants, idle := t.idle, emergency := t.emergency } ∧
      match s.emergency with
      | .none =>
        (hi ∧ limit → t.grants = s.grants ∧ t.idle = s.idle ∧ t.emergency = .moved s.gtime) ∧
        ((hi ∨ s.avgAbove) ∧ ¬ (hi ∧ limit) → t.emergency = .none ∧ t.grants = max 1 (s.grants - 1) ∧
          t.idle = (if s.grants = 1 then min 8 (s.idle + 1) else s.idle)) ∧
        (¬ hi ∧ ¬ s.avgAbove → t.emergency = .none ∧ t.idle = s.idle - 1 ∧
          t.grants = (if s.idle = 0 then min 8 (s.grants + 1) else s.grants))
      | .moved g => t.grants = s.grants ∧ t.idle = s.idle ∧
        t.emergency = (if ¬ hi then .none else if g.toNat + 2000 ≤ s.gtime.toNat then .stopped else .moved g)
      | .stopped => t.grants = s.grants ∧ t.idle = s.idle ∧ t.emergency = (if watts < capNow s.pwrcap then .none else .stopped) := by
  intro t hi limit
  cases e : s.emergency with
  | none =>
    by_cases lim : hi ∧ limit
    · have ctl := State.controlled_limit off e lim.1 lim.2
      exact ⟨ctl.only, fun _ => ⟨ctl.grants, ctl.idle, ctl.stage⟩, fun h => absurd lim h.2, fun h => absurd lim.1 h.1⟩
    · obtain ⟨up, down⟩ := State.controlled_ration (watts := watts) off e lim
      by_cases more : hi ∨ s.avgAbove
      · have ctl := up more
        exact ⟨ctl.only, fun h => absurd h lim, fun _ => ⟨ctl.stage, ctl.grants, ctl.idle⟩, fun h => absurd more (not_or.2 h)⟩
      · have ctl := down (not_or.1 more)
        exact ⟨ctl.only, fun h => absurd h lim, fun h => absurd h.1 more, fun _ => ⟨ctl.stage, ctl.idle, ctl.grants⟩⟩
  | moved g =>
    have ctl := State.controlled_moved (watts := watts) off e
    exact ⟨ctl.only, ctl.grants, ctl.idle, ctl.stage⟩
  | stopped =>
    have ctl := State.controlled_stopped (watts := watts) off e
    exact ⟨ctl.only, ctl.grants, ctl.idle, ctl.stage⟩

/-! ## Votes, rails, gates and ports -/

/-- A command of the firmware on a partition is refused outside RUN and of one that is not there. -/
theorem guarded_of {i : Nat → Instr} {f : Nat → State → Part → State} (h : ∀ s n, exec (i n) s = s.firmwareOn n (f n)) : Guarded i := by
  refine ⟨fun s n off => ?_, fun s n on stopped => ?_, fun s n run none => ?_⟩
  · simp [Makes, h, State.firmwareOn, State.firmware, off]
  · simp [Makes, Answered, h, State.firmwareOn, State.firmware, on, stopped, State.fwAnswer]
  · simp [Makes, Answered, h, State.firmwareOn, State.firmware, run, none, State.fwAnswer]

/-- A command of the firmware acts on a partition that is there. -/
theorem State.firmwareOn_acts {s : State} {n : Nat} {p : Part} {f : State → Part → State} (run : s.boot = .run) (hp : s.part n = some p) :
    s.firmwareOn n f = .next (f s p) := by
  simp [State.firmwareOn, State.firmware, run, hp]

theorem OnePart.putPart (s : State) (n : Nat) (p : Part) : OnePart s (s.putPart n p) n p :=
  ⟨rfl, s.part_putPart_same n p, fun _ h => s.part_putPart_ne p h⟩

theorem OneCluster.setCluster (s : State) (k : Nat) (x : Cluster) : OneCluster s (s.setCluster k x) k x :=
  ⟨rfl, s.cluster_setCluster_same k x, fun _ h => s.cluster_setCluster_ne x h⟩

theorem OneCluster.refl (s : State) (k : Nat) : OneCluster s s k (s.cluster k) := ⟨rfl, rfl, fun _ _ => rfl⟩

theorem makes_railVote {s : State} {part : Nat} {k : BitVec 5} {r : Rail} {p : Part} (run : s.boot = .run) (hp : s.part part = some p) :
    (p.clusters.getLsbD k.toNat = false → Answered s (.railVote part k r) 2) ∧
    (p.clusters.getLsbD k.toNat = true → ∃ t q, Makes s (.railVote part k r) t ∧ q = { p with votes := q.votes } ∧
      OnePart { s with fwResp := response 0 [], fwBusy := false } t part q ∧ q.votes.find k = some r ∧ ∀ j, j ≠ k → q.votes.find j = p.votes.find j) := by
  have acts : Makes s (.railVote part k r) _ := (State.firmwareOn_acts run hp : execRailVote part k r s = _)
  refine ⟨fun other => ?_, fun own => ?_⟩
  · rwa [if_pos (by rw [other]; rfl)] at acts
  · rw [if_neg (by rw [own]; decide)] at acts
    exact ⟨_, _, acts, rfl, OnePart.putPart { s with fwResp := response 0 [], fwBusy := false } part { p with votes := p.votes.set k r },
      Tab.find_set_same .., fun _ h => Tab.find_set_ne _ _ h⟩

theorem outcome_vhi {s : State} {k : BitVec 5} :
    s.outcome k = .vhi ↔ s.emergency = .none ∧ ∃ np ∈ s.parts, np.2.votesFor k ∧ np.2.votes.find k = some .vhi := by
  have voters : (s.voters k.toNat).any (fun p => p.votes.find k == some .vhi) = true ↔
      ∃ np ∈ s.parts, np.2.votesFor k ∧ np.2.votes.find k = some .vhi := by
    simp [State.voters, Tab.vals, Part.votesFor, List.any_eq_true]
  unfold State.outcome
  rw [← voters]
  cases e : (s.emergency == .none && (s.voters k.toNat).any fun p => p.votes.find k == some .vhi)
  · simpa using e
  · simpa using e

theorem makes_railChange {s : State} {k : BitVec 5} (off : s.traceless) :
    ∃ t r, Makes s (.railChange k) t ∧ OneCluster s t k.toNat (let x := s.cluster k.toNat
        if x.rail = r then x else { x with rail := r, cycles := s.cyclesOf k.toNat, railSince := s.wall }) ∧
      (r = .vhi ↔ s.emergency = .none ∧ ∃ np ∈ s.parts, np.2.votesFor k ∧ np.2.votes.find k = some .vhi) := by
  by_cases same : (s.cluster k.toNat).rail = s.outcome k
  · refine ⟨s, s.outcome k, ?_, ?_, outcome_vhi⟩
    · simp [Makes, exec, execRailChange, same]
    · dsimp only
      rw [if_pos same]
      exact .refl s _
  · refine ⟨s.setCluster k.toNat { s.cluster k.toNat with rail := s.outcome k, cycles := s.cyclesOf k.toNat, railSince := s.wall }, s.outcome k,
      ?_, ?_, outcome_vhi⟩
    · simp only [Makes, exec, execRailChange]
      rw [if_neg (by simpa using same)]
      exact congrArg Host.Outcome.next (List.foldl_fixed' (fun p => State.trace_off (s := s.setCluster _ _) (off p.id) _ _ _ _ _) _)
    · dsimp only
      rw [if_neg same]
      exact .setCluster s _ _

theorem clusterIdle_iff {s : State} {k : Nat} : s.clusterIdle k = true ↔ (∀ x ∈ s.tasks, x.2.cluster = k → x.2.resident = false) ∧
    ∀ x ∈ s.warps, ∀ pl, x.2.place = some pl → pl.core.cluster ≠ k := by
  simp [State.clusterIdle, Tab.vals, List.all_eq_true, Option.all_eq_true, or_iff_not_imp_left]

theorem makes_powerGate {s : State} {k : BitVec 5} {gate : Bool} :
    (gate = true ∧ ¬ s.clusterIdle k.toNat = true → Makes s (.powerGate (.cluster k) gate) s) ∧
    (gate = false ∨ s.clusterIdle k.toNat = true → ∃ t, Makes s (.powerGate (.cluster k) gate) t ∧
      OneCluster s t k.toNat { s.cluster k.toNat with gated := gate }) := by
  refine ⟨fun ⟨on, busy⟩ => ?_, fun free => ?_⟩
  · simp [Makes, exec, execPowerGate, on, busy]
  · refine ⟨_, ?_, .setCluster s _ _⟩
    rcases free with off | idle
    · simp [Makes, exec, execPowerGate, off]
    · simp [Makes, exec, execPowerGate, idle]

/-- PWRCAP keeps its two fields and no other bit. -/
theorem pwrcap_fields (v : Word) : v &&& 0x07FF07FF = 0#5 ++ v.extractLsb' 16 11 ++ 0#5 ++ v.extractLsb' 0 11 := by
  refine BitVec.eq_of_getLsbD_eq fun i hi => ?_
  simp only [BitVec.getLsbD_and, BitVec.getLsbD_append, BitVec.getLsbD_extractLsb', BitVec.getLsbD_zero]
  interval_cases i <;> simp

theorem makes_fabricPortDown {s : State} {port : Nat} {down : Bool} (h : port < 18) :
    ∃ t, Makes s (.fabricPortDown port down) t ∧ t = { s with portsDown := t.portsDown } ∧
    t.portsDown.getLsbD port = down ∧ ∀ j, j ≠ port → t.portsDown.getLsbD j = s.portsDown.getLsbD j := by
  refine ⟨_, rfl, rfl, ?_, fun j hj => ?_⟩
  · cases down <;> simp [h]
  · have other : (BitVec.twoPow 18 port).getLsbD j = false := by simp [BitVec.getLsbD_twoPow, Ne.symm hj]
    cases down
    · by_cases inside : j < 18
      · simp only [Bool.false_eq_true, if_false, BitVec.getLsbD_and, BitVec.getLsbD_not, other, inside, decide_true, Bool.not_false, Bool.and_true]
      · rw [BitVec.getLsbD_of_ge _ _ (by omega), BitVec.getLsbD_of_ge _ _ (by omega)]
    · simp only [if_true, BitVec.getLsbD_or, other, Bool.or_false]

/-- Settles O40: a measurement charges meter by meter and then moves the controller; the other events and commands set the one
thing that they name. -/
theorem powerControl : Obligations.PowerControl := by
  unfold Obligations.PowerControl
  refine ⟨fun s watts ms untraced _ => ?_, fun s link v => ⟨?_, fun _ => rfl⟩, ⟨guarded_of fun _ _ => rfl, fun _ _ _ _ _ => makes_railVote⟩,
    fun s k untraced _ => makes_railChange untraced.traceless, fun s n gate => rfl, fun s k gate => ?_, fun _ _ _ => makes_fabricPortDown⟩
  · obtain ⟨ps, c, h, made, acts⟩ := makes_powerMeasurement s watts ms
    obtain ⟨only, stages⟩ := State.controlled_cases (s := { s with parts := ps, watts := (watts :: s.watts).take 2000 })
      (h.traceless untraced.traceless) watts
    rw [avgAbove_iff { s with parts := ps } watts] at stages
    have parts := measurement_charges h made (congrArg State.parts only)
    exact ⟨_, acts, only.trans (by rw [only]), parts.1, parts.2.1, parts.2.2.1, parts.2.2.2, stages⟩
  · exact congrArg (fun w => Host.Outcome.next { s with pwrcap := w }) (pwrcap_fields v)
  · have gates := makes_powerGate (s := s) (k := k) (gate := gate)
    rwa [clusterIdle_iff] at gates

end Sys2Proof.Machine
end

section
/-! SUPPORT. The registers of a front end's block, and the accesses of the host through BAR2. -/

namespace Sys2Proof.Machine

/-! ## One front end is set (10 R219) -/

theorem OneFront.setFe (s : State) (fe : BitVec 4) (f : FrontEnd) : OneFront s (s.setFe fe.toNat f) fe f :=
  ⟨rfl, s.fe_setFe_same fe.isLt f, fun _ h => s.fe_setFe_ne h f⟩

theorem ownsBlock_iff {s : State} {fn : Fn} {fe : BitVec 4} : s.ownsBlock fn fe.toNat = true ↔ s.owner fn fe := by
  cases fn with
  | pf link => simp [State.ownsBlock, State.owner]
  | vf link n =>
    simp only [State.ownsBlock, State.presents, State.owner, Bool.and_eq_true, beq_iff_eq, reduceCtorEq, exists_false, false_or, Fn.vf.injEq]
    constructor
    · rintro ⟨on, h⟩
      cases e : (s.fe fe.toNat).part.bind s.part with
      | none => rw [e] at h; cases h
      | some p =>
        rw [e] at h
        obtain ⟨part, hpart, hp⟩ := Option.bind_eq_some_iff.1 e
        exact ⟨link, n, part, p, ⟨rfl, rfl⟩, on, hpart, hp, List.contains_iff_mem.1 h⟩
    · rintro ⟨_, _, part, p, ⟨rfl, rfl⟩, on, hpart, hp, mem⟩
      refine ⟨on, ?_⟩
      rw [hpart, Option.bind_some, hp]
      exact List.contains_iff_mem.2 mem

theorem State.inBlock_other {s : State} {fn : Fn} {fe : BitVec 4} {f : State → State} (h : ¬ s.owner fn fe) : s.inBlock fn fe f = .next s := by
  unfold State.inBlock
  rw [if_neg (mt ownsBlock_iff.1 h)]

theorem State.inBlock_owner {s : State} {fn : Fn} {fe : BitVec 4} {f : State → State} (h : s.owner fn fe) : s.inBlock fn fe f = .next (f s) := by
  unfold State.inBlock
  rw [if_pos (ownsBlock_iff.2 h)]

theorem State.fe_congr {s t : State} (h : t.fes = s.fes) (n : Nat) : t.fe n = s.fe n := by
  unfold State.fe
  rw [h]

theorem State.irqFn_congr {s t : State} (h : t.vfLink = s.vfLink) (p : Part) : t.irqFn p = s.irqFn p := by
  unfold State.irqFn
  rw [h]

/-- With one front end set, an interrupt is posted. -/
theorem OneFront.posts {s u : State} {fe : BitVec 4} {f : FrontEnd} (h : OneFront s u fe f) (p : Part) :
    OneFront { s with irqs := s.irqs ++ [(s.irqFn p, fe.toNat)] } { u with irqs := u.irqs ++ [(u.irqFn p, fe.toNat)] } fe f := by
  obtain ⟨only, same, others⟩ := h
  have irqs : u.irqs = s.irqs := by rw [only]
  have fn : u.irqFn p = s.irqFn p := State.irqFn_congr (by rw [only]) p
  rw [irqs, fn]
  exact ⟨congrArg (fun v : State => { v with irqs := s.irqs ++ [(s.irqFn p, fe.toNat)] }) only, same, others⟩

theorem OneFront.part {s u : State} {fe : BitVec 4} {f : FrontEnd} (h : OneFront s u fe f) (n : Nat) : u.part n = s.part n := by
  rw [h.1]
  rfl

/-- A front end is set once more. -/
theorem OneFront.trans {s u t : State} {fe : BitVec 4} {f g : FrontEnd} (h : OneFront s u fe f) (k : OneFront u t fe g) : OneFront s t fe g := by
  refine ⟨k.1.trans ?_, k.2.1, fun n hn => (k.2.2 n hn).trans (h.2.2 n hn)⟩
  exact congrArg (fun v : State => { v with fes := t.fes }) h.1

/-! ## A queue that stops (10 R220, R221) -/

/-- The front end of a queue that has stopped. -/
def FrontEnd.stopped (f : FrontEnd) : FrontEnd := { f with qen := false, qerr := true }

/-- A front end of a partition stops: its interrupt is posted, or owed where a time-sliced partition has no room to hold it. -/
theorem State.stopFe_of {s : State} {fe part : Nat} {p : Part} (of : (s.fe fe).part = some part) (hp : s.part part = some p) :
    s.stopFe fe = if p.fxTight then (s.setFe fe (s.fe fe).stopped).setFe fe { (s.setFe fe (s.fe fe).stopped).fe fe with irqDue := true }
      else (s.setFe fe (s.fe fe).stopped).raiseMsix part fe := by
  have there : ∀ f, (s.setFe fe f).part part = some p := fun _ => hp
  unfold State.stopFe
  dsimp only
  split
  next q e =>
    obtain rfl : q = part := Option.some.inj (e.symm.trans of)
    rw [there]
    rfl
  next e => rw [e] at of; cases of

theorem State.raiseMsix_posts {s : State} {part fe : Nat} {p : Part} (hp : s.part part = some p) (whole : p.arg.sliced = false) :
    s.raiseMsix part fe = { s with irqs := s.irqs ++ [(s.irqFn p, fe)] } := by
  unfold State.raiseMsix
  rw [hp]
  exact if_neg (by rw [whole]; decide)

theorem State.raiseMsix_holds {s : State} {part fe : Nat} {p : Part} (hp : s.part part = some p) (sliced : p.arg.sliced = true) :
    s.raiseMsix part fe = s.putPart part { p with heldFx := p.heldFx ++ [.msix fe] } := by
  unfold State.raiseMsix
  rw [hp]
  exact if_pos sliced

theorem fxTight_whole {p : Part} (whole : p.arg.sliced = false) : p.fxTight = false := by
  unfold Part.fxTight
  rw [whole]
  rfl

/-- A front end of a partition that is not time-sliced stops, and posts its interrupt. -/
theorem State.stopFe_posts {s : State} {fe : BitVec 4} {part : Nat} {p : Part} (of : (s.fe fe.toNat).part = some part)
    (hp : s.part part = some p) (whole : p.arg.sliced = false) :
    OneFront { s with irqs := s.irqs ++ [(s.irqFn p, fe.toNat)] } (s.stopFe fe.toNat) fe (s.fe fe.toNat).stopped := by
  rw [State.stopFe_of of hp, fxTight_whole whole, if_neg (by decide)]
  have front := OneFront.setFe s fe (s.fe fe.toNat).stopped
  generalize s.setFe fe.toNat (s.fe fe.toNat).stopped = u at front
  rw [State.raiseMsix_posts ((front.part part).trans hp) whole]
  exact front.posts p

/-- A front end that is set, and then stops. -/
theorem OneFront.stops {s u : State} {fe : BitVec 4} {f : FrontEnd} (h : OneFront s u fe f) {part : Nat} {p : Part} (of : f.part = some part)
    (hp : s.part part = some p) (whole : p.arg.sliced = false) :
    OneFront { s with irqs := s.irqs ++ [(s.irqFn p, fe.toNat)] } (u.stopFe fe.toNat) fe f.stopped := by
  have stop := (h.posts p).trans (State.stopFe_posts (by rw [h.2.1]; exact of) ((h.part part).trans hp) whole)
  rwa [h.2.1] at stop

/-- One of a time-sliced partition holds its interrupt, or owes it where there is no room. -/
theorem State.stopFe_holds {s : State} {fe : BitVec 4} {part : Nat} {p : Part} (of : (s.fe fe.toNat).part = some part)
    (hp : s.part part = some p) (sliced : p.arg.sliced = true) :
    (p.fxTight = false → ∃ u, OneFront s u fe (s.fe fe.toNat).stopped ∧
      OnePart u (s.stopFe fe.toNat) part { p with heldFx := p.heldFx ++ [.msix fe.toNat] }) ∧
    (p.fxTight = true → OneFront s (s.stopFe fe.toNat) fe { (s.fe fe.toNat).stopped with irqDue := true }) := by
  rw [State.stopFe_of of hp]
  have front := OneFront.setFe s fe (s.fe fe.toNat).stopped
  generalize s.setFe fe.toNat (s.fe fe.toNat).stopped = u at front
  refine ⟨fun room => ⟨u, front, ?_⟩, fun tight => ?_⟩
  · rw [room, if_neg (by decide), State.raiseMsix_holds ((front.part part).trans hp) sliced]
    exact .putPart _ _ _
  · rw [if_pos tight, front.2.1]
    exact front.trans (.setFe u fe _)

/-! ## TAIL and QEN -/

theorem State.writeTail_of {s : State} {fe : BitVec 4} {v : Word} {part : Nat} {p : Part} (of : (s.fe fe.toNat).part = some part)
    (hp : s.part part = some p) :
    let f := { s.fe fe.toNat with tail := v, after := p.hostG }
    s.writeTail fe.toNat v = if f.qen && decide (2 ^ (f.qsize.toNat + 4) < (v - f.head).toNat) then (s.setFe fe.toNat f).stopFe fe.toNat
      else s.setFe fe.toNat f := by
  have there : (s.fe fe.toNat).part.bind s.part = some p := by rw [of, Option.bind_some, hp]
  unfold State.writeTail
  dsimp only
  generalize (s.fe fe.toNat).part.bind s.part = o at there
  subst there
  rfl

theorem makes_tailWrite {s : State} {fn : Fn} {fe : BitVec 4} {v : Word} {part : Nat} {p : Part} (own : s.owner fn fe)
    (of : (s.fe fe.toNat).part = some part) (hp : s.part part = some p) :
    let f := { s.fe fe.toNat with tail := v, after := p.hostG }
    let stopped := { f with qen := false, qerr := true }
    let long := f.qen = true ∧ 2 ^ (f.qsize.toNat + 4) < (v - f.head).toNat
    (¬ long → ∃ t, Makes s (.tailWrite ⟨fn, fe⟩ v) t ∧ OneFront s t fe f) ∧
    (long → p.arg.sliced = false → ∃ t, Makes s (.tailWrite ⟨fn, fe⟩ v) t ∧
      OneFront { s with irqs := s.irqs ++ [(s.irqFn p, fe.toNat)] } t fe stopped) ∧
    (long → p.arg.sliced = true → p.fxTight = false → ∃ t u, Makes s (.tailWrite ⟨fn, fe⟩ v) t ∧ OneFront s u fe stopped ∧
      OnePart u t part { p with heldFx := p.heldFx ++ [.msix fe.toNat] }) ∧
    (long → p.arg.sliced = true → p.fxTight = true → ∃ t, Makes s (.tailWrite ⟨fn, fe⟩ v) t ∧ OneFront s t fe { stopped with irqDue := true }) := by
  intro f stopped long
  have acts : Makes s (.tailWrite ⟨fn, fe⟩ v) (s.writeTail fe.toNat v) :=
    (State.inBlock_owner own : execTailWrite ⟨fn, fe⟩ v s = _)
  rw [State.writeTail_of of hp] at acts
  have front : OneFront s (s.setFe fe.toNat f) fe f := .setFe s fe f
  change Makes s _ (if f.qen && decide (2 ^ (f.qsize.toNat + 4) < (v - f.head).toNat) then (s.setFe fe.toNat f).stopFe fe.toNat else s.setFe fe.toNat f) at acts
  have of' : f.part = some part := of
  clear_value f
  generalize s.setFe fe.toNat f = u at front acts
  have hp' : u.part part = some p := (front.part part).trans hp
  rw [← front.2.1] at of'
  have stops : long → Makes s (.tailWrite ⟨fn, fe⟩ v) (u.stopFe fe.toNat) := by
    intro h
    rwa [if_pos (by simpa only [Bool.and_eq_true, decide_eq_true_eq] using h)] at acts
  refine ⟨fun fits => ⟨u, ?_, front⟩, fun h whole => ⟨_, stops h, ?_⟩, fun h sliced room => ?_, fun h sliced tight => ⟨_, stops h, ?_⟩⟩
  · rwa [if_neg (by simpa only [Bool.and_eq_true, decide_eq_true_eq] using fits)] at acts
  · exact front.stops (by rw [← front.2.1]; exact of') hp whole
  · obtain ⟨w, stop, held⟩ := (State.stopFe_holds of' hp' sliced).1 room
    rw [front.2.1] at stop
    exact ⟨_, w, stops h, front.trans stop, held⟩
  · have stop := front.trans ((State.stopFe_holds of' hp' sliced).2 tight)
    rwa [front.2.1] at stop

theorem State.writeQen_on {s : State} {fe : BitVec 4} {v : Word} (on : v.getLsbD 0 = true) (off : (s.fe fe.toNat).qen = false) :
    let q := v.extractLsb' 12 4
    let u := (s.setFe fe.toNat { s.fe fe.toNat with qsize := q, qen := true, qerr := false, head := 0, tail := 0 }).forgetHead fe.toNat
    s.writeQen fe.toNat v = if q.toNat < 12 then u else u.stopFe fe.toNat := by
  unfold State.writeQen
  dsimp only
  rw [if_pos (by rw [on, off]; rfl)]
  by_cases size : (v.extractLsb' 12 4).toNat < 12
  · rw [if_neg (by omega), if_pos size]
  · rw [if_pos (by omega), if_neg size]

theorem State.writeQen_keep {s : State} {fe : BitVec 4} {v : Word} (keep : v.getLsbD 0 = false ∨ (s.fe fe.toNat).qen = true) :
    let q := v.extractLsb' 12 4
    let u := s.setFe fe.toNat { s.fe fe.toNat with qsize := q, qen := v.getLsbD 0 }
    s.writeQen fe.toNat v = if v.getLsbD 0 = true ∧ 12 ≤ q.toNat then u.stopFe fe.toNat else u := by
  unfold State.writeQen
  dsimp only
  rw [if_neg]
  · simp only [Bool.and_eq_true, decide_eq_true_eq]
  · rcases keep with e | e <;> rw [e] <;> simp

/-- Without a checkpoint there is no head of a front end to forget. -/
theorem OneFront.forgetHead {s u : State} {fe : BitVec 4} {f : FrontEnd} (h : OneFront s u fe f) {part : Nat} {p : Part} (of : f.part = some part)
    (hp : s.part part = some p) (image : p.image = none) :
    OneFront { s with parts := (u.forgetHead fe.toNat).parts } (u.forgetHead fe.toNat) fe f ∧ ∀ n, (u.forgetHead fe.toNat).part n = s.part n := by
  have there : u.part part = some p := (h.part part).trans hp
  have made : u.forgetHead fe.toNat = u.putPart part p := by
    unfold State.forgetHead State.onPart
    rw [h.2.1, of]
    dsimp only
    rw [there]
    dsimp only
    rw [image]
    exact congrArg (fun im => u.putPart part { p with image := im }) image.symm
  rw [made]
  refine ⟨⟨congrArg (fun v : State => { v with parts := (u.putPart part p).parts }) h.1, h.2.1, h.2.2⟩, fun n => ?_⟩
  by_cases e : n = part
  · subst e
    rw [State.part_putPart_same, hp]
  · rw [State.part_putPart_ne _ _ e, h.part]

theorem makes_qenWrite {s : State} {fn : Fn} {fe : BitVec 4} {v : Word} (own : s.owner fn fe) :
    let f := s.fe fe.toNat
    let q := v.extractLsb' 12 4
    (v.getLsbD 0 = false ∨ f.qen = true ∧ q.toNat < 12 → ∃ t, Makes s (.qenWrite ⟨fn, fe⟩ v) t ∧ OneFront s t fe { f with qsize := q, qen := v.getLsbD 0 }) ∧
    (∀ part p, v.getLsbD 0 = true → f.qen = true → 12 ≤ q.toNat → f.part = some part → s.part part = some p → p.arg.sliced = false →
      ∃ t, Makes s (.qenWrite ⟨fn, fe⟩ v) t ∧
        OneFront { s with irqs := s.irqs ++ [(s.irqFn p, fe.toNat)] } t fe
          { f with qsize := q, qen := false, qerr := true }) ∧
    ∀ part p, v.getLsbD 0 = true → f.qen = false → f.part = some part → s.part part = some p → p.arg.sliced = false → p.image = none →
      ∃ t, Makes s (.qenWrite ⟨fn, fe⟩ v) t ∧
        if q.toNat < 12 then OneFront { s with parts := t.parts } t fe { f with qsize := q, qen := true, qerr := false, head := 0, tail := 0 } ∧
          ∀ n, t.part n = s.part n
        else t.irqs = s.irqs ++ [(s.irqFn p, fe.toNat)] ∧
          OneFront { s with parts := t.parts, irqs := t.irqs } t fe { f with qsize := q, qen := false, qerr := true, head := 0, tail := 0 } ∧
          ∀ n, t.part n = s.part n := by
  intro f q
  have acts : Makes s (.qenWrite ⟨fn, fe⟩ v) (s.writeQen fe.toNat v) :=
    (State.inBlock_owner own : execQenWrite ⟨fn, fe⟩ v s = _)
  refine ⟨fun keep => ⟨_, acts, ?_⟩, fun part p on was size of hp whole => ⟨_, acts, ?_⟩, fun part p on off of hp whole image => ⟨_, acts, ?_⟩⟩
  · rw [State.writeQen_keep (keep.imp_right And.left), if_neg]
    · exact .setFe s fe _
    · rintro ⟨on, size⟩
      rcases keep with e | ⟨-, e⟩
      · exact absurd (e.symm.trans on) (by decide)
      · exact Nat.not_lt.2 size e
  · rw [State.writeQen_keep (.inr was), if_pos ⟨on, size⟩]
    have front : OneFront s (s.setFe fe.toNat { f with qsize := q, qen := v.getLsbD 0 }) fe { f with qsize := q, qen := v.getLsbD 0 } :=
      .setFe s fe _
    exact front.stops of hp whole
  · rw [State.writeQen_on on off]
    have front : OneFront s (s.setFe fe.toNat { f with qsize := q, qen := true, qerr := false, head := 0, tail := 0 }) fe
        { f with qsize := q, qen := true, qerr := false, head := 0, tail := 0 } := .setFe s fe _
    obtain ⟨begun, same⟩ := front.forgetHead of hp image
    generalize (s.setFe fe.toNat { f with qsize := q, qen := true, qerr := false, head := 0, tail := 0 }).forgetHead fe.toNat = u at begun same
    change if q.toNat < 12 then _ else _
    by_cases size : q.toNat < 12
    · rw [if_pos size, if_pos size]
      exact ⟨begun, same⟩
    · rw [if_neg size, if_neg size]
      have there : State.part { s with parts := u.parts } part = some p := (same part).trans hp
      have stop := begun.stops of there whole
      generalize u.stopFe fe.toNat = t at stop
      have parts : t.parts = u.parts := by rw [stop.1]
      have irqs : t.irqs = s.irqs ++ [(s.irqFn p, fe.toNat)] := by
        rw [stop.1]
        exact congrArg (fun x => s.irqs ++ [(x, fe.toNat)]) (State.irqFn_congr (s := s) (t := { s with parts := u.parts }) rfl p)
      refine ⟨irqs, ?_, fun n => ?_⟩
      · rw [parts, irqs]
        exact stop
      · rw [State.part, parts]
        exact same n

theorem makes_cheadWrite {s : State} {fn : Fn} {fe : BitVec 4} {v : Word} (own : s.owner fn fe)
    (whole : ∀ j ∈ s.jobs, ∃ x ∈ s.tasks, x.2.job = j.2.id) :
    ∃ t, Makes s (.cheadWrite ⟨fn, fe⟩ v) t ∧ OneFront s t fe { s.fe fe.toNat with chead := v } := by
  have acts : Makes s (.cheadWrite ⟨fn, fe⟩ v) (s.writeChead fe.toNat v) :=
    (State.inBlock_owner own : execCheadWrite ⟨fn, fe⟩ v s = _)
  rw [State.writeChead, State.endJobs_idle (s := s.setFe _ _) whole] at acts
  exact ⟨_, acts, .setFe s fe _⟩

/-! ## BAR2 is read (10 R218) -/

theorem behind_iff {s : State} {fn : Fn} {p : Option Part} : s.behind fn p ↔ p = s.fnPart fn := by
  cases fn with
  | pf link => rfl
  | vf link n =>
    simp only [State.behind, State.fnPart, State.presents, beq_iff_eq]

/-- A byte of a home's line at which no switch stands is the byte that the memory holds. -/
theorem homeView_byte {s : State} {dev t : Nat} (sw : (s.lineInfo (dev / 128)).sw = none) :
    ((s.homeView (dev / 128) t).read [] none dev 1).bytes = [s.hbm.mem.byte dev] := by
  have inside : dev % 128 < 128 := Nat.mod_lt _ (by omega)
  unfold State.homeView
  rw [sw]
  simp only [LineView.read, State.homeNow, List.filter_nil, List.foldl_nil, List.range_one, List.map_cons, List.map_nil, Nat.add_zero]
  rw [Memory.getD_bytes _ inside, Nat.div_add_mod]

/-- What BAR2 has given of the first `n` bytes. -/
structure ReadOf (s t : State) (p : Option Part) (pa n : Nat) : Prop where
  only : t = { s with hostData := t.hostData, draws := t.draws }
  length : t.hostData.length = n
  free : p = none → t.draws = s.draws + n ∧ ∀ i, i < n → t.hostData.getD i 0 = (Config.freeValue (s.draws + i)).setWidth 8
  mapped : ∀ q i dev, p = some q → i < n → q.phys (pa + i) = some dev → (s.lineInfo (dev / 128)).sw = none →
    t.hostData.getD i 0 = s.hbm.mem.byte dev

/-- BAR2 gives the next byte. -/
def State.bar2Byte (t : State) (p : Option Part) (pa i : Nat) : State :=
  match p.bind (fun p => (p.phys (pa + i)).map (fun dev => (t.homeView (dev / 128) (t.homeTime p (dev / 128))).read [] none dev 1)) with
  | some v => { t with hostData := t.hostData ++ v.bytes }
  | none => let (x, u) := t.draw; { u with hostData := u.hostData ++ [x.setWidth 8] }

theorem State.bar2Read_eq (s : State) (p : Option Part) (pa n : Nat) :
    s.bar2Read p pa n = (List.range n).foldl (fun t i => t.bar2Byte p pa i) { s with hostData := [] } := rfl

theorem State.bar2Byte_unmapped {t : State} {p : Option Part} {pa i : Nat} (h : ∀ q, p = some q → q.phys (pa + i) = none) :
    t.bar2Byte p pa i = { t with draws := t.draws + 1, hostData := t.hostData ++ [(Config.freeValue t.draws).setWidth 8] } := by
  unfold State.bar2Byte
  cases p with
  | none => rfl
  | some q => rw [Option.bind_some, h q rfl]; rfl

theorem State.bar2Byte_mapped {t : State} {q : Part} {pa i dev : Nat} (h : q.phys (pa + i) = some dev) :
    ∃ b, t.bar2Byte (some q) pa i = { t with hostData := t.hostData ++ [b] } ∧
      ((t.lineInfo (dev / 128)).sw = none → b = t.hbm.mem.byte dev) := by
  obtain ⟨b, hb⟩ : ∃ b, ((t.homeView (dev / 128) (t.homeTime q (dev / 128))).read [] none dev 1).bytes = [b] :=
    List.length_eq_one_iff.1 (by simp [LineView.read])
  refine ⟨b, ?_, fun sw => ?_⟩
  · unfold State.bar2Byte
    rw [Option.bind_some, h, ← hb]
    rfl
  · rw [homeView_byte sw] at hb
    exact (List.singleton_inj.1 hb).symm

/-- One byte more is read. -/
theorem ReadOf.step {s t : State} {p : Option Part} {pa n : Nat} (h : ReadOf s t p pa n) : ReadOf s (t.bar2Byte p pa n) p pa (n + 1) := by
  obtain ⟨only, length, free, mapped⟩ := h
  have before : ∀ {i b}, i < n → (t.hostData ++ [b]).getD i 0 = t.hostData.getD i 0 := fun hi => List.getD_append _ _ _ _ (by omega)
  have last : ∀ {b}, (t.hostData ++ [b]).getD n 0 = b := by
    intro b
    rw [List.getD_append_right _ _ _ _ (by omega), length, Nat.sub_self]
    rfl
  by_cases there : ∃ q dev, p = some q ∧ q.phys (pa + n) = some dev
  · obtain ⟨q, dev, rfl, hdev⟩ := there
    obtain ⟨b, made, byte⟩ := State.bar2Byte_mapped (t := t) hdev
    rw [made]
    refine ⟨congrArg (fun u : State => { u with hostData := t.hostData ++ [b] }) only, by simp [length], nofun, fun q' i d e hi hd sw => ?_⟩
    cases e
    obtain lt | rfl := Nat.lt_succ_iff_lt_or_eq.1 hi
    · exact (before lt).trans (mapped _ i d rfl lt hd sw)
    · obtain rfl : d = dev := Option.some.inj (hd.symm.trans hdev)
      have sw' : (t.lineInfo (d / 128)).sw = none := by rw [only]; exact sw
      rw [last, byte sw', only]
  · have nowhere : ∀ q, p = some q → q.phys (pa + n) = none := fun q e =>
      Option.eq_none_iff_forall_ne_some.2 fun dev hd => there ⟨q, dev, e, hd⟩
    rw [State.bar2Byte_unmapped nowhere]
    refine ⟨?_, by simp [length], fun e => ?_, fun q i d e hi hd sw => ?_⟩
    · exact congrArg (fun u : State => { u with draws := t.draws + 1, hostData := t.hostData ++ [(Config.freeValue t.draws).setWidth 8] }) only
    · obtain ⟨draws, bytes⟩ := free e
      refine ⟨by rw [draws]; rfl, fun i hi => ?_⟩
      obtain lt | rfl := Nat.lt_succ_iff_lt_or_eq.1 hi
      · exact (before lt).trans (bytes i lt)
      · rw [last, draws]
    · obtain lt | rfl := Nat.lt_succ_iff_lt_or_eq.1 hi
      · exact (before lt).trans (mapped q i d e lt hd sw)
      · rw [nowhere q e] at hd
        cases hd

theorem State.bar2Read_reads (s : State) (p : Option Part) (pa n : Nat) : ReadOf s (s.bar2Read p pa n) p pa n := by
  rw [State.bar2Read_eq]
  induction n with
  | zero => exact ⟨rfl, rfl, fun _ => ⟨rfl, nofun⟩, fun _ _ _ _ h => absurd h (Nat.not_lt_zero _)⟩
  | succ n ih =>
    rw [List.range_succ, List.foldl_append]
    exact ih.step

/-! ## BAR2 is written -/

/-- The units of a partition are apart. -/
def Part.unitsApart (p : Part) : Prop := ∀ x ∈ p.units, ∀ y ∈ p.units, x.2 = y.2 → x = y

/-- Within a line addresses of the device run as those of the partition do. -/
theorem Part.phys_line {p : Part} {a b dev : Nat} (h : p.phys a = some dev) (line : a / 128 = b / 128) (le : a ≤ b) : p.phys b = some (dev + (b - a)) := by
  obtain ⟨u, hu, rfl⟩ := Option.map_eq_some_iff.1 h
  have unit : b / 2 ^ 30 = a / 2 ^ 30 := by omega
  rw [Part.phys, unit, hu, Option.map_some]
  exact congrArg some (by omega)

theorem Part.phys_line_none {p : Part} {a b : Nat} (h : p.phys a = none) (line : a / 128 = b / 128) : p.phys b = none := by
  have unit : b / 2 ^ 30 = a / 2 ^ 30 := by omega
  rw [Part.phys, Option.map_eq_none_iff] at h
  rw [Part.phys, unit, h, Option.map_none]

/-- Two addresses of a partition whose units are apart are of two bytes of the device. -/
theorem Part.unitsApart.phys_inj {p : Part} (apart : p.unitsApart) {a b d : Nat} (ha : p.phys a = some d) (hb : p.phys b = some d) : a = b := by
  obtain ⟨u, hu, eu⟩ := Option.map_eq_some_iff.1 ha
  obtain ⟨v, hv, ev⟩ := Option.map_eq_some_iff.1 hb
  obtain rfl : u = v := by omega
  have same := congrArg Prod.fst (apart _ (Tab.mem_of_find hu) _ (Tab.mem_of_find hv) rfl)
  dsimp only at same
  omega

/-- What a BAR2 write does of one line. -/
def State.bar2Line (s : State) (p : Part) (pa : Nat) (bs : List Byte) (l : Nat) : State :=
  let lo := max pa (128 * l)
  let hi := min (pa + bs.length) (128 * l + 128)
  match p.phys lo with
  | some dev =>
    let (s, g) := s.homeStore p.id dev ((bs.drop (lo - pa)).take (hi - lo)) none (s.homeTime p (dev / 128))
    s.onPart p.id (fun p => { p with hostG := joinHzn p.hostG g })
  | none => s

theorem State.bar2Write_eq (s : State) (p : Part) (pa : Nat) (bs : List Byte) :
    s.bar2Write p pa bs = (blocks 128 pa bs.length).foldl (fun s l => s.bar2Line p pa bs l) s := rfl

/-- Lines of a BAR2 write have been written: only memory and the lines' marks have changed. -/
structure HostWrote (s t : State) : Prop where
  only : t = { s with hbm := t.hbm, lines := t.lines, parts := t.parts }
  wf : t.hbm.mem.wf = true

theorem HostWrote.trans {s t u : State} (h : HostWrote s t) (k : HostWrote t u) : HostWrote s u :=
  ⟨k.only.trans (congrArg (fun v : State => { v with hbm := u.hbm, lines := u.lines, parts := u.parts }) h.only), k.wf⟩

/-- A byte of the write at an address of the line. -/
def inLine (pa l i : Nat) : Prop := (pa + i) / 128 = l

theorem State.bar2Line_writes {s : State} (wf : s.hbm.mem.wf = true) (p : Part) (pa : Nat) (bs : List Byte) (l : Nat) :
    HostWrote s (s.bar2Line p pa bs l) ∧
    (∀ i d, i < bs.length → inLine pa l i → p.phys (pa + i) = some d → (s.bar2Line p pa bs l).hbm.mem.byte d = bs.getD i 0) ∧
    ∀ d, (∀ i, i < bs.length → inLine pa l i → p.phys (pa + i) ≠ some d) → (s.bar2Line p pa bs l).hbm.mem.byte d = s.hbm.mem.byte d := by
  obtain ⟨lo, hlo⟩ : ∃ lo, lo = max pa (128 * l) := ⟨_, rfl⟩
  obtain ⟨hi, hhi⟩ : ∃ hi, hi = min (pa + bs.length) (128 * l + 128) := ⟨_, rfl⟩
  have first : ∀ i, i < bs.length → inLine pa l i → lo ≤ pa + i ∧ pa + i < hi ∧ lo / 128 = (pa + i) / 128 := by
    intro i hi il
    unfold inLine at il
    omega
  cases e : p.phys lo with
  | none =>
    have made : s.bar2Line p pa bs l = s := by
      unfold State.bar2Line
      rw [← hlo]
      dsimp only
      rw [e]
    rw [made]
    refine ⟨⟨rfl, wf⟩, fun i d hi il hd => ?_, fun _ _ => rfl⟩
    rw [Part.phys_line_none e (first i hi il).2.2] at hd
    cases hd
  | some dev =>
    obtain ⟨cut, hcut⟩ : ∃ cut, cut = (bs.drop (lo - pa)).take (hi - lo) := ⟨_, rfl⟩
    obtain ⟨stored, -⟩ := s.homeStore_only p.id dev cut none (s.homeTime p (dev / 128)) false
    have made : ∃ g, s.bar2Line p pa bs l = (s.homeStore p.id dev cut none (s.homeTime p (dev / 128)) false).1.onPart p.id g := by
      unfold State.bar2Line
      rw [← hlo, ← hhi]
      dsimp only
      rw [e, ← hcut]
      exact ⟨_, rfl⟩
    obtain ⟨g, made⟩ := made
    rw [made, State.onPart_only]
    generalize (s.homeStore p.id dev cut none (s.homeTime p (dev / 128)) false).1 = u at stored
    have mem : u.hbm.mem = s.hbm.mem.putAll dev cut := by rw [stored]; rfl
    have byte : ∀ d, u.hbm.mem.byte d = if dev ≤ d ∧ d < dev + cut.length then cut.getD (d - dev) 0 else s.hbm.mem.byte d :=
      fun d => by rw [mem, Memory.byte_putAll wf]
    have length : cut.length = min (hi - lo) (bs.length - (lo - pa)) := by simp [hcut]
    have entry : ∀ j, j < cut.length → cut.getD j 0 = bs.getD (lo - pa + j) 0 := by
      intro j hj
      rw [hcut, List.getD_eq_getElem?_getD, List.getElem?_take_of_lt (by omega), List.getElem?_drop, ← List.getD_eq_getElem?_getD]
    refine ⟨⟨?_, ?_⟩, fun i d hi il hd => ?_, fun d away => ?_⟩
    · rw [stored]
    · exact (congrArg Memory.wf mem).trans (Memory.putAll_wf wf)
    · obtain ⟨le, lt, line⟩ := first i hi il
      obtain rfl : dev + (pa + i - lo) = d := Option.some.inj ((Part.phys_line e line le).symm.trans hd)
      have off : dev + (pa + i - lo) - dev = i - (lo - pa) := by omega
      have back : lo - pa + (i - (lo - pa)) = i := by omega
      refine (byte _).trans ?_
      rw [if_pos (by omega), off, entry _ (by omega), back]
    · refine (byte d).trans (if_neg fun within => ?_)
      have here : inLine pa l (lo - pa + (d - dev)) := by unfold inLine; omega
      refine away (lo - pa + (d - dev)) (by omega) here ?_
      rw [Part.phys_line e (by unfold inLine at here; omega) (by omega)]
      exact congrArg some (by omega)

/-- The lines of a BAR2 write, one after another: a byte of the device that no address of theirs names stays, and one that an address
of theirs names has its byte. -/
theorem State.bar2Lines_write {p : Part} (apart : p.unitsApart) (pa : Nat) (bs : List Byte) : ∀ (ls : List Nat) {s : State}, s.hbm.mem.wf = true →
    HostWrote s (ls.foldl (fun s l => s.bar2Line p pa bs l) s) ∧
    (∀ i d, i < bs.length → (pa + i) / 128 ∈ ls → p.phys (pa + i) = some d →
      (ls.foldl (fun s l => s.bar2Line p pa bs l) s).hbm.mem.byte d = bs.getD i 0) ∧
    ∀ d, (∀ i, i < bs.length → (pa + i) / 128 ∈ ls → p.phys (pa + i) ≠ some d) →
      (ls.foldl (fun s l => s.bar2Line p pa bs l) s).hbm.mem.byte d = s.hbm.mem.byte d := by
  intro ls
  induction ls with
  | nil => exact fun wf => ⟨⟨rfl, wf⟩, fun _ _ _ h => absurd h List.not_mem_nil, fun _ _ => rfl⟩
  | cons l ls ih =>
    intro s wf
    obtain ⟨one, hits, misses⟩ := s.bar2Line_writes wf p pa bs l
    obtain ⟨rest, later, stays⟩ := ih one.wf
    rw [List.foldl_cons]
    refine ⟨one.trans rest, fun i d hi il hd => ?_, fun d away => ?_⟩
    · by_cases again : (pa + i) / 128 ∈ ls
      · exact later i d hi again hd
      · have here : inLine pa l i := (List.mem_cons.1 il).resolve_right again
        refine (stays d fun j hj jl jd => again ?_).trans (hits i d hi here hd)
        exact apart.phys_inj hd jd ▸ jl
    · have off := misses d fun i hi il => away i hi (List.mem_cons.2 (Or.inl il))
      exact (stays d fun i hi il => away i hi (List.mem_cons_of_mem l il)).trans off

/-- A BAR2 write lands, byte for byte, where the partition's units are. -/
theorem State.bar2Write_writes {s : State} {p : Part} (apart : p.unitsApart) (wf : s.hbm.mem.wf = true) (pa : Nat) (bs : List Byte) :
    HostWrote s (s.bar2Write p pa bs) ∧
    ∀ d, (s.bar2Write p pa bs).hbm.mem.byte d = match (List.range bs.length).find? (fun i => p.phys (pa + i) == some d) with
      | some i => bs.getD i 0 | none => s.hbm.mem.byte d := by
  obtain ⟨only, hits, misses⟩ := State.bar2Lines_write apart pa bs (blocks 128 pa bs.length) wf
  rw [State.bar2Write_eq]
  refine ⟨only, fun d => ?_⟩
  cases e : (List.range bs.length).find? (fun i => p.phys (pa + i) == some d) with
  | some i =>
    have hi : i < bs.length := List.mem_range.1 (List.mem_of_find?_eq_some e)
    have hd : p.phys (pa + i) = some d := beq_iff_eq.1 (List.find?_some (p := fun i => p.phys (pa + i) == some d) e)
    exact hits i d hi (mem_blocks.2 ⟨by omega, by omega, by omega⟩) hd
  | none =>
    refine misses d fun i hi _ hd => ?_
    exact List.find?_eq_none.1 e i (List.mem_range.2 hi) (beq_iff_eq.2 hd)

theorem makes_bar2Write {s : State} {fn : Fn} {pa len : Nat} {p : Part} {bs : List Byte} (shows : s.behind fn (some p)) (memOk : s.memOk = true)
    (calm : s.unwatched) (apart : p.unitsApart) :
    ∃ t, Makes s (.hostBar2Access fn pa (some bs) len) t ∧
      t = { s with hbm := t.hbm, lines := t.lines, copies := t.copies, parts := t.parts, fresh := t.fresh, draws := t.draws } ∧
      ∀ d, t.hbm.mem.byte d = match (List.range bs.length).find? (fun i => p.phys (pa + i) == some d) with
        | some i => bs.getD i 0 | none => s.hbm.mem.byte d := by
  obtain ⟨wrote, byte⟩ := State.bar2Write_writes apart (State.memOk_hbm memOk) (s := s) pa bs
  have idle : (s.bar2Write p pa bs).watch = s.bar2Write p pa bs := by
    refine State.watch_idle fun kw hkw => ?_
    rw [wrote.only] at hkw
    exact calm kw hkw
  refine ⟨_, ?_, ?_, byte⟩
  · rw [← idle]
    have fnPart := behind_iff.1 shows
    show execHostBar2Access fn pa (some bs) len s = _
    unfold execHostBar2Access
    rw [← fnPart]
  · rw [wrote.only]

end Sys2Proof.Machine
end

section
/-! O46 -/

namespace Sys2Proof.Machine

/-- A function that does not own the block changes nothing with a write of one of its registers. -/
theorem makes_inBlock_other {s : State} {fn : Fn} {fe : BitVec 4} {v : Word} (other : ¬ s.owner fn fe) :
    Makes s (.tailWrite ⟨fn, fe⟩ v) s ∧ Makes s (.qenWrite ⟨fn, fe⟩ v) s ∧ Makes s (.cheadWrite ⟨fn, fe⟩ v) s :=
  ⟨(State.inBlock_other other : execTailWrite ⟨fn, fe⟩ v s = _), (State.inBlock_other other : execQenWrite ⟨fn, fe⟩ v s = _),
    (State.inBlock_other other : execCheadWrite ⟨fn, fe⟩ v s = _)⟩

theorem makes_bar2Write_unmapped {s : State} {fn : Fn} {pa len : Nat} {bs : List Byte} (shows : s.behind fn none) :
    Makes s (.hostBar2Access fn pa (some bs) len) s := by
  show execHostBar2Access fn pa (some bs) len s = _
  unfold execHostBar2Access
  rw [← behind_iff.1 shows]

theorem makes_bar2Read {s : State} {fn : Fn} {pa len : Nat} {p : Option Part} (shows : s.behind fn p) :
    ∃ t, Makes s (.hostBar2Access fn pa none len) t ∧ ReadOf s t p pa len :=
  ⟨_, rfl, behind_iff.1 shows ▸ s.bar2Read_reads p pa len⟩

/-- Settles O46: each register's write by the function that owns the block, and by one that does not; BAR2 line by line. -/
theorem frontEndRegisters : Obligations.FrontEndRegisters := by
  unfold Obligations.FrontEndRegisters
  refine ⟨fun _ _ _ _ => makes_inBlock_other, fun _ _ _ _ _ _ own of hp _ => makes_tailWrite own of hp, fun _ _ _ _ => makes_qenWrite,
    fun _ _ _ _ => makes_cheadWrite, fun _ _ _ _ _ => makes_bar2Write_unmapped, fun s fn pa len p shows => ?_,
    fun _ _ _ _ _ _ shows _ memOk calm _ apart => makes_bar2Write shows memOk calm apart⟩
  obtain ⟨t, made, only, length, free, mapped⟩ := makes_bar2Read (pa := pa) (len := len) shows
  exact ⟨t, made, only, length, fun none => (free none).2, mapped⟩

end Sys2Proof.Machine
end

section
/-! SUPPORT. Contexts, and the debug agent's release of a group. -/

namespace Sys2Proof.Machine

/-! ## Contexts (10 R231) -/

/-- Where no entry of the context watches a word, nothing is translated anew. -/
theorem State.retranslate_idle {s : State} {part : Nat} {c : BitVec 6} (h : s.watchless part c) (ranges : Option (List (Nat × Nat))) :
    s.retranslate part c ranges = s := by
  unfold State.retranslate
  refine List.foldlRecOn (motive := (· = s)) _ _ rfl fun t e w hw => ?_
  obtain ⟨there, mine⟩ := List.mem_filter.1 hw
  obtain ⟨k, hk⟩ := Tab.mem_vals.1 there
  obtain ⟨part', ctx'⟩ := Bool.and_eq_true_iff.1 mine
  have none : w.queue.filter (fun e => e.space == .glob && e.watches) = [] := by
    refine List.filter_eq_nil_iff.2 fun x hx watches => ?_
    have kind := h _ hk (beq_iff_eq.1 part') (beq_iff_eq.1 ctx') x hx
    unfold Entry.watches at watches
    split at watches
    next q e => exact kind q e
    next => simp at watches
  rw [none]
  exact e

theorem State.shootdown_all {s : State} {part : Nat} {p : Part} (hp : s.part part = some p) (c : BitVec 6) :
    s.shootdown part c none = s.putPart part { p with tlb := p.tlb.filter (fun e => e.ctx != c) } := by
  rw [State.shootdown, State.onPart_eq hp]
  simp only [Bool.and_true]
  rfl

/-- The arguments of CTXSET are sound. -/
def ctxGood (ctx pinq : Nat) (root hentry : DWord) : Prop :=
  ctx < 64 ∧ root.toNat % 8192 = 0 ∧ pinq ≤ 2 ^ 20 ∧ hentry.toNat % 64 = 0 ∧ hentry.toNat < 2 ^ 57

theorem ctxGood_iff {ctx pinq : Nat} {root hentry : DWord} : ctxGood ctx pinq root hentry ↔
    (decide (63 < ctx) || root.toNat % 8192 != 0 || decide (2 ^ 20 < pinq) || hentry.toNat % 64 != 0 || decide (2 ^ 57 ≤ hentry.toNat)) = false := by
  simp only [ctxGood, Bool.or_eq_false_iff, decide_eq_false_iff_not, bne_eq_false_iff_eq, and_assoc]
  omega

theorem makes_ctxset {s : State} {part ctx pinq : Nat} {root hentry : DWord} {p : Part} (run : s.boot = .run) (hp : s.part part = some p) :
    (¬ ctxGood ctx pinq root hentry → Answered s (.ctxset part ctx root pinq hentry) 2) ∧
    (ctxGood ctx pinq root hentry → s.translating part (BitVec.ofNat 6 ctx) none = true → Waits s (.ctxset part ctx root pinq hentry)) ∧
    (ctxGood ctx pinq root hentry → s.translating part (BitVec.ofNat 6 ctx) none = false → s.watchless part (BitVec.ofNat 6 ctx) →
      Makes s (.ctxset part ctx root pinq hentry) (({ s with fwResp := response 0 [], fwBusy := false } : State).putPart part
        { p with
          tlb := p.tlb.filter (fun e => e.ctx != BitVec.ofNat 6 ctx)
          ctxs := p.ctxs.set (BitVec.ofNat 6 ctx)
            { (p.ctxs.find (BitVec.ofNat 6 ctx)).getD ⟨0, 0, 0, 0, 0⟩ with root := root, pinq := pinq, hentry := hentry } })) := by
  have acts : Makes s (.ctxset part ctx root pinq hentry) _ := (State.firmwareOn_acts run hp : execCtxset part ctx root pinq hentry s = _)
  refine ⟨fun bad => ?_, fun good stands => ?_, fun good free calm => ?_⟩
  · rwa [if_pos (Bool.of_not_eq_false fun e => bad (ctxGood_iff.2 e))] at acts
  · rwa [if_neg (by rw [ctxGood_iff.1 good]; exact Bool.false_ne_true), if_pos stands] at acts
  · rw [if_neg (by rw [ctxGood_iff.1 good]; exact Bool.false_ne_true), if_neg (by rw [free]; exact Bool.false_ne_true)] at acts
    dsimp only at acts
    rw [State.shootdown_all (State.part_putPart_same ..), State.retranslate_idle (by exact calm)] at acts
    refine Eq.trans acts ?_
    unfold State.putPart State.fwAnswer
    simp only [Tab.set_set]

/-- No line of a partition is pinned by a context. -/
def State.unpinned (s : State) (part : Nat) (c : BitVec 6) : State :=
  { s with l2 := s.l2.map (fun l => if l.part == part then { l with pins := l.pins.filter (· != c) } else l) }

theorem State.unpinned_putPart (s : State) (part : Nat) (c : BitVec 6) (n : Nat) (p : Part) :
    (s.putPart n p).unpinned part c = (s.unpinned part c).putPart n p := rfl

theorem makes_ctxdel {s : State} {part ctx : Nat} {p : Part} (run : s.boot = .run) (hp : s.part part = some p) :
    let c := BitVec.ofNat 6 ctx
    let good := ctx < 64 ∧ p.ctxs.find c ≠ none ∧ ∀ n, n < 16 → (s.fe n).part = some part → (s.fe n).ctx ≠ c
    (¬ good → Answered s (.ctxdel part ctx) 2) ∧
    (good → s.translating part c none = true → Waits s (.ctxdel part ctx)) ∧
    (good → s.translating part c none = false → s.watchless part c →
      Makes s (.ctxdel part ctx) (({ s with
          fwResp := response 0 [], fwBusy := false
          l2 := s.l2.map (fun l => if l.part = part then { l with pins := l.pins.filter (· != c) } else l) } : State).putPart part
        { p with tlb := p.tlb.filter (fun e => e.ctx != c), ctxs := p.ctxs.del c })) := by
  intro c good
  have acts : Makes s (.ctxdel part ctx) _ := (State.firmwareOn_acts run hp : execCtxdel part ctx s = _)
  have bad : (decide (63 < ctx) || (p.ctxs.find c).isNone || (s.fesOf part).any (fun n => (s.fe n).ctx == c)) = false ↔ good := by
    simp only [good, Bool.or_eq_false_iff, decide_eq_false_iff_not, Option.isNone_eq_false_iff, Option.isSome_iff_ne_none,
      List.any_eq_false, State.mem_fesOf, beq_iff_eq, and_imp, and_assoc, Nat.not_lt, ← Nat.lt_succ_iff, ne_eq]
  refine ⟨fun no => ?_, fun yes stands => ?_, fun yes free calm => ?_⟩
  · rwa [if_pos (Bool.of_not_eq_false fun e => no (bad.1 e))] at acts
  · rwa [if_neg (by rw [bad.2 yes]; exact Bool.false_ne_true), if_pos stands] at acts
  · rw [if_neg (by rw [bad.2 yes]; exact Bool.false_ne_true), if_neg (by rw [free]; exact Bool.false_ne_true),
      State.shootdown_all hp, State.retranslate_idle (by exact calm)] at acts
    change Makes s _ (State.fwAnswer (State.onPart (State.unpinned _ part c) part _) 0 []) at acts
    rw [State.unpinned_putPart, State.onPart_eq (State.part_putPart_same ..)] at acts
    refine Eq.trans acts ?_
    unfold State.putPart State.unpinned State.fwAnswer
    simp only [Tab.set_set, beq_iff_eq]
    rfl

/-! ## The debug agent (21 R417, 22 R429) -/

@[simp] theorem Frame.xpc_edit (f : Frame) (xpc : Option DWord) (xstat : Option Word) (ks : List (BitVec 3 × Word)) :
    (f.edit xpc xstat ks).xpc = xpc.getD f.xpc := rfl

@[simp] theorem Frame.xmask_edit (f : Frame) (xpc : Option DWord) (xstat : Option Word) (ks : List (BitVec 3 × Word)) :
    (f.edit xpc xstat ks).xmask = f.xmask := rfl

/-- A warp that leaves its handler raises nothing where no group of lanes is deferred. -/
theorem State.freedBy_idle {s : State} {k : WarpKey} {w : Warp} (hw : s.warp k = some w) (h : ∀ kw ∈ s.warps, kw.2.defers = []) : s.freedBy k = s := by
  unfold State.freedBy
  split
  · exact State.frameFreed_idle h _
  · have none : w.defers = [] := h _ (Tab.mem_of_find hw)
    have same : s.releaseDefers k = s.putWarp k { w with defers := [] } := by
      unfold State.releaseDefers
      rw [hw]
      simp only [none]
      rfl
    rw [same, ← none]
    exact State.putWarp_self hw

/-- The group that returns from a frame: the lanes of the frame that have not exited, at XPC. -/
def returning (w : Warp) (f : Frame) (pid : Nat) (t : DWord) : Path := Path.new pid (f.xmask &&& ~~~w.exited) (f.xpc.setWidth 57) t

/-- The warp whose paths of some numbers have left a frame: they end, and the frame's lanes that are left go on at XPC. -/
def Warp.left (w : Warp) (pids : List Nat) (f : Frame) (pid : Nat) (t : DWord) : Warp :=
  { w with paths := w.paths.filter (fun q => !pids.contains q.pid) ++ (if f.xmask &&& ~~~w.exited = 0 then [] else [returning w f pid t]) }

/-- Paths of a warp leave a frame whose XPC is sound, where no group of lanes is deferred. -/
theorem State.leaveFrame_eq {s : State} {k : WarpKey} {w : Warp} {f : Frame} (hw : s.warp k = some w) (idle : ∀ kw ∈ s.warps, kw.2.defers = [])
    (aligned : f.xpc.toNat % 4 = 0) (small : f.xpc.toNat < 2 ^ 57) (pids : List Nat) (x : VA) :
    s.leaveFrame k pids f x = ({ s with fresh := s.fresh + 1 } : State).putWarp k (w.left pids f s.fresh s.gtime) := by
  have sound : (f.xpc.toNat % 4 != 0 || decide (2 ^ 57 ≤ f.xpc.toNat)) = false :=
    Bool.or_eq_false_iff.2 ⟨by rw [aligned]; rfl, decide_eq_false (Nat.not_le.2 small)⟩
  have made : s.leaveFrame k pids f x = (({ s with fresh := s.fresh + 1 } : State).putWarp k (w.left pids f s.fresh s.gtime)).freedBy k := by
    unfold State.leaveFrame
    rw [hw]
    dsimp only
    rw [sound, if_neg Bool.false_ne_true]
    unfold Warp.left
    by_cases none : f.xmask &&& ~~~w.exited = 0
    · simp only [none, beq_self_eq_true, if_true, List.append_nil]
      rfl
    · simp only [beq_iff_eq, none, if_false]
      rfl
  refine made.trans (State.freedBy_idle (State.warp_putWarp_same ..) fun kw hkw => ?_)
  rcases Tab.mem_set hkw with rfl | old
  · exact idle (k, w) (Tab.mem_of_find hw)
  · exact idle kw old

/-- The paths that have left are gone, and every other of a number below that of the group that returns is as it was. -/
theorem Warp.path_left {w : Warp} {f : Frame} {pid gone : Nat} {t : DWord} (below : gone < pid) :
    (w.left [gone] f pid t).path gone = none ∧ ∀ n q, n ≠ gone → w.path n = some q → (w.left [gone] f pid t).path n = some q := by
  have found : ∀ n, (w.left [gone] f pid t).path n = (w.paths.find? (fun q => q.pid != gone && q.pid == n)).or
      ((if f.xmask &&& ~~~w.exited = 0 then [] else [returning w f pid t]).find? (·.pid == n)) := by
    intro n
    refine (List.find?_append ..).trans (congrArg (Option.or · _) ?_)
    rw [List.find?_filter]
    exact congrArg (fun g => w.paths.find? g) (funext fun q => by rw [Bool.eq_iff_iff]; simp)
  refine ⟨?_, fun n q ne hq => ?_⟩
  · rw [found, Option.or_eq_none_iff]
    refine ⟨List.find?_eq_none.2 fun q _ h => ?_, List.find?_eq_none.2 fun q hq h => ?_⟩
    · simp at h
    · split at hq
      · cases hq
      · obtain rfl := List.mem_singleton.1 hq
        have same : pid = gone := beq_iff_eq.1 h
        omega
  · have kept : (fun r : Path => r.pid != gone && r.pid == n) = (·.pid == n) := funext fun r => by
      rw [Bool.eq_iff_iff]
      simp only [Bool.and_eq_true, bne_iff_ne, beq_iff_eq, and_iff_right_iff_imp]
      exact fun e => e ▸ ne
    rw [found, kept, show w.paths.find? (·.pid == n) = some q from hq]
    rfl

theorem makes_debugRelease {s : State} {k : WarpKey} {xpc : Option DWord} {xstat : Option Word} {ks : List (BitVec 3 × Word)} {w : Warp} {p : Path}
    {f : Frame} (hw : s.warp k = some w) (held : w.paths.find? (fun q => q.wait == .debug) = some p) (hf : p.frame = some f) (named : s.named)
    (idle : ∀ kw ∈ s.warps, kw.2.defers = []) (aligned : (xpc.getD f.xpc).toNat % 4 = 0) (small : (xpc.getD f.xpc).toNat < 2 ^ 57) :
    ∃ t v, Makes s (.debugRelease k xpc xstat ks) t ∧ t = { s with warps := t.warps, fresh := t.fresh } ∧ (∀ j, j ≠ k → t.warp j = s.warp j) ∧
      t.warp k = some v ∧ v = { w with paths := v.paths } ∧ v.path p.pid = none ∧
      (∀ n q, n ≠ p.pid → w.path n = some q → v.path n = some q) ∧
      (f.xmask &&& ~~~w.exited ≠ 0 → ∃ q ∈ v.paths, q.lns = f.xmask &&& ~~~w.exited ∧ q.pc = (xpc.getD f.xpc).setWidth 57 ∧ q.frame = none ∧
        q.wait = .none ∧ q.run = []) := by
  have acts : Makes s (.debugRelease k xpc xstat ks) (s.leaveFrame k [p.pid] (f.edit xpc xstat ks) p.pc) := by
    show execDebugRelease k xpc xstat ks s = _
    unfold execDebugRelease
    rw [hw, Option.bind_some, held]
    dsimp only
    rw [hf]
  rw [State.leaveFrame_eq hw idle aligned small] at acts
  obtain ⟨gone, stays⟩ := Warp.path_left (w := w) (f := f.edit xpc xstat ks) (t := s.gtime) ((named.1 _ (Tab.mem_of_find hw)).2 p (List.mem_of_find?_eq_some held))
  refine ⟨_, _, acts, rfl, fun j ne => State.warp_putWarp_ne _ _ ne, State.warp_putWarp_same .., rfl, gone, stays, fun some => ?_⟩
  refine ⟨returning w (f.edit xpc xstat ks) s.fresh s.gtime, List.mem_append_right _ ?_, rfl, rfl, rfl, rfl, rfl⟩
  rw [Frame.xmask_edit, if_neg some]
  exact List.mem_singleton_self _

theorem makes_debugRelease_none {s : State} {k : WarpKey} (xpc : Option DWord) (xstat : Option Word) (ks : List (BitVec 3 × Word))
    (none : ∀ w, s.warp k = some w → ∀ q ∈ w.paths, q.wait ≠ .debug) : Makes s (.debugRelease k xpc xstat ks) s := by
  have nowhere : (s.warp k).bind (fun x => x.paths.find? (fun p => p.wait == .debug)) = Option.none := by
    cases hw : s.warp k with
    | none => rfl
    | some w =>
      rw [Option.bind_some]
      exact List.find?_eq_none.2 fun q hq e => none w hw q hq (beq_iff_eq.1 e)
  show execDebugRelease k xpc xstat ks s = _
  unfold execDebugRelease
  rw [nowhere]

end Sys2Proof.Machine
end

section
/-! SUPPORT. Windows that are granted, and the registers that the host writes in BAR0. -/

namespace Sys2Proof.Machine

/-! ## What is cut out of a table by its keys -/

/-- A cleared byte reads as one that is not listed. -/
theorem Memory.byte_clear (m : Memory) (lo hi a : Nat) : (m.clear lo hi).byte a = if lo ≤ a ∧ a < hi then 0 else m.byte a := by
  induction m with
  | nil => simp [Memory.clear, Memory.byte, unlisted]
  | cons c m ih =>
    obtain ⟨x, b⟩ := c
    unfold Memory.clear at ih ⊢
    by_cases keep : (decide (x < lo) || decide (hi ≤ x)) = true
    · rw [List.filter_cons_of_pos (by exact keep), Memory.byte, Memory.byte, ih]
      simp only [Bool.or_eq_true, decide_eq_true_eq] at keep
      split
      next e => rw [if_neg (by omega)]
      next => rfl
    · rw [List.filter_cons_of_neg (by exact keep), Memory.byte, ih]
      simp only [Bool.or_eq_true, decide_eq_true_eq] at keep
      by_cases e : x = a
      · rw [if_pos e, if_pos (by omega), if_pos (by omega)]
      · rw [if_neg e]

/-- Of a table filtered by its keys, a key that passes finds what it found, and no other finds anything. -/
theorem Tab.find_filter_key {κ α : Type} [DecidableEq κ] (t : Tab κ α) (f : κ → Bool) (k : κ) :
    Tab.find (t.filter (fun e => f e.1)) k = if f k then t.find k else none := by
  induction t with
  | nil => simp [Tab.find]
  | cons c t ih =>
    obtain ⟨x, v⟩ := c
    by_cases keep : f x = true
    · rw [List.filter_cons_of_pos (by exact keep), Tab.find, Tab.find, ih]
      by_cases e : x = k
      · rw [if_pos e, if_pos e, ← e, if_pos keep]
      · rw [if_neg e, if_neg e]
    · rw [List.filter_cons_of_neg (by exact keep), ih, Tab.find]
      by_cases e : x = k
      · rw [← e, if_neg keep, if_neg keep]
      · rw [if_neg e]

/-! ## Windows (08 R180) -/

/-- A register that keeps its low bits. -/
theorem setWidth_and_mask {n : Nat} (h : n ≤ 32) (v : DWord) :
    (v.setWidth 32 : Word) &&& BitVec.ofNat 32 (2 ^ n - 1) = (v.setWidth n).setWidth 32 := by
  have le : 2 ^ n ≤ 2 ^ 32 := Nat.pow_le_pow_right (by decide) h
  have mask : (2 ^ n - 1) % 2 ^ 32 = 2 ^ n - 1 := Nat.mod_eq_of_lt (Nat.lt_of_lt_of_le (Nat.sub_one_lt (by simp)) le)
  refine BitVec.eq_of_toNat_eq ?_
  rw [BitVec.toNat_and, BitVec.toNat_ofNat, mask, Nat.and_two_pow_sub_one_eq_mod, BitVec.toNat_setWidth, BitVec.toNat_setWidth,
    BitVec.toNat_setWidth, Nat.mod_mod_of_dvd _ (Nat.pow_dvd_pow 2 h), Nat.mod_eq_of_lt (Nat.lt_of_lt_of_le (Nat.mod_lt _ (by simp)) le)]

/-- What a window's field names: its base, and its length cut to the size of the store. -/
theorem windowIn_field (v : DWord) (size : Nat) : windowIn ((v.setWidth 30).setWidth 32) size =
    (min (v.extractLsb' 15 15).toNat (size - (v.extractLsb' 0 15).toNat), (v.extractLsb' 0 15).toNat) := by
  have base : (((v.setWidth 30).setWidth 32 : Word).extractLsb' 0 15).toNat = (v.extractLsb' 0 15).toNat := by
    simp only [BitVec.extractLsb'_toNat, BitVec.toNat_setWidth, Nat.shiftRight_eq_div_pow]
    omega
  have length : (((v.setWidth 30).setWidth 32 : Word).extractLsb' 15 15).toNat = (v.extractLsb' 15 15).toNat := by
    simp only [BitVec.extractLsb'_toNat, BitVec.toNat_setWidth, Nat.shiftRight_eq_div_pow]
    omega
  unfold windowIn
  rw [base, length]

theorem State.grantWindow_none {s : State} {part : Nat} (h : s.part part = none) (k : Nat) (idx : Bool) (v : Word) : s.grantWindow part k idx v = s := by
  unfold State.grantWindow
  rw [h]

/-- A grant of rows clears them in the cluster's weight store, and no log of the partition's holds anything of them. -/
theorem makes_wsrows {s : State} {part : Nat} {p : Part} (hp : s.part part = some p) (k : BitVec 5) (v : DWord) :
    let x := s.cluster k.toNat
    let field := (v.setWidth 30).setWidth 32
    let base := (v.extractLsb' 0 15).toNat
    let n := min (v.extractLsb' 15 15).toNat (24576 - base)
    ∃ t y q, Makes s (.registerWrite (.wsrows part k) v) t ∧ t = { s with clusters := t.clusters, parts := t.parts, upsets := t.upsets } ∧
      (∀ u ∈ t.upsets, u ∈ s.upsets) ∧ (∀ j, j ≠ k.toNat → t.cluster j = s.cluster j) ∧ t.cluster k.toNat = y ∧ y = { x with ws := y.ws } ∧
      (∀ j, j ≠ part → t.part j = s.part j) ∧ t.part part = some q ∧ q = { p with windows := q.windows, undo := q.undo } ∧
      q.windows.find k.toNat = some { p.window k.toNat with rows := field } ∧ (∀ j, j ≠ k.toNat → q.windows.find j = p.windows.find j) ∧
      (∀ a, y.ws.mem.byte a = if base * 2048 ≤ a ∧ a < (base + n) * 2048 then 0 else x.ws.mem.byte a) ∧
      ∀ u, u ∈ q.undo ↔ u ∈ p.undo ∧ ¬ (u.area = .ws k.toNat ∧ base * 16 ≤ u.line ∧ u.line < (base + n) * 16) := by
  intro x field base n
  have acts : Makes s (.registerWrite (.wsrows part k) v) (s.grantWindow part k.toNat false (v.setWidth 32)) := rfl
  have mask : (v.setWidth 32 : Word) &&& 0x3FFFFFFF = field := setWidth_and_mask (n := 30) (by decide) v
  have rows : (WsWindow.mk field (p.window k.toNat).idx).wsRows = (n, base) := windowIn_field v 24576
  unfold State.grantWindow at acts
  rw [hp, mask] at acts
  simp only [Bool.false_eq_true, if_false, rows] at acts
  refine ⟨_, _, _, acts, rfl, fun u hu => (List.mem_filter.1 hu).1, fun j ne => State.cluster_setCluster_ne _ _ ne, State.cluster_setCluster_same ..,
    rfl, fun j ne => State.part_putPart_ne _ _ ne, State.part_putPart_same .., rfl, Tab.find_set_same .., fun j ne => Tab.find_set_ne _ _ ne,
    fun a => Memory.byte_clear .., fun u => ?_⟩
  simp only [List.mem_filter, Bool.not_eq_true', ← Bool.not_eq_true, Bool.and_eq_true, beq_iff_eq, decide_eq_true_eq, and_assoc]

/-- A grant of entries clears them in the cluster's index. -/
theorem makes_wsidx {s : State} {part : Nat} {p : Part} (hp : s.part part = some p) (k : BitVec 5) (v : DWord) :
    let x := s.cluster k.toNat
    let field := (v.setWidth 30).setWidth 32
    let base := (v.extractLsb' 0 15).toNat
    let m := min (v.extractLsb' 15 15).toNat (16384 - base)
    ∃ t y q, Makes s (.registerWrite (.wsidx part k) v) t ∧ t = { s with clusters := t.clusters, parts := t.parts } ∧
      (∀ j, j ≠ k.toNat → t.cluster j = s.cluster j) ∧ t.cluster k.toNat = y ∧ y = { x with widx := y.widx } ∧
      (∀ j, j ≠ part → t.part j = s.part j) ∧ t.part part = some q ∧ q = { p with windows := q.windows, undo := q.undo } ∧
      q.windows.find k.toNat = some { p.window k.toNat with idx := field } ∧ (∀ j, j ≠ k.toNat → q.windows.find j = p.windows.find j) ∧
      (∀ e, y.widx.find e = if base ≤ e ∧ e < base + m then none else x.widx.find e) ∧
      ∀ u, u ∈ q.undo ↔ u ∈ p.undo ∧ ¬ (u.area = .idx k.toNat ∧ base ≤ u.line ∧ u.line < base + m) := by
  intro x field base m
  have acts : Makes s (.registerWrite (.wsidx part k) v) (s.grantWindow part k.toNat true (v.setWidth 32)) := rfl
  have mask : (v.setWidth 32 : Word) &&& 0x3FFFFFFF = field := setWidth_and_mask (n := 30) (by decide) v
  have rows : (WsWindow.mk (p.window k.toNat).rows field).idxRows = (m, base) := windowIn_field v 16384
  unfold State.grantWindow at acts
  rw [hp, mask] at acts
  simp only [if_true, rows] at acts
  refine ⟨_, _, _, acts, rfl, fun j ne => State.cluster_setCluster_ne _ _ ne, State.cluster_setCluster_same ..,
    rfl, fun j ne => State.part_putPart_ne _ _ ne, State.part_putPart_same .., rfl, Tab.find_set_same .., fun j ne => Tab.find_set_ne _ _ ne,
    fun e => ?_, fun u => ?_⟩
  · refine (Tab.find_filter_key x.widx (fun e => decide (e < base) || decide (base + m ≤ e)) e).trans ?_
    simp only [Bool.or_eq_true, decide_eq_true_eq]
    by_cases within : base ≤ e ∧ e < base + m
    · rw [if_pos within, if_neg (by omega)]
    · rw [if_neg within, if_pos (by omega)]
  · simp only [List.mem_filter, Bool.not_eq_true', ← Bool.not_eq_true, Bool.and_eq_true, beq_iff_eq, decide_eq_true_eq, and_assoc]

end Sys2Proof.Machine
end

section
/-! SUPPORT. Registers that the host writes in BAR0, and what BAR0 reads. -/

namespace Sys2Proof.Machine

/-! ## Registers of a partition, of the functions and of the module -/

theorem OnePart.onPart {s : State} {n : Nat} {p : Part} (hp : s.part n = some p) (f : Part → Part) : OnePart s (s.onPart n f) n (f p) := by
  rw [State.onPart_eq hp]
  exact .putPart s n (f p)

theorem makes_partRegisters {s : State} {part : Nat} {p : Part} (hp : s.part part = some p) (v : DWord) :
    let w := fun n => (v.setWidth n).setWidth 32
    (∃ t, Makes s (.registerWrite (.lloc part) v) t ∧ OnePart s t part { p with lloc := w 13 }) ∧
    (∃ t, Makes s (.registerWrite (.lrem part) v) t ∧ OnePart s t part { p with lrem := w 16 }) ∧
    (∃ t, Makes s (.registerWrite (.flease part) v) t ∧ OnePart s t part { p with flease := w 20 }) ∧
    ∃ t, Makes s (.registerWrite (.fskew part) v) t ∧ OnePart s t part { p with fskew := w 20 } := by
  intro w
  have bits : ∀ n, n ≤ 32 → (v.setWidth 32 : Word) &&& BitVec.ofNat 32 (2 ^ n - 1) = w n := fun n h => setWidth_and_mask h v
  refine ⟨⟨_, rfl, ?_⟩, ⟨_, rfl, ?_⟩, ⟨_, rfl, ?_⟩, ⟨_, rfl, ?_⟩⟩
  · rw [← bits 13 (by decide)]
    exact .onPart hp (fun p => { p with lloc := v.setWidth 32 &&& 0x1FFF })
  · rw [← bits 16 (by decide)]
    exact .onPart hp (fun p => { p with lrem := v.setWidth 32 &&& 0xFFFF })
  · rw [← bits 20 (by decide)]
    exact .onPart hp (fun p => { p with flease := v.setWidth 32 &&& 0xFFFFF })
  · rw [← bits 20 (by decide)]
    exact .onPart hp (fun p => { p with fskew := v.setWidth 32 &&& 0xFFFFF })

theorem makes_vfLink (s : State) (v : DWord) (n : BitVec 4) : ∃ t, Makes s (.registerWrite (.vfLink n) v) t ∧ t = { s with vfLink := t.vfLink } ∧
    ∀ j, t.vfLink.getLsbD j = if j = n.toNat then v.getLsbD 0 else s.vfLink.getLsbD j := by
  refine ⟨_, rfl, rfl, fun j => ?_⟩
  have small : n.toNat < 16 := n.isLt
  cases on : v.getLsbD 0 with
  | false =>
    simp only [Bool.false_eq_true, if_false, BitVec.getLsbD_and, BitVec.getLsbD_not, BitVec.getLsbD_twoPow]
    by_cases e : j = n.toNat
    · subst e
      simp [small]
    · by_cases lt : j < 16
      · simp [e, Ne.symm e, lt]
      · rw [BitVec.getLsbD_of_ge _ _ (Nat.not_lt.1 lt), if_neg e, Bool.false_and]
  | true =>
    simp only [if_true, BitVec.getLsbD_or, BitVec.getLsbD_twoPow]
    by_cases e : j = n.toNat
    · subst e
      simp [small]
    · simp [e, Ne.symm e]

/-! ## A front end's block (10 R219, R220) -/

/-- Where a front end's block begins in BAR0, and how an offset within is split. -/
theorem block_offset {fe : BitVec 4} {off : Nat} (h : off < 0x1000) :
    (decide (0x10000 ≤ 0x10000 + 0x1000 * fe.toNat + off) && decide (0x10000 + 0x1000 * fe.toNat + off < 0x20000)) = true ∧
    (0x10000 + 0x1000 * fe.toNat + off) / 0x1000 % 16 = fe.toNat ∧ (0x10000 + 0x1000 * fe.toNat + off) % 0x1000 = off := by
  have := fe.isLt
  rw [Bool.and_eq_true, decide_eq_true_eq, decide_eq_true_eq]
  omega

/-- No write beyond the doorbell of the ROM rings it. -/
theorem exec_bar0Write {s : State} {fn : Fn} {off : Nat} {w64 : Bool} {v : DWord} (h : off ≠ 0x200) :
    exec (.registerWrite (.bar0 fn off w64) v) s = .next (s.bar0Write fn off w64 v) := by
  show execRegisterWrite (.bar0 fn off w64) v s = _
  unfold execRegisterWrite
  dsimp only
  rw [beq_false_of_ne h, Bool.false_and, Bool.false_and, if_neg Bool.false_ne_true]

theorem aligned_block {fe : BitVec 4} {off : Nat} {w64 : Bool} (h : off % (if w64 then 8 else 4) = 0) :
    ((0x10000 + 0x1000 * fe.toNat + off) % (if w64 then 8 else 4) != 0) = false := by
  rw [bne_eq_false_iff_eq]
  cases w64 <;> simp only [Bool.false_eq_true, if_false, if_true] at h ⊢ <;> omega

/-- A write of a block by the function that owns it, at an offset its width divides. -/
theorem exec_blockWrite {s : State} {fn : Fn} {fe : BitVec 4} {off : Nat} {w64 : Bool} (own : s.owner fn fe) (h : off < 0x1000)
    (aligned : off % (if w64 then 8 else 4) = 0) (v : DWord) :
    exec (.registerWrite (.bar0 fn (0x10000 + 0x1000 * fe.toNat + off) w64) v) s = .next (s.blockWrite fe.toNat off w64 v) := by
  obtain ⟨blocks, block, within⟩ := block_offset (fe := fe) h
  rw [exec_bar0Write (by omega)]
  unfold State.bar0Write
  dsimp only
  rw [aligned_block aligned, if_neg Bool.false_ne_true, blocks, if_pos rfl, block, within, if_pos (ownsBlock_iff.2 own)]

/-- A function that does not own a block changes nothing there. -/
theorem makes_blockWrite_other {s : State} {fn : Fn} {fe : BitVec 4} {off : Nat} {w64 : Bool} {v : DWord} (other : ¬ s.owner fn fe)
    (h : off < 0x1000) : Makes s (.registerWrite (.bar0 fn (0x10000 + 0x1000 * fe.toNat + off) w64) v) s := by
  obtain ⟨blocks, block, within⟩ := block_offset (fe := fe) h
  have no : s.ownsBlock fn fe.toNat = false := Bool.eq_false_iff.2 fun e => other (ownsBlock_iff.1 e)
  refine (exec_bar0Write (by omega)).trans (congrArg _ ?_)
  unfold State.bar0Write
  dsimp only
  rw [block, no, blocks, if_pos rfl, if_neg Bool.false_ne_true, ite_self]

/-- What a read in a block is, from the bytes that the block shows the function. -/
theorem State.bar0Read_block {s : State} {fn : Fn} {fe : BitVec 4} {off : Nat} {w64 : Bool} (h : off < 0x1000)
    (aligned : off % (if w64 then 8 else 4) = 0) : s.bar0Read fn (0x10000 + 0x1000 * fe.toNat + off) w64 =
      BitVec.ofNat 64 (((List.range (if w64 then 8 else 4)).map (fun i =>
        (if s.ownsBlock fn fe.toNat then s.blockByte fe.toNat (off + i) else 0) * 2 ^ (8 * i))).sum) := by
  unfold State.bar0Read
  dsimp only
  rw [aligned_block aligned, if_neg Bool.false_ne_true]
  refine congrArg (fun l : List Nat => BitVec.ofNat 64 l.sum) (List.map_congr_left fun i hi => ?_)
  have near : off + i < 0x1000 := by
    rw [List.mem_range] at hi
    cases w64 <;> simp only [Bool.false_eq_true, if_false, if_true] at aligned hi <;> omega
  obtain ⟨blocks, block, within⟩ := block_offset (fe := fe) near
  rw [Nat.add_assoc _ off i]
  unfold State.bar0Byte
  rw [blocks, if_pos rfl, block, within]

/-- A function that does not own a block reads zero there. -/
theorem State.bar0Read_other {s : State} {fn : Fn} {fe : BitVec 4} {off : Nat} {w64 : Bool} (other : ¬ s.owner fn fe) (h : off < 0x1000) :
    s.bar0Read fn (0x10000 + 0x1000 * fe.toNat + off) w64 = 0 := by
  have no : s.ownsBlock fn fe.toNat = false := Bool.eq_false_iff.2 fun e => other (ownsBlock_iff.1 e)
  by_cases aligned : off % (if w64 then 8 else 4) = 0
  · rw [State.bar0Read_block h aligned, no]
    simp
  · unfold State.bar0Read
    dsimp only
    refine if_pos (bne_iff_ne.2 ?_)
    cases w64 <;> simp only [Bool.false_eq_true, if_false, if_true] at aligned ⊢ <;> omega

theorem OneFront.blockWrite {s : State} {fn : Fn} {fe : BitVec 4} {off : Nat} {w64 : Bool} (own : s.owner fn fe) (h : off < 0x1000)
    (aligned : off % (if w64 then 8 else 4) = 0) {v : DWord}
    (plain : s.blockWrite fe.toNat off w64 v = s.setFe fe.toNat ((s.fe fe.toNat).write off w64 v)) {f : FrontEnd} (hf : (s.fe fe.toNat).write off w64 v = f) :
    ∃ t, Makes s (.registerWrite (.bar0 fn (0x10000 + 0x1000 * fe.toNat + off) w64) v) t ∧ OneFront s t fe f := by
  refine ⟨_, exec_blockWrite own h aligned v, ?_⟩
  rw [plain, hf]
  exact .setFe s fe f

theorem getLsbD_clearLow {n k : Nat} (v : BitVec (n + k)) (i : Nat) :
    (v &&& (BitVec.allOnes n ++ 0#k)).getLsbD i = (decide (k ≤ i) && v.getLsbD i) := by
  by_cases low : i < k
  · simp [BitVec.getLsbD_append, low]
  · by_cases small : i < n + k
    · have : i - k < n := by omega
      simp [BitVec.getLsbD_append, low, this]
      omega
    · simp [BitVec.getLsbD_of_ge _ _ (Nat.not_lt.1 small)]

/-- A register that keeps its high bits. -/
theorem and_clearLow {n k : Nat} (v : BitVec (n + k)) : v &&& (BitVec.allOnes n ++ 0#k) = v.extractLsb' k n ++ 0#k := by
  refine BitVec.eq_of_getLsbD_eq fun i hi => ?_
  rw [getLsbD_clearLow, BitVec.getLsbD_append]
  by_cases low : i < k
  · simp [low]
  · have high : i - k < n := by omega
    have back : k + (i - k) = i := by omega
    simp [low, high, back, Nat.not_lt.1 low]

theorem and_clearLow_append {m n k : Nat} (hi : BitVec m) (lo : BitVec (n + k)) :
    ((hi ++ lo).cast (Nat.add_assoc m n k).symm &&& (BitVec.allOnes (m + n) ++ 0#k)) =
      (hi ++ (lo.extractLsb' k n ++ 0#k)).cast (Nat.add_assoc m n k).symm := by
  refine BitVec.eq_of_getLsbD_eq fun i hi' => ?_
  rw [getLsbD_clearLow, BitVec.getLsbD_cast, BitVec.getLsbD_cast, BitVec.getLsbD_append, BitVec.getLsbD_append, BitVec.getLsbD_append]
  by_cases low : i < k
  · have : i < n + k := by omega
    simp [low, this]
  · by_cases mid : i < n + k
    · have high : i - k < n := by omega
      have back : k + (i - k) = i := by omega
      simp [low, mid, high, back, Nat.not_lt.1 low]
    · simp [mid, Nat.not_lt.1 low]

/-- The registers of a block, each written by the function that owns it. -/
theorem makes_blockRegisters {s : State} {v : DWord} {fn : Fn} {fe : BitVec 4} (own : s.owner fn fe) :
    let at_ := fun off w64 => Instr.registerWrite (.bar0 fn (0x10000 + 0x1000 * fe.toNat + off) w64) v
    let f := s.fe fe.toNat
    (∃ t, Makes s (at_ 0x000 true) t ∧ OneFront s t fe { f with qbase := v.extractLsb' 6 58 ++ 0#6 }) ∧
    (∃ t, Makes s (at_ 0x018 true) t ∧ OneFront s t fe { f with cbase := v.extractLsb' 4 60 ++ 0#4 }) ∧
    (∃ t, Makes s (at_ 0x020 false) t ∧ OneFront s t fe { f with csize := v.setWidth 4 }) ∧
    (∃ t, Makes s (at_ 0x000 false) t ∧ OneFront s t fe { f with qbaseLow := v.setWidth 32 }) ∧
    (∃ t, Makes s (at_ 0x004 false) t ∧ OneFront s t fe { f with qbase := v.setWidth 32 ++ (f.qbaseLow.extractLsb' 6 26 ++ 0#6) }) ∧
    exec (at_ 0x008 false) s = exec (.qenWrite ⟨fn, fe⟩ (v.setWidth 32)) s ∧ exec (at_ 0x00C false) s = exec (.tailWrite ⟨fn, fe⟩ (v.setWidth 32)) s ∧
    exec (at_ 0x024 false) s = exec (.cheadWrite ⟨fn, fe⟩ (v.setWidth 32)) s := by
  intro at_ f
  refine ⟨OneFront.blockWrite own (by decide) rfl rfl ?_, OneFront.blockWrite own (by decide) rfl rfl ?_, OneFront.blockWrite own (by decide) rfl rfl rfl,
    OneFront.blockWrite own (by decide) rfl rfl rfl, OneFront.blockWrite own (by decide) rfl rfl ?_,
    (exec_blockWrite own (by decide) rfl v).trans (State.inBlock_owner own : execQenWrite ⟨fn, fe⟩ (v.setWidth 32) s = _).symm,
    (exec_blockWrite own (by decide) rfl v).trans (State.inBlock_owner own : execTailWrite ⟨fn, fe⟩ (v.setWidth 32) s = _).symm,
    (exec_blockWrite own (by decide) rfl v).trans (State.inBlock_owner own : execCheadWrite ⟨fn, fe⟩ (v.setWidth 32) s = _).symm⟩
  · exact congrArg (fun b => { f with qbase := b }) (and_clearLow (n := 58) (k := 6) v)
  · exact congrArg (fun b => { f with cbase := b }) (and_clearLow (n := 60) (k := 4) v)
  · exact congrArg (fun b => { f with qbase := b }) (and_clearLow_append (m := 32) (n := 26) (k := 6) (v.setWidth 32) f.qbaseLow)

end Sys2Proof.Machine
end

section
/-! SUPPORT. The mailboxes' buffers and doorbells, and the capability record as BAR0 shows it. -/

namespace Sys2Proof.Machine

/-! ## Mailboxes (10 R219) -/

theorem length_putBuffer (b : List Byte) (off : Nat) (bs : List Byte) : (putBuffer b off bs).length = 256 := by simp [putBuffer]

theorem getD_putBuffer {b : List Byte} {off i : Nat} {bs : List Byte} (h : i < 256) :
    (putBuffer b off bs).getD i 0 = if off ≤ i ∧ i < off + bs.length then bs.getD (i - off) 0 else b.getD i 0 := by
  rw [List.getD_eq_getElem?_getD]
  simp [putBuffer, h]

/-- A PF's write of a word of a mailbox's request buffer is kept there. -/
theorem exec_bufferWrite {s : State} {link : Bool} {off : Nat} {v : DWord} (aligned : off % 4 = 0) (h : off < 0x100) :
    exec (.registerWrite (.bar0 (.pf link) off false) v) s = .next { s with mbReq := putBuffer s.mbReq off (leBytes 4 v.toNat) } ∧
    exec (.registerWrite (.bar0 (.pf link) (0x2000 + off) false) v) s = .next { s with fwReq := putBuffer s.fwReq off (leBytes 4 v.toNat) } := by
  rw [exec_bar0Write (by omega), exec_bar0Write (by omega)]
  unfold State.bar0Write
  have here : (0x2000 + off) % 4 = 0 := by omega
  have one : (decide (0x10000 ≤ off) && decide (off < 0x20000)) = false := by simp; omega
  have two : (decide (0x10000 ≤ 0x2000 + off) && decide (0x2000 + off < 0x20000)) = false := by simp; omega
  have three : (0x2000 + off == 0x1000) = false := beq_false_of_ne (by omega)
  have four : (decide (0x2000 ≤ 0x2000 + off) && decide (0x2000 + off < 0x2100)) = true := by simp; omega
  have five : 0x2000 + off - 0x2000 = off := by omega
  dsimp only
  constructor
  · rw [if_neg Bool.false_ne_true, aligned, one, if_pos h]
    rfl
  · rw [if_neg Bool.false_ne_true, here, two, three, four, five, if_neg (by omega : ¬ 0x2000 + off < 0x100)]
    rfl

/-- A VF writes nothing of the buffers. -/
theorem exec_bufferWrite_vf {s : State} {link : Bool} {n : BitVec 4} {off : Nat} {v : DWord} (h : off < 0x100) :
    exec (.registerWrite (.bar0 (.vf link n) off false) v) s = .next s ∧
    exec (.registerWrite (.bar0 (.vf link n) (0x2000 + off) false) v) s = .next s := by
  rw [exec_bar0Write (by omega), exec_bar0Write (by omega)]
  unfold State.bar0Write
  have one : (decide (0x10000 ≤ off) && decide (off < 0x20000)) = false := by simp; omega
  have two : (decide (0x10000 ≤ 0x2000 + off) && decide (0x2000 + off < 0x20000)) = false := by simp; omega
  dsimp only
  simp only [one, two, Bool.false_eq_true, if_false, ite_self, and_self]

theorem State.bar0Read_busy (s : State) (link : Bool) : s.bar0Read (.pf link) 0x2204 false = if s.fwBusy then 1 else 0 := by
  cases h : s.fwBusy
  · simp [State.bar0Read, State.bar0Byte, h, List.range, List.range.loop]
  · simp [State.bar0Read, State.bar0Byte, h, List.range, List.range.loop]

theorem exec_pwrcapRegister (s : State) (link : Bool) (v : DWord) :
    exec (.registerWrite (.bar0 (.pf link) 0x1000 false) v) s = exec (.pwrcapWrite ⟨.pf link, v.setWidth 32⟩) s := rfl

theorem exec_doorbell (s : State) (link : Bool) (v : DWord) :
    exec (.registerWrite (.bar0 (.pf link) 0x200 false) v) s = s.ringRom ((v.setWidth 32 : Word)).toNat := rfl

/-! ## The capability record (10 R232) -/

theorem toNat_append_add {m n : Nat} (x : BitVec m) (y : BitVec n) : (x ++ y).toNat = x.toNat * 2 ^ n + y.toNat := by
  rw [BitVec.toNat_append, Nat.shiftLeft_eq, Nat.mul_comm, Nat.two_pow_add_eq_or_of_lt y.isLt]

/-- The front ends named fill 16 bits. -/
theorem mask_lt {fes : List (BitVec 4)} (apart : fes.Nodup) : (fes.map (fun f => 2 ^ f.toNat)).sum < 2 ^ 16 := by
  have apart' : (fes.map BitVec.toNat).Nodup := apart.map fun _ _ => BitVec.eq_of_toNat_eq
  have sum := List.sum_toFinset (fun n => 2 ^ n) apart'
  rw [List.map_map] at sum
  refine sum.symm.trans_lt (Nat.geomSum_lt (by decide) fun n hn => ?_)
  obtain ⟨f, -, rfl⟩ := List.mem_map.1 (List.mem_toFinset.1 hn)
  exact f.isLt

theorem foldl_add_eq {α : Type} (f : α → Nat) (xs : List α) : ∀ m, xs.foldl (fun m x => m + f x) m = m + (xs.map f).sum := by
  induction xs with
  | nil => intro m; simp
  | cons x xs ih => intro m; simp [ih, Nat.add_assoc]

/-- Fields side by side are the sum of the fields each at its place. -/
theorem record_places (x gr pr un c1 c0 l1 l0 fl po ma cl cp sl id : Nat) :
    ((((((((((((((((((((gr * x ^ 256 + pr) * x ^ 64 + un) * x ^ 16 + 0) * x ^ 48 + c1) * x ^ 16 + 0) * x ^ 48 + c0) * x ^ 16 + 0) * x ^ 48 + l1) *
      x ^ 16 + 0) * x ^ 48 + l0) * x ^ 40 + 0) * x ^ 6 + fl) * x ^ 18 + po) * x ^ 16 + 0) * x ^ 16 + ma) * x ^ 32 + cl) * x ^ 32 + cp) * x ^ 15 + 0) *
      x ^ 1 + sl) * x ^ 8 + id) * x ^ 8 + 0 =
    (id * x ^ 8 + sl * x ^ 16) + cp * x ^ 32 + cl * x ^ 64 + ma * x ^ 96 + po * x ^ 128 + fl * x ^ 146 + l0 * x ^ 192 + l1 * x ^ 256 + c0 * x ^ 320 +
      c1 * x ^ 384 + un * x ^ 448 + pr * x ^ 512 + gr * x ^ 768 := by
  ring

/-- The record as its fields stand side by side is the number that BAR0 shows. -/
theorem Part.toNat_capRecord {p : Part} (apart : (p.arg.fes.map (·.fe)).Nodup) (small : p.arg.units.length < 2 ^ 34) :
    p.capRecord.toNat = p.record := by
  have mask : (p.arg.fes.map (fun f => 2 ^ f.fe.toNat)).sum % 2 ^ 16 = (p.arg.fes.map (fun f => 2 ^ f.fe.toNat)).sum := by
    have := mask_lt apart
    rw [List.map_map] at this
    exact Nat.mod_eq_of_lt this
  have units : p.arg.units.length * 2 ^ 30 % 2 ^ 64 = p.arg.units.length * 2 ^ 30 := Nat.mod_eq_of_lt (by omega)
  unfold Part.capRecord Part.record
  simp only [toNat_append_add, BitVec.toNat_ofNat, foldl_add_eq (fun f : FeArg => 2 ^ f.fe.toNat), Nat.zero_add, mask, units, Nat.zero_mod]
  refine (record_places 2 ..).trans ?_
  cases p.arg.sliced <;> rfl

theorem sum_range_four (f : Nat → Nat) : ((List.range 4).map f).sum = f 0 + (f 1 + (f 2 + f 3)) := by simp [List.range_succ]

theorem four_digits (q : Nat) : q / 2 ^ (8 * 0) % 256 * 2 ^ (8 * 0) + (q / 2 ^ (8 * 1) % 256 * 2 ^ (8 * 1) +
    (q / 2 ^ (8 * 2) % 256 * 2 ^ (8 * 2) + q / 2 ^ (8 * 3) % 256 * 2 ^ (8 * 3))) = q % 2 ^ 32 := by
  norm_num only
  omega

/-- Four bytes of a number, taken together. -/
theorem fourBytes (x i : Nat) : ((List.range 4).map (fun j => x / 2 ^ (8 * (4 * i + j)) % 256 * 2 ^ (8 * j))).sum = x / 2 ^ (32 * i) % 2 ^ 32 := by
  have cut : ∀ j, x / 2 ^ (8 * (4 * i + j)) = x / 2 ^ (32 * i) / 2 ^ (8 * j) := by
    intro j
    rw [Nat.div_div_eq_div_mul, ← Nat.pow_add, Nat.mul_add, ← Nat.mul_assoc]
  rw [sum_range_four, cut, cut, cut, cut, four_digits]

/-- A block's record, word by word. -/
theorem State.bar0Read_record {s : State} {fn : Fn} {fe : BitVec 4} {part : Nat} {p : Part} {i : Nat} (own : s.owner fn fe)
    (of : (s.fe fe.toNat).part = some part) (hp : s.part part = some p) (h : i < 32) (apart : (p.arg.fes.map (·.fe)).Nodup)
    (small : p.arg.units.length < 2 ^ 34) :
    s.bar0Read fn (0x10000 + 0x1000 * fe.toNat + 0x80 + 4 * i) false = (p.capRecord.extractLsb' (32 * i) 32).setWidth 64 := by
  have bytes : (List.range 4).map (fun j => (if s.ownsBlock fn fe.toNat then s.blockByte fe.toNat (0x80 + 4 * i + j) else 0) * 2 ^ (8 * j)) =
      (List.range 4).map (fun j => p.record / 2 ^ (8 * (4 * i + j)) % 256 * 2 ^ (8 * j)) := by
    refine List.map_congr_left fun j hj => ?_
    have near : j < 4 := List.mem_range.1 hj
    have within : (decide (0x80 ≤ 0x80 + 4 * i + j) && decide (0x80 + 4 * i + j < 0x100)) = true := by simp; omega
    have off : 0x80 + 4 * i + j - 0x80 = 4 * i + j := by omega
    rw [if_pos (ownsBlock_iff.2 own)]
    unfold State.blockByte
    rw [within, if_pos rfl, of, Option.bind_some, hp]
    dsimp only
    rw [off]
  rw [Nat.add_assoc _ 0x80, State.bar0Read_block (by omega) (by simp)]
  rw [if_neg Bool.false_ne_true, bytes, fourBytes, ← Part.toNat_capRecord apart small]
  refine BitVec.eq_of_toNat_eq ?_
  rw [BitVec.toNat_ofNat, BitVec.toNat_setWidth, BitVec.extractLsb'_toNat, Nat.shiftRight_eq_div_pow]

end Sys2Proof.Machine
end

section
/-! O44 -/

namespace Sys2Proof.Machine

/-- A command of the firmware acts in RUN. -/
theorem State.firmware_acts {s : State} {f : State → State} (run : s.boot = .run) : s.firmware f = .next (f s) := by
  simp [State.firmware, run]

theorem makes_rangeSet (s : State) (fe : BitVec 4) (lo hi : BitVec 5) : (s.boot = .off → Makes s (.frontEndRangeSet fe lo hi) s) ∧
    (s.boot ≠ .off → s.boot ≠ .run → Answered s (.frontEndRangeSet fe lo hi) 1) ∧
    (s.boot = .run → (s.fe fe.toNat).part = none ∨ hi.toNat < lo.toNat → Answered s (.frontEndRangeSet fe lo hi) 2) ∧
    (s.boot = .run → (s.fe fe.toNat).part ≠ none → lo.toNat ≤ hi.toNat → ∃ t, Makes s (.frontEndRangeSet fe lo hi) t ∧
      OneFront { s with fwResp := response 0 [], fwBusy := false } t fe { s.fe fe.toNat with clbase := lo, cllimit := hi }) := by
  refine ⟨fun off => ?_, fun on stopped => ?_, fun run bad => ?_, fun run of le => ?_⟩
  · simp [Makes, exec, execFrontEndRangeSet, State.firmware, off]
  · simp [Answered, Makes, exec, execFrontEndRangeSet, State.firmware, on, stopped, State.fwAnswer]
  all_goals have acts : Makes s (.frontEndRangeSet fe lo hi) _ := (State.firmware_acts run : execFrontEndRangeSet fe lo hi s = _)
  · rwa [if_pos (by simpa using bad)] at acts
  · rw [if_neg (by simpa using ⟨of, le⟩)] at acts
    exact ⟨_, acts, .setFe { s with fwResp := response 0 [], fwBusy := false } fe _⟩

/-- Settles O44: the commands that set contexts, ranges, traces and debug mode; the agent's release; registers, windows and mailboxes. -/
theorem configuration : Obligations.Configuration := by
  unfold Obligations.Configuration
  refine ⟨⟨guarded_of fun _ _ => rfl, guarded_of fun _ _ => rfl, guarded_of fun _ _ => rfl, guarded_of fun _ _ => rfl⟩,
    fun s part ctx pinq root hentry p run hp => ?_, fun s part ctx p run hp => ?_, makes_rangeSet,
    fun s part size base mask on p run hp =>
      ⟨⟨_, (State.firmwareOn_acts run hp : execTraceBufferSet part base size mask s = _), .putPart { s with fwResp := response 0 [], fwBusy := false } part _⟩,
        _, (State.firmwareOn_acts run hp : execDebugModeSet part on s = _), .putPart { s with fwResp := response 0 [], fwBusy := false } part _⟩,
    fun _ _ _ _ _ _ _ _ hw _ held hf named _ idle aligned small => makes_debugRelease hw held hf named idle aligned small,
    fun _ _ _ _ _ none => makes_debugRelease_none _ _ _ none, fun _ _ v _ hp => makes_partRegisters hp v,
    fun s part k v rows none => ?_, fun s part p k v hp _ => ?_, fun s v n => ⟨makes_vfLink s v n, rfl⟩,
    fun _ _ _ _ own => makes_blockRegisters own, fun _ _ _ _ _ _ other h => ⟨makes_blockWrite_other other h, State.bar0Read_other other h⟩,
    fun _ _ _ _ _ _ own of hp h apart small => State.bar0Read_record own of hp h apart small, State.bar0Read_busy,
    fun s link v => ⟨rfl, fun code => ?_, fun code => ?_⟩, fun s v fn off aligned h => ⟨fun vf => ?_, fun link e => ?_⟩⟩
  · obtain ⟨bad, waits, good⟩ := makes_ctxset (ctx := ctx) (pinq := pinq) (root := root) (hentry := hentry) run hp
    refine ⟨bad, waits, fun sound free calm => ⟨_, _, good sound free calm, .putPart _ part _, rfl, ⟨_, Tab.find_set_same .., rfl, rfl, rfl, ?_⟩, ?_⟩⟩
    · intro y hy
      rw [hy]
      rfl
    · exact fun c ne => Tab.find_set_ne _ _ ne
  · obtain ⟨bad, waits, good⟩ := makes_ctxdel (ctx := ctx) run hp
    exact ⟨bad, waits, fun sound free calm => ⟨_, _, good sound free calm, .putPart _ part _, rfl, Tab.find_del_same .., fun _ ne => Tab.find_del_ne _ ne, rfl⟩⟩
  · cases rows
    · exact congrArg _ (State.grantWindow_none none ..)
    · exact congrArg _ (State.grantWindow_none none ..)
  · intro x old field base n m
    have window : old = p.window k.toNat := by
      cases h : p.windows.find k.toNat <;> simp [old, Part.window, h]
    rw [window]
    exact ⟨makes_wsrows hp k v, makes_wsidx hp k v⟩
  · rw [exec_doorbell, code]
    rfl
  · rw [exec_doorbell, code]
    rfl
  · cases fn with
    | pf link => exact absurd rfl (vf link)
    | vf link n => exact exec_bufferWrite_vf h
  · subst e
    obtain ⟨rom, firmware⟩ := exec_bufferWrite (s := s) (link := link) (v := v) aligned h
    exact ⟨⟨_, rom, rfl, length_putBuffer .., fun i hi => by rw [getD_putBuffer hi, length_leBytes]⟩,
      _, firmware, rfl, length_putBuffer .., fun i hi => by rw [getD_putBuffer hi, length_leBytes]⟩

end Sys2Proof.Machine
end

section
/-! SUPPORT. The creation of a partition: its front ends, its quotas, and the checkpoint that a time-sliced one begins with. -/

namespace Sys2Proof.Machine

/-! ## Lists without repetition -/

theorem length_eraseDups_le {α : Type} [BEq α] : ∀ (n : Nat) (xs : List α), xs.length = n → xs.eraseDups.length ≤ n := by
  intro n
  induction n using Nat.strongRecOn with
  | ind n ih =>
    intro xs h
    match xs with
    | [] => simp
    | x :: xs =>
      have cut : (xs.filter (fun b => !b == x)).length ≤ xs.length := List.length_filter_le ..
      rw [List.length_cons] at h
      have := ih (xs.filter (fun b => !b == x)).length (by omega) _ rfl
      rw [List.eraseDups_cons, List.length_cons]
      omega

/-- A list that loses nothing with its repetitions has none. -/
theorem nodup_of_eraseDups {α : Type} [BEq α] [LawfulBEq α] (xs : List α) (h : xs.eraseDups.length = xs.length) : xs.Nodup := by
  induction xs with
  | nil => exact List.nodup_nil
  | cons x xs ih =>
    have cut : (xs.filter (fun b => !b == x)).length ≤ xs.length := List.length_filter_le ..
    have small := length_eraseDups_le _ (xs.filter (fun b => !b == x)) rfl
    rw [List.eraseDups_cons, List.length_cons, List.length_cons] at h
    have all : xs.filter (fun b => !b == x) = xs := List.filter_eq_self.2 (List.length_filter_eq_length_iff.1 (by omega))
    rw [all] at h
    refine List.nodup_cons.2 ⟨fun there => ?_, ih (by omega)⟩
    rw [← all] at there
    have := (List.mem_filter.1 there).2
    simp at this

/-! ## Front ends that are set one after another -/

/-- Front ends set, each to what it is to be. -/
def State.setFes (s : State) (g : FeArg → FrontEnd) (xs : List FeArg) : State := xs.foldl (fun s f => s.setFe f.fe.toNat (g f)) s

theorem State.setFes_sets (g : FeArg → FrontEnd) (xs : List FeArg) : ∀ s : State, s.setFes g xs = { s with fes := (s.setFes g xs).fes } ∧
    (∀ n, (∀ f ∈ xs, f.fe.toNat ≠ n) → (s.setFes g xs).fe n = s.fe n) ∧
    ((xs.map (·.fe)).Nodup → ∀ f ∈ xs, (s.setFes g xs).fe f.fe.toNat = g f) := by
  induction xs with
  | nil => exact fun s => ⟨rfl, fun _ _ => rfl, fun _ _ h => absurd h List.not_mem_nil⟩
  | cons x xs ih =>
    intro s
    have front : OneFront s (s.setFe x.fe.toNat (g x)) x.fe (g x) := .setFe s x.fe (g x)
    rw [State.setFes, List.foldl_cons]
    generalize s.setFe x.fe.toNat (g x) = u at front
    obtain ⟨one, set, rest⟩ := front
    obtain ⟨only, others, each⟩ := ih u
    refine ⟨only.trans (congrArg (fun v : State => { v with fes := (u.setFes g xs).fes }) one), fun n away => ?_, fun apart f hf => ?_⟩
    · exact (others n fun f hf => away f (List.mem_cons_of_mem x hf)).trans (rest n (away x List.mem_cons_self).symm)
    · obtain ⟨notin, apart⟩ := List.nodup_cons.1 apart
      rcases List.mem_cons.1 hf with rfl | hf
      · refine (others _ fun h hh e => notin ?_).trans set
        exact List.mem_map.2 ⟨h, hh, BitVec.eq_of_toNat_eq e⟩
      · exact each apart f hf

/-! ## Quotas and units (10 R230, R233) -/

theorem length_fillUnits (us : List Nat) : ∀ pool : List Nat, (us.filter (· < 384)).length ≤ pool.length → (fillUnits us pool).length = us.length := by
  induction us with
  | nil => intro pool _; rfl
  | cons u us ih =>
    intro pool h
    unfold fillUnits
    split
    next peer =>
      rw [List.filter_cons_of_neg (by simpa using peer)] at h
      rw [List.length_cons, ih pool h, List.length_cons]
    next own =>
      rw [List.filter_cons_of_pos (by simpa using own), List.length_cons] at h
      match pool with
      | [] => exact absurd h (by simp)
      | x :: xs => rw [List.length_cons, ih xs (by simpa using h), List.length_cons]

/-- The contexts of a new partition are those of its front ends. -/
theorem find_newCtxs (fs : List FeArg) (c : BitVec 6) : ∀ t : Tab (BitVec 6) Context, (∀ x, t.find c = some x → x = ⟨0, 0, 0, 0, 0⟩) →
    (fs.foldl (fun t f => t.set f.ctx ⟨0, 0, 0, 0, 0⟩) t).find c =
      if (fs.any (fun f => f.ctx == c) || (t.find c).isSome) = true then some ⟨0, 0, 0, 0, 0⟩ else none := by
  induction fs with
  | nil =>
    intro t zero
    cases e : t.find c with
    | none => simp [e]
    | some x => simp [e, zero x e]
  | cons f fs ih =>
    intro t zero
    by_cases e : f.ctx = c
    · subst e
      rw [List.foldl_cons, ih _ (by simp)]
      simp
    · have same : (t.set f.ctx ⟨0, 0, 0, 0, 0⟩).find c = t.find c := Tab.find_set_ne _ _ (Ne.symm e)
      rw [List.foldl_cons, ih _ (same ▸ zero), same, List.any_cons, beq_false_of_ne e, Bool.false_or]

/-! ## The checkpoint with which a slice starts (04 R101) -/

/-- Front ends whose heads stand where a checkpoint has them are as they were. -/
theorem State.reheaded_same {s : State} {p : Part} {im : Image} (h : ∀ x ∈ im.heads, x.2 = ((s.fe x.1).head, (s.fe x.1).cidx)) (n : Nat) :
    (s.reheaded p im).fe n = s.fe n := by
  unfold State.reheaded
  refine List.foldlRecOn (motive := fun t : State => ∀ n, t.fe n = s.fe n) im.heads _ (fun _ => rfl) (fun t same x hx => ?_) n
  split
  · have kept : { t.fe x.1 with head := x.2.1, cidx := x.2.2 } = s.fe x.1 := by rw [h x hx, same]
    rw [kept]
    intro n
    by_cases e : n = x.1
    · subst e
      by_cases low : x.1 < 16
      · exact State.fe_setFe_same _ low _
      · rw [State.fe_high _ (Nat.not_lt.1 low), State.fe_high _ (Nat.not_lt.1 low)]
    · exact (State.fe_setFe_ne _ e _).trans (same n)
  · exact same

/-- A checkpoint that finds the front ends' heads where it has them leaves the front ends as they were. -/
theorem State.restoreImage_fe {s : State} {p : Part} {im : Image} (pins : ∀ x ∈ im.pins, ∃ l ∈ s.l2, l.line = x.1) (none : im.tasks = [])
    (heads : ∀ x ∈ im.heads, x.2 = ((s.fe x.1).head, (s.fe x.1).cidx)) (n : Nat) : (s.restoreImage p im).fe n = s.fe n := by
  obtain ⟨b, hb⟩ : ∃ b, b = ((s.reloaded p im).relented im).requeued p im := ⟨_, rfl⟩
  have only : b = { s.reloaded p im with cores := b.cores, clusters := b.clusters } := by rw [hb, State.requeued_only, State.relented_only]
  have fes : ∀ n, b.fe n = s.fe n := fun n => by rw [only]; rfl
  obtain ⟨d, hd⟩ : ∃ d, d = b.reheaded p im := ⟨_, rfl⟩
  obtain ⟨rest, -⟩ := b.reheaded_only p im
  rw [← hd] at rest
  have dfe : ∀ n, d.fe n = s.fe n := fun n => by
    rw [hd, State.reheaded_same fun x hx => by rw [fes]; exact heads x hx]
    exact fes n
  obtain ⟨e, he⟩ : ∃ e, e = d.onPart p.id (·.back im) := ⟨_, rfl⟩
  have tables : e = { d with parts := e.parts } := by rw [he, State.onPart_only]
  have held : ∀ x ∈ im.pins, ∃ l ∈ e.l2, l.line = x.1 := by rw [tables, rest, only]; exact pins
  have pinned := State.restorePins_only (part := p.id) held
  have absent : (e.restorePins p.id im.pins).endAbsent p.id = e.restorePins p.id im.pins := State.endAbsent_idle fun x hx own => by
    obtain ⟨k, hk⟩ := Tab.mem_vals.1 hx
    rw [pinned, tables, rest, only] at hk
    have away : (k, x) ∈ s.tasks.filter (fun y => y.2.part != p.id) := by
      simpa [State.reloaded, none, State.unload] using hk
    exact absurd own (by simpa using (List.mem_filter.1 away).2)
  have made : s.restoreImage p im = e.restorePins p.id im.pins := by
    rw [State.restoreImage_steps, State.regained, ← hb, ← hd, ← he, absent]
  rw [made, pinned, ← dfe]
  exact State.fe_congr (by rw [tables]) n

/-- A partition, with what its new slice has set, stands under its number in a state that is otherwise as it was but for the tables that a
checkpoint gives back. -/
structure Begun (s t : State) (n : Nat) (r : Part) : Prop where
  only : t = { s with warps := t.warps, tasks := t.tasks, jobs := t.jobs, ops := t.ops, contribs := t.contribs, past := t.past
                      cores := t.cores, clusters := t.clusters, fes := t.fes, parts := t.parts, l2 := t.l2 }
  fes : ∀ m, t.fe m = s.fe m
  part : t.part n = some r
  others : ∀ m, m ≠ n → t.part m = s.part m

/-- Of a partition only the slice, its instants and the rounds due differ. -/
def Part.slicedAs (q r : Part) : Prop := r = { q with active := r.active, sliceEnd := r.sliceEnd, ckNext := r.ckNext, roundsDue := r.roundsDue }

theorem State.pins_snapshot {s : State} {p : Part} : ∀ x ∈ (s.snapshot p).pins, ∃ l ∈ s.l2, l.line = x.1 := by
  intro x hx
  obtain ⟨l, hl, hx⟩ := List.mem_flatMap.1 hx
  obtain ⟨c, -, rfl⟩ := List.mem_map.1 hx
  exact ⟨l, (List.mem_filter.1 hl).1, rfl⟩

theorem State.tasks_snapshot {s : State} {p : Part} (none : ∀ x ∈ s.tasks, x.2.part ≠ p.id) : (s.snapshot p).tasks = [] := by
  refine List.filter_eq_nil_iff.2 fun x hx own => ?_
  obtain ⟨k, hk⟩ := Tab.mem_vals.1 hx
  exact none _ hk (beq_iff_eq.1 own)

theorem State.heads_snapshot {s : State} {p : Part} : ∀ x ∈ (s.snapshot p).heads, x.2 = ((s.fe x.1).head, (s.fe x.1).cidx) := by
  intro x hx
  obtain ⟨n, -, rfl⟩ := List.mem_map.1 hx
  rfl

/-- A partition with no task, whose checkpoint has just been taken, starts its slice as it is. -/
theorem State.startSlice_begun {s : State} {n : Nat} {q : Part} (hq : s.part n = some q) (id : q.id = n) (none : ∀ x ∈ s.tasks, x.2.part ≠ n) {e : Word}
    (him : q.image = some { s.snapshot q with epoch := e }) : ∃ r, q.slicedAs r ∧ Begun s (s.startSlice n) n r := by
  subst id
  unfold State.startSlice
  rw [hq]
  dsimp only
  split
  · exact ⟨q, rfl, rfl, fun _ => rfl, hq, fun _ _ => rfl⟩
  · rw [him]
    dsimp only
    have noTask : (s.snapshot q).tasks = [] := State.tasks_snapshot none
    have whole : s.whole q.id { s.snapshot q with epoch := e } :=
      ⟨State.pins_snapshot, fun x hx => absurd (noTask ▸ hx) List.not_mem_nil⟩
    have fes := State.restoreImage_fe (s := s) (p := q) (im := { s.snapshot q with epoch := e }) State.pins_snapshot noTask State.heads_snapshot
    obtain ⟨rest, -, parts, -⟩ := State.restoreImage_restored whole
    generalize s.restoreImage q { s.snapshot q with epoch := e } = t at rest parts fes
    have part : t.part q.id = some (q.back { s.snapshot q with epoch := e }) := by
      refine (congrArg (fun x => Tab.find x q.id) parts).trans ?_
      refine (State.part_onPart_same ..).trans ?_
      rw [hq]
      rfl
    have others : ∀ m, m ≠ q.id → t.part m = s.part m := fun m ne =>
      (congrArg (fun x => Tab.find x m) parts).trans (State.part_onPart_ne _ _ ne)
    rw [State.onPart_eq part]
    refine ⟨_, ?_, ?_, fes, State.part_putPart_same .., fun m ne => (State.part_putPart_ne _ _ ne).trans (others m ne)⟩
    · rfl
    · rw [State.putPart, rest]

end Sys2Proof.Machine
end

section
/-! SUPPORT. What a creation makes, and when it fails (10 R230). -/

namespace Sys2Proof.Machine

/-! ## When a creation fails -/

theorem createFails_clusters {s : State} {a : PartArg}
    (h : ∃ np ∈ s.parts, (a.sliced = false ∨ np.2.arg.sliced = false) ∧ a.clusters &&& np.2.clusters ≠ 0) : s.createFails a = true := by
  obtain ⟨np, there, whole, shared⟩ := h
  have clash : argClash a np.2 = true := by
    have one : (!a.sliced || !np.2.arg.sliced) = true := by simpa using whole
    have two : ¬ a.clusters &&& np.2.clusters = 0#32 := shared
    simp [argClash, one, two]
  have any : s.parts.vals.any (argClash a) = true := List.any_eq_true.2 ⟨np.2, Tab.mem_vals.2 ⟨np.1, there⟩, clash⟩
  rw [State.createFails, any, Bool.or_true]

theorem createFails_absent {s : State} {a : PartArg} (h : a.clusters &&& ~~~s.clPres ≠ 0 ∨ a.channels &&& ~~~s.chPres ≠ 0) :
    s.createFails a = true := by
  have absent : s.present a = false := by
    unfold State.present
    rcases h with h | h
    · rw [beq_false_of_ne h, Bool.false_and, Bool.false_and]
    · rw [beq_false_of_ne h, Bool.and_false, Bool.false_and]
  simp [State.createFails, absent]

theorem createFails_colours {s : State} {a : PartArg} (h : 16 < chipColoursOf s a PartArg.chcol0 ∨ 16 < chipColoursOf s a PartArg.chcol1) :
    s.createFails a = true := by
  have many : s.coloursFit a = false := by
    simp only [chipColoursOf, List.map_cons, List.sum_cons, List.map_map] at h
    simp only [State.coloursFit, Bool.and_eq_false_iff, decide_eq_false_iff_not, Nat.not_le]
    exact h
  simp [State.createFails, many]

theorem nodup_of_sound {s : State} {a : PartArg} (h : s.createFails a = false) : (a.fes.map (·.fe)).Nodup := by
  have sound : argSound a = true := by
    unfold State.createFails at h
    cases e : argSound a
    · simp [e] at h
    · rfl
  simp only [argSound, Bool.and_eq_true, beq_iff_eq] at sound
  refine nodup_of_eraseDups _ ?_
  rw [List.length_map]
  exact sound.1.1.1.1.2

/-! ## What a creation makes -/

/-- The front end that a creation gives a partition. -/
def newFront (id : Nat) (f : FeArg) : FrontEnd := { FrontEnd.fresh with part := some id, clbase := f.clbase, cllimit := f.cllimit, ctx := f.ctx }

/-- The partition that a creation makes, before its slice. -/
def State.newPart (s : State) (a : PartArg) : Part := Part.create s.fresh a (fillUnits a.units s.cleanPool) s.clPres s.chPres

/-- The state with the partition, its clean units and its front ends taken. -/
def State.created (s : State) (a : PartArg) : State :=
  (({ s with fresh := s.fresh + 1, cleanPool := s.cleanPool.drop (a.units.filter (· < 384)).length } : State).setPart (s.newPart a)).setFes
    (newFront s.fresh) a.fes

/-- The state in which a time-sliced partition has its first checkpoint. -/
def State.createdSliced (s : State) (a : PartArg) : State :=
  (s.created a).putPart s.fresh { s.newPart a with image := some { (s.created a).snapshot (s.newPart a) with epoch := 0 } }

theorem State.created_sets {s : State} {a : PartArg} (apart : (a.fes.map (·.fe)).Nodup) :
    s.created a = { s with fresh := s.fresh + 1, cleanPool := s.cleanPool.drop (a.units.filter (· < 384)).length, parts := (s.created a).parts
                           fes := (s.created a).fes } ∧
    (s.created a).part s.fresh = some (s.newPart a) ∧ (∀ n, n ≠ s.fresh → (s.created a).part n = s.part n) ∧
    (∀ f ∈ a.fes, (s.created a).fe f.fe.toNat = newFront s.fresh f) ∧ ∀ n, (∀ f ∈ a.fes, f.fe.toNat ≠ n) → (s.created a).fe n = s.fe n := by
  obtain ⟨u, hu⟩ : ∃ u, u = ({ s with fresh := s.fresh + 1, cleanPool := s.cleanPool.drop (a.units.filter (· < 384)).length } : State).setPart (s.newPart a) :=
    ⟨_, rfl⟩
  have made : s.created a = u.setFes (newFront s.fresh) a.fes := by rw [hu]; rfl
  have fe : ∀ n, u.fe n = s.fe n := fun n => by rw [hu]; rfl
  obtain ⟨only, others, each⟩ := State.setFes_sets (newFront s.fresh) a.fes u
  rw [← made] at only others each
  have parts : (s.created a).parts = s.parts.set s.fresh (s.newPart a) := by rw [only, hu]; rfl
  refine ⟨?_, ?_, fun n ne => ?_, each apart, fun n away => (others n away).trans (fe n)⟩
  · rw [only, hu]
    rfl
  · rw [State.part, parts]
    exact Tab.find_set_same ..
  · rw [State.part, parts]
    exact Tab.find_set_ne _ _ ne

theorem exec_partitionCreate {s : State} {a : PartArg} (run : s.boot = .run) :
    (s.createFails a = true → Answered s (.partitionCreate a) 2) ∧
    (s.createFails a = false → s.cleanPool.length < (a.units.filter (· < 384)).length → Waits s (.partitionCreate a)) ∧
    (s.createFails a = false → (a.units.filter (· < 384)).length ≤ s.cleanPool.length →
      Makes s (.partitionCreate a) ((if a.sliced then (s.createdSliced a).startSlice s.fresh else s.created a).fwAnswer 0 (leBytes 4 s.fresh))) := by
  have acts : Makes s (.partitionCreate a) _ := (State.firmware_acts run : execPartitionCreate a s = _)
  refine ⟨fun fails => ?_, fun sound few => ?_, fun sound enough => ?_⟩
  · rwa [if_pos fails] at acts
  · rwa [if_neg (by rw [sound]; exact Bool.false_ne_true), if_pos few] at acts
  · rw [if_neg (by rw [sound]; exact Bool.false_ne_true), if_neg (by omega)] at acts
    have there := (State.created_sets (s := s) (nodup_of_sound sound)).2.1
    have taken : (s.created a).putPart s.fresh (s.newPart a) = s.created a :=
      congrArg (fun x => { s.created a with parts := x }) (Tab.set_self there)
    change Makes s _ (State.fwAnswer (if a.sliced then State.startSlice (State.onPart (s.created a) s.fresh _) s.fresh
      else State.onPart (s.created a) s.fresh _) 0 (leBytes 4 s.fresh)) at acts
    rw [State.onPart_eq there, show (s.newPart a).arg = a from rfl] at acts
    refine acts.trans (congrArg (fun u : State => Host.Outcome.next (u.fwAnswer 0 (leBytes 4 s.fresh))) ?_)
    split
    · rfl
    · exact taken

/-- The partition of a creation: what the argument names, and nothing else but the state of its slice. -/
theorem makes_partitionCreate {s : State} {a : PartArg} (run : s.boot = .run) (noTask : ∀ x ∈ s.tasks, x.2.part < s.fresh) (sound : s.createFails a = false)
    (enough : (a.units.filter (· < 384)).length ≤ s.cleanPool.length) :
    ∃ t r, Makes s (.partitionCreate a) (t.fwAnswer 0 (leBytes 4 s.fresh)) ∧ Begun (s.created a) t s.fresh r ∧
      ({ s.newPart a with image := r.image } : Part).slicedAs r ∧ r.image.isSome = a.sliced ∧ (a.sliced = false → t = s.created a) := by
  have acts := (exec_partitionCreate run).2.2 sound enough
  obtain ⟨only, there, -⟩ := State.created_sets (s := s) (nodup_of_sound sound)
  cases e : a.sliced with
  | false =>
    rw [e, if_neg Bool.false_ne_true] at acts
    exact ⟨_, s.newPart a, acts, ⟨rfl, fun _ => rfl, there, fun _ _ => rfl⟩, rfl, rfl, fun _ => rfl⟩
  | true =>
    rw [e, if_pos rfl] at acts
    have free : ∀ x ∈ (s.createdSliced a).tasks, x.2.part ≠ s.fresh := fun x hx => by
      have hx : x ∈ (s.created a).tasks := hx
      rw [only] at hx
      exact Nat.ne_of_lt (noTask x hx)
    obtain ⟨r, as, begun⟩ := State.startSlice_begun (s := s.createdSliced a) (State.part_putPart_same ..) rfl free rfl
    have image : r.image = some { (s.created a).snapshot (s.newPart a) with epoch := 0 } := congrArg Part.image as
    refine ⟨_, r, acts, ⟨begun.only, begun.fes, begun.part, fun m ne => ?_⟩, ?_, ?_, nofun⟩
    · exact (begun.others m ne).trans (State.part_putPart_ne _ _ ne)
    · rw [image]
      exact as
    · rw [image]
      rfl

end Sys2Proof.Machine
end

section
/-! SUPPORT. What goes with a partition, or with the units it releases, and the scrub of a unit (10 R233). -/

namespace Sys2Proof.Machine

/-! ## Units that are forgotten -/

theorem State.part_forgetUnits (s : State) (units : List Nat) (n : Nat) : (s.forgetUnits units).part n = (s.part n).map (·.without units) :=
  Tab.find_map s.parts (fun _ p => p.without units) n

/-- The arguments of MEMORY_RELEASE are good: units of the partition, each named once. -/
def releaseGood (p : Part) (units : List Nat) : Prop := (∀ u ∈ units, ∃ x ∈ p.units, x.2 = u) ∧ units.eraseDups.length = units.length

theorem releaseGood_iff {p : Part} {units : List Nat} : releaseGood p units ↔
    (!units.all (fun u => p.units.vals.contains u) || units.eraseDups.length != units.length) = false := by
  have mem : ∀ u, u ∈ p.units.vals ↔ ∃ x ∈ p.units, x.2 = u := fun u => by simp [Tab.vals]
  simp only [releaseGood, Bool.or_eq_false_iff, Bool.not_eq_false', List.all_eq_true, List.contains_iff_mem, mem, bne_eq_false_iff_eq]

theorem makes_memoryRelease {s : State} {part : Nat} {units : List Nat} {p : Part} (run : s.boot = .run) (hp : s.part part = some p) :
    (¬ releaseGood p units → Answered s (.memoryRelease part units) 2) ∧
    (releaseGood p units → s.reaching part units = true → Waits s (.memoryRelease part units)) ∧
    (releaseGood p units → s.reaching part units = false → ∃ t, Makes s (.memoryRelease part units) t ∧
      (∀ n, n ≠ part → t.part n = (s.part n).map (·.without (units.filter (· < 384)))) ∧
      t.part part = some ({ p with units := p.units.filter (fun x => !units.contains x.2) }.without (units.filter (· < 384))) ∧
      t = { s with parts := t.parts, scrubQ := s.scrubQ ++ units.filter (· < 384), fwResp := response 0 [], fwBusy := false
                   copies := s.copies.filter (fun c => !(units.filter (· < 384)).contains (c.line / 2 ^ 23))
                   l2 := s.l2.filter (fun l => !(units.filter (· < 384)).contains (l.line / 2 ^ 23))
                   l1 := s.l1.filter (fun l => !(units.filter (· < 384)).contains (l.line / 2 ^ 23)) }) := by
  have acts : Makes s (.memoryRelease part units) _ := (State.firmwareOn_acts run hp : execMemoryRelease part units s = _)
  refine ⟨fun bad => ?_, fun good stands => ?_, fun good free => ?_⟩
  · rwa [if_pos (Bool.of_not_eq_false fun e => bad (releaseGood_iff.2 e))] at acts
  · rwa [if_neg (by rw [releaseGood_iff.1 good]; exact Bool.false_ne_true), if_pos stands] at acts
  · rw [if_neg (by rw [releaseGood_iff.1 good]; exact Bool.false_ne_true), if_neg (by rw [free]; exact Bool.false_ne_true)] at acts
    refine ⟨_, acts, fun n ne => ?_, ?_, rfl⟩
    · refine (State.part_forgetUnits _ _ n).trans (congrArg (Option.map _) ?_)
      exact State.part_putPart_ne _ _ ne
    · refine (State.part_forgetUnits _ _ part).trans ?_
      exact congrArg (Option.map _) (State.part_putPart_same s part _)

/-! ## A unit is scrubbed -/

theorem makes_scrubUnit_other {s : State} {unit : Nat} (h : ∀ rest, s.scrubQ ≠ unit :: rest) : Makes s (.scrubUnit unit) s := by
  have other : (s.scrubQ.head? != some unit) = true := bne_iff_ne.2 fun e => by
    obtain ⟨rest, e⟩ := List.head?_eq_some_iff.1 e
    exact h rest e
  exact congrArg Host.Outcome.next (if_pos other)

theorem makes_scrubUnit {s : State} {unit : Nat} {rest : List Nat} (h : s.scrubQ = unit :: rest) : ∃ t, Makes s (.scrubUnit unit) t ∧
    t = { s with hbm := t.hbm, lines := t.lines, scrubbed := t.scrubbed, upsets := t.upsets, scrubQ := rest
                 cleanPool := s.cleanPool ++ [unit] } ∧
    (∀ a, t.hbm.mem.byte a = if a / 2 ^ 30 = unit then 0 else s.hbm.mem.byte a) ∧
    ∀ g, t.hbm.tags.contains g = (s.hbm.tags.contains g && decide (g / 2 ^ 26 ≠ unit)) := by
  have first : (s.scrubQ.head? != some unit) = false := by rw [h]; simp
  have drop : s.scrubQ.drop 1 = rest := by rw [h]; rfl
  refine ⟨_, congrArg Host.Outcome.next (if_neg (by rw [first]; exact Bool.false_ne_true)), ?_, fun a => ?_, fun g => ?_⟩
  · rw [drop]
  · refine (Memory.byte_clear ..).trans ?_
    by_cases e : a / 2 ^ 30 = unit
    · rw [if_pos e, if_pos (by omega)]
    · rw [if_neg e, if_neg (by omega)]
  · have keep : (decide (16 * g < unit * 2 ^ 30) || decide ((unit + 1) * 2 ^ 30 ≤ 16 * g)) = decide (g / 2 ^ 26 ≠ unit) := by
      rw [Bool.eq_iff_iff, Bool.or_eq_true, decide_eq_true_eq, decide_eq_true_eq, decide_eq_true_eq]
      omega
    rw [Bool.eq_iff_iff, Bool.and_eq_true, List.contains_iff_mem, List.contains_iff_mem, ← keep]
    exact List.mem_filter

/-! ## A partition is destroyed -/

/-- The event records of clusters that are not another partition's go. -/
theorem State.clearEvents_only (s : State) (part : Nat) (ks : List Nat) : ∃ cs, ks.foldl (fun s k =>
    let x := s.cluster k
    s.setCluster k { x with events := x.events.filter (fun r => r.part != part) }) s = { s with clusters := cs } := by
  refine List.foldlRecOn (motive := fun t : State => ∃ cs, t = { s with clusters := cs }) ks _ ⟨_, rfl⟩ fun t h k _ => ?_
  obtain ⟨cs, rfl⟩ := h
  exact ⟨_, rfl⟩

theorem State.freshFes_sets (ns : List Nat) : ∀ s : State, (∃ fs, ns.foldl (fun s n => s.setFe n FrontEnd.fresh) s = { s with fes := fs }) ∧
    ∀ n, (ns.foldl (fun s n => s.setFe n FrontEnd.fresh) s).fe n = if n ∈ ns then FrontEnd.fresh else s.fe n := by
  induction ns with
  | nil => exact fun s => ⟨⟨_, rfl⟩, fun _ => rfl⟩
  | cons m ns ih =>
    intro s
    obtain ⟨⟨fs, only⟩, each⟩ := ih (s.setFe m FrontEnd.fresh)
    refine ⟨⟨fs, ?_⟩, fun n => ?_⟩
    · rw [List.foldl_cons, only]
      rfl
    · rw [List.foldl_cons, each]
      by_cases later : n ∈ ns
      · rw [if_pos later, if_pos (List.mem_cons_of_mem m later)]
      · rw [if_neg later]
        by_cases e : n = m
        · rw [if_pos (List.mem_cons.2 (.inl e)), e]
          by_cases low : m < 16
          · exact State.fe_setFe_same _ low _
          · exact State.fe_high _ (Nat.not_lt.1 low)
        · rw [if_neg fun there => (List.mem_cons.1 there).elim e later]
          exact State.fe_setFe_ne _ e _

/-- What a destruction leaves before the units' lines are forgotten. -/
def State.emptied (s : State) (p : Part) : State :=
  let s := s.unload p
  let s := (s.fesOf p.id).foldl (fun s n => s.setFe n FrontEnd.fresh) s
  p.owns.foldl (fun s k =>
    let x := s.cluster k
    s.setCluster k { x with events := x.events.filter (fun r => r.part != p.id) }) s

theorem State.emptied_eq (s : State) (p : Part) : (∃ fs cs, s.emptied p = { s.unload p with fes := fs, clusters := cs }) ∧
    ∀ n, (s.emptied p).fe n = if (s.fe n).part = some p.id then FrontEnd.fresh else s.fe n := by
  obtain ⟨⟨fs, fronts⟩, each⟩ := State.freshFes_sets ((s.unload p).fesOf p.id) (s.unload p)
  obtain ⟨cs, events⟩ := State.clearEvents_only (((s.unload p).fesOf p.id).foldl (fun s n => s.setFe n FrontEnd.fresh) (s.unload p)) p.id p.owns
  refine ⟨⟨fs, cs, ?_⟩, fun n => ?_⟩
  · unfold State.emptied
    dsimp only
    rw [events, fronts]
  · have fe : (s.emptied p).fe n = (((s.unload p).fesOf p.id).foldl (fun s n => s.setFe n FrontEnd.fresh) (s.unload p)).fe n := by
      unfold State.emptied
      dsimp only
      rw [events]
      rfl
    have same : (s.unload p).fe n = s.fe n := rfl
    rw [fe, each, same]
    by_cases low : n < 16
    · simp only [State.mem_fesOf, low, true_and, same]
    · rw [State.fe_high s (Nat.not_lt.1 low), ite_self, ite_self]

theorem makes_partitionDestroy {s : State} {part : Nat} {p : Part} (run : s.boot = .run) (hp : s.part part = some p) (id : p.id = part) :
    let own := p.units.vals.filter (· < 384)
    ∃ t, Makes s (.partitionDestroy part) t ∧ t.fwResp = response 0 [] ∧ t.fwBusy = false ∧ t.part part = none ∧
      (∀ n, n ≠ part → t.part n = (s.part n).map (·.without own)) ∧
      t.scrubQ = s.scrubQ ++ own ∧ t.hbm = s.hbm ∧ t.hostMem = s.hostMem ∧
      t.warps = s.warps.filter (fun x => x.2.part != part) ∧ t.tasks = s.tasks.filter (fun x => x.2.part != part) ∧
      t.jobs = s.jobs.filter (fun x => x.2.part != part) ∧ t.ops = s.ops.filter (fun o => o.part != part) ∧
      (∀ n, t.fe n = if (s.fe n).part = some part then FrontEnd.fresh else s.fe n) ∧
      (∀ l, l ∈ t.l2 ↔ l ∈ s.l2 ∧ l.line / 2 ^ 23 ∉ own) ∧ (∀ c, c ∈ t.copies ↔ c ∈ s.copies ∧ c.line / 2 ^ 23 ∉ own) ∧
      (∀ l, l ∈ t.l1 ↔ l ∈ s.l1 ∧ l.line / 2 ^ 23 ∉ own) := by
  intro own
  subst id
  have acts : Makes s (.partitionDestroy p.id) _ := (State.firmwareOn_acts run hp : execPartitionDestroy p.id s = _)
  obtain ⟨⟨fs, cs, only⟩, fronts⟩ := s.emptied_eq p
  obtain ⟨u, hu⟩ : ∃ u, u = s.emptied p := ⟨_, rfl⟩
  change Makes s _ (State.fwAnswer (State.forgetUnits { s.emptied p with
    parts := (s.emptied p).parts.del p.id, scrubQ := (s.emptied p).scrubQ ++ own
    cores := (s.emptied p).cores.map (fun x => (x.1, { x.2 with icache := x.2.icache.filter (fun l => l.part != p.id) })) } own) 0 []) at acts
  rw [← hu] at acts only fronts
  have parts : u.parts = s.parts := by rw [only]; rfl
  have lines : ∀ {α : Type} (line : α → Nat) (xs : List α) x, x ∈ xs.filter (fun x => !own.contains (line x / 2 ^ 23)) ↔ x ∈ xs ∧ line x / 2 ^ 23 ∉ own := by
    intro α line xs x
    rw [List.mem_filter, Bool.not_eq_true', ← Bool.not_eq_true, List.contains_iff_mem]
  have field : ∀ {α : Type} (f : State → α), f u = f { s.unload p with fes := fs, clusters := cs } := fun f => congrArg f only
  refine ⟨_, acts, rfl, rfl, ?_, fun n ne => ?_, congrArg (· ++ own) (field State.scrubQ), field State.hbm, field State.hostMem, field State.warps,
    field State.tasks, field State.jobs, field State.ops, fronts, fun l => ?_, fun c => ?_, fun l => ?_⟩
  · refine (State.part_forgetUnits _ own _).trans ?_
    exact congrArg (Option.map (·.without own)) (Tab.find_del_same u.parts p.id)
  · refine (State.part_forgetUnits _ own n).trans (congrArg (Option.map _) ?_)
    exact (Tab.find_del_ne _ ne).trans (congrArg (fun x => Tab.find x n) parts)
  · refine (lines L2Line.line u.l2 l).trans ?_
    rw [show u.l2 = s.l2 from field State.l2]
  · refine (lines Copy.line u.copies c).trans ?_
    rw [show u.copies = s.copies from field State.copies]
  · refine (lines L1Line.line u.l1 l).trans ?_
    rw [show u.l1 = s.l1 from field State.l1]

end Sys2Proof.Machine
end

section
/-! O43 -/

namespace Sys2Proof.Machine

/-- A new partition's contexts are those that its front ends name. -/
theorem find_ctxs_newPart (s : State) (a : PartArg) (c : BitVec 6) :
    (s.newPart a).ctxs.find c = if a.fes.any (fun f => f.ctx == c) then some ⟨0, 0, 0, 0, 0⟩ else none := by
  refine (find_newCtxs a.fes c [] nofun).trans ?_
  rw [show (Tab.find ([] : Tab (BitVec 6) Context) c).isSome = false from rfl, Bool.or_false]

theorem units_newPart {s : State} {a : PartArg} (enough : (a.units.filter (· < 384)).length ≤ s.cleanPool.length) :
    (s.newPart a).units = (List.range a.units.length).zip (fillUnits a.units s.cleanPool) := by
  rw [← length_fillUnits a.units s.cleanPool enough]
  rfl

/-- Settles O43: what a creation makes, what a release and a destruction take away, and what a scrub clears. -/
theorem partitionLife : Obligations.PartitionLife := by
  unfold Obligations.PartitionLife
  refine ⟨fun s a run noTask => ?_, ⟨guarded_of fun _ _ => rfl, guarded_of fun _ _ => rfl⟩, fun _ _ _ run hp id => makes_partitionDestroy run hp id,
    fun _ _ _ _ run hp => makes_memoryRelease run hp, fun s unit => ⟨makes_scrubUnit_other, fun rest h _ => makes_scrubUnit h⟩⟩
  obtain ⟨fails, few, -⟩ := exec_partitionCreate (a := a) run
  refine ⟨fails, createFails_clusters, createFails_absent, createFails_colours, few, fun sound enough => ?_⟩
  obtain ⟨t, r, acts, begun, as, image, whole⟩ := makes_partitionCreate run noTask sound enough
  obtain ⟨only, -, others, fronts, away⟩ := State.created_sets (s := s) (nodup_of_sound sound)
  have field : ∀ {α : Type} (f : Part → α), f r = f { s.newPart a with image := r.image, active := r.active, sliceEnd := r.sliceEnd, ckNext := r.ckNext
                                                                       roundsDue := r.roundsDue } := fun f => congrArg f as
  refine ⟨_, r, acts, begun.part, ?_, fun e => ?_, fun n ne => (begun.others n ne).trans (others n ne), field Part.id, field Part.arg, field Part.clusters,
    field Part.chgrant, (field Part.lloc).trans ?_, (field Part.lrem).trans ?_, (field Part.flease).trans ?_, (field Part.fskew).trans ?_,
    field Part.windows, field Part.events, field Part.admNext, field Part.trace, field Part.debug, field Part.failed, image,
    (field Part.units).trans (units_newPart enough), fun c => (congrArg (Tab.find · c) (field Part.ctxs)).trans (find_ctxs_newPart s a c),
    fun f hf => (begun.fes _).trans (fronts f hf), fun n off => (begun.fes n).trans (away n off)⟩
  · rw [begun.only, only]
    rfl
  · rw [whole e, only]
    rfl
  · show (a.lloc.getD 256).setWidth 32 = _
    cases a.lloc <;> rfl
  · show (a.lrem.getD 2048).setWidth 32 = _
    cases a.lrem <;> rfl
  · show (a.flease.getD 1024).setWidth 32 = _
    cases a.flease <;> rfl
  · show (a.fskew.getD 200).setWidth 32 = _
    cases a.fskew <;> rfl

end Sys2Proof.Machine
end

section
/-! SUPPORT. A front end reads a command and writes its entry (10 R221, R225). -/

namespace Sys2Proof.Machine

/-! ## The entry of a command -/

/-- A front end of a time-sliced partition owes what it has written until the commit. -/
theorem State.owe_of {s : State} {fe part : Nat} {p : Part} (of : (s.fe fe).part = some part) (hp : s.part part = some p) :
    s.owe fe = if p.arg.sliced then s.setFe fe { s.fe fe with owes := true } else s := by
  have there : (s.fe fe).part.bind s.part = some p := by rw [of, Option.bind_some, hp]
  unfold State.owe
  dsimp only
  rw [there]

theorem OneFront.owe {s u : State} {fe : BitVec 4} {g : FrontEnd} (h : OneFront s u fe g) {part : Nat} {q : Part} (of : g.part = some part)
    (hq : s.part part = some q) : OneFront s (u.owe fe.toNat) fe { g with owes := q.arg.sliced || g.owes } := by
  rw [State.owe_of (by rw [h.2.1]; exact of) ((h.part part).trans hq), h.2.1]
  cases q.arg.sliced with
  | true => exact h.trans (.setFe u fe _)
  | false => exact h

theorem State.hostWrite_at_once {s : State} {part a : Nat} {bs : List Byte} {p : Part} (hp : s.part part = some p) (whole : p.arg.sliced = false) :
    s.hostWrite part a bs = { s with hostMem := s.hostMem.putAll a bs } := by
  unfold State.hostWrite
  rw [hp]
  exact if_neg (by rw [whole]; exact Bool.false_ne_true)

theorem State.hostWrite_holds {s : State} {part a : Nat} {bs : List Byte} {p : Part} (hp : s.part part = some p) (sliced : p.arg.sliced = true) :
    s.hostWrite part a bs = s.putPart part { p with heldFx := p.heldFx ++ [.hostWrite a bs] } := by
  unfold State.hostWrite
  rw [hp]
  exact if_pos sliced

/-- Where a front end's next entry goes. -/
def FrontEnd.entryAt (f : FrontEnd) : Nat := f.cbase.toNat / 16 * 16 + 16 * (f.cidx.toNat % 2 ^ (f.csize.toNat + 4))

/-- An entry written, the state's front end being set already: what is written at once, or held until the commit. -/
def State.entered (s : State) (part fe a : Nat) (bs : List Byte) (irq : Bool) : State :=
  let s := s.hostWrite part a bs
  if irq then s.raiseMsix part fe else s

theorem State.entered_at_once {s : State} {part fe a : Nat} {bs : List Byte} {irq : Bool} {p : Part} (hp : s.part part = some p)
    (whole : p.arg.sliced = false) : s.entered part fe a bs irq = { s with
      hostMem := s.hostMem.putAll a bs, irqs := if irq then s.irqs ++ [(s.irqFn p, fe)] else s.irqs } := by
  unfold State.entered
  dsimp only
  rw [State.hostWrite_at_once hp whole]
  cases irq with
  | false => rfl
  | true => exact State.raiseMsix_posts (s := { s with hostMem := s.hostMem.putAll a bs }) hp whole

theorem State.entered_holds {s : State} {part fe a : Nat} {bs : List Byte} {irq : Bool} {p : Part} (hp : s.part part = some p)
    (sliced : p.arg.sliced = true) : s.entered part fe a bs irq =
      s.putPart part { p with heldFx := p.heldFx ++ .hostWrite a bs :: (if irq then [.msix fe] else []) } := by
  unfold State.entered
  dsimp only
  rw [State.hostWrite_holds hp sliced]
  cases irq with
  | false => rfl
  | true =>
    rw [if_pos rfl, State.raiseMsix_holds (p := { p with heldFx := p.heldFx ++ [.hostWrite a bs] }) (State.part_putPart_same ..) sliced,
      if_pos rfl]
    exact (congrArg (fun x => { s with parts := x }) (Tab.set_set ..)).trans
      (congrArg (fun x => s.putPart part { p with heldFx := x }) (List.append_assoc ..))

theorem State.postEntry_of {s : State} {fe part n : Nat} {seq : Word} {irq : Bool} (of : (s.fe fe).part = some part) :
    s.postEntry fe seq n irq = ((s.setFe fe { s.fe fe with cidx := (s.fe fe).cidx + 1 }).owe fe).entered part fe (s.fe fe).entryAt
      (leBytes 16 (seq.toNat + n * 2 ^ 32 + s.gtime.toNat * 2 ^ 64)) irq := by
  unfold State.postEntry
  dsimp only
  split
  next e => rw [e] at of; cases of
  next k e =>
    obtain rfl : k = part := Option.some.inj (e.symm.trans of)
    rfl

/-- The front end after a command, before its entry: HEAD and the ring have gone on, and a time-sliced partition's owes it. -/
def FrontEnd.closing (f : FrontEnd) (sliced : Bool) : FrontEnd := { f with head := f.head + 1, cidx := f.cidx + 1, owes := sliced || f.owes }

/-- A command closed with a status: its front end has gone on, and its entry is written. -/
theorem State.closeCmd_enters {u : State} {fe : BitVec 4} {part n : Nat} {q : Part} {c : Cmd} (of : (u.fe fe.toNat).part = some part)
    (hq : u.part part = some q) : ∃ w, OneFront u w fe ((u.fe fe.toNat).closing q.arg.sliced) ∧
      u.closeCmd fe.toNat c (.status n) = w.entered part fe.toNat (u.fe fe.toNat).entryAt
        (leBytes 16 (c.seq.toNat + n * 2 ^ 32 + u.gtime.toNat * 2 ^ 64)) c.irq := by
  generalize hf : u.fe fe.toNat = f at of
  have read : OneFront u (u.setFe fe.toNat { f with head := f.head + 1 }) fe { f with head := f.head + 1 } := .setFe u fe _
  have made : u.closeCmd fe.toNat c (.status n) = (u.setFe fe.toNat { f with head := f.head + 1 }).postEntry fe.toNat c.seq n c.irq := by
    rw [← hf]
    rfl
  generalize u.setFe fe.toNat { f with head := f.head + 1 } = v at read made
  have slot : OneFront v (v.setFe fe.toNat { v.fe fe.toNat with cidx := (v.fe fe.toNat).cidx + 1 }) fe { f with head := f.head + 1, cidx := f.cidx + 1 } := by
    rw [read.2.1]
    exact .setFe v fe _
  have gtime : v.gtime = u.gtime := by rw [read.1]
  have at' : (v.fe fe.toNat).entryAt = f.entryAt := by rw [read.2.1]; rfl
  rw [State.postEntry_of (by rw [read.2.1]; exact of), gtime, at'] at made
  exact ⟨_, (read.trans slot).owe of hq, made⟩

/-- What an entry written, or held until the commit, is of a command that completes. -/
theorem OneFront.replied {u w : State} {fe : BitVec 4} {part n : Nat} {q : Part} {c : Cmd} (hq : u.part part = some q)
    (h : OneFront u w fe ((u.fe fe.toNat).closing q.arg.sliced)) {t : State} (made : t = w.entered part fe.toNat (u.fe fe.toNat).entryAt
      (leBytes 16 (c.seq.toNat + n * 2 ^ 32 + u.gtime.toNat * 2 ^ 64)) c.irq) : Replied u t fe part c n ∧ t.warps = u.warps := by
  have hw : w.part part = some q := (h.part part).trans hq
  obtain ⟨only, here, others⟩ := h
  unfold FrontEnd.entryAt at made
  unfold Replied
  dsimp only
  cases e : q.arg.sliced with
  | false =>
    rw [State.entered_at_once hw e, State.irqFn_congr (s := u) (by rw [only])] at made
    have front : ∀ n, t.fe n = w.fe n := State.fe_congr (by rw [made])
    refine ⟨⟨fun m ne => (front m).trans (others m ne), q, hq, (front _).trans ?_, ?_⟩, ?_⟩
    · rw [here]
      rfl
    · rw [e, if_neg Bool.false_ne_true, made]
      rw [only]
    · rw [made, only]
  | true =>
    rw [State.entered_holds hw e] at made
    have one {r : Part} (e : t = w.putPart part r) : OnePart w t part r := e ▸ .putPart w part r
    obtain ⟨rest, there, apart⟩ := one made
    have front : ∀ n, t.fe n = w.fe n := State.fe_congr (by rw [rest])
    refine ⟨⟨fun m ne => (front m).trans (others m ne), q, hq, (front _).trans ?_, ?_⟩, ?_⟩
    · rw [here]
      rfl
    · rw [e, if_pos rfl]
      refine ⟨?_, fun m ne => (apart m ne).trans (by rw [only]; rfl), there⟩
      rw [rest, only]
    · rw [rest, only]

/-- A front end of a partition closes a command with a status. -/
theorem replied_closeCmd {u : State} {fe : BitVec 4} {part n : Nat} {q : Part} {c : Cmd} (of : (u.fe fe.toNat).part = some part)
    (hq : u.part part = some q) : Replied u (u.closeCmd fe.toNat c (.status n)) fe part c n ∧
      (u.closeCmd fe.toNat c (.status n)).warps = u.warps := by
  obtain ⟨w, front, made⟩ := State.closeCmd_enters (n := n) (c := c) of hq
  exact front.replied hq made

/-! ## A command is read -/

/-- A front end that stands ready to read a command reads it. -/
theorem Commanded.next {s : State} {fe : BitVec 4} {part : Nat} {p : Part} {c : Cmd} (h : Commanded s fe part p c) :
    s.nextCmd fe.toNat = some (part, p, c) := by
  obtain ⟨of, there, -, on, more, fits, whole, slice, acquired, ring, held, read, -⟩ := h
  have live : p.live = true := by
    rcases slice with e | ⟨e, began⟩
    · simp [Part.live, Part.open, whole, e]
    · simp [Part.live, Part.open, whole, e, began]
  have full : (s.fe fe.toNat).ringFull = false := beq_false_of_ne ring
  have room : (c.irq && p.fxTight) = false := by
    rcases held with e | e | e
    · rw [fxTight_whole e, Bool.and_false]
    · rw [e, Bool.false_and]
    · rw [e, Bool.and_false]
  have post : s.mayPost fe.toNat c.irq = true := by
    unfold State.mayPost
    dsimp only
    rw [full, of, Option.bind_some, there]
    simp [whole, room]
  have ready : (!(s.fe fe.toNat).qen || (s.fe fe.toNat).tail == (s.fe fe.toNat).head ||
      decide ((s.fe fe.toNat).size < ((s.fe fe.toNat).tail - (s.fe fe.toNat).head).toNat) || !p.live || (s.fe fe.toNat).ringFull ||
      decide (s.gtime.toNat < (s.fe fe.toNat).after.toNat)) = false := by
    rw [on, beq_false_of_ne more, live, full, decide_eq_false (by unfold FrontEnd.size; omega), decide_eq_false (by omega)]
    rfl
  have at' : Cmd.of (leNat (s.hostRead p ((s.fe fe.toNat).qbase.toNat / 64 * 64 + 64 * ((s.fe fe.toNat).head.toNat % (s.fe fe.toNat).size)) 64)) = c :=
    read.symm
  unfold State.nextCmd
  dsimp only
  rw [of]
  dsimp only
  rw [there]
  dsimp only
  rw [ready, if_neg Bool.false_ne_true, at', if_pos post]

theorem State.command_none {s : State} {fe : BitVec 4} {ops : Nat → Bool} {body : State → Part → Cmd → State × Did}
    (h : s.nextCmd fe.toNat = none) : s.command fe ops body = .next s := by
  unfold State.command
  rw [h]

section
variable {s : State} {fe : BitVec 4} {part : Nat} {p : Part} {c : Cmd} {ops : Nat → Bool} {body : State → Part → Cmd → State × Did}

theorem Commanded.other (h : Commanded s fe part p c) (other : ops c.op = false) : s.command fe ops body = .next s := by
  unfold State.command
  rw [h.next]
  dsimp only
  rw [other]
  rfl

theorem Commanded.unclear (h : Commanded s fe part p c) (its : ops c.op = true) (reserved : c.clear = false) :
    s.command fe ops body = .next (s.closeCmd fe.toNat c (.status 1)) := by
  unfold State.command
  rw [h.next]
  dsimp only
  rw [its, reserved, if_neg (by decide), if_pos (by decide)]

theorem Commanded.acts (h : Commanded s fe part p c) (its : ops c.op = true) (clear : c.clear = true) :
    s.command fe ops body = .next ((body s p c).1.closeCmd fe.toNat c (body s p c).2).watch := by
  unfold State.command
  rw [h.next]
  dsimp only
  rw [its, clear]
  rfl

/-- A command that completes with a status writes its entry in the state that its effect has left. -/
theorem Commanded.replies (h : Commanded s fe part p c) {i : Instr} (run : exec i s = s.command fe ops body) (its : ops c.op = true)
    (clear : c.clear = true) {u : State} {n : Nat} (did : body s p c = (u, .status n)) (of : (u.fe fe.toNat).part = some part)
    (there : u.part part ≠ none) (calm : u.unwatched) : ∃ t, Makes s i t ∧ Replied u t fe part c n := by
  obtain ⟨q, hq⟩ := Option.ne_none_iff_exists'.1 there
  obtain ⟨replied, warps⟩ := replied_closeCmd (n := n) (c := c) of hq
  refine ⟨_, run.trans (h.acts its clear), ?_⟩
  rw [did, State.watch_idle (by unfold State.unwatched; rw [warps]; exact calm)]
  exact replied

/-- A command that does nothing but complete. -/
theorem Commanded.completes (h : Commanded s fe part p c) {i : Instr} (run : exec i s = s.command fe ops body) (its : ops c.op = true)
    (clear : c.clear = true) {n : Nat} (did : body s p c = (s, .status n)) : ∃ t, Makes s i t ∧ Replied s t fe part c n :=
  h.replies run its clear did h.of (by rw [h.there]; exact nofun) h.calm

end

/-- The codes that an instruction of a front end reads. -/
def codesOf (i n : Nat) : Bool := if i = 0 ∨ 7 < i then n == 0 || decide (7 < n) else n == i

theorem codesOf_nop {i : Nat} (h : i = 0 ∨ 7 < i) : codesOf i = fun n => n == 0 || decide (7 < n) := funext fun _ => if_pos h
theorem codesOf_code {i : Nat} (h : ¬ (i = 0 ∨ 7 < i)) : codesOf i = (· == i) := funext fun _ => if_neg h

/-- Each command of a front end is read by one instruction. -/
theorem exec_commandOf (i : Nat) (fe : BitVec 4) (s : State) : ∃ body, exec (commandOf i fe) s = s.command fe (codesOf i) body := by
  match i with
  | 0 => exact codesOf_nop (.inl rfl) ▸ ⟨_, (rfl : execFeNop fe s = _)⟩
  | 1 => exact codesOf_code (i := 1) (by decide) ▸ ⟨_, (rfl : execLaunch fe s = _)⟩
  | 2 => exact codesOf_code (i := 2) (by decide) ▸ ⟨_, (rfl : execGrant fe s = _)⟩
  | 3 => exact codesOf_code (i := 3) (by decide) ▸ ⟨_, (rfl : execFeEvsig fe s = _)⟩
  | 4 => exact codesOf_code (i := 4) (by decide) ▸ ⟨_, (rfl : execEvreset fe s = _)⟩
  | 5 => exact codesOf_code (i := 5) (by decide) ▸ ⟨_, (rfl : execCntread fe s = _)⟩
  | 6 => exact codesOf_code (i := 6) (by decide) ▸ ⟨_, (rfl : execDrain fe s = _)⟩
  | 7 => exact codesOf_code (i := 7) (by decide) ▸ ⟨_, (rfl : execXtload fe s = _)⟩
  | i + 8 => exact codesOf_nop (i := i + 8) (.inr (by omega)) ▸ ⟨_, (rfl : execFeNop fe s = _)⟩

theorem makes_commandOf_none {s : State} {fe : BitVec 4} (h : s.nextCmd fe.toNat = none) (i : Nat) : Makes s (commandOf i fe) s := by
  obtain ⟨body, e⟩ := exec_commandOf i fe s
  exact e.trans (State.command_none h)

theorem makes_commandOf {s : State} {fe : BitVec 4} {part : Nat} {p : Part} {c : Cmd} (h : Commanded s fe part p c) :
    (c.clear = false → ∃ t, Makes s (commandOf c.op fe) t ∧ Replied s t fe part c 1) ∧
    (c.clear = true → c.op = 0 ∨ 7 < c.op → ∃ t, Makes s (.feNop fe) t ∧ Replied s t fe part c (if c.op = 0 then 0 else 1)) ∧
    (∀ i, i < 8 → i ≠ c.op → (i ≠ 0 ∨ c.op ≤ 7) → Makes s (commandOf i fe) s) := by
  refine ⟨fun reserved => ?_, fun clear code => ?_, fun i lt ne known => ?_⟩
  · obtain ⟨body, e⟩ := exec_commandOf c.op fe s
    have its : codesOf c.op c.op = true := by
      unfold codesOf
      split
      · simp only [Bool.or_eq_true, beq_iff_eq, decide_eq_true_eq]
        assumption
      · exact beq_self_eq_true _
    exact ⟨_, e.trans (h.unclear its reserved), (replied_closeCmd h.of h.there).1⟩
  · have its : (c.op == 0 || decide (7 < c.op)) = true := by simpa using code
    obtain ⟨t, made, replied⟩ := h.completes (i := .feNop fe) (rfl : execFeNop fe s = _) its clear rfl
    simp only [beq_iff_eq] at replied
    exact ⟨t, made, replied⟩
  · obtain ⟨body, e⟩ := exec_commandOf i fe s
    refine e.trans (h.other ?_)
    unfold codesOf
    split
    · simp; omega
    · exact beq_false_of_ne (Ne.symm ne)

end Sys2Proof.Machine
end

section
/-! SUPPORT. The commands of a front end but for LAUNCH and GRANT (10 R222, R224, 05 R127). -/

namespace Sys2Proof.Machine

section
variable {s : State} {fe : BitVec 4} {part : Nat} {p : Part} {c : Cmd}

theorem OneFront.refl (s : State) (fe : BitVec 4) : OneFront s s fe (s.fe fe.toNat) := ⟨rfl, rfl, fun _ _ => rfl⟩

/-! ## Events, counters, jobs -/

theorem Part.event_set (p : Part) (name : BitVec 16) (v : Word) :
    ({ p with events := p.events.set name v } : Part).event name = v ∧
    ∀ m, m ≠ name → ({ p with events := p.events.set name v } : Part).event m = p.event m := by
  refine ⟨?_, fun m ne => ?_⟩
  · exact congrArg (Option.getD · 0) (Tab.find_set_same p.events name v)
  · exact congrArg (Option.getD · 0) (Tab.find_set_ne p.events v ne)

theorem makes_evreset (h : Commanded s fe part p c) (clear : c.clear = true) (op : c.op = 4) :
    ∃ t u q, Makes s (.evreset fe) t ∧ Replied u t fe part c 0 ∧ OnePart s u part q ∧ q = { p with events := q.events } ∧
      q.event (BitVec.ofNat 16 c.arg0) = 0 ∧ ∀ m, m ≠ BitVec.ofNat 16 c.arg0 → q.event m = p.event m := by
  obtain ⟨zero, others⟩ := p.event_set (BitVec.ofNat 16 c.arg0) 0
  obtain ⟨q, hq⟩ : ∃ q, q = { p with events := p.events.set (BitVec.ofNat 16 c.arg0) 0 } := ⟨_, rfl⟩
  have did : s.onPart p.id (fun p => { p with events := p.events.set (BitVec.ofNat 16 c.arg0) 0 }) = s.putPart part q := by
    rw [h.id, State.onPart_eq h.there, hq]
  rw [← hq] at zero others
  obtain ⟨t, made, replied⟩ := h.replies (i := .evreset fe) (rfl : execEvreset fe s = _) (beq_iff_eq.2 op) clear (congrArg (·, Did.status 0) did) h.of
    (by rw [State.part_putPart_same]; exact nofun) h.calm
  exact ⟨t, _, q, made, replied, .putPart s part q, by rw [hq], zero, others⟩

theorem makes_drain (h : Commanded s fe part p c) (clear : c.clear = true) (op : c.op = 6) :
    ((∃ j ∈ s.jobs, j.2.fe = fe.toNat) → Makes s (.drain fe) s) ∧
    ((∀ j ∈ s.jobs, j.2.fe ≠ fe.toNat) → ∃ t, Makes s (.drain fe) t ∧ Replied s t fe part c 0) := by
  have jobs : s.jobs.vals.any (fun j => j.fe == fe.toNat) = true ↔ ∃ j ∈ s.jobs, j.2.fe = fe.toNat := by simp [Tab.vals]
  refine ⟨fun some => ?_, fun none => ?_⟩
  · have acts : exec (.drain fe) s = _ := (rfl : execDrain fe s = _).trans (h.acts (beq_iff_eq.2 op) clear)
    simp only [jobs.2 some, if_true] at acts
    exact acts.trans (congrArg Host.Outcome.next (State.watch_idle h.calm))
  · have ended : s.jobs.vals.any (fun j => j.fe == fe.toNat) = false := Bool.eq_false_iff.2 fun e => by
      obtain ⟨j, there, its⟩ := jobs.1 e
      exact none j there its
    exact h.completes (i := .drain fe) (rfl : execDrain fe s = _) (beq_iff_eq.2 op) clear (by rw [ended]; rfl)

/-- The 16 bytes of CNTREAD: the counts of a context. -/
def Context.counts (x : Context) : List Byte := leBytes 8 x.fills.toNat ++ leBytes 8 x.wbacks.toNat

/-- CNTREAD completes where its bytes have been written, or are held. -/
theorem cntread_replies (h : Commanded s fe part p c) (clear : c.clear = true) (op : c.op = 5) {x : Context} (hx : p.ctxs.find (s.fe fe.toNat).ctx = some x)
    {u : State} (did : (s.owe fe.toNat).hostWrite part c.arg0 x.counts = u) (of : (u.fe fe.toNat).part = some part) (there : u.part part ≠ none)
    (calm : u.unwatched) : ∃ t, Makes s (.cntread fe) t ∧ Replied u t fe part c 0 := by
  have found : s.feCtx fe.toNat p = some x := hx
  refine h.replies (i := .cntread fe) (rfl : execCntread fe s = _) (beq_iff_eq.2 op) clear ?_ of there calm
  rw [found, h.id, ← did]
  rfl

theorem makes_cntread_whole (h : Commanded s fe part p c) (clear : c.clear = true) (op : c.op = 5) {x : Context}
    (hx : p.ctxs.find (s.fe fe.toNat).ctx = some x) (whole : p.arg.sliced = false) :
    ∃ t u, Makes s (.cntread fe) t ∧ Replied u t fe part c 0 ∧ u = { s with hostMem := s.hostMem.putAll c.arg0 x.counts } := by
  have did : (s.owe fe.toNat).hostWrite part c.arg0 x.counts = { s with hostMem := s.hostMem.putAll c.arg0 x.counts } := by
    rw [State.owe_of h.of h.there, if_neg (by rw [whole]; exact Bool.false_ne_true), State.hostWrite_at_once h.there whole]
  generalize hu : ({ s with hostMem := s.hostMem.putAll c.arg0 x.counts } : State) = u at did
  have front : u.fe fe.toNat = s.fe fe.toNat := State.fe_congr (by rw [← hu]) _
  have parts : u.parts = s.parts := by rw [← hu]
  have warps : u.warps = s.warps := by rw [← hu]
  obtain ⟨t, made, replied⟩ := cntread_replies h clear op hx did (by rw [front]; exact h.of)
    (by unfold State.part; rw [parts]; exact fun none => nomatch h.there.symm.trans none)
    (by unfold State.unwatched; rw [warps]; exact h.calm)
  exact ⟨t, u, made, replied, rfl⟩

theorem makes_cntread_sliced (h : Commanded s fe part p c) (clear : c.clear = true) (op : c.op = 5) {x : Context}
    (hx : p.ctxs.find (s.fe fe.toNat).ctx = some x) (sliced : p.arg.sliced = true) :
    ∃ t u, Makes s (.cntread fe) t ∧ Replied u t fe part c 0 ∧ ∃ v, OneFront s v fe { s.fe fe.toNat with owes := true } ∧
      OnePart v u part { p with heldFx := p.heldFx ++ [.hostWrite c.arg0 x.counts] } := by
  have owes : s.owe fe.toNat = s.setFe fe.toNat { s.fe fe.toNat with owes := true } := by rw [State.owe_of h.of h.there, if_pos sliced]
  have front : OneFront s (s.owe fe.toNat) fe { s.fe fe.toNat with owes := true } := owes ▸ .setFe s fe _
  have did := State.hostWrite_holds (a := c.arg0) (bs := x.counts) ((front.part part).trans h.there) sliced
  have held := OnePart.putPart (s.owe fe.toNat) part { p with heldFx := p.heldFx ++ [.hostWrite c.arg0 x.counts] }
  generalize hu : (s.owe fe.toNat).putPart part { p with heldFx := p.heldFx ++ [.hostWrite c.arg0 x.counts] } = u at did held
  obtain ⟨only, there, -⟩ := held
  have fes : u.fe fe.toNat = (s.owe fe.toNat).fe fe.toNat := State.fe_congr (by rw [only]) _
  have warps : u.warps = s.warps := by rw [only, front.1]
  obtain ⟨t, made, replied⟩ := cntread_replies h clear op hx did (by rw [fes, front.2.1]; exact h.of) (fun none => nomatch there.symm.trans none)
    (by unfold State.unwatched; rw [warps]; exact h.calm)
  exact ⟨t, u, made, replied, _, front, hu ▸ .putPart ..⟩

theorem makes_cntread (h : Commanded s fe part p c) (clear : c.clear = true) (op : c.op = 5) {x : Context} (hx : p.ctxs.find (s.fe fe.toNat).ctx = some x) :
    let bs := leBytes 8 x.fills.toNat ++ leBytes 8 x.wbacks.toNat
    ∃ t u, Makes s (.cntread fe) t ∧ Replied u t fe part c 0 ∧
      if p.arg.sliced then ∃ v, OneFront s v fe { s.fe fe.toNat with owes := true } ∧ OnePart v u part { p with heldFx := p.heldFx ++ [.hostWrite c.arg0 bs] }
      else u = { s with hostMem := s.hostMem.putAll c.arg0 bs } := by
  intro bs
  split
  next sliced => exact makes_cntread_sliced h clear op hx sliced
  next whole => exact makes_cntread_whole h clear op hx (Bool.eq_false_iff.2 whole)

/-! ## XTLOAD (05 R127) -/

theorem makes_xtload (h : Commanded s fe part p c) (clear : c.clear = true) (op : c.op = 7) :
    (8 ≤ c.arg1 ∨ c.arg0 % 16 ≠ 0 → ∃ t, Makes s (.xtload fe) t ∧ Replied s t fe part c 1) ∧
    ∀ u, c.arg1 < 8 → c.arg0 % 16 = 0 →
      (∀ e, s.readVirtual part (s.fe fe.toNat).ctx false c.arg0 272 = (u, .error e) → u.unwatched → u.part part ≠ none →
        (u.fe fe.toNat).part = some part → ∃ t, Makes s (.xtload fe) t ∧ Replied u t fe part c 3) ∧
      (∀ bs q, s.readVirtual part (s.fe fe.toNat).ctx false c.arg0 272 = (u, .ok bs) → u.unwatched → u.part part = some q →
        (u.fe fe.toNat).part = some part → ∃ t v r, Makes s (.xtload fe) t ∧ OnePart u v part r ∧ Replied v t fe part c 0 ∧
          r = { q with xtables := r.xtables } ∧ r.xtables.find (BitVec.ofNat 3 c.arg1) = some bs ∧
          ∀ n, n ≠ BitVec.ofNat 3 c.arg1 → r.xtables.find n = q.xtables.find n) := by
  have code : (c.op == 7) = true := beq_iff_eq.2 op
  refine ⟨fun bad => ?_, fun u table aligned => ?_⟩
  · refine h.completes (i := .xtload fe) (rfl : execXtload fe s = _) code clear (if_pos ?_)
    simp only [Bool.or_eq_true, bne_iff_ne, ne_eq]
    omega
  · have good : (c.arg1 / 8 != 0 || c.arg0 % 16 != 0) = false := by
      simp only [Bool.or_eq_false_iff, bne_eq_false_iff_eq]
      omega
    refine ⟨fun e read calm there of => ?_, fun bs q read calm hq of => ?_⟩
    · refine h.replies (i := .xtload fe) (rfl : execXtload fe s = _) code clear ?_ of there calm
      rw [good, if_neg Bool.false_ne_true, h.id, read]
    · obtain ⟨r, hr⟩ : ∃ r, r = { q with xtables := q.xtables.set (BitVec.ofNat 3 c.arg1) bs } := ⟨_, rfl⟩
      obtain ⟨t, made, replied⟩ := h.replies (i := .xtload fe) (u := u.putPart part r) (n := 0) (rfl : execXtload fe s = _) code clear (by
        rw [good, if_neg Bool.false_ne_true, h.id, read]
        dsimp only
        rw [State.onPart_eq hq, hr]) of (by rw [State.part_putPart_same]; exact nofun) calm
      refine ⟨t, _, r, made, .putPart u part r, replied, by rw [hr], ?_, fun n ne => ?_⟩
      · rw [hr]
        exact Tab.find_set_same ..
      · rw [hr]
        exact Tab.find_set_ne _ _ ne

end

end Sys2Proof.Machine
end

section
/-! SUPPORT. An event is counted: what becomes of the tasks that waited leaves the front ends and every count alone (03 R75). -/

namespace Sys2Proof.Machine

/-- The front ends are as they were, and so are the counts of every partition's events. -/
structure Counting (s t : State) : Prop where
  fes : t.fes = s.fes
  events : ∀ n, (t.part n).map Part.events = (s.part n).map Part.events

namespace Counting
variable {s t u : State}

theorem refl (s : State) : Counting s s := ⟨rfl, fun _ => rfl⟩

theorem trans (h : Counting s t) (g : Counting t u) : Counting s u := ⟨g.fes.trans h.fes, fun n => (g.events n).trans (h.events n)⟩

theorem same (h : Counting s t) (fes : u.fes = t.fes) (parts : u.parts = t.parts) : Counting s u :=
  h.trans ⟨fes, fun n => congrArg (fun x => (Tab.find x n).map Part.events) parts⟩

theorem foldl {α : Type} {f : State → α → State} {xs : List α} (h : Counting s t) (step : ∀ t x, Counting s t → Counting s (f t x)) :
    Counting s (xs.foldl f t) :=
  List.foldlRecOn (motive := Counting s) xs f h fun t h x _ => step t x h

theorem onPart (h : Counting s t) {n : Nat} {f : Part → Part} (kept : ∀ p, (f p).events = p.events) : Counting s (t.onPart n f) :=
  h.trans ⟨by rw [State.onPart_only], t.part_onPart_map n Part.events kept⟩

theorem putPart (h : Counting s t) {n : Nat} {p q : Part} (hp : t.part n = some p) (kept : q.events = p.events) : Counting s (t.putPart n q) := by
  refine h.trans ⟨rfl, fun m => ?_⟩
  by_cases e : m = n
  · rw [e, State.part_putPart_same, hp, Option.map_some, Option.map_some, kept]
  · rw [State.part_putPart_ne _ _ e]

theorem uncounted (h : Counting s t) (fes : u.fes = t.fes) (parts : ∀ n, (u.part n).map Part.uncounted = (t.part n).map Part.uncounted) :
    Counting s u := by
  refine h.trans ⟨fes, fun n => ?_⟩
  have read : ∀ x : Option Part, x.map Part.events = (x.map Part.uncounted).map Part.events := fun x => by rw [Option.map_map]; rfl
  rw [read, parts, ← read]

theorem trace (h : Counting s t) {part kind cluster core slot data : Nat} : Counting s (t.trace part kind cluster core slot data) := by
  unfold State.trace
  split
  next => exact h
  next p hp =>
    split
    next => exact h
    next x _ =>
      have moved := h.putPart (q := { p with trace := some { x with pos := (x.pos + 32) % (x.size / 32 * 32) } }) hp rfl
      split
      next => exact h
      next =>
        dsimp only
        split
        next => exact moved
        next => exact moved.same rfl rfl

theorem setTask (h : Counting s t) {x : Task} : Counting s (t.setTask x) := h.same rfl rfl

theorem traceCrew (h : Counting s t) {x : Task} {kind extra : Nat} : Counting s (t.traceCrew x kind extra) := h.trace

theorem callRound (h : Counting s t) {part : Nat} : Counting s (t.callRound part) := h.onPart fun _ => rfl

theorem placeWarps (h : Counting s t) {x : Task} {lo hi : Nat} : Counting s (t.placeWarps x lo hi) :=
  have placing := t.placeWarps_placing x lo hi
  h.uncounted (by rw [placing.rest]) placing.parts

theorem parkWarp (h : Counting s t) {c : CoreKey} {n : Nat} {w : Warp} : Counting s (State.parkWarp c n t w) :=
  have parked : Counting s (t.setWarp { w with parked := true, revs := w.revs + 1, paths := w.paths.map (·.unarrive t.gtime) }) := h.same rfl rfl
  parked.trace

theorem revoke (h : Counting s t) {c : CoreKey} {away : Bool} {lines : Nat} : Counting s (t.revoke c away lines) := by
  obtain ⟨n, d, x, e⟩ := t.revoke_eq c away lines
  rw [e]
  have drawn : Counting s ({ t with draws := d }.setCore c x) := h.same rfl rfl
  exact drawn.foldl fun _ _ h => h.parkWarp

theorem demandLines (h : Counting s t) {x : Task} {k : Nat} {cores : List Nat} : Counting s (t.demandLines x k cores) := by
  refine h.foldl fun t y h => ?_
  dsimp only
  split
  · exact h.revoke
  · exact h

theorem takePlace (h : Counting s t) {x : Task} : Counting s (t.takePlace x) := by
  unfold State.takePlace
  split
  · exact h.demandLines.placeWarps
  · exact h

theorem takeAdm (h : Counting s t) {part : Nat} : Counting s (t.takeAdm part).2 := by
  unfold State.takeAdm
  split
  next p hp => exact h.putPart hp rfl
  next => exact h

theorem startHeld (h : Counting s t) {n : Nat} : Counting s (t.startHeld n) := by
  unfold State.startHeld
  split
  next => exact h
  next x hx =>
    dsimp only
    split
    · exact h.takePlace
    · exact (h.takePlace.takeAdm (part := x.part)).setTask.traceCrew

theorem makeReady (h : Counting s t) {n : Nat} : Counting s (t.makeReady n) := by
  unfold State.makeReady
  split
  next => exact h
  next x hx =>
    have named : Counting s { t with fresh := t.fresh + 1 } := h.same rfl rfl
    dsimp only [State.name]
    refine callRound ?_
    split
    · exact named.setTask.onPart fun _ => rfl
    · exact named.setTask

theorem settleTask (h : Counting s t) {x : Task} : Counting s (t.settleTask x) := by
  have named : Counting s { t with fresh := t.fresh + 1 } := h.same rfl rfl
  unfold State.settleTask
  split
  · split
    · exact h.setTask
    · exact h
  · split
    · exact h
    · exact h.setTask
  · split
    · exact h
    · exact h.setTask
  · split
    · exact named.setTask.callRound
    · exact h
  · exact h

/-- What a count does to a task that waits for it. -/
theorem rouse (h : Counting s t) {part : Nat} {name : BitVec 16} {n : Nat} {x : Task} : Counting s (State.rouse part name n t x) := by
  unfold State.rouse
  split
  · exact h
  · dsimp only
    split
    · split
      · exact h.setTask.makeReady
      · exact h.setTask
    · split
      · exact h.setTask.startHeld.callRound
      · exact h.setTask
    · exact h.setTask.settleTask
    · exact h.setTask

end Counting

/-- An event is counted, and no front end is changed. -/
theorem State.addEvent_counts {s : State} {part : Nat} {p : Part} {name : BitVec 16} (hp : s.part part = some p) (named : name ≠ 0) (amount : Nat) :
    (s.addEvent part name amount).fes = s.fes ∧ ∃ q, (s.addEvent part name amount).part part = some q ∧
      (q.event name).toNat = min ((p.event name).toNat + amount) 0xFFFFFFFF ∧ ∀ m, m ≠ name → q.event m = p.event m := by
  rw [State.addEvent_eq hp named]
  obtain ⟨n, hn⟩ : ∃ n, n = min ((p.event name).toNat + amount) (2 ^ 32 - 1) := ⟨_, rfl⟩
  obtain ⟨set, others⟩ := p.event_set name (BitVec.ofNat 32 n)
  have counting := (Counting.refl (s.putPart part { p with events := p.events.set name (BitVec.ofNat 32 n) })).foldl
    (xs := s.tasks.vals.filter (fun x => x.part == part)) (f := State.rouse part name n) fun _ _ h => h.rouse
  obtain ⟨t, ht⟩ : ∃ t, t = (s.tasks.vals.filter (fun x => x.part == part)).foldl (State.rouse part name n)
    (s.putPart part { p with events := p.events.set name (BitVec.ofNat 32 n) }) := ⟨_, rfl⟩
  rw [← ht] at counting
  have made : t.fes = s.fes ∧ ∃ q, t.part part = some q ∧ (q.event name).toNat = n ∧ ∀ m, m ≠ name → q.event m = p.event m := by
    have events := counting.events part
    rw [State.part_putPart_same, Option.map_some] at events
    obtain ⟨q, hq, e⟩ := Option.map_eq_some_iff.1 events
    have event : ∀ m, q.event m = ({ p with events := p.events.set name (BitVec.ofNat 32 n) } : Part).event m := fun m =>
      congrArg (fun x => (Tab.find x m).getD 0) e
    refine ⟨counting.fes, q, hq, ?_, fun m ne => (event m).trans (others m ne)⟩
    rw [event, set, BitVec.toNat_ofNat, Nat.mod_eq_of_lt (by omega)]
  rw [ht, hn] at made
  exact made

end Sys2Proof.Machine
end

section
/-! SUPPORT. EVSIG, and the queueing of a task (10 R224, 03 R73-R75). -/

namespace Sys2Proof.Machine

section
variable {s : State} {fe : BitVec 4} {part : Nat} {p : Part} {c : Cmd}

/-! ## EVSIG -/

theorem feReleased_iff : s.feReleased fe.toNat p = true ↔ (s.fe fe.toNat).owes = false ∧ (s.fe fe.toNat).hzn.toNat ≤ s.gtime.toNat := by
  have time : releaseTime .host false (s.fe fe.toNat).hzn.toNat (s.fskew p) = some (s.fe fe.toNat).hzn.toNat := rfl
  unfold State.feReleased
  dsimp only
  rw [time]
  simp

theorem makes_feEvsig (h : Commanded s fe part p c) (clear : c.clear = true) (op : c.op = 3) :
    let name := BitVec.ofNat 16 c.arg0
    let released := (s.fe fe.toNat).owes = false ∧ (s.fe fe.toNat).hzn.toNat ≤ s.gtime.toNat
    (name = 0 → ∃ t, Makes s (.feEvsig fe) t ∧ Replied s t fe part c 1) ∧
    (name ≠ 0 → ¬ released → Makes s (.feEvsig fe) s) ∧
    (name ≠ 0 → released → (s.addEvent part name (c.arg1 % 2 ^ 32)).unwatched → ∃ t u q, Makes s (.feEvsig fe) t ∧ Replied u t fe part c 0 ∧
      u = s.addEvent part name (c.arg1 % 2 ^ 32) ∧ u.part part = some q ∧
      (q.event name).toNat = min ((p.event name).toNat + c.arg1 % 2 ^ 32) 0xFFFFFFFF ∧ ∀ m, m ≠ name → q.event m = p.event m) := by
  intro name released
  have code : (c.op == 3) = true := beq_iff_eq.2 op
  have unnamed : name = 0 ↔ c.arg0 % 2 ^ 16 = 0 := by
    constructor
    · exact fun e => (BitVec.toNat_ofNat c.arg0 16).symm.trans (congrArg BitVec.toNat e)
    · exact fun e => BitVec.eq_of_toNat_eq ((BitVec.toNat_ofNat c.arg0 16).trans e)
  refine ⟨fun none => ?_, fun named waits => ?_, fun named free calm => ?_⟩
  · exact h.completes (i := .feEvsig fe) (rfl : execFeEvsig fe s = _) code clear (if_pos (beq_iff_eq.2 (unnamed.1 none)))
  · have later : s.feReleased fe.toNat p = false := Bool.eq_false_iff.2 fun e => waits (feReleased_iff.1 e)
    have acts : exec (.feEvsig fe) s = _ := (rfl : execFeEvsig fe s = _).trans (h.acts code clear)
    rw [if_neg (by rw [beq_false_of_ne (mt unnamed.2 named)]; exact Bool.false_ne_true), later] at acts
    simp only [Bool.not_false, if_true] at acts
    exact acts.trans (congrArg Host.Outcome.next (State.watch_idle h.calm))
  · obtain ⟨fes, q, hq, counted, others⟩ := State.addEvent_counts h.there named (c.arg1 % 2 ^ 32)
    obtain ⟨t, made, replied⟩ := h.replies (i := .feEvsig fe) (u := s.addEvent part name (c.arg1 % 2 ^ 32)) (n := 0) (rfl : execFeEvsig fe s = _) code clear (by
      rw [if_neg (by rw [beq_false_of_ne (mt unnamed.2 named)]; exact Bool.false_ne_true), feReleased_iff.2 free, h.id]
      rfl) (by rw [State.fe_congr fes]; exact h.of) (by rw [hq]; exact nofun) calm
    exact ⟨t, _, q, made, replied, rfl, hq, counted, others⟩

end

/-! ## A task is queued (03 R73, R75) -/

/-- The waits of a record that no count of the partition meets. -/
def Part.unmet (p : Part) (r : TaskRec) : List (BitVec 16 × BitVec 16) := r.waits.filter (fun w => (p.event w.1).toNat < w.2.toNat)

theorem State.unmet_eq {s : State} {part : Nat} {p : Part} (hp : s.part part = some p) (r : TaskRec) :
    s.unmet part r = (p.unmet r).map (fun w => (w.1, w.2.setWidth 32)) := by
  unfold State.unmet Part.unmet
  rw [hp]
  dsimp only
  rw [List.filter_map]
  congr 1
  refine List.filter_congr fun w _ => ?_
  have small : w.2.toNat < 2 ^ 16 := w.2.isLt
  have wide : (w.2.setWidth 32).toNat = w.2.toNat := by rw [BitVec.toNat_setWidth, Nat.mod_eq_of_lt (by omega)]
  rw [Bool.eq_iff_iff]
  simp [Part.meets, wide]

theorem State.takeCells_names (s : State) (part : Nat) (ws : List (BitVec 16 × Word)) : (s.takeCells part ws).map (fun y => (y.1, y.2.1)) = ws := by
  unfold State.takeCells
  dsimp only
  rw [List.map_map]
  have zip : ∀ (ws : List (BitVec 16 × Word)) (is : List Nat), ws.length ≤ is.length → (ws.zip is).map (fun x => x.1) = ws := fun ws is h =>
    List.map_fst_zip h
  exact (List.map_congr_left fun _ _ => rfl).trans (zip ws _ (by simp))

/-- A task that is runnable stands as it has become, and no other task is changed. -/
theorem State.runnable_sets (s : State) (x y : Task) : (s.runnable x y).task y.id = some y ∧ (∀ n, n ≠ y.id → (s.runnable x y).task n = s.task n) ∧
    s.runnable x y = { s with fresh := (s.runnable x y).fresh, tasks := (s.runnable x y).tasks, parts := (s.runnable x y).parts } := by
  unfold State.runnable
  rw [State.onPart_only]
  exact ⟨Tab.find_set_same .., fun n ne => Tab.find_set_ne _ _ ne, rfl⟩

/-- A task is queued: it waits for what is unmet, or is runnable at once. -/
theorem State.queueTask_eq (s : State) (part job : Nat) (ctx : BitVec 6) (r : TaskRec) (k : KDesc) :
    let cells := State.takeCells { s with fresh := s.fresh + 1 } part (s.unmet part r)
    let x := { Task.queued s.fresh part job ctx r k with cells := cells }
    s.queueTask part job ctx r k = if cells = [] then (State.setTask { s with fresh := s.fresh + 1 } x).runnable x (x.readied (s.fresh + 1))
      else State.setTask { s with fresh := s.fresh + 1 } x := by
  intro cells x
  have ready : State.makeReady (State.setTask { s with fresh := s.fresh + 1 } x) s.fresh =
      (State.setTask { s with fresh := s.fresh + 1 } x).runnable x (x.readied (s.fresh + 1)) :=
    State.makeReady_eq (x := x) (State.task_setTask_same ..) rfl
  have made : s.queueTask part job ctx r k = if cells.isEmpty then State.makeReady (State.setTask { s with fresh := s.fresh + 1 } x) s.fresh
      else State.setTask { s with fresh := s.fresh + 1 } x := rfl
  rw [made, ready]
  simp only [List.isEmpty_iff]

/-- Queueing a task changes the tasks, and of its partition's record no more than what the dispatcher keeps. -/
theorem State.queueTask_queues {s : State} {part job : Nat} {ctx : BitVec 6} {r : TaskRec} {k : KDesc} {p : Part} (hp : s.part part = some p) :
    let t := s.queueTask part job ctx r k
    let unmet := r.waits.filter (fun w => (p.event w.1).toNat < w.2.toNat)
    ∃ x, t.task s.fresh = some x ∧ x.trec = r ∧ x.kd = k ∧ x.job = job ∧ x.ctx = ctx ∧ x.part = part ∧
      x.cells.map (fun y => (y.1, y.2.1)) = unmet.map (fun w => (w.1, w.2.setWidth 32)) ∧
      x.phase = (if unmet = [] then (if r.harv then .queued else .ready) else .waiting) ∧
      (∀ n, n ≠ s.fresh → t.task n = s.task n) ∧ t = { s with fresh := t.fresh, tasks := t.tasks, parts := t.parts } := by
  intro t unmet
  obtain ⟨cells, hcells⟩ : ∃ cells, cells = State.takeCells { s with fresh := s.fresh + 1 } part (s.unmet part r) := ⟨_, rfl⟩
  have names : cells.map (fun y => (y.1, y.2.1)) = unmet.map (fun w => (w.1, w.2.setWidth 32)) := by
    rw [hcells, State.takeCells_names, State.unmet_eq hp]
    rfl
  have none : cells = [] ↔ unmet = [] := by
    rw [← List.map_eq_nil_iff (f := fun y : BitVec 16 × Word × Bool => (y.1, y.2.1)), names, List.map_eq_nil_iff]
  have made : t = _ := s.queueTask_eq part job ctx r k
  dsimp only at made
  rw [← hcells] at made
  by_cases e : unmet = []
  · rw [if_pos (none.2 e)] at made
    obtain ⟨task, others, only⟩ := State.runnable_sets (State.setTask { s with fresh := s.fresh + 1 } { Task.queued s.fresh part job ctx r k with cells := cells })
      { Task.queued s.fresh part job ctx r k with cells := cells }
      (Task.readied { Task.queued s.fresh part job ctx r k with cells := cells } (s.fresh + 1))
    rw [← made] at task others only
    refine ⟨_, task, rfl, rfl, rfl, rfl, rfl, ?_, ?_, fun n ne => (others n ne).trans (State.task_setTask_ne _ ne), only⟩
    · rw [e]
      rfl
    · rw [if_pos e]
      rfl
  · rw [if_neg (mt none.1 e)] at made
    refine ⟨{ Task.queued s.fresh part job ctx r k with cells := cells }, ?_, rfl, rfl, rfl, rfl, rfl, names, ?_, fun n ne => ?_, ?_⟩
    · rw [made]
      exact State.task_setTask_same ..
    · rw [if_neg e]
      rfl
    · rw [made]
      exact State.task_setTask_ne _ ne
    · rw [made]
      rfl

end Sys2Proof.Machine
end

section
/-! SUPPORT. GRANT stores a capability at its home (10 R223, 06 R134). -/

namespace Sys2Proof.Machine

theorem mem_setAdd {x y : Nat} : ∀ {xs : List Nat}, y ∈ setAdd x xs ↔ y = x ∨ y ∈ xs
  | [] => by simp [setAdd]
  | z :: zs => by
    unfold setAdd
    split
    · exact List.mem_cons
    · split
      next e => rw [e]; simp
      next => rw [List.mem_cons, List.mem_cons, mem_setAdd]; tauto

/-- A store at a home leaves every storage but global memory. -/
theorem State.SameParts.area {s t : State} (same : s.SameParts t) (tasks : t.tasks = s.tasks) (clusters : t.clusters = s.clusters) {ar : Area}
    (other : ar ≠ .hbm) : t.area ar = s.area ar := by
  cases ar with
  | hbm => exact absurd rfl other
  | chip n => rw [State.area_chip, State.area_chip, same.map Part.chip (fun _ => rfl)]
  | shr n | scr n k | tile n => unfold State.area State.task; rw [tasks]
  | ws k => unfold State.area State.cluster; rw [clusters]
  | _ => rfl

/-- A granule holds a tag after a capability has been written: its own does, and every other one stands (05 R117). -/
theorem Store.tags_capability (st : Store) {dev : Nat} (aligned : dev % 16 = 0) {bs : List Byte} (whole : bs.length = 16) (g : Nat) :
    ((st.write dev bs).setTag dev true).tags.contains g = if g ∈ blocks 16 dev 16 then true && decide (16 ≤ 16) && g == dev / 16 else st.tags.contains g := by
  have granule : g ∈ blocks 16 dev 16 ↔ g = dev / 16 := by rw [mem_blocks]; omega
  have tags : ((st.write dev bs).setTag dev true).tags = setAdd (dev / 16) (st.tags.filter (fun g => !((blocks 16 dev bs.length).contains g))) := rfl
  rw [Bool.eq_iff_iff, tags, List.contains_iff_mem, mem_setAdd, whole, List.mem_filter]
  by_cases e : g = dev / 16
  · rw [if_pos (granule.2 e), e]
    simp
  · rw [if_neg (mt granule.1 e), List.contains_iff_mem]
    simp [granule, e]

/-- A store of a capability at its home. -/
def State.capStored (s : State) (part : Nat) (p : Part) (ctx : BitVec 6) (dev : Nat) (bs : List Byte) : State × Nat :=
  let s := s.l2Touch part ctx (dev / 128) true 0
  let (s, g) := s.homeStore part dev bs none (s.homeTime p (dev / 128))
  (s.setHbmTag dev true, g)

/-- A store at a home gives its line its GWCT (06 R134). -/
theorem State.homeStore_gwct (s : State) (part dev : Nat) (bs : List Byte) (who : Option WarpKey) (t : Nat) (tag : Bool) :
    ((s.homeStore part dev bs who t tag).1.lineInfo (dev / 128)).gwct = BitVec.ofNat 64 (s.homeStore part dev bs who t tag).2 := by
  obtain ⟨rest, -⟩ := (s.homeAccept dev bs who t tag).1.logLines_only part .hbm (blocks 128 dev bs.length)
  have lines : (s.homeStore part dev bs who t tag).1.lines = (s.homeAccept dev bs who t tag).1.lines := by
    simp only [State.homeStore, State.writeArea, State.setArea, State.area]
    rw [rest]
  have found : ∃ li, (s.homeAccept dev bs who t tag).1.lines = s.lines.set (dev / 128) li ∧ li.gwct = BitVec.ofNat 64 (s.homeStore part dev bs who t tag).2 :=
    ⟨_, rfl, rfl⟩
  obtain ⟨li, set, gwct⟩ := found
  rw [← gwct]
  unfold State.lineInfo
  rw [lines, set, Tab.find_set_same]
  rfl

theorem State.capStored_stores {s : State} (memOk : s.memOk = true) (part : Nat) (p : Part) (ctx : BitVec 6) {dev : Nat} (aligned : dev % 16 = 0)
    {bs : List Byte} (whole : bs.length = 16) :
    let t := (s.capStored part p ctx dev bs).1
    t = { s with fresh := t.fresh, parts := t.parts, hbm := t.hbm, lines := t.lines, l2 := t.l2 } ∧ s.SameParts t ∧
    (t.lineInfo (dev / 128)).gwct = BitVec.ofNat 64 (s.capStored part p ctx dev bs).2 ∧
    Landed s t (.hbm, dev, 16) bs ∧ Tagged s t (.hbm, dev, 16) true := by
  obtain ⟨touched, sameT⟩ := s.l2Touch_serves part ctx (dev / 128) true 0
  unfold State.capStored
  dsimp only
  generalize s.l2Touch part ctx (dev / 128) true 0 = u at touched sameT
  obtain ⟨stored, sameS⟩ := u.homeStore_only part dev bs none (u.homeTime p (dev / 128)) false
  have gwct := u.homeStore_gwct part dev bs none (u.homeTime p (dev / 128)) false
  generalize u.homeStore part dev bs none (u.homeTime p (dev / 128)) false = x at stored sameS gwct
  have only : x.1.setHbmTag dev true = { s with fresh := u.fresh, parts := x.1.parts, hbm := (s.hbm.write dev bs).setTag dev true, lines := x.1.lines, l2 := u.l2 } := by
    rw [State.setHbmTag, stored, touched]
  have same : s.SameParts (x.1.setHbmTag dev true) := sameT.trans sameS
  have others {ar : Area} (other : ar ≠ .hbm) : (x.1.setHbmTag dev true).area ar = s.area ar :=
    same.area (by rw [only]) (by rw [only]) other
  have hbm : (x.1.setHbmTag dev true).area .hbm = (s.hbm.write dev bs).setTag dev true := by rw [only]; rfl
  refine ⟨by rw [only], same, gwct, fun ar a => ?_, fun ar g => ?_⟩
  · by_cases e : ar = .hbm
    · rw [e, hbm]
      refine (Memory.byte_putAll (State.memOk_hbm memOk)).trans ?_
      rw [whole]
      simp [State.area]
    · rw [others e, if_neg (fun h => e h.1)]
  · by_cases e : ar = .hbm
    · rw [e, hbm, Store.tags_capability _ aligned whole]
      simp [State.area]
    · rw [others e, if_neg (fun h => e h.1)]

section
variable {s : State} {fe : BitVec 4} {part : Nat} {p : Part} {c : Cmd}

theorem grantable_iff {ctx : BitVec 6} {q : CapBits} : s.grantable p ctx q = true ↔ capGlobal q = true ∧ capSeal q = false ∧
    capBase q + capLen q ≤ 2 ^ 57 ∧
    s.mappedTo p ctx (capBase q + capLen q) ((capPerm q &&& (permW ||| permAtom)) != 0) (capLen q / 2 ^ 16 + 2) (capBase q) = true := by
  unfold State.grantable
  simp only [Bool.and_eq_true, Bool.not_eq_true', decide_eq_true_eq, and_assoc]

theorem makes_grant_refused (h : Commanded s fe part p c) (clear : c.clear = true) (op : c.op = 2) :
    let ctx := (s.fe fe.toNat).ctx
    let there := ∃ base size, s.leafOf p ctx c.arg0 = some (base, size, true, true)
    (c.arg0 % 16 ≠ 0 → ∃ t, Makes s (.grant fe) t ∧ Replied s t fe part c 1) ∧
    (c.arg0 % 16 = 0 → (2 ^ 57 ≤ c.arg0 ∨ ¬ there) → ∃ t, Makes s (.grant fe) t ∧ Replied s t fe part c 3) ∧
    (c.arg0 % 16 = 0 → c.arg0 < 2 ^ 57 → there → s.grantable p ctx c.capv = false → ∃ t, Makes s (.grant fe) t ∧ Replied s t fe part c 2) := by
  intro ctx there
  have code : (c.op == 2) = true := beq_iff_eq.2 op
  have done := fun n => h.completes (i := .grant fe) (n := n) (rfl : execGrant fe s = _) code clear
  refine ⟨fun odd => done 1 (if_pos (bne_iff_ne.2 odd)), fun even away => done 3 ?_, fun even low ⟨base, size, leaf⟩ bad => done 2 ?_⟩
  · refine (if_neg (by simpa using even)).trans ?_
    split
    · rfl
    next low =>
      have unmapped : ¬ there := away.resolve_left low
      split
      next base size leaf => exact absurd ⟨base, size, leaf⟩ unmapped
      next => rfl
  · refine (if_neg (by simpa using even)).trans ((if_neg (by omega)).trans ?_)
    rw [leaf]
    dsimp only
    rw [bad]
    rfl

theorem makes_grant (h : Commanded s fe part p c) (clear : c.clear = true) (op : c.op = 2) (even : c.arg0 % 16 = 0) (low : c.arg0 < 2 ^ 57)
    (there : ∃ base size, s.leafOf p (s.fe fe.toNat).ctx c.arg0 = some (base, size, true, true)) (sound : s.grantable p (s.fe fe.toNat).ctx c.capv = true)
    {u : State} {dev : Nat} (at' : s.translate part (s.fe fe.toNat).ctx c.arg0 .write false = (u, .ok dev)) (whole : p.arg.sliced = false)
    (live : u.part part ≠ none) (calm : u.unwatched) (memOk : u.memOk = true) (aligned : dev % 16 = 0) (fes : u.fes = s.fes) :
    ∃ t v g, Makes s (.grant fe) t ∧ Replied v t fe part c 0 ∧ (v.lineInfo (dev / 128)).gwct = BitVec.ofNat 64 g ∧
      v.fe fe.toNat = { s.fe fe.toNat with hzn := joinHzn (s.fe fe.toNat).hzn g } ∧ (∀ n, n ≠ fe.toNat → v.fe n = s.fe n) ∧
      v = { u with fes := v.fes, hbm := v.hbm, lines := v.lines, copies := v.copies, l2 := v.l2, parts := v.parts, fresh := v.fresh, draws := v.draws
                   warps := v.warps } ∧
      Landed u v (.hbm, dev, 16) (leBytes 16 c.capv.toNat) ∧ Tagged u v (.hbm, dev, 16) true := by
  have code : (c.op == 2) = true := beq_iff_eq.2 op
  obtain ⟨base, size, leaf⟩ := there
  obtain ⟨only, same, gwct, landed, tagged⟩ := State.capStored_stores memOk part p (s.fe fe.toNat).ctx aligned (length_leBytes 16 c.capv.toNat)
  obtain ⟨x, hx⟩ : ∃ x, x = u.capStored part p (s.fe fe.toNat).ctx dev (leBytes 16 c.capv.toNat) := ⟨_, rfl⟩
  rw [← hx] at only same gwct landed tagged
  have front : ∀ n, x.1.fe n = s.fe n := State.fe_congr (by rw [only, fes])
  obtain ⟨v, hv⟩ : ∃ v, v = x.1.setFe fe.toNat { x.1.fe fe.toNat with hzn := joinHzn (x.1.fe fe.toNat).hzn x.2 } := ⟨_, rfl⟩
  obtain ⟨rest, here, others⟩ : OneFront x.1 v fe { x.1.fe fe.toNat with hzn := joinHzn (x.1.fe fe.toNat).hzn x.2 } := hv ▸ .setFe x.1 fe _
  rw [front] at here
  obtain ⟨t, made, replied⟩ := h.replies (i := .grant fe) (u := v) (n := 0) (rfl : execGrant fe s = _) code clear (by
    refine (if_neg (by simpa using even)).trans ((if_neg (by omega)).trans ?_)
    rw [leaf]
    dsimp only
    rw [sound, h.id, at']
    dsimp only
    rw [whole, Bool.and_false, if_neg Bool.false_ne_true, if_neg (by decide), hv, hx]
    unfold State.capStored
    dsimp only
    generalize State.homeStore _ part dev _ none _ = y
    rfl) (by rw [here]; exact h.of) (by
    have part' : v.part part = x.1.part part := by rw [rest]; rfl
    rw [part']
    intro none
    have kept := same.map (fun _ => ()) (fun _ => rfl) part
    rw [none] at kept
    exact live (Option.map_eq_none_iff.1 kept.symm)) (by
    have warps : v.warps = u.warps := by rw [rest, only]
    unfold State.unwatched
    rw [warps]
    exact calm)
  have area : ∀ ar, v.area ar = x.1.area ar := State.area_congr (by rw [rest]) (by rw [rest]) (by rw [rest]) (by rw [rest])
  refine ⟨t, v, x.2, made, replied, ?_, here, fun n ne => (others n ne).trans (front n), ?_, fun ar a => ?_, fun ar g => ?_⟩
  · rw [← gwct, rest]
    rfl
  · rw [rest, only]
  · rw [area]
    exact landed ar a
  · rw [area]
    exact tagged ar g

end

end Sys2Proof.Machine
end

section
/-! SUPPORT. LAUNCH makes a job of the records it has checked (10 R222, 23 R441). -/

namespace Sys2Proof.Machine

/-- Queueing a task leaves all but the tasks and what the dispatcher keeps. -/
theorem State.queueTask_only (s : State) (part job : Nat) (ctx : BitVec 6) (r : TaskRec) (k : KDesc) :
    let t := s.queueTask part job ctx r k
    t = { s with fresh := t.fresh, tasks := t.tasks, parts := t.parts } := by
  intro t
  have made : t = _ := s.queueTask_eq part job ctx r k
  dsimp only at made
  split at made
  · obtain ⟨-, -, only⟩ := State.runnable_sets (State.setTask { s with fresh := s.fresh + 1 }
        { Task.queued s.fresh part job ctx r k with cells := State.takeCells { s with fresh := s.fresh + 1 } part (s.unmet part r) })
      { Task.queued s.fresh part job ctx r k with cells := State.takeCells { s with fresh := s.fresh + 1 } part (s.unmet part r) }
      (Task.readied { Task.queued s.fresh part job ctx r k with
        cells := State.takeCells { s with fresh := s.fresh + 1 } part (s.unmet part r) } (s.fresh + 1))
    rw [← made] at only
    exact only
  · rw [made]
    rfl

/-- So does queueing tasks one after another. -/
theorem State.queueTasks_only (part job : Nat) (ctx : BitVec 6) (rs : List (TaskRec × KDesc)) (s : State) :
    let t := rs.foldl (fun v r => v.queueTask part job ctx r.1 r.2) s
    t = { s with fresh := t.fresh, tasks := t.tasks, parts := t.parts } := by
  refine List.foldlRecOn (motive := fun t : State => t = { s with fresh := t.fresh, tasks := t.tasks, parts := t.parts }) rs _ rfl fun t only r _ => ?_
  refine (t.queueTask_only part job ctx r.1 r.2).trans ?_
  generalize t.queueTask part job ctx r.1 r.2 = u
  rw [only]

section
variable {s : State} {fe : BitVec 4} {part : Nat} {p : Part} {c : Cmd}

/-- The arguments of a LAUNCH are sound (10 R222). -/
def Cmd.launches (c : Cmd) : Prop := 0 < c.arg1 % 2 ^ 13 ∧ c.arg1 % 2 ^ 13 ≤ 4096 ∧ c.arg1 < 2 ^ 13 ∧ c.arg0 % 64 = 0

theorem Cmd.launches_iff {c : Cmd} :
    (c.arg1 % 2 ^ 13 == 0 || decide (4096 < c.arg1 % 2 ^ 13) || c.arg1 / 2 ^ 13 != 0 || c.arg0 % 64 != 0) = false ↔ c.launches := by
  unfold Cmd.launches
  simp only [Bool.or_eq_false_iff, beq_eq_false_iff_ne, decide_eq_false_iff_not, bne_eq_false_iff_eq]
  omega

theorem makes_launch_bad (h : Commanded s fe part p c) (clear : c.clear = true) (op : c.op = 1) (bad : ¬ c.launches) :
    ∃ t, Makes s (.launch fe) t ∧ Replied s t fe part c 1 :=
  h.completes (i := .launch fe) (rfl : execLaunch fe s = _) (beq_iff_eq.2 op) clear
    (if_pos (Bool.eq_true_of_not_eq_false (mt Cmd.launches_iff.1 bad)))

theorem makes_launch_rootless (h : Commanded s fe part p c) (clear : c.clear = true) (op : c.op = 1) (good : c.launches)
    (none : ∀ x, p.ctxs.find (s.fe fe.toNat).ctx = some x → x.root = 0) : ∃ t, Makes s (.launch fe) t ∧ Replied s t fe part c 3 := by
  have rootless : (s.feCtx fe.toNat p).all (fun x => x.root == 0) = true := by
    rw [Option.all_eq_true]
    exact fun x found => beq_iff_eq.2 (none x found)
  refine h.completes (i := .launch fe) (rfl : execLaunch fe s = _) (beq_iff_eq.2 op) clear ?_
  dsimp only
  rw [Cmd.launches_iff.2 good, if_neg Bool.false_ne_true, if_pos rootless]

theorem feCtx_rooted {x : Context} (hx : p.ctxs.find (s.fe fe.toNat).ctx = some x) (root : x.root ≠ 0) :
    (s.feCtx fe.toNat p).all (fun x => x.root == 0) = false := by
  have found : s.feCtx fe.toNat p = some x := hx
  rw [found]
  exact beq_false_of_ne root

theorem makes_launch_refused (h : Commanded s fe part p c) (clear : c.clear = true) (op : c.op = 1) (good : c.launches) {x : Context} {u : State}
    (hx : p.ctxs.find (s.fe fe.toNat).ctx = some x) (root : x.root ≠ 0) (calm : u.unwatched) (fes : u.fes = s.fes) (there : u.part part ≠ none)
    {r : Refused} {va : Nat} (read : s.checkRecords part (s.fe fe.toNat).ctx false c.arg0 (c.arg1 % 2 ^ 13) = (u, .error (r, va))) :
    ∃ t, Makes s (.launch fe) t ∧ Replied u t fe part c (if r.untranslated then 3 else 1) := by
  refine h.replies (i := .launch fe) (rfl : execLaunch fe s = _) (beq_iff_eq.2 op) clear ?_ (by rw [State.fe_congr fes]; exact h.of) there calm
  dsimp only
  rw [Cmd.launches_iff.2 good, if_neg Bool.false_ne_true, feCtx_rooted hx root, if_neg Bool.false_ne_true, h.id, read]

theorem makes_launch (h : Commanded s fe part p c) (clear : c.clear = true) (op : c.op = 1) (good : c.launches) {x : Context} {u : State}
    (hx : p.ctxs.find (s.fe fe.toNat).ctx = some x) (root : x.root ≠ 0) (calm : u.unwatched) (fes : u.fes = s.fes) (untraced : u.untraced)
    {rs : List (TaskRec × KDesc)} (read : s.checkRecords part (s.fe fe.toNat).ctx false c.arg0 (c.arg1 % 2 ^ 13) = (u, .ok rs)) :
    let f := s.fe fe.toNat
    let j : Job := { id := u.fresh, part := part, fe := fe.toNat, ctx := f.ctx, seq := c.seq, irq := c.irq, status := 0, err := none, hzn := 0 }
    let v := rs.foldl (fun v r => v.queueTask part u.fresh f.ctx r.1 r.2) { u with fresh := u.fresh + 1, jobs := u.jobs.set u.fresh j }
    ∃ t, Makes s (.launch fe) t ∧ OneFront v t fe { f with head := f.head + 1 } ∧ t.job u.fresh = some j := by
  intro f j v
  have only : v = _ := State.queueTasks_only part u.fresh f.ctx rs { u with fresh := u.fresh + 1, jobs := u.jobs.set u.fresh j }
  have off : ∀ q, State.part { u with fresh := u.fresh + 1, jobs := u.jobs.set u.fresh j } part = some q → q.trace = none :=
    fun q hq => untraced.traceless part q hq
  have acts : exec (.launch fe) s = _ := (rfl : execLaunch fe s = _).trans (h.acts (beq_iff_eq.2 op) clear)
  dsimp only at acts
  rw [Cmd.launches_iff.2 good, if_neg Bool.false_ne_true, feCtx_rooted hx root, if_neg Bool.false_ne_true, h.id, read] at acts
  have made : exec (.launch fe) s = .next (v.closeCmd fe.toNat c .later).watch := acts.trans (by
    dsimp only [State.name, State.setJob]
    rw [State.trace_off off])
  clear acts
  clear_value v
  have front : v.fe fe.toNat = f := State.fe_congr (by rw [only, fes]) _
  have read' : OneFront v (v.closeCmd fe.toNat c .later) fe { f with head := f.head + 1 } := by
    rw [← front]
    exact .setFe v fe _
  refine ⟨_, made.trans (congrArg Host.Outcome.next (State.watch_idle ?_)), read', ?_⟩
  · have warps : (v.closeCmd fe.toNat c .later).warps = u.warps := by rw [read'.1, only]
    unfold State.unwatched
    rw [warps]
    exact calm
  · have jobs : (v.closeCmd fe.toNat c .later).jobs = u.jobs.set u.fresh j := by rw [read'.1, only]
    unfold State.job
    rw [jobs]
    exact Tab.find_set_same ..

end

end Sys2Proof.Machine
end

section
/-! O45: the commands of a front end (10 R221-R225, 03 R73-R75). -/

namespace Sys2Proof.Machine

/-- Settles O45: a command is read where the front end stands ready (`Commanded.next`), one instruction reads each code
(`exec_commandOf`), and each command's own effect is followed by the entry of its status (`replied_closeCmd`). -/
theorem frontEndCommands : Obligations.FrontEndCommands := by
  unfold Obligations.FrontEndCommands
  refine ⟨fun s fe part p c h => ⟨h.next, makes_commandOf h⟩, fun s fe none => makes_commandOf_none none,
    fun s fe part p c h clear op => makes_feEvsig h clear op, fun s fe part p c h clear op => makes_evreset h clear op,
    fun s fe part p c x h clear op hx => makes_cntread h clear op hx, fun s fe part p c h clear op => makes_drain h clear op,
    fun s fe part p c h clear op => makes_xtload h clear op, fun s fe part p c h clear op => ?_, fun s fe part p c h clear op untraced => ?_,
    fun s part job ctx r k p hp _ => State.queueTask_queues hp⟩
  · intro ctx q sound there
    obtain ⟨odd, away, refused⟩ := makes_grant_refused h clear op
    refine ⟨odd, away, fun even low leaf bad => refused even low leaf (Bool.eq_false_iff.2 (mt grantable_iff.1 bad)),
      fun u dev even low leaf good at' whole live calm memOk aligned fes =>
        makes_grant h clear op even low leaf (grantable_iff.2 good) at' whole live calm memOk aligned fes⟩
  · intro f n good
    exact ⟨makes_launch_bad h clear op, makes_launch_rootless h clear op, fun x u fit hx root calm fes off there =>
      ⟨fun r va read => makes_launch_refused h clear op fit hx root calm fes there read,
        fun rs read => makes_launch h clear op fit hx root calm fes off read⟩⟩

end Sys2Proof.Machine
end
